-- ==== Sys2Proof/Word.lean ====
section
/-! DEFINITION. The machine's word types, the small enumerations the encodings and the state share, and the type of
a finite table keyed by a number. -/

namespace Sys2Proof

/-- One 32-bit register (R33). -/
abbrev Word := BitVec 32

/-- A 64-bit value: a register pair (R37) or a virtual address (R169). -/
abbrev Dword := BitVec 64

/-- One byte of memory. -/
abbrev Byte := BitVec 8

/-- A finite table by number, keys strictly rising. -/
abbrev Table (α : Type) := List (Nat × α)

/-- The operations of the atomics and reductions (R187). -/
inductive AtomOp where
  | add | min | max | and | or | xor | exch | cas
  deriving DecidableEq, Repr

/-- The integer element of an atomic or reduction at memory (R187). -/
inductive IElem where
  | i32 | u32 | i64 | u64
  deriving DecidableEq, Repr

/-- The floating-point formats of R64. -/
inductive FFmt where
  | fp32 | fp16 | bf16 | e4m3 | e5m2
  deriving DecidableEq, Repr

/-- What a reduction at memory applies: an integer reduction (R190), a saturating sum (REDS) or a floating one (REDF). -/
inductive RedKind where
  | wrap (op : AtomOp) (e : IElem)
  | sat (e : IElem)
  | float (op : AtomOp) (f : FFmt)
  deriving DecidableEq, Repr

/-- The conditions of CMP, FCMP and WAITA (R104, R110, R198). -/
inductive Cond where
  | eq | ne | lt | le | gt | ge | un
  deriving DecidableEq, Repr

/-- The scopes of R48, narrowest first. -/
inductive Scope where
  | block | cluster | die | device | pod
  deriving DecidableEq, Repr

/-- The trap causes of R58, and the cause a failed engine access records. -/
inductive Cause where
  | illegal | stallshort | regerr | nonuniform | team | allot | spill | tilehandle | tilebound
  | misalign | pagefault | protect | revoked | dataerr | brk | syscall | monitor
  deriving DecidableEq, Repr

end Sys2Proof
end

