-- ==== Sys2Proof/Syntax.lean ====
section
/-! DEFINITION. The instructions and steps of the Freox 9620: the operand forms of R46, the data that hardware and
outside steps carry, and one constructor for every row of the opcode table. -/

namespace Sys2Proof

/-- Operand form: stall count only (R46). -/
structure FS where
  s : BitVec 3
  deriving DecidableEq, Repr

/-- Operand form: 13-bit immediate (R46). -/
structure FSI where
  s : BitVec 3
  i : BitVec 13
  deriving DecidableEq, Repr

/-- Operand form: one source field (R46). -/
structure FSA where
  s : BitVec 3
  a : BitVec 6
  deriving DecidableEq, Repr

/-- Operand form: 19-bit offset (R46). -/
structure FSO where
  s : BitVec 3
  o : BitVec 19
  deriving DecidableEq, Repr

/-- Operand form: d field and 13-bit immediate (R46). -/
structure FSDI where
  s : BitVec 3
  d : BitVec 6
  i : BitVec 13
  deriving DecidableEq, Repr

/-- Operand form: d and a fields (R46). -/
structure FSDA where
  s : BitVec 3
  d : BitVec 6
  a : BitVec 6
  deriving DecidableEq, Repr

/-- Operand form: the same with U (R46). -/
structure FUSDI where
  u : Bool
  s : BitVec 3
  d : BitVec 6
  i : BitVec 13
  deriving DecidableEq, Repr

/-- Operand form: slice mask (R46). -/
structure FSM where
  s : BitVec 3
  m : BitVec 8
  deriving DecidableEq, Repr

/-- Operand form: three register fields with U (R46). -/
structure FUSDAB where
  u : Bool
  s : BitVec 3
  d : BitVec 6
  a : BitVec 6
  b : BitVec 6
  deriving DecidableEq, Repr

/-- Operand form: d, a and imm7 with U (R46). -/
structure FUSDAI where
  u : Bool
  s : BitVec 3
  d : BitVec 6
  a : BitVec 6
  i : BitVec 7
  deriving DecidableEq, Repr

/-- Operand form: d and a with U (R46). -/
structure FUSDA where
  u : Bool
  s : BitVec 3
  d : BitVec 6
  a : BitVec 6
  deriving DecidableEq, Repr

/-- Operand form: d, a and b (R46). -/
structure FSDAB where
  s : BitVec 3
  d : BitVec 6
  a : BitVec 6
  b : BitVec 6
  deriving DecidableEq, Repr

/-- Operand form: d field (R46). -/
structure FSD where
  s : BitVec 3
  d : BitVec 6
  deriving DecidableEq, Repr

/-- Operand form: d, a and imm7 (R46). -/
structure FSDAI where
  s : BitVec 3
  d : BitVec 6
  a : BitVec 6
  i : BitVec 7
  deriving DecidableEq, Repr

/-- Operand form: d, a and a scope code (R46). -/
structure FSDAC where
  s : BitVec 3
  d : BitVec 6
  a : BitVec 6
  c : BitVec 3
  deriving DecidableEq, Repr

/-- Operand form: scope, order and engines bit of FENCE (R46). -/
structure FSCOE where
  s : BitVec 3
  c : BitVec 3
  o : BitVec 2
  e : Bool
  deriving DecidableEq, Repr

/-- Operand form: a and b (R46). -/
structure FSAB where
  s : BitVec 3
  a : BitVec 6
  b : BitVec 6
  deriving DecidableEq, Repr
/-- An update of a barrier by hardware: an arrival or byte change (R237, R243). `pa` and `va` are the object's addresses,
`die`, `block` and `ctx` those of the crew whose operation makes it. -/
structure BarUpd where
  die : Nat
  pa : Nat
  va : Dword
  arrive : Bool
  bytes : Int
  poison : Bool
  block : Nat
  ctx : Nat
  deriving DecidableEq, Repr

/-- One lane's part of a reduction contribution: what it applies (the lanes of a gang's slices may differ in etype), byte
offset in the 128-byte line, operand, and whether it is poison (R421). -/
structure RedLane where
  kind : RedKind
  off : Nat
  val : Dword
  poison : Bool
  deriving DecidableEq, Repr

/-- Who made a request or a contribution: the core, context, launch or task node, crew and slices of the issue, and the
number of the step that made it, by which earlier ones are told from later ones. Crew 0 is none. -/
structure Issuer where
  core : Nat
  ctx : Nat
  node : Nat
  crew : Nat
  slices : List Nat
  born : Nat
  deriving DecidableEq, Repr

/-- A request that no thread made, for a context. -/
def Issuer.hardware (ctx : Nat) : Issuer := ⟨0, ctx, 0, 0, [], 0⟩

/-- A reduction contribution on its way to a home slice (R193, R378, R418). -/
structure Contribution where
  /-- home slice, 64 × die + slice -/
  slice : Nat
  /-- physical address ÷ 128 -/
  line : Nat
  stream : Nat
  index : Nat
  last : Bool
  coll : Bool
  /-- the key ID of the access that made it (R171) -/
  key : Nat
  issuer : Issuer
  lanes : List RedLane
  deriving DecidableEq, Repr

/-- A data chunk that reaches a collective engine (R417, R425). `ranks` are those whose contributions or data its step's body holds,
one after another, `first` its first element in that body, `sub` and `len` those of its elements that this write brings (R419),
`wire` its bytes as sent. -/
structure CollChunk where
  die : Nat
  stream : Nat
  /-- rank of the member it is addressed to -/
  dst : Nat
  /-- physical address of that member's receive buffer, as the sender reaches it -/
  buf : Nat
  reduce : Bool
  part : Nat
  ranks : List Nat
  first : Nat
  sub : Nat
  len : Nat
  wire : List Byte
  deriving DecidableEq, Repr

/-- A collective ready notice (R416): receiving die, stream, addressed rank and the physical address of its receive buffer as the
sender reaches it, sender's rank and signature, and the reference
tick at which it was first sent. -/
structure Ready where
  die : Nat
  stream : Nat
  dst : Nat
  buf : Nat
  rank : Nat
  sig : List Nat
  since : Nat
  deriving DecidableEq, Repr

/-- A control or software message (R368). `reserved` is nonzero when a reserved bit of the header is. -/
structure Msg where
  die : Nat
  part : Nat
  typ : Nat
  fromPart : Nat
  fromDev : Nat
  seq : Word
  /-- the requester tag under which it travels (R365) -/
  tag : Nat
  reserved : Nat
  payload : List Word
  deriving DecidableEq, Repr

/-- What a request to a peer asks for (R363). -/
inductive PeerKind where
  | read
  | write (data : List Byte) (poison : List Nat)
  | atomic (op : AtomOp) (e : IElem) (val cmp : Dword)
  | reduce (c : Contribution)
  | chunk (c : CollChunk)
  | barrier (arrive : Bool) (bytes : Int) (poison : Bool)
  | barWait (n : Word)
  | barTest (n : Word)
  | barCont (n : Word) (rec_ : Dword)
  deriving DecidableEq, Repr

/-- A request that arrives from a peer (R371): requester device and partition, its tag, its ticket entry, the tags it
retires (R365), the flows of accesses that R181 and R367 keep in order, the export address asked for, and the kind. -/
structure PeerIn where
  die : Nat
  dev : Nat
  part : Nat
  tag : Nat
  ticket : Nat
  retires : List Nat
  flows : List Nat
  dstPart : Nat
  efn : Nat
  off : Nat
  n : Nat
  kind : PeerKind
  deriving DecidableEq, Repr

/-- A part of a reduction contribution from a peer, a type 6 message (R378). -/
structure RedMsg where
  die : Nat
  dev : Nat
  fromPart : Nat
  tag : Nat
  ticket : Nat
  part : Nat
  efn : Nat
  lineOff : Nat
  partNo : Nat
  final : Bool
  contrib : Contribution
  deriving DecidableEq, Repr

/-- The answer to a request (R355, R363, R371). `bad` lists the bytes that the answer says are poisoned; a write is `dropped` where
it covered a part of a marked granule (R180, R272); a refused request or message is sent again (R370, R374). -/
inductive Resp where
  | data (bytes : List Byte) (bad : List Nat)
  | done
  | dropped
  | protect
  | revoked
  | illegal
  | unsupported
  | refused
  deriving DecidableEq, Repr

/-- A request through a partition's virtual function (R446), a read of n bytes or a write: at an offset of its BAR2 window, into one of
the message queues that BAR0 maps, or at the trace register of a number among those of a die that BAR0 maps; and the base of the
BAR2 window that its system image sets, in one of its contexts. -/
inductive HostReq where
  | bar2 (part off n : Nat) (data : Option (List Byte))
  | queue (die part : Nat) (control : Bool) (off n : Nat) (data : Option (List Byte))
  | trace (die part reg : Nat) (data : Option Dword)
  | window (part ctx : Nat) (base : Dword)
  deriving DecidableEq, Repr

/-- A packet whose tail reaches a die over the bridge (R355, R356): the receiving die, channel and place in it, flits, and
what the checks find. -/
structure BridgePkt where
  die : Nat
  chan : Nat
  seq : Nat
  flits : Nat
  headerOk : Bool
  flitOk : Bool
  stomped : Bool
  deriving DecidableEq, Repr

/-- Where an error is found (R450): in a granule of memory, in a word of a tile of a block, or in a register of a crew's lane. -/
inductive ErrSite where
  | granule (g : Nat)
  | tile (block handle word : Nat)
  | reg (crew lane reg : Nat)
  deriving DecidableEq, Repr

/-- What the power arbiter grants current to (R448). -/
inductive PowerTarget where
  | core (k : Nat)
  | stack (die i : Nat)
  | ports (die i : Nat)
  deriving DecidableEq, Repr

/-- What a read finds in a granule, a word or a register (R344, R346, R450). -/
inductive ScrubFound where
  | clean | correctable | uncorrectable
  deriving DecidableEq, Repr

/-- A context a system image has prepared at boot: partition, page-table root, vectors, bank key, pool (R337), and, by die, the
base and the bytes of its Hogshead (R340). -/
structure CtxInfo where
  /-- the die it runs on in split mode -/
  die : Nat
  part : Nat
  ptroot : Nat
  tvec : Dword
  tmkey : BitVec 12
  check : Bool
  fpool : List Nat
  fpoolv : List Dword
  hogs : List (Nat × Nat)
  deriving DecidableEq, Repr

/-- An image as loaded, the public key it is verified against (root and seed), and its signature (R442, R443). -/
structure Image where
  bytes : List Byte
  root : List Byte
  seed : List Byte
  sig : List Byte
  deriving DecidableEq, Repr

/-- What boot verifies and finds (R442, R174): the images of the root-of-trust firmware, the binder firmware and the partition
monitor; each configured partition's system image with the key that its boot descriptor names; the device mode and numbers, the
memory channels in service on each die, the ports that trained, the contexts the system images prepare, each
partition's grants of R441 (device control of die 0 and die 1, then debug of die 0 and die 1), and the first and the number of the
key IDs of each (R440). -/
structure BootInfo where
  firmware : Image
  binder : Image
  monitor : Image
  systems : List Image
  split : Bool
  devs : List Nat
  channels : List (List Nat)
  ports : List Nat
  ctxs : List CtxInfo
  grants : List (BitVec 4)
  keyIds : List (Nat × Nat)
  deriving DecidableEq, Repr

/-- One constructor for every row of the opcode table. The 244 words carry their fields; the 90 rows without a word are
steps of the hardware or of an outside party, and what a step acts on is its occurrence, an `Event`. -/
inductive Instr where
  /-- NOP (R88) -/
  | nop (f : FS)
  /-- MODE (R89) -/
  | mode (f : FSI)
  /-- MODEX (R89) -/
  | modex (f : FSA)
  /-- BRA (R91) -/
  | bra (f : FSO)
  /-- BRX (R91) -/
  | brx (f : FSA)
  /-- CALL (R94) -/
  | call (f : FSDI)
  /-- CALLX (R94) -/
  | callx (f : FSDA)
  /-- RET (R95) -/
  | ret (f : FS)
  /-- LDC (R96) -/
  | ldc (f : FUSDI)
  /-- TRAP (R97) -/
  | trap (f : FSI)
  /-- EXIT (R123) -/
  | exit (f : FS)
  /-- YIELD (R127) -/
  | yield (f : FS)
  /-- SLEEP (R126) -/
  | sleep (f : FSI)
  /-- REGANG (R124) -/
  | regang (f : FSM)
  /-- SYNCC (R125) -/
  | syncc (f : FS)
  /-- ROLESW (R142) -/
  | rolesw (f : FSA)
  /-- LAUNCH (R139) -/
  | launch (f : FSDA)
  /-- LAUNCH_RELEASE (R141) -/
  | launchRelease (f : FS)
  /-- SREG (R133) -/
  | sreg (f : FUSDI)
  /-- SWREG (R134) -/
  | swreg (f : FSDI)
  /-- ADD (R99) -/
  | add (f : FUSDAB)
  /-- ADDI (R99) -/
  | addi (f : FUSDAI)
  /-- SUB (R99) -/
  | sub (f : FUSDAB)
  /-- ADDC (R103) -/
  | addc (f : FUSDAB)
  /-- SUBC (R103) -/
  | subc (f : FUSDAB)
  /-- MUL (R99) -/
  | mul (f : FUSDAB)
  /-- MULHI (R99) -/
  | mulhi (f : FUSDAB)
  /-- MAD (R99) -/
  | mad (f : FUSDAB)
  /-- MIN (R99) -/
  | min (f : FUSDAB)
  /-- MAX (R99) -/
  | max (f : FUSDAB)
  /-- ABS (R99) -/
  | abs (f : FUSDA)
  /-- NEG (R99) -/
  | neg (f : FUSDA)
  /-- AND (R100) -/
  | and (f : FUSDAB)
  /-- OR (R100) -/
  | or (f : FUSDAB)
  /-- XOR (R100) -/
  | xor (f : FUSDAB)
  /-- NOT (R100) -/
  | not (f : FUSDA)
  /-- ANDI (R100) -/
  | andi (f : FUSDAI)
  /-- ORI (R100) -/
  | ori (f : FUSDAI)
  /-- SHL (R99) -/
  | shl (f : FUSDAB)
  /-- SHR (R99) -/
  | shr (f : FUSDAB)
  /-- SAR (R99) -/
  | sar (f : FUSDAB)
  /-- SHLI (R99) -/
  | shli (f : FUSDAI)
  /-- SHRI (R99) -/
  | shri (f : FUSDAI)
  /-- SARI (R99) -/
  | sari (f : FUSDAI)
  /-- ROT (R99) -/
  | rot (f : FUSDAB)
  /-- BFX (R102) -/
  | bfx (f : FUSDAB)
  /-- BFI (R102) -/
  | bfi (f : FUSDAB)
  /-- CLZ (R99) -/
  | clz (f : FUSDA)
  /-- POPC (R99) -/
  | popc (f : FUSDA)
  /-- MOV (R100) -/
  | mov (f : FUSDA)
  /-- MOVI (R100) -/
  | movi (f : FUSDI)
  /-- LEA (R101) -/
  | lea (f : FUSDAB)
  /-- CMP_EQ (R104) -/
  | cmpEq (f : FUSDAB)
  /-- CMP_NE (R104) -/
  | cmpNe (f : FUSDAB)
  /-- CMP_LT (R104) -/
  | cmpLt (f : FUSDAB)
  /-- CMP_LE (R104) -/
  | cmpLe (f : FUSDAB)
  /-- CMP_GT (R104) -/
  | cmpGt (f : FUSDAB)
  /-- CMP_GE (R104) -/
  | cmpGe (f : FUSDAB)
  /-- CMPI_EQ (R104) -/
  | cmpiEq (f : FUSDAI)
  /-- CMPI_NE (R104) -/
  | cmpiNe (f : FUSDAI)
  /-- CMPI_LT (R104) -/
  | cmpiLt (f : FUSDAI)
  /-- CMPI_LE (R104) -/
  | cmpiLe (f : FUSDAI)
  /-- CMPI_GT (R104) -/
  | cmpiGt (f : FUSDAI)
  /-- CMPI_GE (R104) -/
  | cmpiGe (f : FUSDAI)
  /-- SEL_P1 (R105) -/
  | selP1 (f : FUSDAB)
  /-- SEL_P2 (R105) -/
  | selP2 (f : FUSDAB)
  /-- SEL_P3 (R105) -/
  | selP3 (f : FUSDAB)
  /-- SEL_P4 (R105) -/
  | selP4 (f : FUSDAB)
  /-- SEL_P5 (R105) -/
  | selP5 (f : FUSDAB)
  /-- SEL_P6 (R105) -/
  | selP6 (f : FUSDAB)
  /-- SEL_P7 (R105) -/
  | selP7 (f : FUSDAB)
  /-- PAND (R106) -/
  | pand (f : FSDAB)
  /-- POR (R106) -/
  | por (f : FSDAB)
  /-- PXOR (R106) -/
  | pxor (f : FSDAB)
  /-- PNOT (R106) -/
  | pnot (f : FSDA)
  /-- PSET (R106) -/
  | pset (f : FSDA)
  /-- PGET (R106) -/
  | pget (f : FSD)
  /-- SHFL_IDX (R130) -/
  | shflIdx (f : FSDAB)
  /-- SHFL_UP (R130) -/
  | shflUp (f : FSDAB)
  /-- SHFL_DOWN (R130) -/
  | shflDown (f : FSDAB)
  /-- SHFL_XOR (R130) -/
  | shflXor (f : FSDAB)
  /-- BCAST (R131) -/
  | bcast (f : FSDAB)
  /-- VOTE_ANY (R132) -/
  | voteAny (f : FSDA)
  /-- VOTE_ALL (R132) -/
  | voteAll (f : FSDA)
  /-- VOTE_BALLOT (R132) -/
  | voteBallot (f : FSDA)
  /-- VOTE_ADD (R132) -/
  | voteAdd (f : FSDA)
  /-- VOTE_FADD (R77) -/
  | voteFadd (f : FSDA)
  /-- FADD (R108) -/
  | fadd (f : FUSDAB)
  /-- FSUB (R108) -/
  | fsub (f : FUSDAB)
  /-- FMUL (R108) -/
  | fmul (f : FUSDAB)
  /-- FMA (R108) -/
  | fma (f : FUSDAB)
  /-- FMIN (R108) -/
  | fmin (f : FUSDAB)
  /-- FMAX (R108) -/
  | fmax (f : FUSDAB)
  /-- FABS (R108) -/
  | fabs (f : FUSDA)
  /-- FNEG (R108) -/
  | fneg (f : FUSDA)
  /-- FCMP_EQ (R110) -/
  | fcmpEq (f : FUSDAB)
  /-- FCMP_NE (R110) -/
  | fcmpNe (f : FUSDAB)
  /-- FCMP_LT (R110) -/
  | fcmpLt (f : FUSDAB)
  /-- FCMP_LE (R110) -/
  | fcmpLe (f : FUSDAB)
  /-- FCMP_GT (R110) -/
  | fcmpGt (f : FUSDAB)
  /-- FCMP_GE (R110) -/
  | fcmpGe (f : FUSDAB)
  /-- FCMP_UN (R110) -/
  | fcmpUn (f : FUSDAB)
  /-- FCLASS (R111) -/
  | fclass (f : FUSDA)
  /-- FRCP (R109) -/
  | frcp (f : FUSDA)
  /-- FRSQ (R109) -/
  | frsq (f : FUSDA)
  /-- FSQRT (R109) -/
  | fsqrt (f : FUSDA)
  /-- FEXP2 (R109) -/
  | fexp2 (f : FUSDA)
  /-- FLOG2 (R109) -/
  | flog2 (f : FUSDA)
  /-- FTANH (R109) -/
  | ftanh (f : FUSDA)
  /-- FRND (R108) -/
  | frnd (f : FUSDA)
  /-- FDOT2 (R112) -/
  | fdot2 (f : FUSDAB)
  /-- FCVT_F32 (R113) -/
  | fcvtF32 (f : FUSDA)
  /-- FCVT_F16X2 (R113) -/
  | fcvtF16x2 (f : FUSDA)
  /-- FCVT_BF16X2 (R113) -/
  | fcvtBf16x2 (f : FUSDA)
  /-- FCVT_E4M3X4 (R113) -/
  | fcvtE4m3x4 (f : FUSDA)
  /-- FCVT_E5M2X4 (R113) -/
  | fcvtE5m2x4 (f : FUSDA)
  /-- ICVT_SF (R115) -/
  | icvtSf (f : FUSDA)
  /-- ICVT_UF (R115) -/
  | icvtUf (f : FUSDA)
  /-- ICVT_FS (R115) -/
  | icvtFs (f : FUSDA)
  /-- ICVT_FU (R115) -/
  | icvtFu (f : FUSDA)
  /-- FSCAL (R108) -/
  | fscal (f : FUSDAB)
  /-- LD_U8 (R182) -/
  | ldU8 (f : FUSDAI)
  /-- LD_S8 (R182) -/
  | ldS8 (f : FUSDAI)
  /-- LD_U16 (R182) -/
  | ldU16 (f : FUSDAI)
  /-- LD_S16 (R182) -/
  | ldS16 (f : FUSDAI)
  /-- LD_B32 (R182) -/
  | ldB32 (f : FUSDAI)
  /-- LD_B64 (R182) -/
  | ldB64 (f : FUSDAI)
  /-- LD_B128 (R182) -/
  | ldB128 (f : FUSDAI)
  /-- ST_B8 (R182) -/
  | stB8 (f : FSDAI)
  /-- ST_B16 (R182) -/
  | stB16 (f : FSDAI)
  /-- ST_B32 (R182) -/
  | stB32 (f : FSDAI)
  /-- ST_B64 (R182) -/
  | stB64 (f : FSDAI)
  /-- ST_B128 (R182) -/
  | stB128 (f : FSDAI)
  /-- LDT_U8 (R183) -/
  | ldtU8 (f : FUSDAB)
  /-- LDT_S8 (R183) -/
  | ldtS8 (f : FUSDAB)
  /-- LDT_U16 (R183) -/
  | ldtU16 (f : FUSDAB)
  /-- LDT_S16 (R183) -/
  | ldtS16 (f : FUSDAB)
  /-- LDT_B32 (R183) -/
  | ldtB32 (f : FUSDAB)
  /-- LDT_B64 (R183) -/
  | ldtB64 (f : FUSDAB)
  /-- LDT_B128 (R183) -/
  | ldtB128 (f : FUSDAB)
  /-- STT_B8 (R183) -/
  | sttB8 (f : FSDAB)
  /-- STT_B16 (R183) -/
  | sttB16 (f : FSDAB)
  /-- STT_B32 (R183) -/
  | sttB32 (f : FSDAB)
  /-- STT_B64 (R183) -/
  | sttB64 (f : FSDAB)
  /-- STT_B128 (R183) -/
  | sttB128 (f : FSDAB)
  /-- TALLOC_TM (R184) -/
  | tallocTm (f : FSDAB)
  /-- TALLOC_TMZ (R184) -/
  | tallocTmz (f : FSDAB)
  /-- TALLOC_OS (R184) -/
  | tallocOs (f : FSDAB)
  /-- TALLOC_OSZ (R184) -/
  | tallocOsz (f : FSDAB)
  /-- TFREE (R185) -/
  | tfree (f : FSA)
  /-- TQUERY (R186) -/
  | tquery (f : FSDA)
  /-- ATOM_ADD (R187) -/
  | atomAdd (f : FSDAC)
  /-- ATOM_MIN (R187) -/
  | atomMin (f : FSDAC)
  /-- ATOM_MAX (R187) -/
  | atomMax (f : FSDAC)
  /-- ATOM_AND (R187) -/
  | atomAnd (f : FSDAC)
  /-- ATOM_OR (R187) -/
  | atomOr (f : FSDAC)
  /-- ATOM_XOR (R187) -/
  | atomXor (f : FSDAC)
  /-- ATOM_EXCH (R187) -/
  | atomExch (f : FSDAC)
  /-- ATOMCAS (R187) -/
  | atomcas (f : FSDAC)
  /-- TATOM_ADD (R189) -/
  | tatomAdd (f : FSDAB)
  /-- TATOM_MIN (R189) -/
  | tatomMin (f : FSDAB)
  /-- TATOM_MAX (R189) -/
  | tatomMax (f : FSDAB)
  /-- TATOM_AND (R189) -/
  | tatomAnd (f : FSDAB)
  /-- TATOM_OR (R189) -/
  | tatomOr (f : FSDAB)
  /-- TATOM_XOR (R189) -/
  | tatomXor (f : FSDAB)
  /-- TATOM_EXCH (R189) -/
  | tatomExch (f : FSDAB)
  /-- TATOM_CAS (R189) -/
  | tatomCas (f : FSDAB)
  /-- RED_ADD (R190) -/
  | redAdd (f : FSDAC)
  /-- RED_MIN (R190) -/
  | redMin (f : FSDAC)
  /-- RED_MAX (R190) -/
  | redMax (f : FSDAC)
  /-- RED_AND (R190) -/
  | redAnd (f : FSDAC)
  /-- RED_OR (R190) -/
  | redOr (f : FSDAC)
  /-- RED_XOR (R190) -/
  | redXor (f : FSDAC)
  /-- REDF_ADD (R192) -/
  | redfAdd (f : FSDAC)
  /-- REDF_MIN (R192) -/
  | redfMin (f : FSDAC)
  /-- REDF_MAX (R192) -/
  | redfMax (f : FSDAC)
  /-- REDS (R192) -/
  | reds (f : FSDAC)
  /-- WAITA_EQ (R199) -/
  | waitaEq (f : FSDAC)
  /-- WAITA_NE (R199) -/
  | waitaNe (f : FSDAC)
  /-- WAITA_GE (R199) -/
  | waitaGe (f : FSDAC)
  /-- WAITA_LT (R199) -/
  | waitaLt (f : FSDAC)
  /-- FENCE (R202) -/
  | fence (f : FSCOE)
  /-- PREF (R205) -/
  | pref (f : FSDAI)
  /-- CCTL_INV (R206) -/
  | cctlInv (f : FSAB)
  /-- CCTL_CLEAN (R206) -/
  | cctlClean (f : FSAB)
  /-- CCTL_FLUSH (R206) -/
  | cctlFlush (f : FSAB)
  /-- TKWAIT (R234) -/
  | tkwait (f : FSD)
  /-- TKWAIT_MASK (R234) -/
  | tkwaitMask (f : FSA)
  /-- TKANY (R234) -/
  | tkany (f : FSDA)
  /-- TKTEST (R234) -/
  | tktest (f : FSDA)
  /-- TKFREE (R235) -/
  | tkfree (f : FSD)
  /-- TKFREE_MASK (R235) -/
  | tkfreeMask (f : FSA)
  /-- TKEXP_BAR (R237) -/
  | tkexpBar (f : FSDA)
  /-- TKEXP_TASK (R238) -/
  | tkexpTask (f : FSDA)
  /-- BINIT (R247) -/
  | binit (f : FSA)
  /-- BBIND (R248) -/
  | bbind (f : FSAB)
  /-- BARR (R249) -/
  | barr (f : FSA)
  /-- BARRD (R250) -/
  | barrd (f : FSA)
  /-- BEXP (R249) -/
  | bexp (f : FSA)
  /-- BWAIT (R251) -/
  | bwait (f : FSA)
  /-- BTEST (R252) -/
  | btest (f : FSDA)
  /-- BCONT (R253) -/
  | bcont (f : FSDAB)
  /-- TASKD (R256) -/
  | taskd (f : FSAB)
  /-- CPY (R265) -/
  | cpy (f : FSDA)
  /-- CPYT (R268) -/
  | cpyt (f : FSDA)
  /-- CPYG (R269) -/
  | cpyg (f : FSDA)
  /-- CPYW (R270) -/
  | cpyw (f : FSDA)
  /-- CPYS (R266) -/
  | cpys (f : FSDA)
  /-- CPYX (R267) -/
  | cpyx (f : FSDA)
  /-- SEAL (R280) -/
  | seal (f : FSD)
  /-- WAITB (R281) -/
  | waitb (f : FSA)
  /-- MMA (R301) -/
  | mma (f : FSDA)
  /-- MMAO (R300) -/
  | mmao (f : FSDA)
  /-- MZERO (R309) -/
  | mzero (f : FSDA)
  /-- MSCAL (R309) -/
  | mscal (f : FSDA)
  /-- MCVT (R309) -/
  | mcvt (f : FSDA)
  /-- MLOAD (R309) -/
  | mload (f : FSDA)
  /-- MSEQ (R310) -/
  | mseq (f : FSDA)
  /-- MSEQQ (R316) -/
  | mseqq (f : FSDA)
  /-- MACQ (R290) -/
  | macq (f : FSD)
  /-- MREL (R290) -/
  | mrel (f : FS)
  /-- COLL (R415) -/
  | coll (f : FSDA)
  /-- COLLQ (R430) -/
  | collq (f : FSDA)
  /-- TRACE (R429) -/
  | trace (f : FSA)
  /-- ERET (R321) -/
  | eret (f : FSDA)
  /-- MAPPG (R331) -/
  | mappg (f : FSDA)
  /-- UNMAPPG (R333) -/
  | unmappg (f : FSDA)
  /-- TLBINV (R334) -/
  | tlbinv (f : FSA)
  /-- SRD (R335) -/
  | srd (f : FSDA)
  /-- SWR (R335) -/
  | swr (f : FSDA)
  /-- SYSCALL (R323) -/
  | syscall (f : FSI)
  /-- FLTINFO (R324) -/
  | fltinfo (f : FSDA)
  /-- FSTAT (R379) -/
  | fstat (f : FSD)
  /-- FCLR (R379) -/
  | fclr (f : FS)
  /-- TICKQ (R380) -/
  | tickq (f : FSDA)
  /-- MSGS (R381) -/
  | msgs (f : FSDA)
  /-- MSGR (R382) -/
  | msgr (f : FSD)
  /-- CTENR (R400) -/
  | ctenr (f : FSA)
  /-- CTLEAF (R401) -/
  | ctleaf (f : FSDA)
  /-- CTREAD (R402) -/
  | ctread (f : FSDA)
  /-- CTCMP (R402) -/
  | ctcmp (f : FSDA)
  /-- CTSET (R403) -/
  | ctset (f : FSDA)
  /-- CTMOVE (R404) -/
  | ctmove (f : FSDA)
  /-- CTDROP (R405) -/
  | ctdrop (f : FSDA)
  /-- TILE_CLEAR_DONE (R160) -/
  | tileClearDone
  /-- WAITA_MONITOR_WAKE (R200) -/
  | waitaMonitorWake
  /-- WAITA_POLL (R199) -/
  | waitaPoll
  /-- TOKEN_WAIT_WAKE (R234) -/
  | tokenWaitWake
  /-- DEFERRED_ARRIVAL (R250) -/
  | deferredArrival
  /-- BARRIER_WAIT_WAKE (R251) -/
  | barrierWaitWake
  /-- BARRIER_UPDATE (R243) -/
  | barrierUpdate
  /-- TASK_DEPCOUNT_DECREMENT (R146) -/
  | taskDepcountDecrement
  /-- COPY_START (R261) -/
  | copyStart
  /-- COPY_COMPLETE (R271) -/
  | copyComplete
  /-- BATCH_WAIT_WAKE (R281) -/
  | batchWaitWake
  /-- MATRIX_OP_START (R292) -/
  | matrixOpStart
  /-- MATRIX_OP_COMPLETE (R301) -/
  | matrixOpComplete
  /-- FURLONG_STEP (R313) -/
  | furlongStep
  /-- COLL_START (R415) -/
  | collStart
  /-- COLL_STEP (R417) -/
  | collStep
  /-- COLL_CHUNK_RECEIVE (R427) -/
  | collChunkReceive
  /-- COLL_COMPLETE (R422) -/
  | collComplete
  /-- COLL_TIMEOUT (R422) -/
  | collTimeout
  /-- TREE_OP_COMPLETE (R403) -/
  | treeOpComplete
  /-- CT_DELTA_FLUSH (R394) -/
  | ctDeltaFlush
  /-- CT_ROLLUP (R394) -/
  | ctRollup
  /-- CREW_RETIRE (R123) -/
  | crewRetire
  /-- SLEEP_EXPIRY (R126) -/
  | sleepExpiry
  /-- REGANG_COMPLETE (R124) -/
  | regangComplete
  /-- SYNCC_COMPLETE (R125) -/
  | synccComplete
  /-- CREW_DEADLOCK (R122) -/
  | crewDeadlock
  /-- ROLESW_GRANT (R143) -/
  | roleswGrant
  /-- GANG_AGED (R156) -/
  | gangAged
  /-- BIND_ROUND (R148) -/
  | bindRound
  /-- CORE_SLOTIN (R151) -/
  | coreSlotin
  /-- DISPATCH_BLOCK (R154) -/
  | dispatchBlock
  /-- LAUNCH_NODE_RETIRE (R155) -/
  | launchNodeRetire
  /-- ZERO_BLOCK_NODE (R155) -/
  | zeroBlockNode
  /-- LINK_CALL (R140) -/
  | linkCall
  /-- REDUCTION_CONTRIBUTION (R193) -/
  | reductionContribution
  /-- REDUCTION_RETRY (R195) -/
  | reductionRetry
  /-- REORDER_TIMEOUT (R196) -/
  | reorderTimeout
  /-- XDIE_REQUEST (R358) -/
  | xdieRequest
  /-- XDIE_RETRY (R358) -/
  | xdieRetry
  /-- RESERVATION_RELEASE (R358) -/
  | reservationRelease
  /-- XDIE_TIMEOUT (R361) -/
  | xdieTimeout
  /-- PEER_TIMEOUT (R361) -/
  | peerTimeout
  /-- BRIDGE_PACKET (R356) -/
  | bridgePacket
  /-- BRIDGE_REPLAY (R356) -/
  | bridgeReplay
  /-- BRIDGE_RETRAIN (R357) -/
  | bridgeRetrain
  /-- BRIDGE_DOWN (R357) -/
  | bridgeDown
  /-- PORT_FAILURE (R365) -/
  | portFailure
  /-- PEER_REQUEST (R371) -/
  | peerRequest
  /-- TAG_EXPIRY (R365) -/
  | tagExpiry
  /-- GRANT (R369) -/
  | grant
  /-- RECALL (R369) -/
  | recall
  /-- ACKNOWLEDGEMENT (R369) -/
  | acknowledgement
  /-- FAULT_TICKET (R376) -/
  | faultTicket
  /-- REPLAY_NOTICE (R376) -/
  | replayNotice
  /-- REDUCTION_MESSAGE (R378) -/
  | reductionMessage
  /-- SOFTWARE_MESSAGE (R369) -/
  | softwareMessage
  /-- EXPORT_MISS (R369) -/
  | exportMiss
  /-- COLLECTIVE_READY (R416) -/
  | collectiveReady
  /-- BAD_MESSAGE (R369) -/
  | badMessage
  /-- MESSAGE_RESEND (R370) -/
  | messageResend
  /-- MISS_LOG_RETRY (R374) -/
  | missLogRetry
  /-- EXPORT_INVALIDATE (R372) -/
  | exportInvalidate
  /-- EXPORT_SERVICED (R372) -/
  | exportServiced
  /-- HOST_REQUEST (R446) -/
  | hostRequest
  /-- DRAIN_REQUEST (R338) -/
  | drainRequest
  /-- DRAIN_END (R339) -/
  | drainEnd
  /-- DRAIN_LIMIT (R339) -/
  | drainLimit
  /-- FORCED_SAVE_WRITE (R340) -/
  | forcedSaveWrite
  /-- CONTEXT_RESTORE (R343) -/
  | contextRestore
  /-- SCRUB_READ (R346) -/
  | scrubRead
  /-- SCRUB_WRITEBACK (R346) -/
  | scrubWriteback
  /-- POWER_GRANT (R448) -/
  | powerGrant
  /-- PTP_MESSAGE (R451) -/
  | ptpMessage
  /-- PPS_INPUT (R451) -/
  | ppsInput
  /-- TRC_RIDX (R453) -/
  | trcRidx
  /-- LOAD_GENERATED_KEY (R445) -/
  | loadGeneratedKey
  /-- LOAD_WRAPPED_KEY (R445) -/
  | loadWrappedKey
  /-- UNLOAD (R445) -/
  | unload
  /-- ATTESTATION_REQUEST (R444) -/
  | attestationRequest
  /-- BOOT (R442) -/
  | boot
  /-- DEBUG_HALT (R441) -/
  | debugHalt
  /-- REGISTER_WRITE (R5) -/
  | registerWrite
  /-- ILLEGAL_INSTRUCTION_WORD (R60) -/
  | illegalInstructionWord
  /-- FETCH_FAULT (R329) -/
  | fetchFault
  /-- REQUEST_RESPONSE (R355) -/
  | requestResponse
  /-- BRIDGE_RETRAINED (R357) -/
  | bridgeRetrained
  /-- DEBUG_RESUME (R441) -/
  | debugResume
  /-- POWER_LOSS (R444) -/
  | powerLoss
  /-- WEAR_ESTIMATE (R449) -/
  | wearEstimate
  deriving DecidableEq, Repr

/-- One occurrence of a step that has no word (spec/95_what_each_step_holds.md), with what it acts on. -/
inductive Event where
  /-- TILE_CLEAR_DONE (R160) -/
  | tileClearDone (pend : Nat)
  /-- WAITA_MONITOR_WAKE (R200) -/
  | waitaMonitorWake (crew slice : Nat)
  /-- WAITA_POLL (R199) -/
  | waitaPoll (crew slice : Nat)
  /-- TOKEN_WAIT_WAKE (R234) -/
  | tokenWaitWake (crew slice : Nat)
  /-- DEFERRED_ARRIVAL (R250) -/
  | deferredArrival (crew : Nat)
  /-- BARRIER_WAIT_WAKE (R251) -/
  | barrierWaitWake (crew slice : Nat)
  /-- BARRIER_UPDATE (R243) -/
  | barrierUpdate (u : BarUpd)
  /-- TASK_DEPCOUNT_DECREMENT (R146) -/
  | taskDepcountDecrement (node count : Nat) (poison : Bool)
  /-- COPY_START (R261) -/
  | copyStart (op : Nat)
  /-- COPY_COMPLETE (R271) -/
  | copyComplete (op : Nat)
  /-- BATCH_WAIT_WAKE (R281) -/
  | batchWaitWake (crew slice : Nat)
  /-- MATRIX_OP_START (R292) -/
  | matrixOpStart (op : Nat)
  /-- MATRIX_OP_COMPLETE (R301) -/
  | matrixOpComplete (op : Nat)
  /-- FURLONG_STEP (R313) -/
  | furlongStep (op : Nat)
  /-- COLL_START (R415) -/
  | collStart (op : Nat)
  /-- COLL_STEP (R417) -/
  | collStep (op : Nat)
  /-- COLL_CHUNK_RECEIVE (R427) -/
  | collChunkReceive (c : CollChunk)
  /-- COLL_COMPLETE (R422) -/
  | collComplete (op : Nat)
  /-- COLL_TIMEOUT (R422) -/
  | collTimeout (op : Nat)
  /-- TREE_OP_COMPLETE (R403) -/
  | treeOpComplete (op : Nat)
  /-- CT_DELTA_FLUSH (R394) -/
  | ctDeltaFlush (slice leaf : Nat)
  /-- CT_ROLLUP (R394) -/
  | ctRollup (id : Nat)
  /-- CREW_RETIRE (R123) -/
  | crewRetire (crew : Nat)
  /-- SLEEP_EXPIRY (R126) -/
  | sleepExpiry (crew slice : Nat)
  /-- REGANG_COMPLETE (R124) -/
  | regangComplete (crew : Nat) (mask : BitVec 8)
  /-- SYNCC_COMPLETE (R125) -/
  | synccComplete (crew : Nat)
  /-- CREW_DEADLOCK (R122) -/
  | crewDeadlock (crew : Nat)
  /-- ROLESW_GRANT (R143) -/
  | roleswGrant (crew : Nat)
  /-- GANG_AGED (R156) -/
  | gangAged (crew slice : Nat)
  /-- BIND_ROUND (R148) -/
  | bindRound (queue : Nat)
  /-- CORE_SLOTIN (R151) -/
  | coreSlotin (core : Nat) (data : Dword)
  /-- DISPATCH_BLOCK (R154) -/
  | dispatchBlock (core : Nat)
  /-- LAUNCH_NODE_RETIRE (R155) -/
  | launchNodeRetire (node : Nat)
  /-- ZERO_BLOCK_NODE (R155) -/
  | zeroBlockNode (node : Nat)
  /-- LINK_CALL (R140) -/
  | linkCall (ctx : Nat) (rcb : Dword)
  /-- REDUCTION_CONTRIBUTION (R193) -/
  | reductionContribution (r : Contribution)
  /-- REDUCTION_RETRY (R195) -/
  | reductionRetry (id : Nat)
  /-- REORDER_TIMEOUT (R196) -/
  | reorderTimeout (slice stream line : Nat)
  /-- XDIE_REQUEST (R358) -/
  | xdieRequest (die id slice : Nat)
  /-- XDIE_RETRY (R358) -/
  | xdieRetry (id : Nat)
  /-- RESERVATION_RELEASE (R358) -/
  | reservationRelease (id : Nat)
  /-- XDIE_TIMEOUT (R361) -/
  | xdieTimeout (id : Nat)
  /-- PEER_TIMEOUT (R361) -/
  | peerTimeout (tag : Nat)
  /-- BRIDGE_PACKET (R356) -/
  | bridgePacket (p : BridgePkt)
  /-- BRIDGE_REPLAY (R356) -/
  | bridgeReplay (die chan : Nat)
  /-- BRIDGE_RETRAIN (R357) -/
  | bridgeRetrain
  /-- BRIDGE_DOWN (R357) -/
  | bridgeDown
  /-- PORT_FAILURE (R365) -/
  | portFailure (port : Nat)
  /-- PEER_REQUEST (R371) -/
  | peerRequest (r : PeerIn)
  /-- TAG_EXPIRY (R365) -/
  | tagExpiry (dev part tag : Nat)
  /-- GRANT (R369) -/
  | grant (m : Msg)
  /-- RECALL (R369) -/
  | recall (m : Msg)
  /-- ACKNOWLEDGEMENT (R369) -/
  | acknowledgement (m : Msg)
  /-- FAULT_TICKET (R376) -/
  | faultTicket (tag : Nat)
  /-- REPLAY_NOTICE (R376) -/
  | replayNotice (die entry dev part efn status : Nat)
  /-- REDUCTION_MESSAGE (R378) -/
  | reductionMessage (r : RedMsg)
  /-- SOFTWARE_MESSAGE (R369) -/
  | softwareMessage (m : Msg)
  /-- EXPORT_MISS (R369) -/
  | exportMiss (part : Nat) (m : Msg)
  /-- COLLECTIVE_READY (R416) -/
  | collectiveReady (r : Ready)
  /-- BAD_MESSAGE (R369) -/
  | badMessage (die : Nat)
  /-- MESSAGE_RESEND (R370) -/
  | messageResend (id : Nat)
  /-- MISS_LOG_RETRY (R374) -/
  | missLogRetry (tag : Nat)
  /-- EXPORT_INVALIDATE (R372) -/
  | exportInvalidate (die part efn : Nat)
  /-- EXPORT_SERVICED (R372) -/
  | exportServiced (die part efn : Nat)
  /-- HOST_REQUEST (R446) -/
  | hostRequest (h : HostReq)
  /-- DRAIN_REQUEST (R338) -/
  | drainRequest (core : Nat)
  /-- DRAIN_END (R339) -/
  | drainEnd (core : Nat)
  /-- DRAIN_LIMIT (R339) -/
  | drainLimit (core : Nat)
  /-- FORCED_SAVE_WRITE (R340) -/
  | forcedSaveWrite (core : Nat)
  /-- CONTEXT_RESTORE (R343) -/
  | contextRestore (ctx core : Nat)
  /-- SCRUB_READ (R346) -/
  | scrubRead (die : Nat) (site : ErrSite) (found : ScrubFound)
  /-- SCRUB_WRITEBACK (R346) -/
  | scrubWriteback (die : Nat)
  /-- POWER_GRANT (R448) -/
  | powerGrant (to_ : PowerTarget) (grant : BitVec 16) (stretch : Bool)
  /-- PTP_MESSAGE (R451) -/
  | ptpMessage (offset : Int)
  /-- PPS_INPUT (R451) -/
  | ppsInput (offset : Int)
  /-- TRC_RIDX (R453) -/
  | trcRidx (die part : Nat) (value : Word)
  /-- LOAD_GENERATED_KEY (R445), with the partition whose call it serves -/
  | loadGeneratedKey (part : Option Nat) (key : BitVec 13)
  /-- LOAD_WRAPPED_KEY (R445), with the number of the wrapped key -/
  | loadWrappedKey (part : Option Nat) (key : BitVec 13) (wrapped : Nat)
  /-- UNLOAD (R445) -/
  | unload (part : Option Nat) (key : BitVec 13)
  /-- ATTESTATION_REQUEST (R444) -/
  | attestationRequest (part : Nat) (nonce : List Byte)
  /-- BOOT (R442) -/
  | boot (b : BootInfo)
  /-- DEBUG_HALT (R441) -/
  | debugHalt (die part : Nat)
  /-- REGISTER_WRITE (R5) -/
  | registerWrite (addr : Word) (value : Dword)
  /-- ILLEGAL_INSTRUCTION_WORD (R60) -/
  | illegalInstructionWord (w : Word)
  /-- FETCH_FAULT (R329) -/
  | fetchFault
  /-- REQUEST_RESPONSE (R355) -/
  | requestResponse (tag : Nat) (r : Resp)
  /-- BRIDGE_RETRAINED (R357) -/
  | bridgeRetrained
  /-- DEBUG_RESUME (R441), with whether the link leaves a single step and a watch point armed -/
  | debugResume (die part : Nat) (single watch : Bool)
  /-- POWER_LOSS (R444) -/
  | powerLoss
  /-- WEAR_ESTIMATE (R449) -/
  | wearEstimate (die entry : Nat) (hours : Word)
  deriving DecidableEq, Repr

/-- The row of the opcode table that an occurrence belongs to. -/
def Event.row : Event → Instr
  | .tileClearDone _ => .tileClearDone
  | .waitaMonitorWake _ _ => .waitaMonitorWake
  | .waitaPoll _ _ => .waitaPoll
  | .tokenWaitWake _ _ => .tokenWaitWake
  | .deferredArrival _ => .deferredArrival
  | .barrierWaitWake _ _ => .barrierWaitWake
  | .barrierUpdate _ => .barrierUpdate
  | .taskDepcountDecrement _ _ _ => .taskDepcountDecrement
  | .copyStart _ => .copyStart
  | .copyComplete _ => .copyComplete
  | .batchWaitWake _ _ => .batchWaitWake
  | .matrixOpStart _ => .matrixOpStart
  | .matrixOpComplete _ => .matrixOpComplete
  | .furlongStep _ => .furlongStep
  | .collStart _ => .collStart
  | .collStep _ => .collStep
  | .collChunkReceive _ => .collChunkReceive
  | .collComplete _ => .collComplete
  | .collTimeout _ => .collTimeout
  | .treeOpComplete _ => .treeOpComplete
  | .ctDeltaFlush _ _ => .ctDeltaFlush
  | .ctRollup _ => .ctRollup
  | .crewRetire _ => .crewRetire
  | .sleepExpiry _ _ => .sleepExpiry
  | .regangComplete _ _ => .regangComplete
  | .synccComplete _ => .synccComplete
  | .crewDeadlock _ => .crewDeadlock
  | .roleswGrant _ => .roleswGrant
  | .gangAged _ _ => .gangAged
  | .bindRound _ => .bindRound
  | .coreSlotin _ _ => .coreSlotin
  | .dispatchBlock _ => .dispatchBlock
  | .launchNodeRetire _ => .launchNodeRetire
  | .zeroBlockNode _ => .zeroBlockNode
  | .linkCall _ _ => .linkCall
  | .reductionContribution _ => .reductionContribution
  | .reductionRetry _ => .reductionRetry
  | .reorderTimeout _ _ _ => .reorderTimeout
  | .xdieRequest _ _ _ => .xdieRequest
  | .xdieRetry _ => .xdieRetry
  | .reservationRelease _ => .reservationRelease
  | .xdieTimeout _ => .xdieTimeout
  | .peerTimeout _ => .peerTimeout
  | .bridgePacket _ => .bridgePacket
  | .bridgeReplay _ _ => .bridgeReplay
  | .bridgeRetrain => .bridgeRetrain
  | .bridgeDown => .bridgeDown
  | .portFailure _ => .portFailure
  | .peerRequest _ => .peerRequest
  | .tagExpiry _ _ _ => .tagExpiry
  | .grant _ => .grant
  | .recall _ => .recall
  | .acknowledgement _ => .acknowledgement
  | .faultTicket _ => .faultTicket
  | .replayNotice _ _ _ _ _ _ => .replayNotice
  | .reductionMessage _ => .reductionMessage
  | .softwareMessage _ => .softwareMessage
  | .exportMiss _ _ => .exportMiss
  | .collectiveReady _ => .collectiveReady
  | .badMessage _ => .badMessage
  | .messageResend _ => .messageResend
  | .missLogRetry _ => .missLogRetry
  | .exportInvalidate _ _ _ => .exportInvalidate
  | .exportServiced _ _ _ => .exportServiced
  | .hostRequest _ => .hostRequest
  | .drainRequest _ => .drainRequest
  | .drainEnd _ => .drainEnd
  | .drainLimit _ => .drainLimit
  | .forcedSaveWrite _ => .forcedSaveWrite
  | .contextRestore _ _ => .contextRestore
  | .scrubRead _ _ _ => .scrubRead
  | .scrubWriteback _ => .scrubWriteback
  | .powerGrant _ _ _ => .powerGrant
  | .ptpMessage _ => .ptpMessage
  | .ppsInput _ => .ppsInput
  | .trcRidx _ _ _ => .trcRidx
  | .loadGeneratedKey _ _ => .loadGeneratedKey
  | .loadWrappedKey _ _ _ => .loadWrappedKey
  | .unload _ _ => .unload
  | .attestationRequest _ _ => .attestationRequest
  | .boot _ => .boot
  | .debugHalt _ _ => .debugHalt
  | .registerWrite _ _ => .registerWrite
  | .illegalInstructionWord _ => .illegalInstructionWord
  | .fetchFault => .fetchFault
  | .requestResponse _ _ => .requestResponse
  | .bridgeRetrained => .bridgeRetrained
  | .debugResume _ _ _ _ => .debugResume
  | .powerLoss => .powerLoss
  | .wearEstimate _ _ _ => .wearEstimate

end Sys2Proof
end

