-- ==== Sys2Proof/WellFormed.lean ====
section
/-! DEFINITION. The limits the spec sets on the fields of an instruction word beyond their widths. A word that breaks
one does not decode: it raises ILLEGAL whatever the guard (R58). -/

namespace Sys2Proof

/-- A field holds a number below n. -/
def fieldBelow (x : BitVec 6) (n : Nat) : Bool := decide (x.toNat < n)

/-- Codes 0b101 to 0b111 are no scope (R48). -/
def scopeLegal (c : BitVec 3) : Bool := decide (c.toNat < 5)

/-- No field of a mode value holds a reserved code (R39, R40). -/
def modeLegal (m : BitVec 13) : Bool :=
  decide ((m.extractLsb' 4 5).toNat < 13) && decide ((m.extractLsb' 9 3).toNat < 5)

/-- ERET's action is 0 to 3, and its a field is used by action 2 alone (R321). -/
def eretFields (d a : BitVec 6) : Bool := decide (d.toNat < 4) && (d == 2 || a == 0)

/-- The limits of each instruction: predicate fields below 8 (R38), token fields below 32 (R47), slides of at most 64
(R59), shift counts below 64 (R99), special registers that exist and, for SWREG, that are writable (R42), scopes (R48,
R192), the level of PREF (R205), ERET's action (R321). A step of the hardware has no word and no limit. -/
def Instr.wf : Instr → Bool
  | .nop _ => true
  | .mode f => modeLegal f.i
  | .modex _ => true
  | .bra _ => true
  | .brx _ => true
  | .call f => fieldBelow f.d 9
  | .callx f => fieldBelow f.d 9
  | .ret _ => true
  | .ldc _ => true
  | .trap _ => true
  | .exit _ => true
  | .yield _ => true
  | .sleep _ => true
  | .regang _ => true
  | .syncc _ => true
  | .rolesw _ => true
  | .launch f => fieldBelow f.d 32
  | .launchRelease _ => true
  | .sreg f => f.i.toNat < 12
  | .swreg f => f.i.toNat == 10
  | .add _ => true
  | .addi _ => true
  | .sub _ => true
  | .addc _ => true
  | .subc _ => true
  | .mul _ => true
  | .mulhi _ => true
  | .mad _ => true
  | .min _ => true
  | .max _ => true
  | .abs _ => true
  | .neg _ => true
  | .and _ => true
  | .or _ => true
  | .xor _ => true
  | .not _ => true
  | .andi _ => true
  | .ori _ => true
  | .shl _ => true
  | .shr _ => true
  | .sar _ => true
  | .shli f => !f.i.getLsbD 6
  | .shri f => !f.i.getLsbD 6
  | .sari f => !f.i.getLsbD 6
  | .rot _ => true
  | .bfx _ => true
  | .bfi _ => true
  | .clz _ => true
  | .popc _ => true
  | .mov _ => true
  | .movi _ => true
  | .lea _ => true
  | .cmpEq f => fieldBelow f.d 8
  | .cmpNe f => fieldBelow f.d 8
  | .cmpLt f => fieldBelow f.d 8
  | .cmpLe f => fieldBelow f.d 8
  | .cmpGt f => fieldBelow f.d 8
  | .cmpGe f => fieldBelow f.d 8
  | .cmpiEq f => fieldBelow f.d 8
  | .cmpiNe f => fieldBelow f.d 8
  | .cmpiLt f => fieldBelow f.d 8
  | .cmpiLe f => fieldBelow f.d 8
  | .cmpiGt f => fieldBelow f.d 8
  | .cmpiGe f => fieldBelow f.d 8
  | .selP1 _ => true
  | .selP2 _ => true
  | .selP3 _ => true
  | .selP4 _ => true
  | .selP5 _ => true
  | .selP6 _ => true
  | .selP7 _ => true
  | .pand f => fieldBelow f.d 8 && fieldBelow f.a 8 && fieldBelow f.b 8
  | .por f => fieldBelow f.d 8 && fieldBelow f.a 8 && fieldBelow f.b 8
  | .pxor f => fieldBelow f.d 8 && fieldBelow f.a 8 && fieldBelow f.b 8
  | .pnot f => fieldBelow f.d 8 && fieldBelow f.a 8
  | .pset f => fieldBelow f.d 8
  | .pget _ => true
  | .shflIdx _ => true
  | .shflUp _ => true
  | .shflDown _ => true
  | .shflXor _ => true
  | .bcast _ => true
  | .voteAny f => fieldBelow f.d 8 && fieldBelow f.a 8
  | .voteAll f => fieldBelow f.d 8 && fieldBelow f.a 8
  | .voteBallot f => fieldBelow f.a 8
  | .voteAdd _ => true
  | .voteFadd _ => true
  | .fadd _ => true
  | .fsub _ => true
  | .fmul _ => true
  | .fma _ => true
  | .fmin _ => true
  | .fmax _ => true
  | .fabs _ => true
  | .fneg _ => true
  | .fcmpEq f => fieldBelow f.d 8
  | .fcmpNe f => fieldBelow f.d 8
  | .fcmpLt f => fieldBelow f.d 8
  | .fcmpLe f => fieldBelow f.d 8
  | .fcmpGt f => fieldBelow f.d 8
  | .fcmpGe f => fieldBelow f.d 8
  | .fcmpUn f => fieldBelow f.d 8
  | .fclass _ => true
  | .frcp _ => true
  | .frsq _ => true
  | .fsqrt _ => true
  | .fexp2 _ => true
  | .flog2 _ => true
  | .ftanh _ => true
  | .frnd _ => true
  | .fdot2 _ => true
  | .fcvtF32 _ => true
  | .fcvtF16x2 _ => true
  | .fcvtBf16x2 _ => true
  | .fcvtE4m3x4 _ => true
  | .fcvtE5m2x4 _ => true
  | .icvtSf _ => true
  | .icvtUf _ => true
  | .icvtFs _ => true
  | .icvtFu _ => true
  | .fscal _ => true
  | .ldU8 _ => true
  | .ldS8 _ => true
  | .ldU16 _ => true
  | .ldS16 _ => true
  | .ldB32 _ => true
  | .ldB64 _ => true
  | .ldB128 _ => true
  | .stB8 _ => true
  | .stB16 _ => true
  | .stB32 _ => true
  | .stB64 _ => true
  | .stB128 _ => true
  | .ldtU8 _ => true
  | .ldtS8 _ => true
  | .ldtU16 _ => true
  | .ldtS16 _ => true
  | .ldtB32 _ => true
  | .ldtB64 _ => true
  | .ldtB128 _ => true
  | .sttB8 _ => true
  | .sttB16 _ => true
  | .sttB32 _ => true
  | .sttB64 _ => true
  | .sttB128 _ => true
  | .tallocTm _ => true
  | .tallocTmz _ => true
  | .tallocOs _ => true
  | .tallocOsz _ => true
  | .tfree _ => true
  | .tquery _ => true
  | .atomAdd f => scopeLegal f.c
  | .atomMin f => scopeLegal f.c
  | .atomMax f => scopeLegal f.c
  | .atomAnd f => scopeLegal f.c
  | .atomOr f => scopeLegal f.c
  | .atomXor f => scopeLegal f.c
  | .atomExch f => scopeLegal f.c
  | .atomcas f => scopeLegal f.c
  | .tatomAdd _ => true
  | .tatomMin _ => true
  | .tatomMax _ => true
  | .tatomAnd _ => true
  | .tatomOr _ => true
  | .tatomXor _ => true
  | .tatomExch _ => true
  | .tatomCas _ => true
  | .redAdd f => scopeLegal f.c
  | .redMin f => scopeLegal f.c
  | .redMax f => scopeLegal f.c
  | .redAnd f => scopeLegal f.c
  | .redOr f => scopeLegal f.c
  | .redXor f => scopeLegal f.c
  | .redfAdd f => scopeLegal f.c && 2 ≤ f.c.toNat
  | .redfMin f => scopeLegal f.c && 2 ≤ f.c.toNat
  | .redfMax f => scopeLegal f.c && 2 ≤ f.c.toNat
  | .reds f => scopeLegal f.c && 2 ≤ f.c.toNat
  | .waitaEq f => scopeLegal f.c
  | .waitaNe f => scopeLegal f.c
  | .waitaGe f => scopeLegal f.c
  | .waitaLt f => scopeLegal f.c
  | .fence f => scopeLegal f.c
  | .pref f => fieldBelow f.d 2
  | .cctlInv _ => true
  | .cctlClean _ => true
  | .cctlFlush _ => true
  | .tkwait f => fieldBelow f.d 32
  | .tkwaitMask _ => true
  | .tkany _ => true
  | .tktest _ => true
  | .tkfree f => fieldBelow f.d 32
  | .tkfreeMask _ => true
  | .tkexpBar f => fieldBelow f.d 32
  | .tkexpTask f => fieldBelow f.d 32
  | .binit _ => true
  | .bbind _ => true
  | .barr _ => true
  | .barrd _ => true
  | .bexp _ => true
  | .bwait _ => true
  | .btest _ => true
  | .bcont _ => true
  | .taskd _ => true
  | .cpy f => fieldBelow f.d 32
  | .cpyt f => fieldBelow f.d 32
  | .cpyg f => fieldBelow f.d 32
  | .cpyw f => fieldBelow f.d 32
  | .cpys f => fieldBelow f.d 32
  | .cpyx f => fieldBelow f.d 32
  | .seal _ => true
  | .waitb _ => true
  | .mma f => fieldBelow f.d 32
  | .mmao f => fieldBelow f.d 32
  | .mzero f => fieldBelow f.d 32
  | .mscal f => fieldBelow f.d 32
  | .mcvt f => fieldBelow f.d 32
  | .mload f => fieldBelow f.d 32
  | .mseq f => fieldBelow f.d 32
  | .mseqq _ => true
  | .macq f => fieldBelow f.d 32
  | .mrel _ => true
  | .coll f => fieldBelow f.d 32
  | .collq _ => true
  | .trace _ => true
  | .eret f => eretFields f.d f.a
  | .mappg _ => true
  | .unmappg _ => true
  | .tlbinv _ => true
  | .srd _ => true
  | .swr _ => true
  | .syscall _ => true
  | .fltinfo _ => true
  | .fstat _ => true
  | .fclr _ => true
  | .tickq _ => true
  | .msgs f => fieldBelow f.d 32
  | .msgr _ => true
  | .ctenr _ => true
  | .ctleaf f => fieldBelow f.d 32
  | .ctread _ => true
  | .ctcmp f => fieldBelow f.d 8
  | .ctset f => fieldBelow f.d 32
  | .ctmove f => fieldBelow f.d 32
  | .ctdrop f => fieldBelow f.d 32
  | .tileClearDone => true
  | .waitaMonitorWake => true
  | .waitaPoll => true
  | .tokenWaitWake => true
  | .deferredArrival => true
  | .barrierWaitWake => true
  | .barrierUpdate => true
  | .taskDepcountDecrement => true
  | .copyStart => true
  | .copyComplete => true
  | .batchWaitWake => true
  | .matrixOpStart => true
  | .matrixOpComplete => true
  | .furlongStep => true
  | .collStart => true
  | .collStep => true
  | .collChunkReceive => true
  | .collComplete => true
  | .collTimeout => true
  | .treeOpComplete => true
  | .ctDeltaFlush => true
  | .ctRollup => true
  | .crewRetire => true
  | .sleepExpiry => true
  | .regangComplete => true
  | .synccComplete => true
  | .crewDeadlock => true
  | .roleswGrant => true
  | .gangAged => true
  | .bindRound => true
  | .coreSlotin => true
  | .dispatchBlock => true
  | .launchNodeRetire => true
  | .zeroBlockNode => true
  | .linkCall => true
  | .reductionContribution => true
  | .reductionRetry => true
  | .reorderTimeout => true
  | .xdieRequest => true
  | .xdieRetry => true
  | .reservationRelease => true
  | .xdieTimeout => true
  | .peerTimeout => true
  | .bridgePacket => true
  | .bridgeReplay => true
  | .bridgeRetrain => true
  | .bridgeDown => true
  | .portFailure => true
  | .peerRequest => true
  | .tagExpiry => true
  | .grant => true
  | .recall => true
  | .acknowledgement => true
  | .faultTicket => true
  | .replayNotice => true
  | .reductionMessage => true
  | .softwareMessage => true
  | .exportMiss => true
  | .collectiveReady => true
  | .badMessage => true
  | .messageResend => true
  | .missLogRetry => true
  | .exportInvalidate => true
  | .exportServiced => true
  | .hostRequest => true
  | .drainRequest => true
  | .drainEnd => true
  | .drainLimit => true
  | .forcedSaveWrite => true
  | .contextRestore => true
  | .scrubRead => true
  | .scrubWriteback => true
  | .powerGrant => true
  | .ptpMessage => true
  | .ppsInput => true
  | .trcRidx => true
  | .loadGeneratedKey => true
  | .loadWrappedKey => true
  | .unload => true
  | .attestationRequest => true
  | .boot => true
  | .debugHalt => true
  | .registerWrite => true
  | .illegalInstructionWord => true
  | .fetchFault => true
  | .requestResponse => true
  | .bridgeRetrained => true
  | .debugResume => true
  | .powerLoss => true
  | .wearEstimate => true

end Sys2Proof
end

