-- ==== Sys2Proof/Decode.lean ====
section
/-! DEFINITION. Decoding instruction words (R45, R46, R59, R60) and, after it, the encoder. -/

namespace Sys2Proof

/-- The word of form FS under an opcode: its fields in place, every other bit 0 (R45, R46). -/
def FS.word (op : BitVec 9) (f : FS) : Word := op ++ 0#1 ++ f.s ++ 0#19

/-- The fields of a word of form FS. -/
def FS.ofWord (w : Word) : FS :=
  { s := w.extractLsb' 19 3 }

/-- Reads form FS: none when a bit the form does not use, [0] and U among them, is 1 (R46, R47, R49). -/
def FS.read (mk : FS → Instr) (w : Word) : Option Instr :=
  if w &&& 0x47ffff#32 = 0#32 then some (mk (FS.ofWord w)) else none

/-- The word of form FSI under an opcode: its fields in place, every other bit 0 (R45, R46). -/
def FSI.word (op : BitVec 9) (f : FSI) : Word := op ++ 0#1 ++ f.s ++ 0#6 ++ f.i

/-- The fields of a word of form FSI. -/
def FSI.ofWord (w : Word) : FSI :=
  { s := w.extractLsb' 19 3, i := w.extractLsb' 0 13 }

/-- Reads form FSI: none when a bit the form does not use, [0] and U among them, is 1 (R46, R47, R49). -/
def FSI.read (mk : FSI → Instr) (w : Word) : Option Instr :=
  if w &&& 0x47e000#32 = 0#32 then some (mk (FSI.ofWord w)) else none

/-- The word of form FSA under an opcode: its fields in place, every other bit 0 (R45, R46). -/
def FSA.word (op : BitVec 9) (f : FSA) : Word := op ++ 0#1 ++ f.s ++ 0#6 ++ f.a ++ 0#7

/-- The fields of a word of form FSA. -/
def FSA.ofWord (w : Word) : FSA :=
  { s := w.extractLsb' 19 3, a := w.extractLsb' 7 6 }

/-- Reads form FSA: none when a bit the form does not use, [0] and U among them, is 1 (R46, R47, R49). -/
def FSA.read (mk : FSA → Instr) (w : Word) : Option Instr :=
  if w &&& 0x47e07f#32 = 0#32 then some (mk (FSA.ofWord w)) else none

/-- The word of form FSO under an opcode: its fields in place, every other bit 0 (R45, R46). -/
def FSO.word (op : BitVec 9) (f : FSO) : Word := op ++ 0#1 ++ f.s ++ f.o

/-- The fields of a word of form FSO. -/
def FSO.ofWord (w : Word) : FSO :=
  { s := w.extractLsb' 19 3, o := w.extractLsb' 0 19 }

/-- Reads form FSO: none when a bit the form does not use, [0] and U among them, is 1 (R46, R47, R49). -/
def FSO.read (mk : FSO → Instr) (w : Word) : Option Instr :=
  if w &&& 0x400000#32 = 0#32 then some (mk (FSO.ofWord w)) else none

/-- The word of form FSDI under an opcode: its fields in place, every other bit 0 (R45, R46). -/
def FSDI.word (op : BitVec 9) (f : FSDI) : Word := op ++ 0#1 ++ f.s ++ f.d ++ f.i

/-- The fields of a word of form FSDI. -/
def FSDI.ofWord (w : Word) : FSDI :=
  { s := w.extractLsb' 19 3, d := w.extractLsb' 13 6, i := w.extractLsb' 0 13 }

/-- Reads form FSDI: none when a bit the form does not use, [0] and U among them, is 1 (R46, R47, R49). -/
def FSDI.read (mk : FSDI → Instr) (w : Word) : Option Instr :=
  if w &&& 0x400000#32 = 0#32 then some (mk (FSDI.ofWord w)) else none

/-- The word of form FSDA under an opcode: its fields in place, every other bit 0 (R45, R46). -/
def FSDA.word (op : BitVec 9) (f : FSDA) : Word := op ++ 0#1 ++ f.s ++ f.d ++ f.a ++ 0#7

/-- The fields of a word of form FSDA. -/
def FSDA.ofWord (w : Word) : FSDA :=
  { s := w.extractLsb' 19 3, d := w.extractLsb' 13 6, a := w.extractLsb' 7 6 }

/-- Reads form FSDA: none when a bit the form does not use, [0] and U among them, is 1 (R46, R47, R49). -/
def FSDA.read (mk : FSDA → Instr) (w : Word) : Option Instr :=
  if w &&& 0x40007f#32 = 0#32 then some (mk (FSDA.ofWord w)) else none

/-- The word of form FUSDI under an opcode: its fields in place, every other bit 0 (R45, R46). -/
def FUSDI.word (op : BitVec 9) (f : FUSDI) : Word := op ++ BitVec.ofBool f.u ++ f.s ++ f.d ++ f.i

/-- The fields of a word of form FUSDI. -/
def FUSDI.ofWord (w : Word) : FUSDI :=
  { u := w.getLsbD 22, s := w.extractLsb' 19 3, d := w.extractLsb' 13 6, i := w.extractLsb' 0 13 }

/-- Reads form FUSDI: none when a bit the form does not use, [0] and U among them, is 1 (R46, R47, R49). -/
def FUSDI.read (mk : FUSDI → Instr) (w : Word) : Option Instr :=
  if w &&& 0x0#32 = 0#32 then some (mk (FUSDI.ofWord w)) else none

/-- The word of form FSM under an opcode: its fields in place, every other bit 0 (R45, R46). -/
def FSM.word (op : BitVec 9) (f : FSM) : Word := op ++ 0#1 ++ f.s ++ 0#11 ++ f.m

/-- The fields of a word of form FSM. -/
def FSM.ofWord (w : Word) : FSM :=
  { s := w.extractLsb' 19 3, m := w.extractLsb' 0 8 }

/-- Reads form FSM: none when a bit the form does not use, [0] and U among them, is 1 (R46, R47, R49). -/
def FSM.read (mk : FSM → Instr) (w : Word) : Option Instr :=
  if w &&& 0x47ff00#32 = 0#32 then some (mk (FSM.ofWord w)) else none

/-- The word of form FUSDAB under an opcode: its fields in place, every other bit 0 (R45, R46). -/
def FUSDAB.word (op : BitVec 9) (f : FUSDAB) : Word := op ++ BitVec.ofBool f.u ++ f.s ++ f.d ++ f.a ++ f.b ++ 0#1

/-- The fields of a word of form FUSDAB. -/
def FUSDAB.ofWord (w : Word) : FUSDAB :=
  { u := w.getLsbD 22, s := w.extractLsb' 19 3, d := w.extractLsb' 13 6, a := w.extractLsb' 7 6, b := w.extractLsb' 1 6 }

/-- Reads form FUSDAB: none when a bit the form does not use, [0] and U among them, is 1 (R46, R47, R49). -/
def FUSDAB.read (mk : FUSDAB → Instr) (w : Word) : Option Instr :=
  if w &&& 0x1#32 = 0#32 then some (mk (FUSDAB.ofWord w)) else none

/-- The word of form FUSDAI under an opcode: its fields in place, every other bit 0 (R45, R46). -/
def FUSDAI.word (op : BitVec 9) (f : FUSDAI) : Word := op ++ BitVec.ofBool f.u ++ f.s ++ f.d ++ f.a ++ f.i

/-- The fields of a word of form FUSDAI. -/
def FUSDAI.ofWord (w : Word) : FUSDAI :=
  { u := w.getLsbD 22, s := w.extractLsb' 19 3, d := w.extractLsb' 13 6, a := w.extractLsb' 7 6, i := w.extractLsb' 0 7 }

/-- Reads form FUSDAI: none when a bit the form does not use, [0] and U among them, is 1 (R46, R47, R49). -/
def FUSDAI.read (mk : FUSDAI → Instr) (w : Word) : Option Instr :=
  if w &&& 0x0#32 = 0#32 then some (mk (FUSDAI.ofWord w)) else none

/-- The word of form FUSDA under an opcode: its fields in place, every other bit 0 (R45, R46). -/
def FUSDA.word (op : BitVec 9) (f : FUSDA) : Word := op ++ BitVec.ofBool f.u ++ f.s ++ f.d ++ f.a ++ 0#7

/-- The fields of a word of form FUSDA. -/
def FUSDA.ofWord (w : Word) : FUSDA :=
  { u := w.getLsbD 22, s := w.extractLsb' 19 3, d := w.extractLsb' 13 6, a := w.extractLsb' 7 6 }

/-- Reads form FUSDA: none when a bit the form does not use, [0] and U among them, is 1 (R46, R47, R49). -/
def FUSDA.read (mk : FUSDA → Instr) (w : Word) : Option Instr :=
  if w &&& 0x7f#32 = 0#32 then some (mk (FUSDA.ofWord w)) else none

/-- The word of form FSDAB under an opcode: its fields in place, every other bit 0 (R45, R46). -/
def FSDAB.word (op : BitVec 9) (f : FSDAB) : Word := op ++ 0#1 ++ f.s ++ f.d ++ f.a ++ f.b ++ 0#1

/-- The fields of a word of form FSDAB. -/
def FSDAB.ofWord (w : Word) : FSDAB :=
  { s := w.extractLsb' 19 3, d := w.extractLsb' 13 6, a := w.extractLsb' 7 6, b := w.extractLsb' 1 6 }

/-- Reads form FSDAB: none when a bit the form does not use, [0] and U among them, is 1 (R46, R47, R49). -/
def FSDAB.read (mk : FSDAB → Instr) (w : Word) : Option Instr :=
  if w &&& 0x400001#32 = 0#32 then some (mk (FSDAB.ofWord w)) else none

/-- The word of form FSD under an opcode: its fields in place, every other bit 0 (R45, R46). -/
def FSD.word (op : BitVec 9) (f : FSD) : Word := op ++ 0#1 ++ f.s ++ f.d ++ 0#13

/-- The fields of a word of form FSD. -/
def FSD.ofWord (w : Word) : FSD :=
  { s := w.extractLsb' 19 3, d := w.extractLsb' 13 6 }

/-- Reads form FSD: none when a bit the form does not use, [0] and U among them, is 1 (R46, R47, R49). -/
def FSD.read (mk : FSD → Instr) (w : Word) : Option Instr :=
  if w &&& 0x401fff#32 = 0#32 then some (mk (FSD.ofWord w)) else none

/-- The word of form FSDAI under an opcode: its fields in place, every other bit 0 (R45, R46). -/
def FSDAI.word (op : BitVec 9) (f : FSDAI) : Word := op ++ 0#1 ++ f.s ++ f.d ++ f.a ++ f.i

/-- The fields of a word of form FSDAI. -/
def FSDAI.ofWord (w : Word) : FSDAI :=
  { s := w.extractLsb' 19 3, d := w.extractLsb' 13 6, a := w.extractLsb' 7 6, i := w.extractLsb' 0 7 }

/-- Reads form FSDAI: none when a bit the form does not use, [0] and U among them, is 1 (R46, R47, R49). -/
def FSDAI.read (mk : FSDAI → Instr) (w : Word) : Option Instr :=
  if w &&& 0x400000#32 = 0#32 then some (mk (FSDAI.ofWord w)) else none

/-- The word of form FSDAC under an opcode: its fields in place, every other bit 0 (R45, R46). -/
def FSDAC.word (op : BitVec 9) (f : FSDAC) : Word := op ++ 0#1 ++ f.s ++ f.d ++ f.a ++ f.c ++ 0#4

/-- The fields of a word of form FSDAC. -/
def FSDAC.ofWord (w : Word) : FSDAC :=
  { s := w.extractLsb' 19 3, d := w.extractLsb' 13 6, a := w.extractLsb' 7 6, c := w.extractLsb' 4 3 }

/-- Reads form FSDAC: none when a bit the form does not use, [0] and U among them, is 1 (R46, R47, R49). -/
def FSDAC.read (mk : FSDAC → Instr) (w : Word) : Option Instr :=
  if w &&& 0x40000f#32 = 0#32 then some (mk (FSDAC.ofWord w)) else none

/-- The word of form FSCOE under an opcode: its fields in place, every other bit 0 (R45, R46). -/
def FSCOE.word (op : BitVec 9) (f : FSCOE) : Word := op ++ 0#1 ++ f.s ++ 0#12 ++ f.c ++ f.o ++ BitVec.ofBool f.e ++ 0#1

/-- The fields of a word of form FSCOE. -/
def FSCOE.ofWord (w : Word) : FSCOE :=
  { s := w.extractLsb' 19 3, c := w.extractLsb' 4 3, o := w.extractLsb' 2 2, e := w.getLsbD 1 }

/-- Reads form FSCOE: none when a bit the form does not use, [0] and U among them, is 1 (R46, R47, R49). -/
def FSCOE.read (mk : FSCOE → Instr) (w : Word) : Option Instr :=
  if w &&& 0x47ff81#32 = 0#32 then some (mk (FSCOE.ofWord w)) else none

/-- The word of form FSAB under an opcode: its fields in place, every other bit 0 (R45, R46). -/
def FSAB.word (op : BitVec 9) (f : FSAB) : Word := op ++ 0#1 ++ f.s ++ 0#6 ++ f.a ++ f.b ++ 0#1

/-- The fields of a word of form FSAB. -/
def FSAB.ofWord (w : Word) : FSAB :=
  { s := w.extractLsb' 19 3, a := w.extractLsb' 7 6, b := w.extractLsb' 1 6 }

/-- Reads form FSAB: none when a bit the form does not use, [0] and U among them, is 1 (R46, R47, R49). -/
def FSAB.read (mk : FSAB → Instr) (w : Word) : Option Instr :=
  if w &&& 0x47e001#32 = 0#32 then some (mk (FSAB.ofWord w)) else none

/-- The opcode map of R59 and R60: the form each opcode reads its word in. An opcode that the map does not list reads
nothing. TKWAIT and TKFREE take their form from bit [1] (R233). -/
def readOpcode (op : Nat) (w : Word) : Option Instr :=
  match op with
  | 0x000 => FS.read .nop w
  | 0x001 => FSI.read .mode w
  | 0x002 => FSA.read .modex w
  | 0x003 => FSO.read .bra w
  | 0x004 => FSA.read .brx w
  | 0x005 => FSDI.read .call w
  | 0x006 => FSDA.read .callx w
  | 0x007 => FS.read .ret w
  | 0x008 => FUSDI.read .ldc w
  | 0x009 => FSI.read .trap w
  | 0x010 => FS.read .exit w
  | 0x011 => FS.read .yield w
  | 0x012 => FSI.read .sleep w
  | 0x013 => FSM.read .regang w
  | 0x014 => FS.read .syncc w
  | 0x015 => FSA.read .rolesw w
  | 0x016 => FSDA.read .launch w
  | 0x017 => FS.read .launchRelease w
  | 0x018 => FUSDI.read .sreg w
  | 0x019 => FSDI.read .swreg w
  | 0x030 => FUSDAB.read .add w
  | 0x031 => FUSDAI.read .addi w
  | 0x032 => FUSDAB.read .sub w
  | 0x033 => FUSDAB.read .addc w
  | 0x034 => FUSDAB.read .subc w
  | 0x035 => FUSDAB.read .mul w
  | 0x036 => FUSDAB.read .mulhi w
  | 0x037 => FUSDAB.read .mad w
  | 0x038 => FUSDAB.read .min w
  | 0x039 => FUSDAB.read .max w
  | 0x03a => FUSDA.read .abs w
  | 0x03b => FUSDA.read .neg w
  | 0x03c => FUSDAB.read .and w
  | 0x03d => FUSDAB.read .or w
  | 0x03e => FUSDAB.read .xor w
  | 0x03f => FUSDA.read .not w
  | 0x040 => FUSDAI.read .andi w
  | 0x041 => FUSDAI.read .ori w
  | 0x042 => FUSDAB.read .shl w
  | 0x043 => FUSDAB.read .shr w
  | 0x044 => FUSDAB.read .sar w
  | 0x045 => FUSDAI.read .shli w
  | 0x046 => FUSDAI.read .shri w
  | 0x047 => FUSDAI.read .sari w
  | 0x048 => FUSDAB.read .rot w
  | 0x049 => FUSDAB.read .bfx w
  | 0x04a => FUSDAB.read .bfi w
  | 0x04b => FUSDA.read .clz w
  | 0x04c => FUSDA.read .popc w
  | 0x04d => FUSDA.read .mov w
  | 0x04e => FUSDI.read .movi w
  | 0x04f => FUSDAB.read .lea w
  | 0x050 => FUSDAB.read .cmpEq w
  | 0x051 => FUSDAB.read .cmpNe w
  | 0x052 => FUSDAB.read .cmpLt w
  | 0x053 => FUSDAB.read .cmpLe w
  | 0x054 => FUSDAB.read .cmpGt w
  | 0x055 => FUSDAB.read .cmpGe w
  | 0x056 => FUSDAI.read .cmpiEq w
  | 0x057 => FUSDAI.read .cmpiNe w
  | 0x058 => FUSDAI.read .cmpiLt w
  | 0x059 => FUSDAI.read .cmpiLe w
  | 0x05a => FUSDAI.read .cmpiGt w
  | 0x05b => FUSDAI.read .cmpiGe w
  | 0x05c => FUSDAB.read .selP1 w
  | 0x05d => FUSDAB.read .selP2 w
  | 0x05e => FUSDAB.read .selP3 w
  | 0x05f => FUSDAB.read .selP4 w
  | 0x060 => FUSDAB.read .selP5 w
  | 0x061 => FUSDAB.read .selP6 w
  | 0x062 => FUSDAB.read .selP7 w
  | 0x090 => FSDAB.read .pand w
  | 0x091 => FSDAB.read .por w
  | 0x092 => FSDAB.read .pxor w
  | 0x093 => FSDA.read .pnot w
  | 0x094 => FSDA.read .pset w
  | 0x095 => FSD.read .pget w
  | 0x098 => FSDAB.read .shflIdx w
  | 0x099 => FSDAB.read .shflUp w
  | 0x09a => FSDAB.read .shflDown w
  | 0x09b => FSDAB.read .shflXor w
  | 0x09c => FSDAB.read .bcast w
  | 0x0a0 => FSDA.read .voteAny w
  | 0x0a1 => FSDA.read .voteAll w
  | 0x0a2 => FSDA.read .voteBallot w
  | 0x0a3 => FSDA.read .voteAdd w
  | 0x0a4 => FSDA.read .voteFadd w
  | 0x0c0 => FUSDAB.read .fadd w
  | 0x0c1 => FUSDAB.read .fsub w
  | 0x0c2 => FUSDAB.read .fmul w
  | 0x0c3 => FUSDAB.read .fma w
  | 0x0c4 => FUSDAB.read .fmin w
  | 0x0c5 => FUSDAB.read .fmax w
  | 0x0c6 => FUSDA.read .fabs w
  | 0x0c7 => FUSDA.read .fneg w
  | 0x0c8 => FUSDAB.read .fcmpEq w
  | 0x0c9 => FUSDAB.read .fcmpNe w
  | 0x0ca => FUSDAB.read .fcmpLt w
  | 0x0cb => FUSDAB.read .fcmpLe w
  | 0x0cc => FUSDAB.read .fcmpGt w
  | 0x0cd => FUSDAB.read .fcmpGe w
  | 0x0ce => FUSDAB.read .fcmpUn w
  | 0x0cf => FUSDA.read .fclass w
  | 0x0d0 => FUSDA.read .frcp w
  | 0x0d1 => FUSDA.read .frsq w
  | 0x0d2 => FUSDA.read .fsqrt w
  | 0x0d3 => FUSDA.read .fexp2 w
  | 0x0d4 => FUSDA.read .flog2 w
  | 0x0d5 => FUSDA.read .ftanh w
  | 0x0d6 => FUSDA.read .frnd w
  | 0x0d7 => FUSDAB.read .fdot2 w
  | 0x0d8 => FUSDA.read .fcvtF32 w
  | 0x0d9 => FUSDA.read .fcvtF16x2 w
  | 0x0da => FUSDA.read .fcvtBf16x2 w
  | 0x0db => FUSDA.read .fcvtE4m3x4 w
  | 0x0dc => FUSDA.read .fcvtE5m2x4 w
  | 0x0dd => FUSDA.read .icvtSf w
  | 0x0de => FUSDA.read .icvtUf w
  | 0x0df => FUSDA.read .icvtFs w
  | 0x0e0 => FUSDA.read .icvtFu w
  | 0x0e1 => FUSDAB.read .fscal w
  | 0x120 => FUSDAI.read .ldU8 w
  | 0x121 => FUSDAI.read .ldS8 w
  | 0x122 => FUSDAI.read .ldU16 w
  | 0x123 => FUSDAI.read .ldS16 w
  | 0x124 => FUSDAI.read .ldB32 w
  | 0x125 => FUSDAI.read .ldB64 w
  | 0x126 => FUSDAI.read .ldB128 w
  | 0x127 => FSDAI.read .stB8 w
  | 0x128 => FSDAI.read .stB16 w
  | 0x129 => FSDAI.read .stB32 w
  | 0x12a => FSDAI.read .stB64 w
  | 0x12b => FSDAI.read .stB128 w
  | 0x12c => FUSDAB.read .ldtU8 w
  | 0x12d => FUSDAB.read .ldtS8 w
  | 0x12e => FUSDAB.read .ldtU16 w
  | 0x12f => FUSDAB.read .ldtS16 w
  | 0x130 => FUSDAB.read .ldtB32 w
  | 0x131 => FUSDAB.read .ldtB64 w
  | 0x132 => FUSDAB.read .ldtB128 w
  | 0x133 => FSDAB.read .sttB8 w
  | 0x134 => FSDAB.read .sttB16 w
  | 0x135 => FSDAB.read .sttB32 w
  | 0x136 => FSDAB.read .sttB64 w
  | 0x137 => FSDAB.read .sttB128 w
  | 0x138 => FSDAB.read .tallocTm w
  | 0x139 => FSDAB.read .tallocTmz w
  | 0x13a => FSDAB.read .tallocOs w
  | 0x13b => FSDAB.read .tallocOsz w
  | 0x13c => FSA.read .tfree w
  | 0x13d => FSDA.read .tquery w
  | 0x140 => FSDAC.read .atomAdd w
  | 0x141 => FSDAC.read .atomMin w
  | 0x142 => FSDAC.read .atomMax w
  | 0x143 => FSDAC.read .atomAnd w
  | 0x144 => FSDAC.read .atomOr w
  | 0x145 => FSDAC.read .atomXor w
  | 0x146 => FSDAC.read .atomExch w
  | 0x147 => FSDAC.read .atomcas w
  | 0x148 => FSDAB.read .tatomAdd w
  | 0x149 => FSDAB.read .tatomMin w
  | 0x14a => FSDAB.read .tatomMax w
  | 0x14b => FSDAB.read .tatomAnd w
  | 0x14c => FSDAB.read .tatomOr w
  | 0x14d => FSDAB.read .tatomXor w
  | 0x14e => FSDAB.read .tatomExch w
  | 0x14f => FSDAB.read .tatomCas w
  | 0x150 => FSDAC.read .redAdd w
  | 0x151 => FSDAC.read .redMin w
  | 0x152 => FSDAC.read .redMax w
  | 0x153 => FSDAC.read .redAnd w
  | 0x154 => FSDAC.read .redOr w
  | 0x155 => FSDAC.read .redXor w
  | 0x156 => FSDAC.read .redfAdd w
  | 0x157 => FSDAC.read .redfMin w
  | 0x158 => FSDAC.read .redfMax w
  | 0x159 => FSDAC.read .reds w
  | 0x15a => FSDAC.read .waitaEq w
  | 0x15b => FSDAC.read .waitaNe w
  | 0x15c => FSDAC.read .waitaGe w
  | 0x15d => FSDAC.read .waitaLt w
  | 0x15e => FSCOE.read .fence w
  | 0x15f => FSDAI.read .pref w
  | 0x160 => FSAB.read .cctlInv w
  | 0x161 => FSAB.read .cctlClean w
  | 0x162 => FSAB.read .cctlFlush w
  | 0x170 => if w.getLsbD 1 then FSA.read .tkwaitMask (w &&& ~~~2#32) else FSD.read .tkwait w
  | 0x171 => FSDA.read .tkany w
  | 0x172 => FSDA.read .tktest w
  | 0x173 => if w.getLsbD 1 then FSA.read .tkfreeMask (w &&& ~~~2#32) else FSD.read .tkfree w
  | 0x174 => FSDA.read .tkexpBar w
  | 0x175 => FSDA.read .tkexpTask w
  | 0x178 => FSA.read .binit w
  | 0x179 => FSAB.read .bbind w
  | 0x17a => FSA.read .barr w
  | 0x17b => FSA.read .barrd w
  | 0x17c => FSA.read .bexp w
  | 0x17d => FSA.read .bwait w
  | 0x17e => FSDA.read .btest w
  | 0x17f => FSDAB.read .bcont w
  | 0x180 => FSAB.read .taskd w
  | 0x188 => FSDA.read .cpy w
  | 0x189 => FSDA.read .cpyt w
  | 0x18a => FSDA.read .cpyg w
  | 0x18b => FSDA.read .cpyw w
  | 0x18c => FSDA.read .cpys w
  | 0x18d => FSDA.read .cpyx w
  | 0x18e => FSD.read .seal w
  | 0x18f => FSA.read .waitb w
  | 0x1b0 => FSDA.read .mma w
  | 0x1b1 => FSDA.read .mmao w
  | 0x1b2 => FSDA.read .mzero w
  | 0x1b3 => FSDA.read .mscal w
  | 0x1b4 => FSDA.read .mcvt w
  | 0x1b5 => FSDA.read .mload w
  | 0x1b6 => FSDA.read .mseq w
  | 0x1b7 => FSDA.read .mseqq w
  | 0x1b8 => FSD.read .macq w
  | 0x1b9 => FS.read .mrel w
  | 0x1c0 => FSDA.read .coll w
  | 0x1c1 => FSDA.read .collq w
  | 0x1e8 => FSA.read .trace w
  | 0x1d0 => FSDA.read .eret w
  | 0x1d1 => FSDA.read .mappg w
  | 0x1d2 => FSDA.read .unmappg w
  | 0x1d3 => FSA.read .tlbinv w
  | 0x1d4 => FSDA.read .srd w
  | 0x1d5 => FSDA.read .swr w
  | 0x1d6 => FSI.read .syscall w
  | 0x1d7 => FSDA.read .fltinfo w
  | 0x1d8 => FSD.read .fstat w
  | 0x1d9 => FS.read .fclr w
  | 0x1da => FSDA.read .tickq w
  | 0x1db => FSDA.read .msgs w
  | 0x1dc => FSD.read .msgr w
  | 0x1e0 => FSA.read .ctenr w
  | 0x1e1 => FSDA.read .ctleaf w
  | 0x1e2 => FSDA.read .ctread w
  | 0x1e3 => FSDA.read .ctcmp w
  | 0x1e4 => FSDA.read .ctset w
  | 0x1e5 => FSDA.read .ctmove w
  | 0x1e6 => FSDA.read .ctdrop w
  | _ => none

/-- The instruction a word encodes: its opcode is assigned, its unused bits are 0, U is permitted, and its fields keep
their limits. Any other word is none, and raises ILLEGAL (R60). -/
def decode (w : Word) : Option Instr :=
  match readOpcode (w.extractLsb' 23 9).toNat w with
  | some i => if i.wf then some i else none
  | none => none

/-- A little-endian instruction word from its bytes, lowest address first (R45). -/
def wordOfBytes (b0 b1 b2 b3 : Byte) : Word := b3 ++ b2 ++ b1 ++ b0

/-- The four bytes of a word, lowest address first (R12). -/
def wordBytes (w : Word) : List Byte :=
  [w.extractLsb' 0 8, w.extractLsb' 8 8, w.extractLsb' 16 8, w.extractLsb' 24 8]

/-- What the decoder reads from bytes in memory order: one word of four bytes. -/
def decodeBytes : List Byte → Option Instr
  | b0 :: b1 :: b2 :: b3 :: _ => decode (wordOfBytes b0 b1 b2 b3)
  | _ => none

/-- The instruction whose bits, numbered as the opcode table numbers them, are w: every instruction is one 32-bit word
(R45), so nbits at most 32 give its low bits and the rest are 0. -/
def decodeTableWord (nbits w : Nat) : Option Instr :=
  decodeBytes (wordBytes (BitVec.ofNat 32 (w % 2 ^ min nbits 32)))

/-- The word of an instruction, from the same encoding tables; a step of the hardware has none. -/
def encode : Instr → Option Word
  | .nop f => some (f.word 0x000#9)
  | .mode f => some (f.word 0x001#9)
  | .modex f => some (f.word 0x002#9)
  | .bra f => some (f.word 0x003#9)
  | .brx f => some (f.word 0x004#9)
  | .call f => some (f.word 0x005#9)
  | .callx f => some (f.word 0x006#9)
  | .ret f => some (f.word 0x007#9)
  | .ldc f => some (f.word 0x008#9)
  | .trap f => some (f.word 0x009#9)
  | .exit f => some (f.word 0x010#9)
  | .yield f => some (f.word 0x011#9)
  | .sleep f => some (f.word 0x012#9)
  | .regang f => some (f.word 0x013#9)
  | .syncc f => some (f.word 0x014#9)
  | .rolesw f => some (f.word 0x015#9)
  | .launch f => some (f.word 0x016#9)
  | .launchRelease f => some (f.word 0x017#9)
  | .sreg f => some (f.word 0x018#9)
  | .swreg f => some (f.word 0x019#9)
  | .add f => some (f.word 0x030#9)
  | .addi f => some (f.word 0x031#9)
  | .sub f => some (f.word 0x032#9)
  | .addc f => some (f.word 0x033#9)
  | .subc f => some (f.word 0x034#9)
  | .mul f => some (f.word 0x035#9)
  | .mulhi f => some (f.word 0x036#9)
  | .mad f => some (f.word 0x037#9)
  | .min f => some (f.word 0x038#9)
  | .max f => some (f.word 0x039#9)
  | .abs f => some (f.word 0x03a#9)
  | .neg f => some (f.word 0x03b#9)
  | .and f => some (f.word 0x03c#9)
  | .or f => some (f.word 0x03d#9)
  | .xor f => some (f.word 0x03e#9)
  | .not f => some (f.word 0x03f#9)
  | .andi f => some (f.word 0x040#9)
  | .ori f => some (f.word 0x041#9)
  | .shl f => some (f.word 0x042#9)
  | .shr f => some (f.word 0x043#9)
  | .sar f => some (f.word 0x044#9)
  | .shli f => some (f.word 0x045#9)
  | .shri f => some (f.word 0x046#9)
  | .sari f => some (f.word 0x047#9)
  | .rot f => some (f.word 0x048#9)
  | .bfx f => some (f.word 0x049#9)
  | .bfi f => some (f.word 0x04a#9)
  | .clz f => some (f.word 0x04b#9)
  | .popc f => some (f.word 0x04c#9)
  | .mov f => some (f.word 0x04d#9)
  | .movi f => some (f.word 0x04e#9)
  | .lea f => some (f.word 0x04f#9)
  | .cmpEq f => some (f.word 0x050#9)
  | .cmpNe f => some (f.word 0x051#9)
  | .cmpLt f => some (f.word 0x052#9)
  | .cmpLe f => some (f.word 0x053#9)
  | .cmpGt f => some (f.word 0x054#9)
  | .cmpGe f => some (f.word 0x055#9)
  | .cmpiEq f => some (f.word 0x056#9)
  | .cmpiNe f => some (f.word 0x057#9)
  | .cmpiLt f => some (f.word 0x058#9)
  | .cmpiLe f => some (f.word 0x059#9)
  | .cmpiGt f => some (f.word 0x05a#9)
  | .cmpiGe f => some (f.word 0x05b#9)
  | .selP1 f => some (f.word 0x05c#9)
  | .selP2 f => some (f.word 0x05d#9)
  | .selP3 f => some (f.word 0x05e#9)
  | .selP4 f => some (f.word 0x05f#9)
  | .selP5 f => some (f.word 0x060#9)
  | .selP6 f => some (f.word 0x061#9)
  | .selP7 f => some (f.word 0x062#9)
  | .pand f => some (f.word 0x090#9)
  | .por f => some (f.word 0x091#9)
  | .pxor f => some (f.word 0x092#9)
  | .pnot f => some (f.word 0x093#9)
  | .pset f => some (f.word 0x094#9)
  | .pget f => some (f.word 0x095#9)
  | .shflIdx f => some (f.word 0x098#9)
  | .shflUp f => some (f.word 0x099#9)
  | .shflDown f => some (f.word 0x09a#9)
  | .shflXor f => some (f.word 0x09b#9)
  | .bcast f => some (f.word 0x09c#9)
  | .voteAny f => some (f.word 0x0a0#9)
  | .voteAll f => some (f.word 0x0a1#9)
  | .voteBallot f => some (f.word 0x0a2#9)
  | .voteAdd f => some (f.word 0x0a3#9)
  | .voteFadd f => some (f.word 0x0a4#9)
  | .fadd f => some (f.word 0x0c0#9)
  | .fsub f => some (f.word 0x0c1#9)
  | .fmul f => some (f.word 0x0c2#9)
  | .fma f => some (f.word 0x0c3#9)
  | .fmin f => some (f.word 0x0c4#9)
  | .fmax f => some (f.word 0x0c5#9)
  | .fabs f => some (f.word 0x0c6#9)
  | .fneg f => some (f.word 0x0c7#9)
  | .fcmpEq f => some (f.word 0x0c8#9)
  | .fcmpNe f => some (f.word 0x0c9#9)
  | .fcmpLt f => some (f.word 0x0ca#9)
  | .fcmpLe f => some (f.word 0x0cb#9)
  | .fcmpGt f => some (f.word 0x0cc#9)
  | .fcmpGe f => some (f.word 0x0cd#9)
  | .fcmpUn f => some (f.word 0x0ce#9)
  | .fclass f => some (f.word 0x0cf#9)
  | .frcp f => some (f.word 0x0d0#9)
  | .frsq f => some (f.word 0x0d1#9)
  | .fsqrt f => some (f.word 0x0d2#9)
  | .fexp2 f => some (f.word 0x0d3#9)
  | .flog2 f => some (f.word 0x0d4#9)
  | .ftanh f => some (f.word 0x0d5#9)
  | .frnd f => some (f.word 0x0d6#9)
  | .fdot2 f => some (f.word 0x0d7#9)
  | .fcvtF32 f => some (f.word 0x0d8#9)
  | .fcvtF16x2 f => some (f.word 0x0d9#9)
  | .fcvtBf16x2 f => some (f.word 0x0da#9)
  | .fcvtE4m3x4 f => some (f.word 0x0db#9)
  | .fcvtE5m2x4 f => some (f.word 0x0dc#9)
  | .icvtSf f => some (f.word 0x0dd#9)
  | .icvtUf f => some (f.word 0x0de#9)
  | .icvtFs f => some (f.word 0x0df#9)
  | .icvtFu f => some (f.word 0x0e0#9)
  | .fscal f => some (f.word 0x0e1#9)
  | .ldU8 f => some (f.word 0x120#9)
  | .ldS8 f => some (f.word 0x121#9)
  | .ldU16 f => some (f.word 0x122#9)
  | .ldS16 f => some (f.word 0x123#9)
  | .ldB32 f => some (f.word 0x124#9)
  | .ldB64 f => some (f.word 0x125#9)
  | .ldB128 f => some (f.word 0x126#9)
  | .stB8 f => some (f.word 0x127#9)
  | .stB16 f => some (f.word 0x128#9)
  | .stB32 f => some (f.word 0x129#9)
  | .stB64 f => some (f.word 0x12a#9)
  | .stB128 f => some (f.word 0x12b#9)
  | .ldtU8 f => some (f.word 0x12c#9)
  | .ldtS8 f => some (f.word 0x12d#9)
  | .ldtU16 f => some (f.word 0x12e#9)
  | .ldtS16 f => some (f.word 0x12f#9)
  | .ldtB32 f => some (f.word 0x130#9)
  | .ldtB64 f => some (f.word 0x131#9)
  | .ldtB128 f => some (f.word 0x132#9)
  | .sttB8 f => some (f.word 0x133#9)
  | .sttB16 f => some (f.word 0x134#9)
  | .sttB32 f => some (f.word 0x135#9)
  | .sttB64 f => some (f.word 0x136#9)
  | .sttB128 f => some (f.word 0x137#9)
  | .tallocTm f => some (f.word 0x138#9)
  | .tallocTmz f => some (f.word 0x139#9)
  | .tallocOs f => some (f.word 0x13a#9)
  | .tallocOsz f => some (f.word 0x13b#9)
  | .tfree f => some (f.word 0x13c#9)
  | .tquery f => some (f.word 0x13d#9)
  | .atomAdd f => some (f.word 0x140#9)
  | .atomMin f => some (f.word 0x141#9)
  | .atomMax f => some (f.word 0x142#9)
  | .atomAnd f => some (f.word 0x143#9)
  | .atomOr f => some (f.word 0x144#9)
  | .atomXor f => some (f.word 0x145#9)
  | .atomExch f => some (f.word 0x146#9)
  | .atomcas f => some (f.word 0x147#9)
  | .tatomAdd f => some (f.word 0x148#9)
  | .tatomMin f => some (f.word 0x149#9)
  | .tatomMax f => some (f.word 0x14a#9)
  | .tatomAnd f => some (f.word 0x14b#9)
  | .tatomOr f => some (f.word 0x14c#9)
  | .tatomXor f => some (f.word 0x14d#9)
  | .tatomExch f => some (f.word 0x14e#9)
  | .tatomCas f => some (f.word 0x14f#9)
  | .redAdd f => some (f.word 0x150#9)
  | .redMin f => some (f.word 0x151#9)
  | .redMax f => some (f.word 0x152#9)
  | .redAnd f => some (f.word 0x153#9)
  | .redOr f => some (f.word 0x154#9)
  | .redXor f => some (f.word 0x155#9)
  | .redfAdd f => some (f.word 0x156#9)
  | .redfMin f => some (f.word 0x157#9)
  | .redfMax f => some (f.word 0x158#9)
  | .reds f => some (f.word 0x159#9)
  | .waitaEq f => some (f.word 0x15a#9)
  | .waitaNe f => some (f.word 0x15b#9)
  | .waitaGe f => some (f.word 0x15c#9)
  | .waitaLt f => some (f.word 0x15d#9)
  | .fence f => some (f.word 0x15e#9)
  | .pref f => some (f.word 0x15f#9)
  | .cctlInv f => some (f.word 0x160#9)
  | .cctlClean f => some (f.word 0x161#9)
  | .cctlFlush f => some (f.word 0x162#9)
  | .tkwait f => some (f.word 0x170#9)
  | .tkwaitMask f => some (f.word 0x170#9 ||| 2#32)
  | .tkany f => some (f.word 0x171#9)
  | .tktest f => some (f.word 0x172#9)
  | .tkfree f => some (f.word 0x173#9)
  | .tkfreeMask f => some (f.word 0x173#9 ||| 2#32)
  | .tkexpBar f => some (f.word 0x174#9)
  | .tkexpTask f => some (f.word 0x175#9)
  | .binit f => some (f.word 0x178#9)
  | .bbind f => some (f.word 0x179#9)
  | .barr f => some (f.word 0x17a#9)
  | .barrd f => some (f.word 0x17b#9)
  | .bexp f => some (f.word 0x17c#9)
  | .bwait f => some (f.word 0x17d#9)
  | .btest f => some (f.word 0x17e#9)
  | .bcont f => some (f.word 0x17f#9)
  | .taskd f => some (f.word 0x180#9)
  | .cpy f => some (f.word 0x188#9)
  | .cpyt f => some (f.word 0x189#9)
  | .cpyg f => some (f.word 0x18a#9)
  | .cpyw f => some (f.word 0x18b#9)
  | .cpys f => some (f.word 0x18c#9)
  | .cpyx f => some (f.word 0x18d#9)
  | .seal f => some (f.word 0x18e#9)
  | .waitb f => some (f.word 0x18f#9)
  | .mma f => some (f.word 0x1b0#9)
  | .mmao f => some (f.word 0x1b1#9)
  | .mzero f => some (f.word 0x1b2#9)
  | .mscal f => some (f.word 0x1b3#9)
  | .mcvt f => some (f.word 0x1b4#9)
  | .mload f => some (f.word 0x1b5#9)
  | .mseq f => some (f.word 0x1b6#9)
  | .mseqq f => some (f.word 0x1b7#9)
  | .macq f => some (f.word 0x1b8#9)
  | .mrel f => some (f.word 0x1b9#9)
  | .coll f => some (f.word 0x1c0#9)
  | .collq f => some (f.word 0x1c1#9)
  | .trace f => some (f.word 0x1e8#9)
  | .eret f => some (f.word 0x1d0#9)
  | .mappg f => some (f.word 0x1d1#9)
  | .unmappg f => some (f.word 0x1d2#9)
  | .tlbinv f => some (f.word 0x1d3#9)
  | .srd f => some (f.word 0x1d4#9)
  | .swr f => some (f.word 0x1d5#9)
  | .syscall f => some (f.word 0x1d6#9)
  | .fltinfo f => some (f.word 0x1d7#9)
  | .fstat f => some (f.word 0x1d8#9)
  | .fclr f => some (f.word 0x1d9#9)
  | .tickq f => some (f.word 0x1da#9)
  | .msgs f => some (f.word 0x1db#9)
  | .msgr f => some (f.word 0x1dc#9)
  | .ctenr f => some (f.word 0x1e0#9)
  | .ctleaf f => some (f.word 0x1e1#9)
  | .ctread f => some (f.word 0x1e2#9)
  | .ctcmp f => some (f.word 0x1e3#9)
  | .ctset f => some (f.word 0x1e4#9)
  | .ctmove f => some (f.word 0x1e5#9)
  | .ctdrop f => some (f.word 0x1e6#9)
  | .tileClearDone => none
  | .waitaMonitorWake => none
  | .waitaPoll => none
  | .tokenWaitWake => none
  | .deferredArrival => none
  | .barrierWaitWake => none
  | .barrierUpdate => none
  | .taskDepcountDecrement => none
  | .copyStart => none
  | .copyComplete => none
  | .batchWaitWake => none
  | .matrixOpStart => none
  | .matrixOpComplete => none
  | .furlongStep => none
  | .collStart => none
  | .collStep => none
  | .collChunkReceive => none
  | .collComplete => none
  | .collTimeout => none
  | .treeOpComplete => none
  | .ctDeltaFlush => none
  | .ctRollup => none
  | .crewRetire => none
  | .sleepExpiry => none
  | .regangComplete => none
  | .synccComplete => none
  | .crewDeadlock => none
  | .roleswGrant => none
  | .gangAged => none
  | .bindRound => none
  | .coreSlotin => none
  | .dispatchBlock => none
  | .launchNodeRetire => none
  | .zeroBlockNode => none
  | .linkCall => none
  | .reductionContribution => none
  | .reductionRetry => none
  | .reorderTimeout => none
  | .xdieRequest => none
  | .xdieRetry => none
  | .reservationRelease => none
  | .xdieTimeout => none
  | .peerTimeout => none
  | .bridgePacket => none
  | .bridgeReplay => none
  | .bridgeRetrain => none
  | .bridgeDown => none
  | .portFailure => none
  | .peerRequest => none
  | .tagExpiry => none
  | .grant => none
  | .recall => none
  | .acknowledgement => none
  | .faultTicket => none
  | .replayNotice => none
  | .reductionMessage => none
  | .softwareMessage => none
  | .exportMiss => none
  | .collectiveReady => none
  | .badMessage => none
  | .messageResend => none
  | .missLogRetry => none
  | .exportInvalidate => none
  | .exportServiced => none
  | .hostRequest => none
  | .drainRequest => none
  | .drainEnd => none
  | .drainLimit => none
  | .forcedSaveWrite => none
  | .contextRestore => none
  | .scrubRead => none
  | .scrubWriteback => none
  | .powerGrant => none
  | .ptpMessage => none
  | .ppsInput => none
  | .trcRidx => none
  | .loadGeneratedKey => none
  | .loadWrappedKey => none
  | .unload => none
  | .attestationRequest => none
  | .boot => none
  | .debugHalt => none
  | .registerWrite => none
  | .illegalInstructionWord => none
  | .fetchFault => none
  | .requestResponse => none
  | .bridgeRetrained => none
  | .debugResume => none
  | .powerLoss => none
  | .wearEstimate => none

end Sys2Proof
end

