-- ==== Sys2Proof/Machine/Causes.lean ====
section
/-! DEFINITION. The trap causes of R58: codes, priorities, and which of several an instruction raises. -/

namespace Sys2Proof

/-- A cause's code in R58. -/
def Cause.code : Cause → Nat
  | .illegal => 0x01 | .stallshort => 0x02 | .regerr => 0x03 | .nonuniform => 0x04 | .team => 0x05 | .allot => 0x06
  | .spill => 0x07 | .tilehandle => 0x08 | .tilebound => 0x09 | .misalign => 0x0A | .pagefault => 0x0B
  | .protect => 0x0C | .revoked => 0x0D | .dataerr => 0x0E | .brk => 0x0F | .syscall => 0x10 | .monitor => 0x11

/-- A cause's priority in R58, 1 highest. -/
def Cause.priority : Cause → Nat
  | .illegal => 1 | .stallshort => 2 | .regerr => 3 | .nonuniform => 4 | .team => 5 | .allot => 5 | .spill => 5
  | .tilehandle => 6 | .tilebound => 7 | .misalign => 7 | .pagefault => 8 | .protect => 8 | .revoked => 8
  | .dataerr => 9 | .brk => 10 | .syscall => 10 | .monitor => 11

/-- A cause ranks before another: higher priority, or equal and the lower code (R58). -/
def Cause.before (a b : Cause) : Bool :=
  decide (a.priority < b.priority) || (a.priority == b.priority && decide (a.code < b.code))

/-- The cause an instruction raises out of those its lanes hold (R58, R179). -/
def worst : List Cause → Option Cause
  | [] => none
  | c :: r => match worst r with
    | none => some c
    | some d => some (if d.before c then d else c)

end Sys2Proof
end

