-- ==== Sys2Proof/Config.lean ====
section
/-! DEFINITION. What the spec leaves to the implementation, and the free values: constants without a body, so that no
proof can see what they are. -/

namespace Sys2Proof.Config

/-- FREE VALUE (log entry 1). `free n k` is the k-th open choice or open value met at the step whose counter
`State.fresh` is n. Nothing constrains it. It stands for every value the spec leaves open: the old or new value of a
register read short (R56), an engine read of an unfenced tile word (R221), a load-cache hit (R215), the entry of an
unequal run (R170), a cached or fresh translation (R328), a register newly exposed by a slide (R34), the next step of
several that may come (R223). -/
opaque free : Nat → Nat → Nat

/-- FREE VALUE (log entry 14). The correctly rounded result of a transcendental whose enclosure at the working
precision still meets a rounding boundary. -/
opaque freeFunc : Nat → Nat → Nat

/-- FREE VALUE (log entry 120). The watts of a sum of current grants in units of 10 mA (R448, R449): the spec gives no voltage. -/
opaque watts (current : Nat) : Nat

/-- FREE VALUE (log entry 17). The enciphering of a 16-byte block under a key, at the place that the block's number gives
(R171): a permutation of the blocks, of which nothing else is known. The keys of R445 never leave the root-of-trust core. -/
opaque cipher (key block : Nat) : Equiv.Perm (BitVec 128)

/-- IMPLEMENTATION (log entry 15). The signature that the device identity key gives with an index: the key is derived from a
fused seed that never leaves the package (R444). -/
opaque signature : Nat → List Byte → List Byte

/-- IMPLEMENTATION (log entry 114). The hash by which a request towards a device takes a port, of the device and the page
(R365). -/
opaque portHash : Nat → Nat → Nat

/-- IMPLEMENTATION (log entry 114). The lanes that one message of a reduction contribution holds, from 1 to 24 (R378). -/
opaque partLanes : Fin 24

/-- IMPLEMENTATION (log entry 15). The device serial (R444). -/
opaque serial : List Byte

end Sys2Proof.Config
end

