-- ==== Sys2Proof/Machine/State.lean ====
section
/-! DEFINITION. The state of the package: everything the spec gives the machine, as plain data, and the state right
after reset. Sizes and reset values are the spec's; where it gives none, the docstring names the log entry. -/

namespace Sys2Proof.Machine

/-- Why a run stops. -/
inductive Fault where
  /-- A row is executed outside its step: a word while `State.cur` names no resident crew, or a row without a word
  while `State.ev` holds no occurrence of it. `exec` raises it; no step does so. Safe: the hardware has no such case. -/
  | noGang
  /-- The device is held until reset (level 3 of R345, the bridge down in R357, a boot step failed in R442): `step`
  raises it. Safe: nothing runs on the hardware either. -/
  | deviceHeld
  /-- A barrier instruction or a barrier update meets an object that another write has changed while it was valid
  (R239: undefined), or a continuation list so changed (R253). Safe: the spec gives no effect. -/
  | barrierUndefined
  /-- A tree instruction or roll-up meets a node object that another write has changed while it was valid (R391:
  undefined). Safe: the spec gives no effect. -/
  | treeUndefined
  /-- Binding or dispatch reads a linked node whose bits outside [959:256] software has written (R138: undefined).
  Safe: the spec gives no effect. -/
  | nodeUndefined
  deriving DecidableEq, Repr

/-- Why an instruction has no meaning. -/
inductive Refusal where
  /-- An arm of `exec` not written yet. Raised by `exec` alone. Safe. -/
  | notModelled (mnemonic : String)
  deriving DecidableEq, Repr

/-! ### Lanes, slices and crews -/

/-- One lane: its logical register stack, an unlisted register 0 (R34, R118), its predicates (R38), and the logical
registers whose parity is in error (R37). -/
structure Lane where
  regs : Table Word
  preds : BitVec 8
  bad : List Nat
  deriving DecidableEq, Repr

/-- A return link: the return address and the slide (R94). -/
structure Link where
  pc : Dword
  slide : Nat
  deriving DecidableEq, Repr

/-- A fixed-latency result that the distance of R53 does not cover yet: the register (logical) or predicate, the
distance still missing, the lanes of the slice that it wrote and no younger write has replaced, and what the four lanes
held before (R55, R56). -/
structure Short where
  pred : Bool
  idx : Nat
  left : Nat
  lanes : BitVec 4
  old : List Word
  deriving DecidableEq, Repr

/-- A sealed batch (R279): its number, its copies not yet completed, and whether one completed poisoned. -/
structure BatchRec where
  num : Word
  copies : List Nat
  poisoned : Bool
  deriving DecidableEq, Repr

/-- A slice's batch state (R279). -/
structure Batches where
  last : Word
  opened : List Nat
  openPoison : Bool
  recs : List BatchRec
  deriving DecidableEq, Repr

/-- The place a checked access reaches: the memory key of its first byte and the key ID of its leaf (R171). -/
structure Loc where
  pa : Nat
  key : Nat
  deriving DecidableEq, Repr

/-- A WAITA in progress (R198, R199): the word, its width and comparison, where the result goes, and whether a monitor
is armed on its line, or CORE_WAITPOLL has counted it (R201). -/
structure WaitA where
  loc : Loc
  n : Nat
  signed : Bool
  cond : Cond
  cmp : Dword
  d : Nat
  armed : Bool
  polled : Bool
  act : BitVec 32
  scope : Scope
  va : Dword
  deriving DecidableEq, Repr

/-- What a slice waits for (R124 to R127, R143, R199, R234, R251, R281, an answer from a peer, and a peer
barrier's answer). -/
inductive Wait where
  | none
  | regang (mask : BitVec 8)
  | sync
  | sleep (wake : Nat)
  | rolesw
  | tokens (mask : Word) (any : Bool) (d : Nat) (act : BitVec 32)
  | batch (upto : Word) (act : BitVec 32)
  | barrier (pa : Nat) (n : Word) (act : BitVec 32)
  | waita (w : WaitA)
  | peer (pend : Nat)
  | peerBar
  deriving DecidableEq, Repr

/-- One slice (R33, R116). `gang` numbers its gang within the crew; `readyAt` is the clock before which R53 lets it not
issue; `since`, `lastIssue` and `aged` serve the order of R156; `stepped` tells that a single step or a watch point has fired
on the instruction that it issued last (R58, R441). -/
structure Slice where
  live : BitVec 4
  exited : Bool
  gang : Nat
  pc : Dword
  mode : BitVec 13
  links : List Link
  wait : Wait
  readyAt : Nat
  since : Nat
  lastIssue : Nat
  aged : Bool
  shorts : List Short
  batch : Batches
  stepped : Bool
  deriving DecidableEq, Repr

/-- An export attached to a token (R236): a barrier object or a task node, by physical address. -/
inductive Export where
  | bar (pa : Nat) (va : Dword)
  | task (pa : Nat)
  deriving DecidableEq, Repr

/-- The states of a token (R228); a pending one is owned by an operation. -/
inductive TokState where
  | free
  | pending (op : Nat)
  | done
  | poisoned
  deriving DecidableEq, Repr

/-- One token with its unfired exports (R236), and the destination bytes of the operation that completed it (R237). -/
structure Token where
  st : TokState
  bytes : Nat
  exports : List Export
  deriving DecidableEq, Repr

/-- The trap record of R317 and R324. -/
structure TrapRec where
  cause : Nat
  mask : BitVec 32
  code : BitVec 13
  pc : Dword
  addrs : Table Dword
  writes : BitVec 32
  deriving DecidableEq, Repr

/-- What trap entry saves (R317): the gang's slices and their PCs, modes and link-stack depths, the lanes' predicates,
and the window depth; and the clock at which the trap was taken (R319). -/
structure Saved where
  slices : List Nat
  pcs : List Dword
  modes : List (BitVec 13)
  preds : List (BitVec 8)
  depth : Nat
  links : List Nat
  clk : Nat
  deriving DecidableEq, Repr

/-- One entry of the engine fault record (R324, R325). -/
structure EfrEntry where
  cause : Nat
  token : Nat
  tile : Bool
  step : Nat
  addr : Dword
  deriving DecidableEq, Repr

/-- An unperformed deferred arrival (R250): barrier, bytes, the batches covered per slice, the copies not yet
completed, and the step that issued it. -/
structure Deferred where
  pa : Nat
  va : Dword
  bytes : Word
  covers : List (Nat × Word)
  copies : List Nat
  born : Nat
  deriving DecidableEq, Repr

/-- A role switch that waits for the crew's results to land, or for its grant (R142, R143), and the clock of its issue. -/
structure RoleReq where
  allot : Nat
  prio : Nat
  entry : Dword
  clk : Nat
  deriving DecidableEq, Repr

/-- A crew's fabric status (R379). -/
structure FabStat where
  count : Nat
  rfail : Bool
  cause : Nat
  dev : Nat
  deriving DecidableEq, Repr

/-- One crew (R33, R116). `nsl` is its slice count; `team` its team size, 0 for none; `macros` holds, by token,
what the macro or collective that completed it reports from then on (R316, R430); `poisonAt` is the clock at which
hardware last set `poison` (R134), `rtimeoutAt` that at which it last set `rtimeout` (R379); `spillSegs` holds the places and lengths of its spill area while something is spilled,
and `spillLost` tells that another agent has written there (R36); `nested` holds what the traps beneath the one being handled
saved, innermost first (R320); `claimed` marks a crew that BCONT has ended and whose
allotment stays claimed (R254). -/
structure Crew where
  block : Nat
  core : Nat
  crewIx : Nat
  nsl : Nat
  team : Nat
  depth : Nat
  allot : Nat
  prio : Nat
  toks : Vector Token 32
  macros : Table (Bool × Nat × Nat)
  poison : Bool
  poisonAt : Nat
  rtimeout : Bool
  rtimeoutAt : Nat
  ucheck : Bool
  stcheck : Bool
  spillBase : Dword
  spillSize : Nat
  spillSegs : List (Loc × Nat)
  spillLost : Bool
  sup : Option Saved
  nested : List Saved
  trap : TrapRec
  efr : List EfrEntry
  efrLost : Bool
  fab : FabStat
  deferred : List Deferred
  role : Option RoleReq
  claimed : Bool
  lanes : Vector Lane 32
  slices : Vector Slice 8
  deriving DecidableEq, Repr

/-! ### Blocks, nodes and contexts -/

/-- A tile word whose last write the cross-path fence has not ordered (R204, R221): who wrote it, the value before, the step
that wrote it, whether its slice has published it by a release or an arrival, and the slices for which it is then
ordered (R212, R217, R220). -/
structure Shadow where
  crew : Nat
  slice : Nat
  word : Nat
  old : Word
  born : Nat
  published : Bool
  known : List (Nat × Nat)
  deriving DecidableEq, Repr

/-- One tile (R158, R159, R167): level, layout, shape, bytes by storage offset (unlisted 0), marked words, whether
TFREE has issued (R162), and its unfenced writes. -/
structure Tile where
  uid : Nat
  os : Bool
  morton : Bool
  rows : Nat
  rowBytes : Nat
  data : Table Byte
  marks : List Nat
  freeing : Bool
  shadows : List Shadow
  deriving DecidableEq, Repr

/-- A tile of a retired block that an engine operation still names (R267), on the core whose storage it holds. -/
structure Orphan where
  core : Nat
  tile : Tile
  deriving DecidableEq, Repr

/-- One resident block (R116, R143, R158). `node` is its launch or task node; `stopped` marks a block ended by a fault
(R321); `out` one held in the Hogshead (R340). -/
structure Block where
  node : Nat
  ctx : Nat
  core : Nat
  index : Nat
  cluster : Nat
  rank : Nat
  clsize : Nat
  crews : Nat
  slices : Nat
  regs : Nat
  tmquota : Nat
  osquota : Nat
  effs : List Nat
  tiles : Table Tile
  stopped : Bool
  out : Bool
  deriving DecidableEq, Repr

/-- A linked node (R135 to R140), keyed by the physical address of its RCB: the values that last passed the checks, its
place (`order` by linking, `pred` the launch node of its queue linked before it, 0 for none), the values in force for the
blocks bound so far (each with the block index it ends before, the node's own bits and the effective values of R136, R138), its progress, its code as it stood when the launch began (R96), whether its crews start poisoned (R238), and the LAUNCH operation that waits for it. -/
structure Node where
  va : Dword
  ctx : Nat
  kind : Nat
  parent : Nat
  depth : Nat
  order : Nat
  pred : Nat
  status : Nat
  kept : List Byte
  binds : List (Nat × List Byte × List Nat)
  bound : Nat
  created : Nat
  retired : Nat
  ready : Bool
  released : Bool
  faulted : Bool
  dpoison : Bool
  code : Table Byte
  launchOp : Option Nat
  deriving DecidableEq, Repr

/-- A context (R337): what the partition monitor loads when the context's blocks are placed on a core. -/
structure Ctx where
  info : CtxInfo
  stopped : Bool
  deriving DecidableEq, Repr

/-- An entry of a queue table (R144): the queue's number and device, its node, the step and the clock of its last bind
round, and whether its monitor has woken the firmware since (R147, R148). -/
structure QueueEnt where
  num : Nat
  die : Nat
  node : Nat
  turn : Nat
  lastAt : Nat
  woken : Bool
  deriving DecidableEq, Repr

/-- A record of a slot table (R150): its bits, and the blocks of it already created. -/
structure SlotRec where
  bits : BitVec 256
  made : Nat
  deriving DecidableEq, Repr

/-- A cached translation (R327): the page's base and size, its leaf entry, and the level. -/
structure TlbEntry where
  base : Nat
  size : Nat
  level : Nat
  leaf : Dword
  deriving DecidableEq, Repr

/-- A line of a load cache (R168): the key ID it was read under (R171) and its 128 bytes. -/
structure CacheLine where
  key : Nat
  bytes : List Byte
  deriving DecidableEq, Repr

/-- Bytes of peer memory held in a load cache (R168, R353): by the peer address of their first byte, the bytes that loads have
read. A load that was issued before request number `since` adds none, unless its instruction, made at step `by_`, has added
some since. -/
structure PeerCopies where
  held : Table (List Byte)
  since : Nat
  by_ : Nat
  deriving DecidableEq, Repr

/-- One core's registers and structures (R165, R168, R201, R151, R152, R289, R337, R338). `olds` holds, by word address, the values that
writes have replaced and that an engine of the core may still read (R215), each with its key ID. -/
structure Core where
  check : Bool
  tmkey : BitVec 12
  mown : Bool
  owner : Option Nat
  ownq : List Nat
  waitivl : BitVec 16
  waitpoll : Word
  bad : Bool
  ovf : Bool
  slots : List SlotRec
  head : Nat
  slotin : List Dword
  tvec : Dword
  ptroot : Nat
  fpool : Nat
  fpoolv : Dword
  ctx : Option Nat
  draining : Bool
  saving : Bool
  saved : Bool
  limit : Option Nat
  drainSet : List Nat
  monitors : List (Nat × Nat)
  lcache : Table CacheLine
  peers : PeerCopies
  olds : Table (List (Nat × Word))
  tlb : List TlbEntry
  grant : BitVec 16
  stretch : Bool
  deriving DecidableEq, Repr

/-- The fields of a barrier object (R239). -/
structure BarObj where
  phase : Word
  expected : Nat
  parr : Nat
  pbytes : Word
  valid : Bool
  cpoison : Bool
  lpoison : Bool
  scope : Nat
  nbound : Nat
  regions : Dword
  conthead : Dword
  deriving DecidableEq, Repr

/-- A registered continuation (R253 to R255): its phase, entry and arguments, the memory key of its record, what the
crew it spawns has from the crew that issued BCONT, the step that registered it, and the request that stands for it at a peer's barrier
(R455), 0 for none. -/
structure Cont where
  phase : Word
  entry : Dword
  args : List Word
  rec_ : Nat
  recVa : Dword
  block : Nat
  core : Nat
  crewIx : Nat
  allot : Nat
  prio : Nat
  spillBase : Dword
  spillSize : Nat
  born : Nat
  tag : Nat
  deriving DecidableEq, Repr

/-- A wait or continuation of a peer device that a barrier's level holds (R455): who asked, its tag, the phase, and of a
continuation its record, with the step that registered it. -/
structure Remote where
  dev : Nat
  part : Nat
  tag : Nat
  n : Word
  rec_ : Option Dword
  born : Nat
  deriving DecidableEq, Repr

/-- What the level of a barrier holds beside the object (R241, R242): the place of the slice that executed BINIT, the
region table's physical address, its continuations, and the object when a core caches it. -/
structure Bar where
  core : Nat
  block : Nat
  cluster : Nat
  ctx : Nat
  regionsPa : Nat
  conts : List Cont
  remotes : List Remote
  cached : Option BarObj
  deriving DecidableEq, Repr

/-! ### Engine operations -/

/-- Recorded preconditions (R231): the owners that have not completed, and whether a recorded state or completion is
poisoned. -/
structure Pre where
  owners : List Nat
  poisoned : Bool
  deriving DecidableEq, Repr

/-- The copy variants (R259). -/
inductive CopyKind where
  | cpy | cpyt | cpyg | cpyw | cpys | cpyx
  deriving DecidableEq, Repr

/-- A tile bound at issue (R260): the block that owns it and the tile's identity, or none when it was not live. -/
structure Bound where
  block : Nat
  handle : Nat
  uid : Option Nat
  deriving DecidableEq, Repr

/-- A request of a copy to a peer (R274): whether it writes, and the ranges of destination bytes (first, length) that it is for. -/
structure CopyAsk where
  write : Bool
  parts : List (Nat × Nat)
  deriving DecidableEq, Repr

/-- A copy (R260, R261): its group, its bound tiles, the words it may still read old (R221),
and its progress: `todo` the ranges of destination bytes (first, length) whose sources it has not read, `held` the words it has
read and not written, by destination byte, and whether they are poisoned, `idxs` the index words read (R269), `asks` the peer
requests it waits for, `marking` that it only marks what it has not written, `peers` the marks to be written in peer memory, `lines`
the 128-byte lines it has written, `fail` why it failed. -/
structure CopyOp where
  kind : CopyKind
  g : List Word
  src : Bound
  dst : Bound
  idx : Bound
  shadows : List (Nat × Nat × Word)
  started : Bool
  todo : List (Nat × Nat)
  held : Table (Word × Bool)
  idxs : Table (Word × Bool)
  asks : Table CopyAsk
  marking : Bool
  peers : List (Dword × Nat × Nat)
  lines : List Nat
  finished : Bool
  poisoned : Bool
  fail : Option EfrEntry
  deriving DecidableEq, Repr

/-- One member's issue of a matrix operation (R292, R293): crew, token, group words, preconditions, the lanes' A
registers, and the bound A tile and W target. -/
structure Member where
  crew : Nat
  token : Nat
  g : List Word
  pre : Pre
  regsA : List (List Word)
  aTile : Bound
  wTile : Bound
  deriving DecidableEq, Repr

/-- The matrix and accumulator operations (R285). -/
inductive MatKind where
  | mma | mmao | mzero | mscal | mcvt | mload
  deriving DecidableEq, Repr

/-- A part of a tile word that a matrix operation has still to write: the tile and its handle word, the first byte, the
element size, the bytes, and whether the word is poison. -/
structure MatOut where
  dst : Bound
  h : Word
  off : Nat
  size : Nat
  bs : List Byte
  bad : Bool
  deriving DecidableEq, Repr

/-- A matrix operation (R286, R292): how many members it needs, their issues, the tiles bound, the format block once it
is read (R296), the outlier list (R300), the words of unfenced tile writes it may still read old (R221), the first k-step of
the promotion interval it is in (R307; until that is past 0, Z and S have not been applied, R308), the global bytes it has
fetched for what it does next, by virtual address, with their marks, the tile words it has still to write, the peer request
it waits for, whether it runs, whether its outcome is already known, whether an element is marked, and why it failed. -/
structure MatOp where
  kind : MatKind
  need : Nat
  members : List Member
  acc : Bound
  bTile : Bound
  fmt : Option (List Byte)
  list : List Byte
  shadows : List (Nat × Nat × Word)
  step : Nat
  got : Table (Byte × Bool)
  outs : List MatOut
  wait : Option Nat
  started : Bool
  ended : Bool
  poisoned : Bool
  fail : Option EfrEntry
  deriving DecidableEq, Repr

/-- A Furlong macro-operation (R310 to R315): members; the parameter block and format block as read; the accumulator tile
that its last step named; the actions issued and done, 4c and 4c + 1 for the two copies
of L(c), 4c + 2 for M(c), 3 for E1 and 7 for E2; the action that failed and why; whether a step was poisoned; whether it
has ended and only marks, with the marks to be written in peer memory; the global bytes it has fetched for what it does next;
and the words of unfenced tile writes its steps may read old (R221). -/
structure FurlongOp where
  need : Nat
  members : List Member
  shadows : List (Nat × Nat × Word)
  pb : Option (List Byte)
  fb : List Byte
  acc : Option Bound
  started : Bool
  doneSteps : List Nat
  issued : List Nat
  failed : Option (Nat × EfrEntry)
  poisoned : Bool
  over_ : Bool
  marking : Bool
  peers : List (Dword × Nat × Nat)
  got : Table (Byte × Bool)
  wait : Option Nat
  deriving DecidableEq, Repr

/-- A body a collective engine stages for forwarding or application (R418): part, rank, first element, bytes, poison. -/
structure Staged where
  part : Nat
  rank : Nat
  first : Nat
  m : Nat
  bytes : List Byte
  poison : Bool
  deriving DecidableEq, Repr

/-- A collective at one member (R410, R415 to R422): its parameter block as read, its group table, the pages (number and
key ID) of its receive buffer, the ranks whose ready notices it holds, the steps accepted and those on their way (what of
each is out, and its coded chunks, raw chunks and wire bytes), staged bodies, the receive bytes that are final (offset,
length), the tiles counted, granules it marked, 128-byte lines it has written (R393), whether anything it read, sent or wrote was poison, the step at which it
failed, whether its remaining steps are dropped, and the reference ticks of its last data and its last progress. -/
structure CollOp where
  die : Nat
  blockVa : Dword
  started : Bool
  pb : List Byte
  gtab : List Dword
  frames : List (Nat × Nat)
  ready : List Nat
  done : List Nat
  flying : Table (Nat × List Nat)
  staged : List Staged
  finals : List (Nat × Nat)
  counted : List Nat
  marked : List Nat
  lines : List Nat
  poisoned : Bool
  failed : Bool
  stopped : Bool
  lastData : Nat
  lastMove : Nat
  deriving DecidableEq, Repr

/-- An enrolment entry (R392): die, base and size of the physical block, the leaf's node. -/
structure Enrol where
  die : Nat
  base : Nat
  size : Nat
  leaf : Nat
  deriving DecidableEq, Repr

/-- The token-completing tree operations (R397). -/
inductive TreeKind where
  | leaf | settle | move | drop
  deriving DecidableEq, Repr

/-- A tree operation (R401 to R405): its group, its node and new parent by memory key, whether its checks have passed,
whether its settle has flushed the delta entries, the roll-ups it waits for from then on, whether one of them was lost, and the
enrolment entries that a drop has taken out. -/
structure TreeOp where
  kind : TreeKind
  g : List Word
  node : Nat
  newParent : Option Nat
  started : Bool
  flushed : Bool
  waits : List Nat
  lost : Bool
  taken : List Enrol
  deriving DecidableEq, Repr

/-- What an operation does. -/
inductive OpBody where
  | copy (c : CopyOp)
  | mat (m : MatOp)
  | furlong (f : FurlongOp)
  | coll (c : CollOp)
  | tree (t : TreeOp)
  | send (dev part typ : Nat) (payload : List Word) (started : Bool)
  | launch (node : Nat)
  | acquire
  deriving DecidableEq, Repr

/-- An operation in flight: the crew and token that own it, or the Furlong macro-operation and step it works for, its
core and block, the slices whose gang issued it, whether that was in supervisor state, the step that issued it, its
preconditions, and its place in start order (R232). -/
structure Op where
  crew : Nat
  token : Option Nat
  parent : Option (Nat × Nat)
  core : Nat
  block : Nat
  slices : List Nat
  sup : Bool
  born : Nat
  pre : Pre
  order : Option Nat
  body : OpBody
  deriving DecidableEq, Repr

/-! ### Home slices, dies, partitions, package -/

/-- An entry of a reorder buffer (R193): stream, line, next index, waiting contributions, and its deadline (R196). -/
structure RobEntry where
  stream : Nat
  line : Nat
  next : Nat
  waiting : List Contribution
  since : Nat
  deriving DecidableEq, Repr

/-- A delta entry (R394): the leaf's node, the delta, and the reference tick at which it opened. -/
structure Delta where
  leaf : Nat
  delta : Nat
  since : Nat
  deriving DecidableEq, Repr

/-- One home slice (R193, R197, R358, R394). -/
structure Home where
  lostline : BitVec 31
  lost : Bool
  refused : Bool
  pwdrop : Nat
  dups : Nat
  hold : Word
  entries : List RobEntry
  deltas : List Delta
  trackers : List Nat
  reserved : List Nat
  deriving DecidableEq, Repr

/-- A refused contribution that waits for its retry (R195). -/
structure Retry where
  c : Contribution
  refusals : Nat
  deriving DecidableEq, Repr

/-- A roll-up in flight (R394): the node it reaches next, its delta, the clock by which it reaches it (R395), and the nodes that it
has passed (R403). -/
structure Rollup where
  node : Nat
  delta : Nat
  limit : Nat
  passed : List Nat
  deriving DecidableEq, Repr

/-- A cross-die request known to the tracker protocol (R358, R361): the requester's die, the home slice, its refusals,
whether it is accepted, and the reference tick of its send. -/
structure XReq where
  die : Nat
  slice : Nat
  since : Nat
  refusals : Nat
  accepted : Bool
  deriving DecidableEq, Repr

/-- A packet on its way over the bridge or in its retry buffer (R355, R356): the receiving die, its channel (0 requests, 1
responses, 2 messages) and place in it, its flits, and the step that it brings. -/
structure Carried where
  die : Nat
  chan : Nat
  seq : Nat
  flits : Nat
  body : Event
  deriving DecidableEq, Repr

/-- One die's registers and tables (R174, R175, R347, R360, R375, R384, R409, R416, R449); `tickets` gives the
entries of the ticket table that hold tickets, by the number of the request; `down` tells that the device it is in
split mode is held until reset (R345); `stepping` and `watching` hold the partitions for which the debug link has armed a
single step or a watch point (R441). -/
structure Die where
  ctFull : Bool
  ctLost : Bool
  ctlag : Word
  chmap : List (BitVec 8)
  inservice : Nat
  scrubEn : Bool
  hours : BitVec 16
  lastgran : Word
  marked : BitVec 16
  fixed : BitVec 16
  scrub : Option (Nat × ScrubFound)
  crcerr : BitVec 16
  stomps : BitVec 16
  replays : BitVec 16
  xdto : Word
  rto : Word
  tfull : BitVec 16
  stale : BitVec 16
  badmsg : BitVec 16
  tickets : Table Nat
  refclk : Nat
  halted : Bool
  notices : List Ready
  wear : Table Word
  parts : List RedMsg
  down : Bool
  stepping : List Nat
  watching : List Nat
  deriving DecidableEq, Repr

/-- A tag an owner holds with the answer it gave (R365). -/
structure HeldTag where
  dev : Nat
  part : Nat
  tag : Nat
  answer : Resp
  deriving DecidableEq, Repr

/-- An export entry as its owner caches it (R372): frame number, requester (16 × device + partition), the entry's bits and
the requester's code in the grant map. -/
structure XEntry where
  efn : Nat
  who : Nat
  bits : Nat
  code : Nat
  deriving DecidableEq, Repr

/-- One partition's fabric, trace and grant state (R371, R374, R383, R384, R441, R453), the first and the number of its key IDs (R440), and
the context and the base of its BAR2 window (R446). -/
structure Part where
  route : Table Word
  exproot : Dword
  xmlog : Dword
  msgq : Dword
  ctlq : Dword
  xbusy : Bool
  xcache : List XEntry
  misses : List PeerIn
  missTail : Nat
  held : List HeldTag
  seq : Table Word
  trcEn : Bool
  trcK : BitVec 5
  trcBase : Nat
  widx : Word
  ridx : Word
  drop : Word
  devctl : BitVec 2
  dbgGrant : BitVec 2
  keyIds : Nat × Nat
  bar2 : Option (Nat × Dword)
  stopped : Bool
  deriving DecidableEq, Repr

/-- A UALink port (R384). -/
structure Port where
  up : Bool
  failed : Bool
  replays : BitVec 16
  deriving DecidableEq, Repr

/-- The die-to-die bridge (R355 to R357): the packets sent and those delivered on each die's channels (die × 3 + channel), the
packets not delivered yet, oldest first, the failed attempts on each channel's present flit, the channels to be replayed, and its
condition. -/
structure Bridge where
  sent : Table Nat
  next : Table Nat
  wire : List Carried
  attempts : Table Nat
  replaying : List (Nat × Nat)
  retraining : Bool
  down : Bool
  deriving DecidableEq, Repr

/-- What the package holds once (R42, R345, R442 to R451), the measurements of R442 and the root of
Aeddan's public key that `fuses` hold (R443) among it. Time is kept in units of 1/9,000,000 ns, so that one clock
at 1.8 GHz is 5,000,000 units; `slew` is the correction still to be made, at 1,000 ppm
when `slewFast` holds. -/
structure Pkg where
  split : Bool
  devs : List Nat
  budget : BitVec 12
  escal : BitVec 12
  keyBusy : Bool
  grants : Table Nat
  keys : Table Nat
  attctr : Nat
  measures : List (List Byte)
  fuses : List Byte
  tai : Nat
  slew : Int
  slewFast : Bool
  synced : Bool
  offs : Word
  ports : Table Port
  bridge : Bridge
  booted : Bool
  held : Bool
  deriving DecidableEq, Repr

/-- The failure of a thread's remote access (R362): the lane, the cause (0 a time-out, 1 REVOKED, 2 PROTECT), the owner device
and the address. -/
structure Loss where
  lane : Nat
  cause : Nat
  dev : Nat
  va : Dword
  deriving DecidableEq, Repr

/-- What a gang's UNMAPPG or TLBINV waits for once its entry is gone (R333, R334): the requests, results and contributions of accesses
made through it that are not performed, and the old entry with the bytes it mapped. -/
structure Inval where
  reqs : List Nat
  pends : List Nat
  reds : List Contribution
  old : Dword
  span : Nat
  deriving DecidableEq, Repr

/-- What a peer's answer is for: a lane of a result that has not landed, a posted access, a copy's word, a fetch of B, a
collective's step, a polling WAITA, a barrier instruction, a registered continuation, a barrier update of an engine. -/
inductive ReqWho where
  | pend (id lane : Nat)
  | posted (crew : Nat) (slices : List Nat) (lane : Nat)
  | copy (op : Nat)
  | mat (op : Nat)
  | coll (op step : Nat)
  | waita (crew slice : Nat)
  | barrier (crew slice : Nat)
  | cont (pa block : Nat)
  | update (block : Nat)
  deriving DecidableEq, Repr

/-- A request to a peer in flight (R361, R375): its partition, who made it, the ticket-table entry its tag names
(none while it is held at the core for want of one), whether it has been sent (R359), whether a ticket holds it, the step at which its
ticket came, the reference tick from which its time-out counts,
the failure of the lowest lane of its posted instruction that has failed already (R362), whether its replay notice has come while an older ticket of its
page is out (R225), whether its slice has published it by a narrower release, and the slices that have observed such a
release (R216, R217). -/
structure PeerReq where
  die : Nat
  part : Nat
  issuer : Issuer
  who : ReqWho
  va : Dword
  pa : Nat
  n : Nat
  kind : PeerKind
  entry : Option Nat
  sent : Bool
  ticket : Bool
  took : Nat
  since : Nat
  loss : Option Loss
  noticed : Bool
  published : Bool
  known : List (Nat × Nat)
  deriving DecidableEq, Repr

/-- A lane's operands of an atomic (R187): element, value and comparand. -/
structure AtomArg where
  e : IElem
  val : Dword
  cmp : Dword
  deriving DecidableEq, Repr

/-- How a result that has not landed will be written: a plain load's width and extension, an atomic's operation with
its lanes' operands, or a TALLOC handle. -/
inductive Land where
  | load (width : Nat) (signed : Bool)
  | atomic (op : AtomOp) (block : Bool) (args : Table AtomArg)
  | handle (h : Word)
  deriving DecidableEq, Repr

/-- A result that has not landed (R54): the slices and lanes it is for, the one lane that accesses under
U (R51), its registers (logical), the addresses of its lanes, the lanes still to be performed in local memory, the bytes that have come, the causes and failures of lanes, the failure of the lowest lane
that failed (R362),
and whether the instruction already counts as complete (R376). -/
structure Pend where
  crew : Nat
  slices : List Nat
  act : BitVec 32
  uni : Option Nat
  land : Land
  dst : List Nat
  dp : Bool
  addrs : Table Dword
  locals : Table Loc
  vals : Table (List Byte)
  causes : Table Cause
  failed : List Nat
  loss : Option Loss
  complete : Bool
  deriving DecidableEq, Repr

/-- A core's part of the Hogshead (R340, R342), keyed by core + 256 × context: what the saved blocks and crews themselves
do not keep. The set of cores saved together, CORE_TMKEY, the reference tick of the save, the blocks, the notices logged while
they are out, and the continuations fired. -/
structure Hog where
  set : List Nat
  tmkey : BitVec 12
  savedAt : Nat
  blocks : List Nat
  notices : List (Nat × Nat × Nat × Nat × Nat × Nat)
  fired : List (Cont × Bool)
  deriving DecidableEq, Repr

/-- A step that comes at a clock, or at a reference tick of a die (R360). -/
structure Timer where
  at_ : Nat
  die : Option Nat
  ev : Event
  deriving DecidableEq, Repr

/-- Bytes of a valid barrier object, tree node or linked node that software may not write (R138, R239, R391): the object
they belong to, the first byte, and how many. -/
structure Guarded where
  obj : Nat
  base : Nat
  size : Nat
  deriving DecidableEq, Repr

/-- Something handed to an agent outside the model: a message, an answer to a peer, a post to a system image, a report
to the monitor, a signature. -/
inductive Out where
  | message (dev : Nat) (port : Option Nat) (m : Msg)
  | answer (dev part tag : Nat) (r : Resp)
  | ticket (dev part tag : Nat)
  | notice (dev part entry fromDev fromPart efn status : Nat)
  | refused (dev part tag : Nat)
  | request (tag : Nat) (port : Option Nat)
  | reduction (port : Option Nat) (parts : List RedMsg)
  | refill (ctx : Nat)
  | escalate (ctx cause : Nat) (pc : Dword)
  | report (part level : Nat)
  | linkStatus (ctx status : Nat)
  | hostData (bytes : List Byte)
  | hostFail (cause : Nat)
  | ready (dev : Nat) (r : Ready)
  | signed (bytes : List Byte)
  | attRefused
  | bootFailed
  deriving DecidableEq, Repr

/-- The package. `parents` gives the memory key of a tree node's parent by that of the node; `answers` holds what a peer answered a barrier instruction that issues again, by crew and slice, and `invals` what an UNMAPPG or
TLBINV waits for; `cur` is the gang that issues (crew, its slices), `ev` the occurrence of a step without a word; the model's own fields are `fresh`, `due`, `cur`,
`ev`, `nextId`, `out`, `objects` and `tainted` (log entries 1, 2 and 11). -/
structure State where
  mem : List Host.Cell
  marks : List Nat
  gkeys : Table Nat
  crews : Table Crew
  blocks : Table Block
  orphans : Table Orphan
  nodes : Table Node
  ctxs : Table Ctx
  cores : Table Core
  bars : Table Bar
  ops : Table Op
  pends : Table Pend
  homes : Table Home
  retries : Table Retry
  enrols : List Enrol
  parents : Table Nat
  rollups : Table Rollup
  xreqs : Table XReq
  dies : Table Die
  parts : Table Part
  reqs : Table PeerReq
  answers : Table Resp
  invals : Table Inval
  resend : Table (Msg × Nat)
  hogs : Table Hog
  queues : List QueueEnt
  pkg : Pkg
  clk : Nat
  timers : List Timer
  due : List Event
  cur : Option (Nat × List Nat)
  ev : Option Event
  fresh : Nat
  nextId : Nat
  out : List Out
  objects : List Guarded
  tainted : List Nat
  deriving DecidableEq, Repr

/-! ### Reset -/

/-- A core after reset (R152, R165, R201, R289, R337, R338; the grant of R449 has no reset value: log entry 8). -/
def Core.reset : Core :=
  { check := false, tmkey := 0, mown := false, owner := none, ownq := [], waitivl := 1024, waitpoll := 0,
    bad := false, ovf := false, slots := [], head := 0, slotin := [], tvec := 0, ptroot := 0, fpool := 0,
    fpoolv := 0, ctx := none, draining := false, saving := false, saved := false, limit := none, drainSet := [], monitors := [],
    lcache := [], peers := ⟨[], 0, 0⟩, olds := [], tlb := [], grant := 0, stretch := false }

/-- A home slice after reset (R197). -/
def Home.reset : Home :=
  { lostline := 0, lost := false, refused := false, pwdrop := 0, dups := 0, hold := 400000, entries := [],
    deltas := [], trackers := [], reserved := [] }

/-- A die after reset (R175, R347, R384, R409, R449). -/
def Die.reset : Die :=
  { ctFull := false, ctLost := false, ctlag := 10000, chmap := [], inservice := 256, scrubEn := true, hours := 24,
    lastgran := 0, marked := 0, fixed := 0, scrub := none, crcerr := 0, stomps := 0, replays := 0, xdto := 400000,
    rto := 10000000, tfull := 0, stale := 0, badmsg := 0, tickets := [], refclk := 0, halted := false, notices := [],
    wear := [], parts := [], down := false, stepping := [], watching := [] }

/-- A partition after reset (R384, R453). -/
def Part.reset : Part :=
  { route := [], exproot := 0, xmlog := 0, msgq := 0, ctlq := 0, xbusy := false, xcache := [], misses := [], missTail := 0,
    held := [], seq := [], trcEn := false, trcK := 0, trcBase := 0, widx := 0, ridx := 0, drop := 0, devctl := 0,
    dbgGrant := 0, keyIds := (0, 0), bar2 := none, stopped := false }

/-- The package's single registers after reset (R345, R384, R445, R449, R451; log entries 8, 9 and 10). -/
def Pkg.reset : Pkg :=
  { split := false, devs := [0, 1], budget := 2200, escal := 0b010110010111, keyBusy := false, grants := [], keys := [(0, 0)],
    attctr := 0, measures := [], fuses := List.replicate 32 0, tai := 0, slew := 0, slewFast := false, synced := false, offs := 0, ports := [],
    bridge := { sent := [], next := [], wire := [], attempts := [], replaying := [], retraining := false, down := false },
    booted := false, held := false }

/-- The machine right after reset: no block is resident, every register holds its reset value, and memory lists
nothing. -/
def State.reset : State :=
  { mem := [], marks := [], gkeys := [], crews := [], blocks := [], orphans := [], nodes := [], ctxs := [], cores := [], bars := [], ops := [],
    pends := [], homes := [], retries := [], enrols := [], parents := [], rollups := [], xreqs := [], dies := [], parts := [],
    reqs := [], answers := [], invals := [], resend := [], hogs := [], queues := [], pkg := Pkg.reset, clk := 0, timers := [], due := [],
    cur := none, ev := none, fresh := 0, nextId := 1, out := [], objects := [], tainted := [] }

end Sys2Proof.Machine
end

