-- ==== Sys2Proof/Machine/Tables.lean ====
section
/-! DEFINITION. Finite tables by number, memory as a canonical list of nonzero bytes, sorted sets of numbers, and
little-endian byte strings. -/

namespace Sys2Proof.Machine

variable {α : Type}

/-- The entry of key k. -/
def tget (t : Table α) (k : Nat) : Option α :=
  match t with
  | [] => none
  | (j, v) :: r => if j = k then some v else tget r k

/-- The table with k's entry set; keys stay strictly rising. -/
def tset (t : Table α) (k : Nat) (v : α) : Table α :=
  match t with
  | [] => [(k, v)]
  | (j, w) :: r =>
    if k < j then (k, v) :: (j, w) :: r
    else if k = j then (k, v) :: r
    else (j, w) :: tset r k v

/-- The table without k's entry. -/
def tdel (t : Table α) (k : Nat) : Table α :=
  match t with
  | [] => []
  | (j, w) :: r => if j = k then tdel r k else (j, w) :: tdel r k

/-- The table with k's entry, if there is one, mapped. -/
def tmod (t : Table α) (k : Nat) (f : α → α) : Table α :=
  match tget t k with
  | some v => tset t k (f v)
  | none => t

/-- Every entry mapped. -/
def tmap (t : Table α) (f : Nat → α → α) : Table α := t.map fun e => (e.1, f e.1 e.2)

/-- Keys strictly rise from a bound upward. -/
def keysFrom (lo : Nat) : Table α → Bool
  | [] => true
  | (k, _) :: r => decide (lo ≤ k) && keysFrom (k + 1) r

/-- The byte at an address: a byte that nothing has written reads 0 (log entry 3). -/
def memGet (m : Table Byte) (a : Nat) : Byte := (tget m a).getD 0

/-- Memory with one byte written; a byte equal to what an unlisted address reads as is not listed. -/
def memSet (m : Table Byte) (a : Nat) (b : Byte) : Table Byte :=
  if b = 0 then tdel m a else tset m a b

/-- The canonical form of memory: addresses strictly rising, no entry equal to what an unlisted address reads as. -/
def Memory.wf (m : Table Byte) : Bool := keysFrom 0 m && m.all fun c => c.2 != 0

/-- The n bytes from an address upward. -/
def memBytes (m : Table Byte) (a : Nat) : Nat → List Byte
  | 0 => []
  | n + 1 => memGet m a :: memBytes m (a + 1) n

/-- Memory with a string of bytes written from an address upward. -/
def memWrite (m : Table Byte) (a : Nat) : List Byte → Table Byte
  | [] => m
  | b :: r => memWrite (memSet m a b) (a + 1) r

/-- The number a little-endian byte string holds (R12). -/
def bytesNat : List Byte → Nat
  | [] => 0
  | b :: r => b.toNat + 256 * bytesNat r

/-- The n low bytes of a number, lowest first. -/
def natBytes (v : Nat) : Nat → List Byte
  | 0 => []
  | n + 1 => BitVec.ofNat 8 v :: natBytes (v / 256) n

/-- The n-byte number at an address. -/
def memNat (m : Table Byte) (a n : Nat) : Nat := bytesNat (memBytes m a n)

/-- A number put into a sorted set. -/
def sins (k : Nat) : List Nat → List Nat
  | [] => [k]
  | j :: r => if k < j then k :: j :: r else if k = j then j :: r else j :: sins k r

/-- A number taken out of a sorted set. -/
def sdel (k : Nat) : List Nat → List Nat
  | [] => []
  | j :: r => if j = k then sdel k r else j :: sdel k r

/-- Bits hi to lo of a number. -/
def bits (v hi lo : Nat) : Nat := v / 2 ^ lo % 2 ^ (hi + 1 - lo)

/-- Bit i of a number. -/
def bit (v i : Nat) : Bool := v / 2 ^ i % 2 == 1

/-- The signed value of a number's low n bits. -/
def signedOf (n v : Nat) : Int :=
  let w := v % 2 ^ n
  if 2 ^ (n - 1) ≤ w then (w : Int) - (2 ^ n : Nat) else w

/-- The low n bits of an integer. -/
def wrapNat (n : Nat) (v : Int) : Nat := (v % (2 ^ n : Nat)).toNat

/-- The four bits of slice j in a 32-bit lane mask. -/
def sliceBits (m : BitVec 32) (j : Nat) : BitVec 4 := m.extractLsb' (4 * j) 4

/-- The lanes of a 32-bit mask, ascending. -/
def lanesOf (m : BitVec 32) : List Nat := (List.range 32).filter fun l => m.getLsbD l

/-- The lowest lane of a mask, 0 when there is none. -/
def lowest (m : BitVec 32) : Nat := ((List.range 32).find? fun l => m.getLsbD l).getD 0

/-- The mask of the lanes that satisfy p. -/
def maskOf (p : Nat → Bool) : BitVec 32 :=
  (List.range 32).foldl (fun m l => if p l then m ||| (1#32 <<< l) else m) 0

end Sys2Proof.Machine
end

