-- ==== Sys2Proof/Machine/Ops.lean ====
section
/-! DEFINITION. The named operations over the state: registers and predicates, physical placement, translation and the
checks of an access, global reads and writes with marks, bumps and the load cache, token completion and wakes, and
taking an exception and returning from one. -/

namespace Sys2Proof.Machine

/-! ### Parts of the state -/

/-- The record of a core: die × 128 + core index; a core nothing has touched is as after reset. -/
def State.core (s : State) (k : Nat) : Core := (tget s.cores k).getD Core.reset

/-- The record of a home slice: die × 64 + slice. -/
def State.home (s : State) (k : Nat) : Home := (tget s.homes k).getD Home.reset

/-- The record of a die. -/
def State.die (s : State) (d : Nat) : Die := (tget s.dies d).getD Die.reset

/-- The key of a partition's registers: one set per device, and in split mode each die is a device (R383). -/
def State.partKey (s : State) (die part : Nat) : Nat := if s.pkg.split then 16 * die + part else part

/-- The registers of a partition as die sees them. -/
def State.part (s : State) (die part : Nat) : Part := (tget s.parts (s.partKey die part)).getD Part.reset

/-- The state with a core's record changed. -/
def State.modCore (s : State) (k : Nat) (f : Core → Core) : State := { s with cores := tset s.cores k (f (s.core k)) }

/-- The state with a home slice's record changed. -/
def State.modHome (s : State) (k : Nat) (f : Home → Home) : State := { s with homes := tset s.homes k (f (s.home k)) }

/-- The state with a die's record changed. -/
def State.modDie (s : State) (d : Nat) (f : Die → Die) : State := { s with dies := tset s.dies d (f (s.die d)) }

/-- The state with a partition's registers changed. -/
def State.modPart (s : State) (die part : Nat) (f : Part → Part) : State :=
  { s with parts := tset s.parts (s.partKey die part) (f (s.part die part)) }

/-- The key of a port: one set a device. -/
def State.portKey (s : State) (die p : Nat) : Nat := if s.pkg.split then 32 * die + p else p

/-- A port. -/
def State.port (s : State) (die p : Nat) : Port := (tget s.pkg.ports (s.portKey die p)).getD ⟨false, false, 0⟩

/-- The state with a port changed. -/
def State.modPort (s : State) (die p : Nat) (f : Port → Port) : State :=
  { s with pkg := { s.pkg with ports := tset s.pkg.ports (s.portKey die p) (f (s.port die p)) } }

/-- The state with a crew put in place. -/
def State.setCrew (s : State) (k : Nat) (c : Crew) : State := { s with crews := tset s.crews k c }

/-- The state with a crew, if it is resident, changed. -/
def State.modCrew (s : State) (k : Nat) (f : Crew → Crew) : State := { s with crews := tmod s.crews k f }

/-- The state with a block, if it is resident, changed. -/
def State.modBlock (s : State) (k : Nat) (f : Block → Block) : State := { s with blocks := tmod s.blocks k f }

/-- The state with an operation, if it is in flight, changed. -/
def State.modOp (s : State) (k : Nat) (f : Op → Op) : State := { s with ops := tmod s.ops k f }

/-- The state with a node, if it is linked, changed. -/
def State.modNode (s : State) (k : Nat) (f : Node → Node) : State := { s with nodes := tmod s.nodes k f }

/-- The state with a step added to those that are to come, once. -/
def State.push (s : State) (e : Event) : State := if e ∈ s.due then s else { s with due := s.due ++ [e] }

/-- The state with something sent added to what is to come, even where its like is on its way already. -/
def State.send (s : State) (e : Event) : State := { s with due := s.due ++ [e] }

/-- The state with several steps added. -/
def State.pushAll (s : State) (es : List Event) : State := es.foldl State.push s

/-- The die of this package that a device number names to a sender here: in split mode each die is a device, reached over
the bridge (R354). -/
def State.dieOfDev (s : State) (dev : Nat) : Option Nat :=
  if s.pkg.split then s.pkg.devs.findIdx? (· == dev) else none

/-- The device number of a die (R350, R383). -/
def State.devOf (s : State) (die : Nat) : Nat := s.pkg.devs.getD (if s.pkg.split then die else 0) 0

/-- A packet of n data bytes put on its way over the bridge to a die, in a channel (R355): it is delivered after those sent
before it there. Nothing crosses a bridge that is down (R357). -/
def State.cross (s : State) (die chan n : Nat) (e : Event) : State :=
  let b := s.pkg.bridge
  if b.down then s
  else
    let key := 3 * die + chan
    let seq := (tget b.sent key).getD 0
    { s with pkg := { s.pkg with bridge := { b with
        sent := tset b.sent key (seq + 1), wire := b.wire ++ [⟨die, chan, seq, 1 + min 4 ((n + 63) / 64), e⟩] } } }

/-- The data bytes of an answer. -/
def respBytes : Resp → Nat
  | .data bs _ => bs.length
  | _ => 0

/-- What the other die of a split package learns of something sent to it (R354): the die, the channel that it comes by (R355),
its data bytes and the step. -/
def Out.inside (o : Out) (f : Nat → Option Nat) : Option (Nat × Nat × Nat × Event) :=
  match o with
  | .answer dev _ tag r => (f dev).map fun d => (d, 1, respBytes r, .requestResponse tag r)
  | .refused dev _ tag => (f dev).map fun d => (d, 1, 0, .requestResponse tag .refused)
  | .ticket dev _ tag => (f dev).map fun d => (d, 2, 64, .faultTicket tag)
  | .notice dev _ entry fd fp efn st => (f dev).map fun d => (d, 2, 64, .replayNotice d entry fd fp efn st)
  | .ready dev r => (f dev).map fun d => (d, 2, 64, .collectiveReady { r with die := d })
  | _ => none

/-- The state with something handed to an agent outside, or sent to the other die of a split package. -/
def State.emit (s : State) (o : Out) : State :=
  match o.inside s.dieOfDev with
  | some (d, chan, n, e) => s.cross d chan n e
  | none => { s with out := s.out ++ [o] }

/-- A step set to come at a clock, or at a tick of a die's reference timer. -/
def State.later (s : State) (t : Timer) : State := { s with timers := s.timers ++ [t] }

/-- The open choice number k of kind j at this step (log entry 1). -/
def State.free (s : State) (j k : Nat) : Nat := Config.free s.fresh (j + 64 * k)

/-- The reading of a die's 100 MHz reference timer: one tick in 18 clocks (R360, R448). -/
def State.ticks (s : State) (d : Nat) : Nat := (s.die d).refclk / 18

/-! ### Registers, predicates and modes -/

/-- The window size W = min(64, A) (R34). -/
def Crew.window (c : Crew) : Nat := min 64 c.allot

/-- Window register xi of a lane under window depth D (R34). -/
def Lane.get (l : Lane) (D i : Nat) : Word := (tget l.regs (D + i)).getD 0

/-- The pair xi, x(i+1) as one 64-bit value (R37). -/
def Lane.get64 (l : Lane) (D i : Nat) : Dword := l.get D (i + 1) ++ l.get D i

/-- A lane with window register xi written; the write ends a parity error there. -/
def Lane.set (l : Lane) (D i : Nat) (v : Word) : Lane :=
  { l with regs := tset l.regs (D + i) v, bad := sdel (D + i) l.bad }

/-- A lane with consecutive window registers from xi written. -/
def Lane.setAll (l : Lane) (D i : Nat) : List Word → Lane
  | [] => l
  | v :: r => (l.set D i v).setAll D (i + 1) r

/-- Predicate pi of a lane; p0 reads as 1 (R38). -/
def Lane.pred (l : Lane) (i : Nat) : Bool := i == 0 || l.preds.getLsbD i

/-- A lane with predicate pi written; a write to p0 is discarded (R38). -/
def Lane.setPred (l : Lane) (i : Nat) (v : Bool) : Lane :=
  if i = 0 then l
  else { l with preds := if v then l.preds ||| (1#8 <<< i) else l.preds &&& ~~~(1#8 <<< i) }

/-- A 64-bit value as its two words, low word first (R37). -/
def splitDword (v : Dword) : List Word := [v.extractLsb' 0 32, v.extractLsb' 32 32]

/-- Lane L of a crew. -/
def Crew.lane (c : Crew) (l : Nat) : Lane := c.lanes.toList.getD l ⟨[], 0, []⟩

/-- Slice j of a crew; a slice the crew does not have has exited. -/
def Crew.slice (c : Crew) (j : Nat) : Slice :=
  c.slices.toList.getD j ⟨0, true, 0, 0, 0, [], .none, 0, 0, 0, false, [], ⟨0, [], false, []⟩, false⟩

/-- A crew with one slice changed. -/
def Crew.modSlice (c : Crew) (j : Nat) (f : Slice → Slice) : Crew :=
  if h : j < 8 then { c with slices := c.slices.set j (f c.slices[j]) } else c

/-- A crew with several slices changed. -/
def Crew.modSlices (c : Crew) (js : List Nat) (f : Slice → Slice) : Crew := js.foldl (fun c j => c.modSlice j f) c

/-- A crew with every lane of a mask changed. -/
def Crew.modLanes (c : Crew) (m : BitVec 32) (f : Nat → Lane → Lane) : Crew :=
  { c with lanes := Vector.ofFn fun i => if m.getLsbD i.val then f i.val c.lanes[i] else c.lanes[i] }

/-- The slices of a crew that have not exited. -/
def Crew.present (c : Crew) : List Nat := (List.range c.nsl).filter fun j => !(c.slice j).exited

/-- The live lanes of some slices (R41). -/
def Crew.live (c : Crew) (js : List Nat) : BitVec 32 :=
  maskOf fun l => js.contains (l / 4) && (c.slice (l / 4)).live.getLsbD (l % 4)

/-- The mode fields of R39. -/
def modeGuard (m : BitVec 13) : BitVec 4 := m.extractLsb' 0 4
/-- The etype field. -/
def modeEtype (m : BitVec 13) : Nat := (m.extractLsb' 4 5).toNat
/-- The rmode field. -/
def modeRmode (m : BitVec 13) : Nat := (m.extractLsb' 9 3).toNat
/-- The sat field. -/
def modeSat (m : BitVec 13) : Bool := m.getLsbD 12

/-- Whether a guard holds in a lane: 0b1iii where p_iii is 1, 0b0iii where it is 0 (R39). -/
def guardHolds (m : BitVec 13) (l : Lane) : Bool :=
  l.pred ((modeGuard m).extractLsb' 0 3).toNat == (modeGuard m).getLsbD 3

/-- The token number n of a crew. -/
def Crew.tok (c : Crew) (n : Nat) : Token := c.toks.toList.getD n ⟨.free, 0, []⟩

/-- A crew with token n changed. -/
def Crew.modTok (c : Crew) (n : Nat) (f : Token → Token) : Crew :=
  if h : n < 32 then { c with toks := c.toks.set n (f c.toks[n]) } else c

/-- The key of a block's part of the Hogshead. -/
def Block.hogKey (b : Block) : Nat := b.core + 256 * b.ctx

/-- The die of a core number. -/
def dieOfCore (k : Nat) : Nat := k / 128

/-- The crew's status register (R43). -/
def Crew.gstat (c : Crew) : Word :=
  BitVec.ofBool c.poison ++ BitVec.ofBool c.rtimeout ++ 0#11 ++ BitVec.ofNat 3 c.prio ++ BitVec.ofNat 4 (c.allot / 16 - 1)
    ++ 0#10 ++ BitVec.ofBool c.ucheck ++ BitVec.ofBool c.stcheck

/-- The base of a crew's spill area: the launch's areas follow one another in block and crew order (log entry 16). -/
def spillArea (base : Dword) (size index : Nat) : Dword := base + BitVec.ofNat 64 (size * index)

/-- Some of the n bytes at a virtual address lies in a crew's own spill area (R36). -/
def Crew.inSpill (c : Crew) (va : Dword) (n : Nat) : Bool :=
  decide ((va - c.spillBase).toNat < c.spillSize) || (c.spillSize != 0 && decide ((c.spillBase - va).toNat < n))

/-! ### Windows and spill (R34 to R36) -/

/-- The spill-area bytes that a window depth and link depths take, 0 when nothing spills (R36). -/
def spillNeed (lanes slices window allot depth links : Nat) : Nat :=
  let rs := depth + window - allot
  let ls := links - 16
  if rs = 0 ∧ ls = 0 then 0 else 64 + 4 * lanes * rs + 16 * slices * ls

/-- The most links any slice of the crew holds. -/
def Crew.linkDepth (c : Crew) : Nat := (c.present.map fun j => (c.slice j).links.length).foldl max 0

/-- Whether the crew's window at depth D with n links fits its spill area. -/
def Crew.fits (c : Crew) (D n : Nat) : Bool :=
  decide (spillNeed (4 * c.nsl) c.nsl c.window c.allot D n ≤ c.spillSize)

/-! ### Physical placement (R172, R173, R351, R447) -/

/-- What kind of place a physical address names. -/
inductive Place where
  | local | host | peer | bad
  deriving DecidableEq, Repr

/-- The place of a physical address (R172, R351, R447). -/
def placeOf (split : Bool) (pa : Nat) : Place :=
  if bit pa 51 then .peer
  else if bits pa 50 39 = 0 then (if split && bit pa 38 then .bad else .local)
  else if bits pa 50 48 = 1 then .host
  else .bad

/-- The key under which the package holds a physical address: in split mode each die has its own HBM4E. -/
def memKey (split : Bool) (die pa : Nat) : Nat :=
  if split && placeOf split pa == .local then die * 2 ^ 38 + pa else pa

/-- The die of a local memory key (R172). -/
def State.memDie (s : State) (k : Nat) : Nat :=
  if s.pkg.split then k / 2 ^ 38 % 2
  else (bits k 12 12 + bits k 17 17 + bits k 22 22 + bits k 27 27 + bits k 32 32 + bits k 37 37) % 2

/-- The die address of a local memory key (R172). -/
def State.dieAddr (s : State) (k : Nat) : Nat :=
  if s.pkg.split then k % 2 ^ 38 else bits k 38 13 * 4096 + k % 4096

/-- The home slice of a local memory key, with its die (R173). -/
def State.homeOf (s : State) (k : Nat) : Nat :=
  let a := s.dieAddr k
  64 * s.memDie k + (bits a 12 7 ^^^ bits a 18 13 ^^^ bits a 24 19 ^^^ bits a 30 25 ^^^ bits a 36 31 ^^^ bits a 37 37)

/-- The remap-table index of the 256-byte granule at a die address (R174). -/
def channelIndex (da : Nat) : Nat := bits da 15 8 ^^^ bits da 23 16 ^^^ bits da 31 24 ^^^ bits da 37 32

/-- The pseudo-channel that serves entry i of a die's remap table; a table that boot has not filled maps i to itself (R175). -/
def Die.channel (d : Die) (i : Nat) : Nat := ((d.chmap[i]?).map (·.toNat)).getD i

/-- The pseudo-channel of a local memory key (R174). -/
def State.channelOf (s : State) (k : Nat) : Nat := (s.die (s.memDie k)).channel (channelIndex (s.dieAddr k))

/-- A die's capacity in bytes (R174). -/
def Die.capacity (d : Die) : Nat := if d.inservice = 256 then 2 ^ 38 else 2 ^ 37

/-- The capacity of the HBM4E that a device on a die has: its own, or of the package twice the smaller (R174). -/
def State.capacity (s : State) (die : Nat) : Nat :=
  if s.pkg.split then (s.die die).capacity else 2 * min (s.die 0).capacity (s.die 1).capacity

/-- Local memory: HBM4E and not host or peer. -/
def isLocal (k : Nat) : Bool := bits k 51 39 == 0

/-- Peer memory. -/
def isPeer (k : Nat) : Bool := bit k 51

/-- Host memory. -/
def isHost (k : Nat) : Bool := !isLocal k && !isPeer k

/-! ### Global reads and writes -/

/-- The granules that meet a range. -/
def granules (a n : Nat) : List Nat := if n = 0 then [] else (List.range ((a + n - 1) / 32 + 1 - a / 32)).map (a / 32 + ·)

/-- A range meets a marked granule (R258, R344). -/
def State.marked (s : State) (a n : Nat) : Bool := (granules a n).any fun g => s.marks.contains g

/-- The state with the granules that meet a range marked. -/
def State.mark (s : State) (a n : Nat) : State := { s with marks := (granules a n).foldl (fun m g => sins g m) s.marks }

/-- The state with a granule's mark cleared. -/
def State.unmark (s : State) (g : Nat) : State := { s with marks := sdel g s.marks }

/-- The objects whose guarded bytes a write by another path overwrites are noted (R138, R239, R391; log entry 11). -/
def State.taint (s : State) (a n : Nat) : State :=
  let hit := s.objects.filter fun o => decide (o.base < a + n) && decide (a < o.base + o.size)
  { s with tainted := hit.foldl (fun t o => sins o.obj t) s.tainted }

/-- Bytes of an object guarded from now on. -/
def State.guardBytes (s : State) (obj base size : Nat) : State := { s with objects := ⟨obj, base, size⟩ :: s.objects }

/-- An object that is guarded no more. -/
def State.unguard (s : State) (obj : Nat) : State :=
  { s with objects := s.objects.filter (·.obj != obj), tainted := sdel obj s.tainted }

/-- The delta entries of a home slice with an amount added for a leaf (R394), a new entry opened when there is none. -/
def addDelta (now : Nat) (leaf amount : Nat) : List Delta → List Delta
  | [] => [⟨leaf, amount % 2 ^ 64, now⟩]
  | d :: r => if d.leaf = leaf then { d with delta := (d.delta + amount) % 2 ^ 64 } :: r else d :: addDelta now leaf amount r

/-- A roll-up sent to a node (R394), which it reaches within 256 clocks (R395). -/
def State.rollup (s : State) (node delta : Nat) : State :=
  { (s.push (.ctRollup s.nextId)) with
    rollups := tset s.rollups s.nextId ⟨node, delta, s.clk + 256, []⟩, nextId := s.nextId + 1 }

/-- A delta entry flushed (R394): its delta sets out to the leaf. -/
def State.flushDelta (s : State) (h leaf : Nat) : State :=
  match (s.home h).deltas.find? fun d => d.leaf == leaf with
  | some d => (s.modHome h fun x => { x with deltas := x.deltas.filter fun e => e.leaf != leaf }).rollup leaf d.delta
  | none => s

/-- A bump of a leaf at the home slice of a written address (R393, R394). A slice holds 512 delta entries and flushes
its oldest when none is free; an entry is flushed when L2H_CTLAG ticks have passed. -/
def State.bumpAt (s : State) (h leaf amount : Nat) : State :=
  let x := s.home h
  let d := h / 64
  let isNew := !(x.deltas.any fun e => e.leaf == leaf)
  let s := if isNew && decide (512 ≤ x.deltas.length) then
      match x.deltas with
      | e :: _ => s.flushDelta h e.leaf
      | [] => s
    else s
  let s := s.modHome h fun x => { x with deltas := addDelta (s.ticks d) leaf amount x.deltas }
  if isNew then s.later ⟨s.ticks d + max 100 (s.die d).ctlag.toNat, some d, .ctDeltaFlush h leaf⟩ else s

/-- The leaf that enrols a local address (R392). -/
def State.leafOf (s : State) (k : Nat) : Option Nat :=
  (s.enrols.find? fun e => e.die == s.memDie k && decide (e.base ≤ k) && decide (k < e.base + e.size)).map (·.leaf)

/-- The bump a write at an address makes (R393): none outside enrolled local memory. -/
def State.bump (s : State) (k amount : Nat) : State :=
  if isLocal k then
    match s.leafOf k with
    | some leaf => s.bumpAt (s.homeOf k) leaf amount
    | none => s
  else s

/-- The per-lane load cache's copies updated by a store of the same core (R168); a copy under another key is dropped
(R171). -/
def lcacheStore (t : Table CacheLine) (key a : Nat) (bs : List Byte) : Table CacheLine :=
  match tget t (a / 128) with
  | some line =>
    if line.key = key then
      tset t (a / 128) ⟨key, line.bytes.take (a % 128) ++ bs ++ line.bytes.drop (a % 128 + bs.length)⟩
    else tdel t (a / 128)
  | none => t

/-- A range meets what a crew's spill area holds. -/
def Crew.spillMeets (c : Crew) (a n : Nat) : Bool :=
  c.spillSegs.any fun p => decide (p.1.pa < a + n) && decide (a < p.1.pa + p.2)

/-- The crews whose spilled registers and links a write overwrites (R36). -/
def State.spillHit (s : State) (a n : Nat) : State :=
  if s.crews.any fun e => e.2.spillMeets a n then
    { s with crews := tmap s.crews fun _ c => if c.spillMeets a n then { c with spillLost := true } else c }
  else s

/-- The gangs whose monitor is armed on a line that a range meets (R199). -/
def State.monitorHit (s : State) (a n : Nat) : State :=
  s.pushAll (s.crews.flatMap fun e => (e.2.present.filterMap fun j =>
    match (e.2.slice j).wait with
    | .waita w => if w.armed && decide (w.loc.pa / 128 * 128 < a + n) && decide (a < w.loc.pa / 128 * 128 + 128)
        then some (Event.waitaMonitorWake e.1 j) else none
    | _ => none))

/-- The signed dependence counter of the task node at a place (R135). -/
def State.depcount (s : State) (pa : Nat) : Int := signedOf 32 (memNat s.mem (pa + 116) 4)

/-- The monitor of a queue wakes the firmware (R148): a node is linked under it, has become ready, or has ended. -/
def State.wakeQueue (s : State) (q : Nat) : State :=
  { s with queues := s.queues.map fun e => if e.node = q then { e with woken := true } else e }

/-- Task nodes whose counter a write has brought to 0 or below are ready from then on (R146), which wakes their queues. -/
def State.taskHit (s : State) (a n : Nat) : State :=
  if s.nodes.any fun e => e.2.kind == 5 && decide (e.1 + 116 < a + n) && decide (a < e.1 + 120) then
    let hit := s.nodes.filter fun e => e.2.kind == 5 && !e.2.ready && decide (s.depcount e.1 ≤ 0)
    hit.foldl (fun s e => ({ s with nodes := tset s.nodes e.1 { e.2 with ready := true } }).wakeQueue e.2.parent) s
  else s

/-- A scrub read of a granule that meets a range has found an error and its write is still to come (R346). -/
def State.scrubbed (s : State) (a n : Nat) (p : ScrubFound → Bool) : Bool :=
  s.dies.any fun e => match e.2.scrub with
    | some (g, f) => p f && (granules a n).contains g
    | none => false

/-- The scrubber's write to a granule that meets a range is cancelled (R346). -/
def State.cancelScrub (s : State) (a n : Nat) : State :=
  if s.scrubbed a n fun _ => true then
    { s with dies := tmap s.dies fun _ d => match d.scrub with
        | some (g, _) => if (granules a n).contains g then { d with scrub := none } else d
        | none => d }
  else s

/-- An uncorrectable error of a granule found by a read of HBM4E (R344, R347): the mark, and its log. -/
def State.errorMark (s : State) (g : Nat) : State :=
  { (s.modDie (s.memDie (32 * g)) fun d =>
      { d with lastgran := BitVec.ofNat 32 (bits (s.dieAddr (32 * g)) 37 6), marked := BitVec.ofNat 16 (min 0xFFFF (d.marked.toNat + 1)) })
    with marks := sins g s.marks }

/-- The granules that a write covers in part and in which the scrubber has found an uncorrectable error (R346). -/
def State.mergeBad (s : State) (a n : Nat) : List Nat :=
  s.dies.filterMap fun e => match e.2.scrub with
    | some (g, .uncorrectable) =>
      if (granules a n).contains g && !(decide (a ≤ 32 * g) && decide (32 * g + 32 ≤ a + n)) then some g else none
    | _ => none

/-- A write of part of a granule reaches the controller (R346): it cancels the scrubber's mark, and the read that merges it
finds the same error. -/
def State.mergeRead (s : State) (a n : Nat) : State :=
  match s.mergeBad a n with
  | [] => s
  | bad => bad.foldl State.errorMark (s.cancelScrub a n)

/-- A partial write to a marked granule dropped, and counted at its home (R180). -/
def State.dropWrite (s : State) (pa : Nat) : State :=
  if isLocal pa then s.modHome (s.homeOf pa) fun h => { h with pwdrop := min 0x3FFF (h.pwdrop + 1) } else s

/-- Bytes put in memory, and what watches them told. -/
def State.put (s : State) (a : Nat) (bs : List Byte) : State :=
  ((({ (s.spillHit a bs.length) with mem := memWrite s.mem a bs }).cancelScrub a bs.length).taskHit a bs.length).monitorHit
    a bs.length

/-- A byte string cut at granules: the granule, the first byte and the bytes of each part. -/
def cutGranules (a : Nat) (bs : List Byte) : List (Nat × Nat × List Byte) :=
  (granules a bs.length).map fun g =>
    let lo := max a (32 * g)
    (g, lo, (bs.drop (lo - a)).take (min (a + bs.length) (32 * g + 32) - lo))

/-- The marks of the granules that a write covers whole are cleared (R180, R257). -/
def State.unmarkWhole (s : State) (a n : Nat) : State :=
  { s with marks := s.marks.filter fun g => !(decide (a ≤ 32 * g) && decide (32 * g + 32 ≤ a + n)) }

/-- Bytes written by the unit that keeps the object they belong to: no bump, and no change by another path. Granules that they
cover whole are marked no more (R257); the controller drops a part of a granule whose merge read finds an error (R346). -/
def State.hwPoke (s : State) (a : Nat) (bs : List Byte) : State :=
  match s.mergeBad a bs.length with
  | [] => (s.put a bs).unmarkWhole a bs.length
  | bad => (cutGranules a bs).foldl (fun (s : State) p =>
      if bad.contains p.1 then s.dropWrite p.2.1 else (s.put p.2.1 p.2.2).unmarkWhole p.2.1 p.2.2.length) (s.mergeRead a bs.length)

/-- Bytes written to memory by any other agent: objects they overwrite are noted besides. No bump is considered. -/
def State.poke (s : State) (a : Nat) (bs : List Byte) : State := (s.taint a bs.length).hwPoke a bs

/-! ### Keys (R171, R445) -/

/-- The key in a key slot; slots that are not loaded are stopped before this (R171). -/
def State.keyOf (s : State) (id : Nat) : Nat := (tget s.pkg.keys id).getD 0

/-- The 16-byte blocks, the units that a key enciphers, that meet a range (R171). -/
def cipherBlocks (a n : Nat) : List Nat := if n = 0 then [] else (List.range ((a + n - 1) / 16 + 1 - a / 16)).map (a / 16 + ·)

/-- A block as key k reads it: its bytes, or the decryption under k of what another key wrote (R171). A block that nothing
has written under a key reads alike under all. -/
def State.blockAs (s : State) (k b : Nat) : List Byte :=
  let bs := memBytes s.mem (16 * b) 16
  match tget s.gkeys b with
  | some w => if w = k then bs
      else natBytes ((Config.cipher k b).symm (Config.cipher w b (BitVec.ofNat 128 (bytesNat bs)))).toNat 16
  | none => bs

/-- The n bytes at a place as its key reads them. -/
def State.bytesAt (s : State) (l : Loc) (n : Nat) : List Byte :=
  let k := s.keyOf l.key
  if (cipherBlocks l.pa n).all fun b => (tget s.gkeys b).getD k == k then memBytes s.mem l.pa n
  else (((cipherBlocks l.pa n).flatMap (s.blockAs k)).drop (l.pa % 16)).take n

/-- The state with the blocks of a range held under a place's key, their bytes as that key reads them: the L2 drops the copy
under another key before a write (R171). Blocks that the write does not reach keep their key and their bytes. -/
def State.rekey (s : State) (l : Loc) (n : Nat) : State :=
  let k := s.keyOf l.key
  (cipherBlocks l.pa n).foldl (fun (s : State) b =>
    match tget s.gkeys b with
    | some w => if w = k then s
        else { s with mem := memWrite s.mem (16 * b) (s.blockAs k b), gkeys := tset s.gkeys b k }
    | none => { s with gkeys := tset s.gkeys b k }) s

/-- The values that a write is about to replace, kept for engine reads that nothing orders after it (R200, R215, R221). -/
def State.noteOlder (s : State) (l : Loc) (n : Nat) : State :=
  if s.marked l.pa n then s
  else
    let ws := (List.range ((l.pa + n + 3) / 4 - l.pa / 4)).map (l.pa / 4 + ·)
    { s with cores := tmap s.cores fun _ c => { c with olds := ws.foldl (fun t w =>
        tset t w ((tget t w).getD [] ++ [(l.key, BitVec.ofNat 32 (bytesNat (s.bytesAt ⟨4 * w, l.key⟩ 4)))])) c.olds } }

/-- A thread's or host's write of fewer than 32 bytes performed at its home (R180, R393): dropped and counted when it
meets a marked granule, else stored with one bump, the value before it noted. -/
def State.storeAt (s : State) (l : Loc) (bs : List Byte) : State :=
  let s := s.mergeRead l.pa bs.length
  if s.marked l.pa bs.length then
    s.dropWrite l.pa
  else (((s.noteOlder l bs.length).rekey l bs.length).poke l.pa bs).bump l.pa 1

/-- Replaced values without those of the words that meet a range. -/
def dropOlds (t : Table (List (Nat × Word))) (a n : Nat) : Table (List (Nat × Word)) :=
  t.filter fun e => !(decide (e.1 * 4 < a + n) && decide (a < e.1 * 4 + 4))

/-- A lane's store (R182): performed, with the issuing core's load-cache copy updated. -/
def State.laneStore (s : State) (core : Nat) (l : Loc) (bs : List Byte) : State :=
  let t := s.storeAt l bs
  if t.marked l.pa bs.length then t
  else t.modCore core fun c => { c with lcache := lcacheStore c.lcache l.key l.pa bs, olds := dropOlds c.olds l.pa bs.length }

/-- The n bytes at an offset of a cached line. -/
def lineBytes (line : List Byte) (off n : Nat) : List Byte := (List.range n).map fun i => line.getD (off + i) 0

/-- The bytes a plain load returns: those of memory or, where the core's load cache holds another copy under the same key,
either (R215), each 8-byte half of 16 bytes by itself (R209): an open choice. -/
def State.loadBytes (s : State) (core : Nat) (l : Loc) (n ch : Nat) : List Byte :=
  let now := s.bytesAt l n
  match tget (s.core core).lcache (l.pa / 128) with
  | some line =>
    let old := lineBytes line.bytes (l.pa % 128) n
    if old = now ∨ line.key ≠ l.key then now
    else (if s.free 3 ch % 2 = 0 then now else old).take 8 ++ (if s.free 3 (ch + 32) % 2 = 0 then now else old).drop 8
  | none => now

/-- The load cache after an access that returned `got`: the line as memory holds it, unless the copy was the one used. A full
cache takes no new line (log entry 87). No engine reads an older value of the line from then on (R212). -/
def State.lcacheFill (s : State) (core : Nat) (l : Loc) (got : List Byte) : State :=
  if got = s.bytesAt l got.length then
    s.modCore core fun c =>
      let t := tdel c.lcache (l.pa / 128)
      { c with lcache := if t.length + c.peers.held.length < 1024 then tset t (l.pa / 128) ⟨l.key, s.bytesAt ⟨l.pa / 128 * 128, l.key⟩ 128⟩ else t
               olds := dropOlds c.olds (l.pa / 128 * 128) 128 }
  else s

/-- The copies of peer memory without those that meet a range, and without what loads issued before request `next` bring. -/
def PeerCopies.drop (p : PeerCopies) (a n next : Nat) : PeerCopies :=
  ⟨p.held.filter fun e => !(decide (e.1 < a + n) && decide (a < e.1 + e.2.length)), next, 0⟩

/-- The load cache of a core without the lines that meet a range (R262), which may lie in a peer's memory (R353), and no replaced value of
it left to read. -/
def State.lcacheDrop (s : State) (core a n : Nat) : State :=
  s.modCore core fun c => { c with
    lcache := c.lcache.filter fun e => !(decide (e.1 * 128 < a + n) && decide (a < e.1 * 128 + 128))
    peers := if isPeer a then c.peers.drop a n s.nextId else c.peers
    olds := dropOlds c.olds a n }

/-- A load cache with nothing in it and no replaced value left to read, as an acquire leaves them (R202, R217, R353). -/
def Core.emptied (c : Core) (next : Nat) : Core := { c with lcache := [], peers := ⟨[], next, 0⟩, olds := [] }

/-- The load cache of a core emptied. -/
def State.lcacheClear (s : State) (core : Nat) : State := s.modCore core fun c => c.emptied s.nextId

/-! ### Translation (R326 to R328) and the checks of an access (R179) -/

/-- What a walk ends in. -/
inductive Walk where
  | leaf (level : Nat) (entryPa : Nat) (e : Dword)
  | fault
  | protect
  | mark
  deriving DecidableEq, Repr

/-- The entry's frame address, PA[51:12]. -/
def entryFrame (e : Dword) : Nat := bits e.toNat 51 12 * 4096

/-- What one entry of a table at a level gives (R326). -/
inductive Entry where
  | absent | protect
  | table (frame : Nat)
  | leaf
  deriving DecidableEq, Repr

/-- An entry read at level lv + 1 (R326). -/
def entryKind (lv : Nat) (e : Dword) : Entry :=
  let v := e.toNat
  if !bit v 0 then .absent
  else if bit v 11 || bits v 9 7 != 0 then .protect
  else if bit v 1 then
    if 3 ≤ lv then .protect
    else if bit v 3 && !bit v 2 then .protect
    else .leaf
  else if bits v 6 2 != 0 || bits v 63 52 != 0 || bit v 10 then .protect
  else if lv = 0 then .protect
  else .table (entryFrame e)

/-- The entry at a place of a table. -/
def State.entryAt (s : State) (pa : Nat) : Dword := BitVec.ofNat 64 (memNat s.mem pa 8)

/-- The memory key of the entry that a walk reads at level lv + 1. -/
def State.entryPlace (s : State) (die lv frame va : Nat) : Nat :=
  memKey s.pkg.split die (frame + 8 * bits va (12 + 9 * (lv + 1) - 1) (12 + 9 * lv))

/-- The walk from a table at a level down, by the address's own entry at each level (R326). -/
def State.walk (s : State) (die : Nat) : Nat → Nat → Nat → Walk
  | 0, _, _ => .protect
  | lv + 1, frame, va =>
    let pa := s.entryPlace die lv frame va
    if s.marked pa 8 then .mark
    else match entryKind lv (s.entryAt pa) with
      | .absent => .fault
      | .protect => .protect
      | .leaf => .leaf (lv + 1) pa (s.entryAt pa)
      | .table f => s.walk die lv f va

/-- The page size of a leaf level (R169). -/
def levelSize (level : Nat) : Nat := 4096 * 512 ^ (level - 1)

/-- The entries in a run at a level (R169). -/
def runLength (level : Nat) : Nat := if level = 3 then 32 else 16

/-- The physical address a leaf entry gives: page base and offset, or the base of its run and the offset in it (R170). A frame
that is not aligned to its page is taken without the bits below the page size (log entry 88). -/
def leafPa (level : Nat) (e : Dword) (va : Nat) : Nat :=
  let size := levelSize level * (if bit e.toNat 5 then runLength level else 1)
  entryFrame e / size * size + va % size

/-- The other entries of the run that an entry's place lies in: valid leaves marked as run members (R170). -/
def State.runMates (s : State) (lv pa : Nat) : List Nat :=
  if 3 ≤ lv then []
  else
    let n := runLength (lv + 1)
    let base := pa / (8 * n) * (8 * n)
    s.mem.filterMap fun c =>
      if base ≤ c.1 ∧ c.1 < base + 8 * n ∧ c.1 % 8 = 0 ∧ c.1 ≠ pa ∧ bit c.2.toNat 5 ∧ entryKind lv (s.entryAt c.1) = .leaf
      then some c.1 else none

/-- What a run member gives: the frame of its run and its attributes (R170). -/
def runOf (level : Nat) (e : Dword) : Nat × Nat × Nat :=
  (entryFrame e / (levelSize level * runLength level), bits e.toNat 63 52, bits e.toNat 10 0)

/-- The walk of an access (R326, R170): as `State.walk`, but within a run whose entries software has left unequal any one
entry may translate it, the address's own among them. -/
def State.walkRun (s : State) (die ch : Nat) : Nat → Nat → Nat → Walk
  | 0, _, _ => .protect
  | lv + 1, frame, va =>
    let pa := s.entryPlace die lv frame va
    if s.marked pa 8 then .mark
    else
      let e := s.entryAt pa
      let mates := s.runMates lv pa
      let own := entryKind lv e
      if mates.isEmpty ∨
          (own = .leaf ∧ bit e.toNat 5 ∧ mates.all fun q => runOf (lv + 1) (s.entryAt q) == runOf (lv + 1) e) then
        match own with
        | .absent => .fault
        | .protect => .protect
        | .leaf => .leaf (lv + 1) pa e
        | .table f => s.walkRun die ch lv f va
      else match mates[s.free 4 ch % (mates.length + 1)]? with
        | some q => .leaf (lv + 1) q (s.entryAt q)
        | none => match own with
          | .absent => .fault
          | .protect => .protect
          | .leaf => .leaf (lv + 1) pa e
          | .table f => s.walkRun die ch lv f va

/-- The accesses that translation tells apart: reads, writes, instruction fetches, atomics and reductions, and WAITA, the last two at pod or narrower scope. -/
inductive AccKind where
  | read | write | fetch | atomic (pod : Bool) | watch (pod : Bool)
  deriving DecidableEq, Repr

/-- The rights a leaf grants an access, supervisor pages included (R318, R326). -/
def leafAllows (sup : Bool) (k : AccKind) (e : Dword) : Bool :=
  (sup || !bit e.toNat 6) &&
  (match k with
   | .read => bit e.toNat 2
   | .write => bit e.toNat 3
   | .fetch => bit e.toNat 4
   | .watch _ => bit e.toNat 2
   | .atomic _ => bit e.toNat 2 && bit e.toNat 3)

/-- The key ID of a leaf (R171, R326). -/
def leafKey (e : Dword) : Nat := bits e.toNat 63 52 + 4096 * bits e.toNat 10 10

/-- Whether FAB_ROUTE holds a valid entry for a device (R364). -/
def State.routed (s : State) (die part dev : Nat) : Bool :=
  (s.pkg.split && decide (dev = s.pkg.devs.getD (1 - die) 0)) ||
  (match tget (s.part die part).route dev with
   | some w => w.getLsbD 31
   | none => false)

/-- Step 4 of R179 for the physical address a leaf gives: places that are not memory, message windows (R352), atomics
on host memory (R447) or below pod scope on a peer (R353), unrouted devices (R364), fetches outside local memory
(R329), key slots not loaded (R171), local addresses beyond the capacity (R174; log entry 77). -/
def State.placeAllows (s : State) (die part : Nat) (k : AccKind) (key pa : Nat) : Bool :=
  match placeOf s.pkg.split pa with
  | .bad => false
  | .local => (tget s.pkg.keys key).isSome && decide (pa < s.capacity die)
  | .host => (match k with | .read | .write => (tget s.pkg.keys key).isSome | _ => false)
  | .peer =>
    !(decide (0x1FFFFF0 ≤ bits pa 36 12)) && s.routed die part (bits pa 50 41) &&
    (match k with | .fetch => false | .atomic pod => pod | .watch pod => pod | _ => true)

/-- What checking an access ends in: the memory key, a cause, or a mark consumed by the walk. -/
inductive Acc where
  | ok (l : Loc)
  | bad (c : Cause)
  | walkMark
  deriving DecidableEq, Repr

/-- The root of a context's page tables: CORE_PTROOT without its reserved bits (R337). -/
def ctxRoot (i : CtxInfo) : Nat := bits i.ptroot 51 12 * 4096

/-- An address's bits [63:57] all equal bit 56 (R169). -/
def canonical (va : Dword) : Bool := bits va.toNat 63 56 == 0 || bits va.toNat 63 56 == 255

/-- The access a leaf gives, by steps 4 and 5 of R179. -/
def State.useLeaf (s : State) (die part : Nat) (sup : Bool) (k : AccKind) (level : Nat) (e : Dword) (va : Nat) : Acc :=
  let pa := leafPa level e va
  if leafAllows sup k e && s.placeAllows die part k (leafKey e) pa then .ok ⟨memKey s.pkg.split die pa, leafKey e⟩
  else .bad .protect

/-- The partition of a context. -/
def State.partOf (s : State) (ctx : Nat) : Nat := ((tget s.ctxs ctx).map (·.info.part)).getD 0

/-- What a walk gives an access, by steps 3 to 5 of R179. -/
def State.useWalk (s : State) (die part : Nat) (sup : Bool) (k : AccKind) (va : Nat) : Walk → Acc
  | .fault => .bad .pagefault
  | .protect => .bad .protect
  | .mark => .walkMark
  | .leaf lv _ e => s.useLeaf die part sup k lv e va

/-- The translation that a core uses for an access: a fresh walk, or a cached copy that differs from it, an open choice (R328); a
copy that denies is walked again. -/
def State.found (s : State) (core : Nat) (sup : Bool) (k : AccKind) (ch : Nat) (va : Nat) : Walk :=
  let die := dieOfCore core
  let c := s.core core
  let part := s.partOf (c.ctx.getD 0)
  let fresh := s.walkRun die ch 5 c.ptroot va
  match c.tlb.find? fun t => decide (t.base ≤ va) && decide (va < t.base + t.size) with
  | some t =>
    if s.useLeaf die part sup k t.level t.leaf va = s.useWalk die part sup k va fresh then fresh
    else if leafAllows sup k t.leaf && s.free 5 ch % 2 == 1 then .leaf t.level 0 t.leaf
    else fresh
  | none => fresh

/-- An address translated and checked, steps 2 to 5 of R179, by the translation that the core uses. -/
def State.translate (s : State) (core : Nat) (sup : Bool) (k : AccKind) (ch : Nat) (va : Dword) : Acc :=
  if !canonical va then .bad .protect
  else s.useWalk (dieOfCore core) (s.partOf ((s.core core).ctx.getD 0)) sup k va.toNat (s.found core sup k ch va.toNat)

/-- The translation cache of a core after an access of a kind that a walk made for channel ch has allowed: it holds the leaf
walked (R327), in place of a copy that denied the access (R328). -/
def State.tlbFill (s : State) (core : Nat) (sup : Bool) (k : AccKind) (ch : Nat) (va : Dword) : State :=
  let c := s.core core
  let covers := fun (t : TlbEntry) => decide (t.base ≤ va.toNat) && decide (va.toNat < t.base + t.size)
  if c.tlb.any fun t => covers t && leafAllows sup k t.leaf then s
  else
    match s.walkRun (dieOfCore core) ch 5 c.ptroot va.toNat with
    | .leaf lv _ e =>
      let size := levelSize lv * (if bit e.toNat 5 then runLength lv else 1)
      s.modCore core fun c =>
        { c with tlb := ⟨va.toNat / size * size, size, lv, e⟩ :: c.tlb.filter fun t => !covers t }
    | _ => s

/-! ### Raising and lowering the window (R34 to R36) -/

/-- Logical registers lo up to hi of a lane given free values of a kind (log entry 6). -/
def State.freeRegs (s : State) (kind lo hi l : Nat) (ln : Lane) : Lane :=
  let put := fun t i => tset t (lo + i) (BitVec.ofNat 32 (s.free kind (l + 32 * i)))
  { ln with regs := (List.range (hi - lo)).foldl put ln.regs }

/-- How many logical registers of a crew are spilled (R34, R36). -/
def Crew.spilledRegs (c : Crew) : Nat := c.depth + c.window - c.allot

/-- The spill-area bytes that what a crew has spilled takes (R36). -/
def Crew.spillBytes (c : Crew) : Nat := spillNeed (4 * c.nsl) c.nsl c.window c.allot c.depth c.linkDepth

/-- The places and lengths of bytes 64 up to n of a crew's spill area, page by page (R36, R169). A page that does not
translate to local memory has none (log entry 6). -/
def State.spillPlaces (s : State) (c : Crew) (n : Nat) : List (Loc × Nat) :=
  let b := c.spillBase.toNat
  (List.range (n / 4096 + 2)).filterMap fun i =>
    let a := max (b + 64) ((b / 4096 + i) * 4096)
    let e := min (b + n) ((b / 4096 + i + 1) * 4096)
    if a < e then
      match s.translate c.core true .write (2 ^ 20 + i) (BitVec.ofNat 64 a) with
      | .ok l => if isLocal l.pa then some (l, e - a) else none
      | _ => none
    else none

/-- A crew with the places of its spill area noted, while it holds anything spilled. -/
def State.noteSpill (s : State) (c : Crew) : Crew :=
  { c with spillSegs := if c.spillBytes = 0 then [] else s.spillPlaces c c.spillSize }

/-- The fill of a slide of k would read a mark in the spill area (R345). -/
def State.fillMarked (s : State) (c : Crew) (k : Nat) : Bool :=
  (decide (c.depth - k + c.window - c.allot < c.spilledRegs) || decide (16 < c.linkDepth)) &&
    (s.spillPlaces c c.spillBytes).any fun p => s.marked p.1.pa p.2

/-- Hardware's write of n bytes of a spill area (R35): their values are free, since the layout is not architectural (R36,
log entry 6); granules written whole lose their marks, and nothing bumps (R393). -/
def State.spillWrite (s : State) (l : Loc) (n : Nat) : State :=
  let bs := (List.range n).map fun i => BitVec.ofNat 8 (s.free 16 (l.pa + i))
  let whole := (granules l.pa n).filter fun g => decide (l.pa ≤ 32 * g) && decide (32 * g + 32 ≤ l.pa + n)
  (whole.foldl State.unmark (s.rekey l n)).poke l.pa bs

/-- The spill area written when a crew that was `old` has more spilled as `new` (R35). -/
def State.spillOut (s : State) (old new : Crew) : State :=
  if old.spilledRegs < new.spilledRegs ∨ old.linkDepth - 16 < new.linkDepth - 16 then
    (s.spillPlaces new new.spillBytes).foldl (fun s p => s.spillWrite p.1 p.2) s
  else s

/-- The crew's window raised by k. Logical registers that enter the allotment hold values the spec does not give: free
values (log entry 6). -/
def State.raise (s : State) (c : Crew) (k : Nat) : Crew :=
  let lo := max (c.depth + c.window) c.allot
  let hi := c.depth + k + c.window
  s.noteSpill { (c.modLanes (c.live (List.range c.nsl)) fun l ln => s.freeRegs 1 lo hi l ln) with depth := c.depth + k }

/-- A slice's links with those that are spilled replaced by free values (R36, log entry 6). -/
def State.freeLinks (s : State) (j : Nat) (ls : List Link) : List Link :=
  ls.take 16 ++ (ls.drop 16).zipIdx.map fun e =>
    ⟨BitVec.ofNat 64 (4 * s.free 17 (j + 8 * e.2)), 8 * (s.free 18 (j + 8 * e.2) % 9)⟩

/-- What a fill finds: what was spilled, or free values for all of it when another agent has written the spill area
(R36, log entry 6). -/
def State.refill (s : State) (c : Crew) : Crew :=
  if c.spillLost then
    let c := c.modLanes (c.live (List.range c.nsl)) fun l ln => s.freeRegs 2 0 c.spilledRegs l ln
    { ((List.range 8).foldl (fun (c : Crew) j => c.modSlice j fun sl => { sl with links := s.freeLinks j sl.links }) c) with
      spillLost := false }
  else c

/-- The crew's window lowered by k, with what the fill brings back. Registers above the allotment are gone. -/
def State.lower (s : State) (c : Crew) (k : Nat) : Crew :=
  let D := c.depth - k
  let c := if D + c.window - c.allot < c.spilledRegs then s.refill c else c
  let m := c.live (List.range c.nsl)
  s.noteSpill { (c.modLanes m fun _ ln =>
      { ln with regs := ln.regs.filter fun e => decide (e.1 < max (D + c.window) c.allot) }) with depth := D }

/-! ### Operations, tokens and wakes (R228 to R237) -/

/-- The step that an operation whose preconditions have completed sends; others the state itself calls for. -/
def startEvent (id : Nat) : OpBody → Option Event
  | .copy _ => none
  | .mat _ => none
  | .furlong _ => none
  | .coll _ => some (.collStart id)
  | .tree _ => some (.treeOpComplete id)
  | .send .. => some (.messageResend id)
  | .launch _ => none
  | .acquire => none

/-- Recorded preconditions once an owner completes (R231). -/
def Pre.settle (p : Pre) (id : Nat) (poison : Bool) : Pre :=
  if p.owners.contains id then { owners := p.owners.filter (· != id), poisoned := p.poisoned || poison } else p

/-- Every recorded precondition of an operation, members' included. -/
def Op.pres (o : Op) : List Pre :=
  o.pre :: (match o.body with
    | .mat m => m.members.map (·.pre)
    | .furlong f => f.members.map (·.pre)
    | _ => [])

/-- An operation once an owner completes. -/
def Op.settle (o : Op) (id : Nat) (poison : Bool) : Op :=
  let mem := fun (m : Member) => { m with pre := m.pre.settle id poison }
  { o with
    pre := o.pre.settle id poison
    body := match o.body with
      | .mat m => .mat { m with members := m.members.map mem }
      | .furlong f => .furlong { f with members := f.members.map mem }
      | b => b }

/-- All preconditions of an operation have completed, and all its members have issued (R231, R292). -/
def Op.clear (o : Op) : Bool :=
  o.pres.all (fun p => p.owners.isEmpty) &&
  (match o.body with
   | .mat m => decide (m.need ≤ m.members.length)
   | .furlong f => decide (f.need ≤ f.members.length)
   | _ => true)

/-- A precondition of an operation is poisoned. -/
def Op.poisonedPre (o : Op) : Bool := o.pres.any (·.poisoned)

/-- The crew's token state named by an operation's completion. -/
def Token.completed (t : Token) (id bytes : Nat) (poison : Bool) : Token :=
  if t.st = .pending id then { st := if poison then .poisoned else .done, bytes := bytes, exports := [] } else t

/-- The steps that a token's exports fire (R236, R237), all its bytes subtracted, for a crew of a core, block and context. -/
def exportSteps (core block ctx bytes : Nat) (poison : Bool) (es : List Export) : List Event :=
  es.map fun e => match e with
    | .bar pa va => .barrierUpdate ⟨dieOfCore core, pa, va, true, -(bytes : Int), poison, block, ctx⟩
    | .task pa => .taskDepcountDecrement pa 1 poison

/-- Whether some token of a mask is pending (R234: a free token counts as done). -/
def Crew.anyPending (c : Crew) (m : Word) : Bool :=
  (List.range 32).any fun i => m.getLsbD i && (match (c.tok i).st with | .pending _ => true | _ => false)

/-- Whether some token of a mask is not pending. -/
def Crew.anySettled (c : Crew) (m : Word) : Bool :=
  (List.range 32).any fun i => m.getLsbD i && (match (c.tok i).st with | .pending _ => false | _ => true)

/-- A sealed batch number is covered by n (R279); 0 covers nothing (R281). -/
def covers (n b : Word) : Bool := n != 0 && decide ((n - b).toNat < 2 ^ 31)

/-- Every copy of every batch covered by n has completed (R281). -/
def Slice.batchDone (sl : Slice) (n : Word) : Bool :=
  sl.batch.recs.all fun r => !covers n r.num || r.copies.isEmpty

/-- A slice's token or batch wait can end (R234, R281). -/
def Crew.waitOver (c : Crew) (j : Nat) : Option Event → Option Event := fun ev =>
  match (c.slice j).wait with
  | .tokens m any _ _ =>
    if (any && (m == 0 || c.anySettled m)) || (!any && !c.anyPending m) then ev else none
  | .batch _ _ =>
    if (c.present.filter fun i => (c.slice i).gang == (c.slice j).gang).all fun i =>
      match (c.slice i).wait with | .batch n _ => (c.slice i).batchDone n | _ => true then ev else none
  | _ => none

/-- The lead of a slice's gang: its lowest slice. -/
def Crew.gangLead (c : Crew) (j : Nat) : Nat :=
  (c.present.find? fun i => (c.slice i).gang == (c.slice j).gang).getD j

/-- The steps that wake the gangs of a crew whose token or batch wait can end. -/
def Crew.wakeSteps (k : Nat) (c : Crew) : List Event :=
  c.present.filterMap fun j =>
    match (c.slice j).wait with
    | .tokens .. => if c.gangLead j = j then c.waitOver j (some (.tokenWaitWake k j)) else none
    | .batch .. => c.waitOver j (some (.batchWaitWake k (c.gangLead j)))
    | _ => none

/-- A slice's batches once a copy completes (R280): a record whose copies have all completed clean retires. -/
def Batches.settle (b : Batches) (id : Nat) (poison : Bool) : Batches :=
  { b with
    opened := b.opened.filter (· != id)
    openPoison := b.openPoison || (poison && b.opened.contains id)
    recs := (b.recs.map fun r =>
      if r.copies.contains id then { r with copies := r.copies.filter (· != id), poisoned := r.poisoned || poison } else r)
      |>.filter fun r => !(r.copies.isEmpty && !r.poisoned) }

/-- A crew's batches and deferred arrivals once a copy completes (R250, R280). -/
def Crew.settle (c : Crew) (id : Nat) (poison : Bool) : Crew :=
  { (c.modSlices (List.range 8) fun sl => { sl with batch := sl.batch.settle id poison }) with
    deferred := c.deferred.map fun d => { d with copies := d.copies.filter (· != id) } }

/-- The crew has no slice that has not exited, no pending token and no deferred arrival still to be made (R123, R250). -/
def Crew.finished (c : Crew) : Bool := c.present.isEmpty && !c.anyPending 0xFFFFFFFF && c.deferred.isEmpty

/-- A REGANG wait with a mask completes: every named slice that has not exited waits with that mask (R124). -/
def Crew.regangDone (c : Crew) (m : BitVec 8) : Bool :=
  c.present.all fun j => !m.getLsbD j || (c.slice j).wait == .regang m

/-- Every slice that has not exited waits at a SYNCC (R125). -/
def Crew.syncDone (c : Crew) : Bool := !c.present.isEmpty && c.present.all fun j => (c.slice j).wait == .sync

/-- The REGANG masks some slice waits with. -/
def Crew.regangMasks (c : Crew) : List (BitVec 8) :=
  (c.present.filterMap fun j => match (c.slice j).wait with | .regang m => some m | _ => none).dedup

/-- Every slice that has not exited waits at REGANG or SYNCC, and no wait can complete (R122). -/
def Crew.deadlocked (c : Crew) : Bool :=
  !c.present.isEmpty && !c.syncDone && !(c.regangMasks.any c.regangDone) &&
    c.present.all fun j => match (c.slice j).wait with | .regang _ => true | .sync => true | _ => false

/-- The steps that the waits of R122, R124 and R125 call for. -/
def Crew.gangSteps (k : Nat) (c : Crew) : List Event :=
  (c.regangMasks.filter c.regangDone).map (fun m => Event.regangComplete k m) ++
    (if c.syncDone then [.synccComplete k] else []) ++ (if c.deadlocked then [.crewDeadlock k] else [])

/-- The steps that a crew's state calls for: wakes, waits of its slices for one another, a performable deferred arrival,
its retirement. -/
def State.crewSteps (s : State) (k : Nat) : List Event :=
  match tget s.crews k with
  | some c =>
    c.wakeSteps k ++ c.gangSteps k ++ (if c.deferred.any fun d => d.copies.isEmpty then [.deferredArrival k] else []) ++
      (if c.finished then [.crewRetire k] else [])
  | none => []

/-- The context of a crew's block. -/
def State.ctxOf (s : State) (c : Crew) : Nat := ((tget s.blocks c.block).map (·.ctx)).getD 0

/-- One crew's token once its operation completes, and what its exports fire. -/
def State.completeToken (s : State) (k tok id bytes : Nat) (poison : Bool) : State :=
  match tget s.crews k with
  | some c =>
    let es := if (c.tok tok).st = .pending id then
        exportSteps c.core c.block (s.ctxOf c) bytes poison (c.tok tok).exports else []
    let s := { s with due := s.due ++ es }
    let s := s.setCrew k { (c.modTok tok fun t => t.completed id bytes poison) with macros := tdel c.macros tok }
    s.pushAll (s.crewSteps k)
  | none => s

/-- A place in start order (R232): the first clock at which the operation may start, then its number, in issue order. -/
def orderAt (clk id : Nat) : Nat := clk * 2 ^ 64 + id

/-- An operation's place in start order has come. -/
def Op.mayStart (o : Op) (clk : Nat) : Bool :=
  match o.order with
  | some v => decide (v / 2 ^ 64 ≤ clk)
  | none => false

/-- The operations that an operation's completion lets start (R231, R232), each given its place: those whose last
preconditions complete in one clock start after it, in issue order. -/
def State.settleOps (s : State) (id : Nat) (poison : Bool) : State :=
  s.ops.foldl (fun (s : State) (e : Nat × Op) =>
    let o := e.2.settle id poison
    if o = e.2 then s
    else
      let s := { s with ops := tset s.ops e.1 o }
      if o.clear && o.order.isNone then
        let s := { s with ops := tset s.ops e.1 { o with order := some (orderAt (s.clk + 1) e.1) } }
        match startEvent e.1 o.body with
        | some ev => s.push ev
        | none => s
      else s) s

/-- The tiles an operation named at its issue, by identity (R162). -/
def Op.tiles (o : Op) : List Nat :=
  match o.body with
  | .copy c => [c.src.uid, c.dst.uid, c.idx.uid].filterMap id
  | .mat m => ([m.acc.uid, m.bTile.uid] ++ m.members.flatMap fun x => [x.aTile.uid, x.wTile.uid]).filterMap id
  | _ => []

/-- Some operation in flight named a tile at its issue. -/
def State.tileNamed (s : State) (uid : Nat) : Bool := s.ops.any fun e => e.2.tiles.contains uid

/-- Freed tiles that no operation in flight names return their storage and number (R162). -/
def State.reapTiles (s : State) : State :=
  let reap := fun (b : Block) =>
    if b.tiles.any fun t => t.2.freeing then
      { b with tiles := b.tiles.filter fun t => !(t.2.freeing && !s.tileNamed t.2.uid) }
    else b
  { s with blocks := tmap s.blocks fun _ b => reap b, orphans := s.orphans.filter fun t => s.tileNamed t.1 }

/-- An operation completes (R229, R231, R236): it leaves the tables, every token it owns becomes done or poisoned and
fires its exports, recorded preconditions settle, batches and deferred arrivals settle, and waits that can end wake. -/
def State.completeOp (s : State) (id : Nat) (toks : List (Nat × Nat)) (bytes : Nat) (poison : Bool) : State :=
  match tget s.ops id with
  | some o =>
    let s := { s with ops := tdel s.ops id }
    let s := s.modCrew o.crew fun c => c.settle id poison
    let s := toks.foldl (fun s t => s.completeToken t.1 t.2 id bytes poison) s
    let s := s.settleOps id poison
    (s.reapTiles).pushAll (s.crewSteps o.crew)
  | none => s

/-- One entry appended to a crew's engine fault record, the oldest dropped when eight are held (R325). -/
def Crew.addEfr (c : Crew) (e : EfrEntry) : Crew :=
  if c.efr.length < 8 then { c with efr := c.efr ++ [e] } else { c with efr := c.efr.drop 1 ++ [e], efrLost := true }

/-! ### Barrier objects (R239, R241) -/

/-- A barrier object from its bits (R239). -/
def BarObj.ofNat (v : Nat) : BarObj :=
  { phase := BitVec.ofNat 32 v, expected := bits v 47 32, parr := bits v 63 48, pbytes := BitVec.ofNat 32 (bits v 95 64)
    valid := bit v 96, cpoison := bit v 97, lpoison := bit v 98, scope := bits v 101 99, nbound := bits v 111 104
    regions := BitVec.ofNat 64 (bits v 191 128), conthead := BitVec.ofNat 64 (bits v 255 192) }

/-- A barrier object's bits (R239). -/
def BarObj.toNat (o : BarObj) : Nat :=
  o.phase.toNat + o.expected * 2 ^ 32 + o.parr * 2 ^ 48 + o.pbytes.toNat * 2 ^ 64 + o.valid.toNat * 2 ^ 96 +
    o.cpoison.toNat * 2 ^ 97 + o.lpoison.toNat * 2 ^ 98 + o.scope * 2 ^ 99 + o.nbound * 2 ^ 104 +
    o.regions.toNat * 2 ^ 128 + o.conthead.toNat * 2 ^ 192

/-- A barrier object written back to memory. -/
def State.writeBar (s : State) (pa : Nat) (o : BarObj) : State := s.hwPoke pa (natBytes o.toNat 64)

/-- A barrier's fields, from the core that caches it or from memory (R241). -/
def State.barObj (s : State) (pa : Nat) : BarObj :=
  match (tget s.bars pa).bind (·.cached) with
  | some o => o
  | none => BarObj.ofNat (memNat s.mem pa 64)

/-- A block of the cluster that a barrier belongs to is held in the Hogshead: what happens to the barrier changes only memory
(R342). -/
def State.barOut (s : State) (b : Bar) : Bool := s.blocks.any fun e => e.2.out && e.2.cluster == b.cluster

/-- One of a core's 2,048 entries for barriers is free (R241). -/
def State.barRoom (s : State) (core : Nat) : Bool :=
  decide ((s.bars.filter fun e => e.2.core == core && e.2.cached.isSome).length < 2048)

/-- A barrier's fields changed: in the entry of its core for a scope of block or cluster while one of the 2,048 is there,
else in memory (R241). -/
def State.barPut (s : State) (pa : Nat) (o : BarObj) : State :=
  match tget s.bars pa with
  | some b =>
    if b.cached.isSome || (decide (o.scope ≤ 1) && s.barRoom b.core && !s.barOut b) then
      { s with bars := tset s.bars pa { b with cached := some o } }
    else s.writeBar pa o
  | none => s.writeBar pa o

/-- An access to a barrier of block or cluster scope that was written back caches it again on its core (R241). -/
def State.recache (s : State) (pa : Nat) (o : BarObj) : State :=
  match tget s.bars pa with
  | some b =>
    if b.cached.isNone && decide (o.scope ≤ 1) && s.barRoom b.core && !s.barOut b then
      { s with bars := tset s.bars pa { b with cached := some o } }
    else s
  | none => s

/-- The continuation record that an object names: of those that are registered, on this device and on others, the one that
was registered first. -/
def headOf (cs : List Cont) (rs : List Remote) : Dword :=
  let all := (cs.map fun t => (t.born, t.recVa)) ++ rs.filterMap fun r => r.rec_.map fun v => (r.born, v)
  ((all.foldl (fun (m : Option (Nat × Dword)) e => match m with
    | some a => if e.1 < a.1 then some e else some a
    | none => some e) none).map (·.2)).getD 0

/-- The cached barriers that satisfy p written back to their objects (R241). -/
def State.writeBack (s : State) (p : Bar → Bool) : State :=
  s.bars.foldl (fun (s : State) e =>
    match e.2.cached with
    | some o => if p e.2 then { (s.writeBar e.1 o) with bars := tset s.bars e.1 { e.2 with cached := none } } else s
    | none => s) s

/-! ### Retirement (R123, R155, R290, R292) -/

/-- The crews of a block. -/
def State.crewsOf (s : State) (b : Nat) : List Nat := (s.crews.filter fun e => e.2.block == b).map (·.1)

/-- The continuations a block has registered. -/
def State.contsOf (s : State) (b : Nat) : List Cont := s.bars.flatMap fun e => e.2.conts.filter (·.block == b)

/-- The engine granted to the first waiting owner (R290). -/
def State.grantOwner (s : State) (core : Nat) : State :=
  match (s.core core).owner, (s.core core).ownq with
  | none, id :: r =>
    match tget s.ops id with
    | some o =>
      let s := s.modCore core fun c => { c with owner := some o.crew, ownq := r }
      s.completeOp id (o.token.toList.map fun t => (o.crew, t)) 0 false
    | none => s.modCore core fun c => { c with ownq := r }
  | _, _ => s

/-- The members of a collective operation. -/
def Op.members (o : Op) : List Member :=
  match o.body with
  | .mat m => m.members
  | .furlong f => f.members
  | _ => []

/-- A collective operation still waits for members (R292). -/
def Op.collecting (o : Op) : Bool :=
  match o.body with
  | .mat m => decide (m.members.length < m.need)
  | .furlong f => decide (f.members.length < f.need)
  | _ => false

/-- Two crews are of one team (R116). -/
def sameTeam (a b : Crew) : Bool := a.block == b.block && a.team != 0 && b.team == a.team && a.crewIx / a.team == b.crewIx / b.team

/-- N of a control word (R294). -/
def ctlN (c : Word) : Nat := 64 * 2 ^ (c.extractLsb' 12 2).toNat

/-- The destination bytes of an operation that a team collects, whole or cancelled (R237, R304): 128 × N. The N of a macro
whose parameter block has not been read is an open value (log entry 97). -/
def State.teamBytes (s : State) (id : Nat) (o : Op) : Nat :=
  match o.body with
  | .mat m => 128 * ctlN (((m.members.map (·.g)).headD []).getD 1 0)
  | .furlong f => 128 * (match f.pb with
      | some pb => bytesNat ((pb.drop 0x0E).take 2)
      | none => s.free 22 id % 2 ^ 16)
  | _ => 0

/-- A crew has exited: every open collection of its team that not every member has joined is cancelled (R292); a macro's tokens keep
its report (R316). -/
def State.cancelTeam (s : State) (k : Nat) : State :=
  match tget s.crews k with
  | none => s
  | some c =>
    s.ops.foldl (fun (s : State) e =>
      match tget s.crews e.2.crew with
      | some f =>
        if e.2.collecting && sameTeam c f then
          let s := e.2.members.foldl (fun (s : State) m => s.modCrew m.crew fun c =>
            c.addEfr ⟨Cause.code .team, m.token, false, 0xFFFF, 0⟩) s
          let s := s.completeOp e.1 (e.2.members.map fun m => (m.crew, m.token)) (s.teamBytes e.1 e.2) true
          match e.2.body with
          | .furlong _ => e.2.members.foldl (fun (s : State) m => s.modCrew m.crew fun c =>
              { c with macros := tset c.macros m.token (false, 0, 0) }) s
          | _ => s
        else s
      | none => s) s

/-- What follows when a crew may have no slice left that has not exited. -/
def State.afterExit (s : State) (k : Nat) : State :=
  match tget s.crews k with
  | some c => if c.present.isEmpty then (s.cancelTeam k).pushAll (s.crewSteps k) else s.pushAll (s.crewSteps k)
  | none => s

/-- A block retires (R123): its tiles are freed, but those that a CPYX of another block names (R267); the barriers cached
for it are written back (R241); its node counts it (R155). -/
def State.retireBlock (s : State) (b : Nat) : State :=
  match tget s.blocks b with
  | some x =>
    let s := s.writeBack fun r => r.block == b
    let kept := x.tiles.filter fun t => s.tileNamed t.2.uid
    let s := { s with
      blocks := tdel s.blocks b
      orphans := kept.foldl (fun (o : Table Orphan) (t : Nat × Tile) => tset o t.2.uid ⟨x.core, t.2⟩) s.orphans }
    s.modNode x.node fun n => { n with retired := n.retired + 1, faulted := n.faulted || x.stopped }
  | none => s

/-- The continuations of a block taken out of their barriers' lists, at the barriers' levels (R254): the object names the
first that is left, and the records are software's again. -/
def State.dropConts (s : State) (b : Nat) : State :=
  s.bars.foldl (fun (s : State) e =>
    if e.2.conts.any fun t => t.block == b then
      let rest := e.2.conts.filter fun t => t.block != b
      let s := (e.2.conts.filter fun t => t.block == b).foldl (fun (s : State) t => s.unguard t.rec_) s
      let s := { s with bars := tset s.bars e.1 { e.2 with conts := rest } }
      if isLocal e.1 && !s.tainted.contains e.1 then s.barPut e.1 { s.barObj e.1 with conthead := headOf rest e.2.remotes } else s
    else s) s

/-- A block whose crews have all retired retires, unless it holds a registered continuation (R123, R254); those of a block that a
fault has ended are removed first (R321). -/
def State.blockOver (s : State) (b : Nat) : State :=
  if (s.crewsOf b).isEmpty then
    let s := if (tget s.blocks b).any (·.stopped) then s.dropConts b else s
    if (s.contsOf b).isEmpty then s.retireBlock b else s
  else s

/-- A crew retires (R123, R290): its ownership of the engine ends, and its block retires with its last crew. -/
def State.retireCrew (s : State) (k : Nat) : State :=
  match tget s.crews k with
  | some c =>
    let s := { s with crews := tdel s.crews k }
    let s := s.modCore c.core fun x =>
      { x with owner := if x.owner = some k then none else x.owner, monitors := x.monitors.filter (·.1 != k) }
    ((s.grantOwner c.core).blockOver c.block)
  | none => s

/-! ### Ending blocks and containment (R321, R345) -/

/-- A block ends as ERET 3 ends it (R321): its crews stop; accesses and engine operations that have been issued complete, with the
deferred arrivals that they let be made; then its registered continuations are removed with the allotments they held (R254),
and it retires with a fault. -/
def State.endBlock (s : State) (b : Nat) : State :=
  let ks := s.crewsOf b
  let s := s.modBlock b fun x => { x with stopped := true }
  let s := ks.foldl (fun s k =>
    let s := s.modCrew k fun c =>
      { (c.modSlices (List.range 8) fun sl => { sl with exited := true, wait := .none }) with role := none, claimed := false }
    s.afterExit k) s
  s.blockOver b

/-- Every block of a context ends, and its queues stop (level 1 of R345). -/
def State.endCtx (s : State) (ctx : Nat) : State :=
  let bs := (s.blocks.filter fun e => e.2.ctx == ctx).map (·.1)
  let s := bs.foldl State.endBlock s
  { s with ctxs := tmod s.ctxs ctx fun c => { c with stopped := true } }

/-- The rows of SEC_ESCAL (R345), by the low bit of their field. -/
def escalLevel (r : BitVec 12) (row : Nat) : Nat := if row = 0 then 3 else bits r.toNat (row + 1) row

/-- The device that a die is part of stops every partition, reports each one, and is held until reset (level 3 of R345): the
package, or in split mode the die. -/
def State.stopDevice (s : State) (die : Nat) : State :=
  let mine := s.ctxs.filter fun e => !s.pkg.split || e.2.info.die == die
  let ps := (mine.map fun e => e.2.info.part).dedup
  let s := ps.foldl (fun (s : State) p => s.emit (.report p 3)) s
  if s.pkg.split then
    let s := s.modDie die fun d => { d with down := true }
    { s with pkg := { s.pkg with held := (s.die 0).down && (s.die 1).down } }
  else { s with pkg := { s.pkg with held := true } }

/-- The die on which a mark is consumed: that of the block, else of the context. -/
def State.dieOfUse (s : State) (block ctx : Option Nat) : Nat :=
  match block.bind (tget s.blocks) with
  | some b => dieOfCore b.core
  | none => ((ctx.bind (tget s.ctxs)).map (·.info.die)).getD 0

/-- A mark consumed by an agent of R345's table acts at its level: block, context, partition or device. A row's number is
the low bit of its field. -/
def State.contain (s : State) (row : Nat) (block ctx : Option Nat) : State :=
  let endC := fun (s : State) => match ctx with
    | some c => (s.endCtx c).emit (.escalate c (Cause.code .dataerr) 0)
    | none => s
  match escalLevel s.pkg.escal row with
  | 0 => match block with
    | some b => s.endBlock b
    | none => endC s
  | 1 => endC s
  | 2 =>
    match ctx with
    | some c =>
      let p := s.partOf c
      let s := (s.ctxs.filter fun e => e.2.info.part == p).foldl (fun s e => s.endCtx e.1) s
      { (s.emit (.report p 2)) with parts := tset s.parts (s.partKey 0 p) { s.part 0 p with stopped := true } }
    | none => s
  | _ => s.stopDevice (s.dieOfUse block ctx)

/-! ### Taking an exception and returning from one (R317 to R322) -/

/-- A gang of a trapped crew is held when it is no part of the gang that took the trap (R319). -/
def Crew.heldFor (c : Crew) (js : List Nat) : Bool :=
  match c.sup with
  | some sv => !(js.all fun j => sv.slices.contains j)
  | none => false

/-- BREAK and MONITOR are taken in supervisor state too where the debug link is admitted to the context's partition (R320, R441;
log entry 26). -/
def State.underDebug (s : State) (c : Crew) (cause : Cause) : Bool :=
  (cause == .brk || cause == .monitor) &&
    (s.part (dieOfCore c.core) (s.partOf (s.ctxOf c))).dbgGrant.getLsbD (dieOfCore c.core)

/-- An exception of the gang of slices js of crew k (R317): the trap record is written, the gang's PCs, modes, predicates
and the crew's depths are saved, D rises by W, the modes become 0x0008 and the PCs CORE_TVEC + 64 × code. A spill that
does not fit ends the block with cause SPILL; a trap in supervisor state ends it too, but for those of the debug link (R320). -/
def State.takeTrap (s : State) (k : Nat) (js : List Nat) (cause : Cause) (mask : BitVec 32) (code : BitVec 13)
    (addrs : Table Dword) (writes : BitVec 32) : State :=
  match tget s.crews k with
  | none => s
  | some c =>
    let pc := (c.slice (js.headD 0)).pc
    let ctx := ((tget s.blocks c.block).map (·.ctx)).getD 0
    if c.sup.isSome && !s.underDebug c cause then (s.endBlock c.block).emit (.escalate ctx cause.code pc)
    else if !c.fits (c.depth + c.window) c.linkDepth then
      (s.endBlock c.block).emit (.escalate ctx (Cause.code .spill) pc)
    else
      let sv : Saved :=
        { slices := js, pcs := js.map fun j => (c.slice j).pc, modes := js.map fun j => (c.slice j).mode,
          preds := c.lanes.toList.map (·.preds), depth := c.depth, links := js.map fun j => (c.slice j).links.length
          clk := s.clk }
      let up := s.raise
        { c with trap := ⟨cause.code, mask, code, pc, addrs, writes⟩, sup := some sv, nested := c.sup.toList ++ c.nested } c.window
      let vec := (s.core c.core).tvec + BitVec.ofNat 64 (64 * cause.code)
      (s.spillOut c up).setCrew k (up.modSlices js fun sl =>
        { sl with
          mode := 0x0008, pc := vec, wait := .none, readyAt := s.clk + 1, since := s.clk + 1, lastIssue := s.clk + 1
          aged := false, stepped := false })

/-- The return of ERET 0 to 2 (R321): D falls by W with its fill, each slice's mode and each lane's p1 to p7 return, the
PC is set, and the held gangs are released; after a trap taken within a handler the handler goes on. -/
def State.leaveTrap (s : State) (k : Nat) (c : Crew) (sv : Saved) (pc : Dword → Dword) : State :=
  let c := s.lower c c.window
  let c := c.modLanes (c.live sv.slices) fun l ln => { ln with preds := sv.preds.getD l 0 }
  let c := (List.range sv.slices.length).foldl (fun (c : Crew) i =>
    c.modSlice (sv.slices.getD i 0) fun sl =>
      { sl with
        mode := sv.modes.getD i 0
        wait := .none
        pc := pc (sv.pcs.getD i 0)
        readyAt := max sl.readyAt (s.clk + 1) }) c
  let c := c.modSlices c.present fun sl => { sl with since := max sl.since (s.clk + 1) }
  s.setCrew k { c with sup := c.nested.head?, nested := c.nested.drop 1 }

/-! ### Fetching (R96, R329) -/

/-- What reading a word of code ends in. -/
inductive Fetched where
  | word (w : Word)
  | bad (c : Cause)
  | walkMark
  deriving DecidableEq, Repr

/-- The open choice of translation that an instruction fetch takes. -/
def fetchChoice : Nat := 99

/-- A word of code at an address, for a crew: translated as a fetch, refused where a mark lies, and read as memory stood
when the launch of the crew's block began (R96, R329). -/
def State.fetch (s : State) (c : Crew) (ch : Nat) (va : Dword) : Fetched :=
  match s.translate c.core c.sup.isSome .fetch ch va with
  | .ok l =>
    if s.marked l.pa 4 then .bad .dataerr
    else
      match (tget s.blocks c.block).bind fun b => tget s.nodes b.node with
      | some n => .word (BitVec.ofNat 32 (memNat n.code l.pa 4))
      | none => .word (BitVec.ofNat 32 (memNat s.mem l.pa 4))
  | .bad e => .bad e
  | .walkMark => .walkMark

/-- A mark that a translation's walk consumed is contained as the page-table row of R345 states; the access never
completes. -/
def State.walkContain (s : State) (c : Crew) : State :=
  s.contain 10 (some c.block) ((tget s.blocks c.block).map (·.ctx))

end Sys2Proof.Machine
end

