-- ==== Sys2Proof/Machine/Operands.lean ====
section
/-! DEFINITION. How a word issues: the operands it names, the lanes or slices it acts in, the checks made before its
effect and their order (R34, R37, R41, R49 to R58, R83, R90, R93, R119, R121), and how it completes (R53 to R56). -/

namespace Sys2Proof.Machine

/-- What a step answers. -/
abbrev Res := Host.Outcome State Fault Refusal

/-! ### Registers named -/

/-- Consecutive registers from a base, and the alignment the base needs (R37). -/
structure Grp where
  base : Nat
  count : Nat
  align : Nat
  deriving DecidableEq, Repr

/-- One register. -/
def r1 (i : BitVec 6) : Grp := ⟨i.toNat, 1, 1⟩
/-- An even pair (R37). -/
def r2 (i : BitVec 6) : Grp := ⟨i.toNat, 2, 2⟩
/-- A quad at a multiple of 4 (R37). -/
def r4 (i : BitVec 6) : Grp := ⟨i.toNat, 4, 4⟩
/-- A pair or a single register. -/
def rw (pair : Bool) (i : BitVec 6) : Grp := if pair then r2 i else r1 i

/-- The registers of a group. -/
def Grp.list (g : Grp) : List Nat := (List.range g.count).map (g.base + ·)

/-- The group lies below the window size and is aligned (R34, R37, R83). -/
def Grp.ok (W : Nat) (g : Grp) : Bool := decide (g.base + g.count ≤ W) && g.base % g.align == 0

/-- What an instruction reads and writes in a slice: registers, predicates, the handle-class registers among those read
(R50), and the latency of its fixed-latency results, 0 for none (R54). -/
structure Foot where
  reads : List Grp := []
  writes : List Grp := []
  readsP : List Nat := []
  writesP : List Nat := []
  handles : List Grp := []
  lat : Nat := 0

/-- Every register an instruction reads. -/
def Foot.regs (f : Foot) : List Nat := (f.reads ++ f.handles).flatMap Grp.list

/-- Every register it writes. -/
def Foot.dsts (f : Foot) : List Nat := f.writes.flatMap Grp.list

/-- Every group lies in the window and is aligned. -/
def Foot.ok (W : Nat) (f : Foot) : Bool := (f.reads ++ f.writes ++ f.handles).all (Grp.ok W)

/-! ### Element types (R40, R85) -/

/-- Codes 2 and 3 name pairs of registers (R85). -/
def etPair (e : Nat) : Bool := e == 2 || e == 3
/-- The element width of an integer instruction (R62, R85). -/
def etWidth (e : Nat) : Nat := if etPair e then 64 else if e = 4 ∨ e = 5 then 16 else if e = 6 ∨ e = 7 then 8 else 32
/-- The signed etypes, every floating one among them (R85). -/
def etSigned (e : Nat) : Bool := e % 2 == 0 || decide (8 ≤ e)
/-- The packed integer etypes. -/
def etPacked (e : Nat) : Bool := decide (4 ≤ e) && decide (e ≤ 7)

/-! ### The gang that issues -/

/-- How a guard decides (R41, R90, R93, R121): lane by lane, not at all, slice by slice, or for the whole gang. -/
inductive GuardKind where
  | lane | ignored | slice | gang
  deriving DecidableEq, Repr

/-- One issue: the state and crew as they stand, the crew as its sources read (R56), the gang's slices, its live lanes,
the lanes or the lanes of the slices that act, the stall count, and the operands per mode. -/
structure Issue where
  s : State
  k : Nat
  c : Crew
  v : Crew
  js : List Nat
  live : BitVec 32
  act : BitVec 32
  st : Nat
  fp : BitVec 13 → Foot

/-- What an instruction states before its effect: U, S, operands, guard, what of the word and the gang is ILLEGAL
whatever the guard, what of registers and state is ILLEGAL when it acts and with which mask (R58), the mode bits it consults once for the
gang (R119), whether its predicates are sources that R52 checks (not the selector of SEL, R105), the window registers it
reads in every acting lane besides those its operand fields name (R295), and, for a lane exchange, the lanes and registers
that each lane reads (R130, R131). -/
structure Head where
  u : Bool := false
  st : BitVec 3
  fp : BitVec 13 → Foot := fun _ => {}
  guard : GuardKind := .lane
  word : Issue → Bool := fun _ => false
  dyn : Issue → Bool := fun _ => false
  dynMask : Issue → BitVec 32 := Issue.live
  cons : BitVec 13 := 0
  checkP : Bool := true
  also : Issue → List Nat := fun _ => []
  across : Option (Issue → Nat → List (Nat × Nat)) := none

/-- The mode of lane l's slice. -/
def Issue.mode (x : Issue) (l : Nat) : BitVec 13 := (x.c.slice (l / 4)).mode

/-- The PC the gang is at. -/
def Issue.pc (x : Issue) : Dword := (x.c.slice (x.js.headD 0)).pc

/-- Window register xi of lane l as the instruction reads it. -/
def Issue.reg (x : Issue) (l : Nat) (i : Nat) : Word := (x.v.lane l).get x.v.depth i

/-- The pair at xi of lane l as the instruction reads it. -/
def Issue.reg64 (x : Issue) (l : Nat) (i : Nat) : Dword := (x.v.lane l).get64 x.v.depth i

/-- Predicate pi of lane l as the instruction reads it. -/
def Issue.pred (x : Issue) (l i : Nat) : Bool := (x.v.lane l).pred i

/-- The slices that hold acting lanes. -/
def Issue.actors (x : Issue) : List Nat := x.js.filter fun j => sliceBits x.act j != 0

/-- The slices of the gang that act, when the guard is decided per slice: their guard holds in every live lane. -/
def guardIn (c : Crew) (js : List Nat) : BitVec 32 :=
  maskOf fun l => js.contains (l / 4) && (c.slice (l / 4)).live.getLsbD (l % 4) && guardHolds (c.slice (l / 4)).mode (c.lane l)

/-- The lanes of a mask whose value differs from the lowest one's (R50). -/
def differing [DecidableEq β] (m : BitVec 32) (f : Nat → β) : BitVec 32 :=
  maskOf fun l => m.getLsbD l && decide (f l ≠ f (lowest m))

/-- The lanes whose guard value differs from that of their slice's lowest live lane (R90), over some slices. -/
def splitSlices (live g : BitVec 32) (js : List Nat) : BitVec 32 :=
  js.foldl (fun m j =>
    let l := live &&& (0xF#32 <<< (4 * j))
    m ||| differing l fun i => g.getLsbD i) 0

/-- The lanes of slice j that a short result's entry still covers. -/
def Short.mask (h : Short) (j : Nat) : BitVec 32 := h.lanes.zeroExtend 32 <<< (4 * j)

/-- A crew as its sources read: where a fixed-latency result is not covered yet, each lane reads the old or the new
value, an open choice for each result (R56). -/
def State.view (s : State) (c : Crew) (js : List Nat) : Crew :=
  js.foldl (fun c j => (c.slice j).shorts.zipIdx.foldl (fun c (h : Short × Nat) =>
    c.modLanes (h.1.mask j) fun l ln =>
      let old := h.1.old.getD (l % 4) 0
      let ch := l + 32 * h.1.idx + 2 ^ 24 * h.2
      if h.1.pred then
        if s.free 6 ch % 2 = 1 then ln else ln.setPred h.1.idx (old != 0)
      else if s.free 7 ch % 2 = 1 then ln
      else { ln with regs := tset ln.regs h.1.idx old }) c) c

/-- Window register xi of lane src as lane l reads it in a lane exchange: where the result is not covered yet, each reading
lane has a choice of its own (R56). -/
def Issue.regFrom (x : Issue) (l src i : Nat) : Word :=
  if l = src then x.reg l i
  else
    let idx := x.c.depth + i
    (x.c.slice (src / 4)).shorts.zipIdx.foldl (fun v (h : Short × Nat) =>
      if !h.1.pred && h.1.idx == idx && h.1.lanes.getLsbD (src % 4) &&
          x.s.free 7 (src + 32 * idx + 2 ^ 16 * (1 + l) + 2 ^ 24 * h.2) % 2 == 0 then
        h.1.old.getD (src % 4) 0
      else v) ((x.c.lane src).get x.c.depth i)

/-- The predicate that slice j's guard names, when the instruction heeds its guard. -/
def Issue.guardP (x : Issue) (guarded : Bool) (j i : Nat) : Bool :=
  guarded && ((modeGuard (x.c.slice j).mode).extractLsb' 0 3).toNat == i

/-- A result that has not landed holds a register or predicate the gang reads or writes (R54, R55). -/
def Issue.interlocked (x : Issue) (guarded : Bool) (also : List Nat) : Bool :=
  x.s.pends.any fun e =>
    let p := e.2
    p.crew == x.k && p.slices.any fun j => x.js.contains j &&
      (let f := x.fp (x.c.slice j).mode
       if p.dp then p.dst.any fun i => (f.readsP ++ f.writesP).contains i || x.guardP guarded j i
       else p.dst.any fun i => (f.regs ++ f.dsts ++ also).any fun r => x.c.depth + r == i)

/-- The gang waits one clock and issues the same instruction again; it has not been ready meanwhile (R128, R156). -/
def State.stall (s : State) (k : Nat) (js : List Nat) : State :=
  s.modCrew k fun c => c.modSlices js fun sl =>
    { sl with readyAt := max sl.readyAt (s.clk + 1), since := s.clk + 1, stepped := false }

/-- The gang waits one clock before this instruction. -/
def Issue.stall (x : Issue) : Res := .next (x.s.stall x.k x.js)

/-- The instruction raises a cause. -/
def Issue.trap (x : Issue) (cause : Cause) (mask : BitVec 32) : Res :=
  .next (x.s.takeTrap x.k x.js cause mask 0 [] 0)

/-- The crew's uniform arithmetic is checked (R43, R44). -/
def Issue.ucheck (x : Issue) : Bool := x.c.ucheck || (x.s.core x.c.core).check

/-- The crew's stall counts are checked (R43, R44). -/
def Issue.stcheck (x : Issue) : Bool := x.c.stcheck || (x.s.core x.c.core).check

/-- Under U without ucheck a source that is no handle is read in one lane alone (R50, R52): whether lane l reads it. -/
def Issue.readsAll (x : Issue) (h : Head) (l : Nat) : Bool :=
  !h.u || x.ucheck || l == lowest (if x.act = 0 then x.live else x.act)

/-- The lanes and window registers that acting lane l reads (R50, R52, R130, R131, R295). -/
def Issue.readsOf (x : Issue) (h : Head) (l : Nat) : List (Nat × Nat) :=
  match h.across with
  | some f => f x l
  | none =>
    let f := x.fp (x.mode l)
    ((if x.readsAll h l then f.regs else f.handles.flatMap Grp.list) ++ h.also x).map fun i => (l, i)

/-- The gang reads a fixed-latency result before the distance of R53 covers it: whatever the guard, a register or predicate
that the instruction reads in a slice, or the slice's guard. -/
def Issue.readsShort (x : Issue) (h : Head) : Bool :=
  x.js.any fun j =>
    let f := x.fp (x.c.slice j).mode
    let whole := (List.range 4).any fun i => x.readsAll h (4 * j + i)
    let rs := (if whole then f.regs else f.handles.flatMap Grp.list) ++ h.also x
    (x.c.slice j).shorts.any fun e =>
      if e.pred then (whole && f.readsP.contains e.idx) || x.guardP (h.guard != .ignored) j e.idx
      else rs.any fun i => x.c.depth + i == e.idx

/-- The lanes that read a register whose parity is in error (R37). -/
def Issue.badRegs (x : Issue) (h : Head) : BitVec 32 :=
  maskOf fun l => x.act.getLsbD l && (x.readsOf h l).any fun p => (x.c.lane p.1).bad.contains (x.c.depth + p.2)

/-- The lanes in which a handle-class operand, or under U with ucheck any source, or a mode field consulted once for the
gang, differs from the lowest active lane's (R50, R52, R119). -/
def Issue.nonuniform (x : Issue) (h : Head) : BitVec 32 :=
  let lo := lowest x.act
  let f := x.fp (x.mode lo)
  let rs := if h.u && x.ucheck then f.regs else f.handles.flatMap Grp.list
  let ps := if h.u && x.ucheck && h.checkP then f.readsP else []
  maskOf fun l => x.act.getLsbD l &&
    (rs.any (fun i => x.reg l i != x.reg lo i) || ps.any (fun i => x.pred l i != x.pred lo i) ||
      ((x.mode l ^^^ x.mode lo) &&& h.cons) != 0)

/-! ### Completion -/

/-- The distance 1 + S put behind a scoreboard entry; none when it is covered (R53). -/
def Short.after (n : Nat) (h : Short) : Option Short := if h.left ≤ n then none else some { h with left := h.left - n }

/-- What is left of an entry when a younger result of some lanes replaces its value (R55, R56): in those lanes it may still be
read no longer than the younger one is short, and not at all when that is covered. -/
def Short.under (m : BitVec 4) (left : Nat) (h : Short) : List Short :=
  [{ h with lanes := h.lanes &&& ~~~m }, { h with lanes := h.lanes &&& m, left := min h.left left }].filter fun e =>
    e.lanes != 0 && e.left != 0

/-- The entries a slice's own fixed-latency results make, and what its writes replace (R53, R55, R56). -/
def Issue.newShorts (x : Issue) (j : Nat) (old : List Short) : List Short :=
  let m := sliceBits x.act j
  if m = 0 then old
  else
    let f := x.fp (x.c.slice j).mode
    let D := x.c.depth
    let left := f.lat - (1 + x.st)
    let keep := old.flatMap fun h =>
      if (if h.pred then f.writesP.contains h.idx else f.dsts.any fun i => D + i == h.idx) then h.under m left else [h]
    if left = 0 then keep
    else
      let lanes := (List.range 4).map fun i => x.c.lane (4 * j + i)
      keep ++ f.dsts.map (fun i => ⟨false, D + i, left, m, lanes.map fun ln => ln.get D i⟩)
        ++ (f.writesP.filter (· != 0)).map (fun p => ⟨true, p, left, m, lanes.map fun ln => if ln.pred p then 1 else 0⟩)

/-- Slice j once the gang has issued: at PC + 4, ready after its stall count (R53), counted as issued (R156). -/
def Issue.advance (x : Issue) (j : Nat) (sl : Slice) : Slice :=
  { sl with
    pc := sl.pc + 4
    readyAt := x.s.clk + 1 + x.st
    since := x.s.clk + 1 + x.st
    lastIssue := x.s.clk + 1
    aged := false
    shorts := x.newShorts j (sl.shorts.filterMap (Short.after (1 + x.st))) }

/-- A crew after the issue, every slice of the gang advanced. -/
def Issue.advanced (x : Issue) (c : Crew) : Crew := x.js.foldl (fun c j => c.modSlice j (x.advance j)) c

/-- A state in which the instruction has completed, with the crew as it leaves it. -/
def Issue.done (x : Issue) (s : State) (c : Crew) : Res := .next (s.setCrew x.k (x.advanced c))

/-- The instruction has completed in a state, with its crew as that state holds it. -/
def Issue.doneIn (x : Issue) (s : State) : Res := x.done s ((tget s.crews x.k).getD x.c)

/-- The instruction completes with no effect but the PC. -/
def Issue.nop (x : Issue) : Res := x.done x.s x.c

/-- What an instruction writes in one lane: window registers and predicates. -/
structure Wr where
  regs : List (Nat × Word) := []
  preds : List (Nat × Bool) := []

/-- A lane with an instruction's results written. -/
def Lane.write (ln : Lane) (D : Nat) (w : Wr) : Lane :=
  w.preds.foldl (fun ln p => ln.setPred p.1 p.2) (w.regs.foldl (fun ln r => ln.set D r.1 r.2) ln)

/-- Results written in every lane that acts. -/
def Issue.write (x : Issue) (f : Nat → Wr) : Crew := x.c.modLanes x.act fun l ln => ln.write x.c.depth (f l)

/-- One 32-bit result. -/
def wr1 (d : BitVec 6) (v : Word) : Wr := { regs := [(d.toNat, v)] }
/-- One 64-bit result in a pair. -/
def wr2 (d : BitVec 6) (v : Dword) : Wr := { regs := [(d.toNat, v.extractLsb' 0 32), (d.toNat + 1, v.extractLsb' 32 32)] }
/-- One predicate. -/
def wrP (d : BitVec 6) (v : Bool) : Wr := { preds := [(d.toNat, v)] }
/-- A string of registers. -/
def wrN (d : Nat) (vs : List Word) : Wr := { regs := vs.zipIdx.map fun e => (d + e.2, e.1) }

/-! ### The order of checks (R58) -/

/-- The issue of a gang of crew c under a head. -/
def State.issueOf (s : State) (h : Head) (k : Nat) (js : List Nat) (c : Crew) : Issue :=
  let v := s.view c js
  let live := c.live js
  ⟨s, k, c, v, js, live, if h.guard = .ignored then live else guardIn v js, h.st.toNat, h.fp⟩

/-- What the word, W or the gang reveals as ILLEGAL, whatever the guard (R34, R37, R58). -/
def Issue.misnamed (x : Issue) (h : Head) : Bool :=
  x.js.any (fun j => !(h.fp (x.c.slice j).mode).ok x.c.window) || h.word x

/-- A register or predicate named is held by a result that has not landed (R54, R55). -/
def Issue.waits (x : Issue) (h : Head) : Bool :=
  x.interlocked (h.guard != .ignored) [] || x.interlocked (h.guard != .ignored) (h.also x)

/-- The lanes by which a guard splits a slice, or the gang (R90, R91, R93). -/
def Issue.split (x : Issue) (h : Head) : BitVec 32 :=
  match h.guard with
  | .slice => splitSlices x.live (guardIn x.v x.js) x.js
  | .gang => differing x.live fun l => (guardIn x.v x.js).getLsbD l
  | _ => 0

/-- What registers and state make ILLEGAL when the gang acts (R58). -/
def Issue.forbidden (x : Issue) (h : Head) : Bool := x.act != 0 && x.split h == 0 && h.dyn x

/-- The gang reads a fixed-latency result too early, and its crew is checked (R43, R53). -/
def Issue.early (x : Issue) (h : Head) : Bool := x.stcheck && x.readsShort h

/-- One issue of the current gang: ILLEGAL that the word, W or the gang reveals, whatever the guard; a wait for results
that have not landed; ILLEGAL from registers and state when it acts; STALLSHORT; REGERR; NONUNIFORM of operands, then of
a guard that splits a slice or the gang (R90, R91, R93); nothing at all when no lane or slice acts; then the
instruction's own effect (R41, R56, R58). -/
def issue (s : State) (h : Head) (body : Issue → Res) : Res :=
  match s.cur with
  | none => .fault .noGang
  | some (k, js) =>
    match tget s.crews k with
    | none => .fault .noGang
    | some c =>
      let x := s.issueOf h k js c
      if x.misnamed h then x.trap .illegal x.live
      else if x.waits h then x.stall
      else if x.forbidden h then x.trap .illegal (h.dynMask x)
      else if x.early h then x.trap .stallshort x.live
      else if x.badRegs h != 0 then x.trap .regerr (x.badRegs h)
      else if x.nonuniform h != 0 then x.trap .nonuniform (x.nonuniform h)
      else if x.split h != 0 then x.trap .nonuniform (x.split h)
      else if x.act = 0 then x.nop
      else body x

/-- A head whose mode fields are consulted once for the gang only under U (R119). -/
def Head.scalar (h : Head) : Head := { h with cons := if h.u then h.cons else 0 }

/-- An instruction that computes registers and predicates lane by lane, or once from the lowest active lane under U; only
then are mode fields consulted once for the gang (R119). -/
def scalar (s : State) (h : Head) (f : Issue → Nat → Wr) : Res :=
  issue s h.scalar fun x => x.done x.s (x.write fun l => f x (if h.u then lowest x.act else l))

/-- The mode bits of the etype field. -/
def consEtype : BitVec 13 := 0x01F0
/-- The mode bits of the etype and sat fields. -/
def consSat : BitVec 13 := 0x11F0
/-- The mode bits of the etype, rmode and sat fields. -/
def consFloat : BitVec 13 := 0x1FF0
/-- The mode bits of the etype and rmode fields. -/
def consRound : BitVec 13 := 0x0FF0

end Sys2Proof.Machine
end

