-- ==== Sys2Proof/Machine/Control.lean ====
section
/-! DEFINITION. Control and mode: NOP, MODE, MODEX, the branches and calls, LDC, TRAP, and the special registers
(R87 to R97, R133, R134, R42 to R44). -/

namespace Sys2Proof.Machine

/-- The gang numbers of some slices from the classes they fall into: each class is a gang, numbered by its lowest slice
(R120). -/
def Crew.regroup (c : Crew) (js : List Nat) (same : Slice → Slice → Bool) : Crew :=
  js.foldl (fun (r : Crew) j =>
    r.modSlice j fun sl => { sl with gang := (js.find? fun i => same (c.slice i) (c.slice j)).getD j }) c

/-- Two slices stay in one gang: at one PC, both issuing or both waiting, neither exited (R120, R121). -/
def sameGang (a b : Slice) : Bool :=
  a.pc == b.pc && a.exited == b.exited && (a.wait == .none) == (b.wait == .none)

/-- The gang completes an instruction and its slices go where `f` says (from the slice's old PC); it parts where they
come to different PCs. -/
def Issue.goto (x : Issue) (c : Crew) (f : Nat → Dword) : Res :=
  let c := x.advanced c
  let c := x.js.foldl (fun (c : Crew) j => c.modSlice j fun sl => { sl with pc := f j }) c
  .next (x.s.setCrew x.k (c.regroup x.js sameGang))

/-- The issuing gang holds every slice of the crew that has not exited (R93, R142). -/
def Issue.holdsCrew (x : Issue) : Bool := x.js == x.c.present

/-- A slice acts under a guard decided per slice. -/
def Issue.acts (x : Issue) (j : Nat) : Bool := sliceBits x.act j != 0

/-- The lowest two bits of a target are ignored (R91). -/
def codeTarget (v : Dword) : Dword := v &&& ~~~3

/-- What NOP states before its effect (R87, R88). Its guard is a source like any instruction's: only MODE and MODEX ignore
theirs (R41; log entry 84). -/
def nopHead (f : FS) : Head :=
  { st := f.s }

/-- NOP (R87, R88): nothing but the PC. -/
def execNop (f : FS) (s : State) : Res := issue s (nopHead f) Issue.nop

/-- What MODE states before its effect (R89). -/
def modeHead (f : FSI) : Head :=
  { st := f.s, guard := .ignored }

/-- MODE (R89): the mode register from the immediate, whatever the guard. -/
def execMode (f : FSI) (s : State) : Res :=
  issue s (modeHead f) fun x =>
    x.done x.s (x.c.modSlices x.js fun sl => { sl with mode := f.i })

/-- What MODEX states before its effect (R89). -/
def modexHead (f : FSA) : Head :=
  let r := f.a.toNat
  { st := f.s, guard := .ignored, fp := fun _ => { handles := [r1 f.a] }
    dyn := fun x => (lanesOf x.live).any fun l =>
      (x.reg l r).extractLsb' 13 19 != 0 || !modeLegal ((x.reg l r).extractLsb' 0 13) }

/-- MODEX (R89): the mode register from a register, which every live lane must hold alike and legal. -/
def execModex (f : FSA) (s : State) : Res :=
  let r := f.a.toNat
  issue s (modexHead f) fun x =>
    x.done x.s (x.c.modSlices x.js fun sl => { sl with mode := (x.reg (lowest x.live) r).extractLsb' 0 13 })

/-- What BRA states before its effect (R90, R91). -/
def braHead (f : FSO) : Head :=
  { st := f.s, guard := .slice }

/-- BRA (R90, R91): the slices whose guard holds go to the label. -/
def execBra (f : FSO) (s : State) : Res :=
  issue s (braHead f) fun x =>
    x.goto x.c fun j => if x.acts j then x.pc + (f.o.signExtend 64 <<< 2) else x.pc + 4

/-- What BRX states before its effect (R90, R91). -/
def brxHead (f : FSA) : Head :=
  { st := f.s, guard := .slice, fp := fun _ => { handles := [r2 f.a] } }

/-- BRX (R90, R91): the slices whose guard holds go to the target in a pair. -/
def execBrx (f : FSA) (s : State) : Res :=
  issue s (brxHead f) fun x =>
    x.goto x.c fun j => if x.acts j then codeTarget (x.reg64 (lowest x.act) f.a.toNat) else x.pc + 4

/-- The effect of CALL and CALLX (R94): SPILL when the slide does not fit; else a link on every slice, the window raised,
and the target. -/
def Issue.callTo (x : Issue) (k : Nat) (target : Dword) : Res :=
  if !x.c.fits (x.c.depth + k) (x.c.linkDepth + 1) then x.trap .spill x.act
  else
    let c := x.s.noteSpill ((x.s.raise x.c k).modSlices x.js fun sl => { sl with links := ⟨x.pc + 4, k⟩ :: sl.links })
    { x with s := x.s.spillOut x.c c }.goto c fun _ => target

/-- What CALL states before its effect (R93, R94). -/
def callHead (f : FSDI) : Head :=
  { st := f.s, guard := .gang, word := fun x => !x.holdsCrew }

/-- CALL (R93, R94). -/
def execCall (f : FSDI) (s : State) : Res :=
  issue s (callHead f) fun x =>
    x.callTo (8 * f.d.toNat) (x.pc + (f.i.signExtend 64 <<< 2))

/-- What CALLX states before its effect (R93, R94). -/
def callxHead (f : FSDA) : Head :=
  { st := f.s, guard := .gang, fp := fun _ => { handles := [r2 f.a] }, word := fun x => !x.holdsCrew }

/-- CALLX (R93, R94). A target that differs between active lanes is found before a guard that splits the gang, as R91 has
it for BRX (log entry 85). -/
def execCallx (f : FSDA) (s : State) : Res :=
  issue s (callxHead f) fun x =>
    x.callTo (8 * f.d.toNat) (codeTarget (x.reg64 (lowest x.act) f.a.toNat))

/-- What RET states before its effect (R93, R95). -/
def retHead (f : FS) : Head :=
  { st := f.s, guard := .gang, word := fun x => !x.holdsCrew
    dyn := fun x => x.js.any fun j => (x.c.slice j).links.isEmpty }

/-- RET (R93, R95): ILLEGAL with no link; else the link is popped, the window lowered with its fill, and the PC set. -/
def execRet (f : FS) (s : State) : Res :=
  issue s (retHead f) fun x =>
    let top := fun j => ((x.c.slice j).links.headD ⟨0, 0⟩)
    let k := (top (x.js.headD 0)).slide
    if x.s.fillMarked x.c k then .next (x.s.contain 2 (some x.c.block) ((tget x.s.blocks x.c.block).map (·.ctx))) else
    let c := x.s.lower (if 16 < x.c.linkDepth then x.s.refill x.c else x.c) k
    x.goto (x.s.noteSpill (c.modSlices x.js fun sl => { sl with links := sl.links.drop 1 })) fun j => (top j).pc

/-- What LDC states before its effect (R96). -/
def ldcHead (f : FUSDI) : Head :=
  { u := f.u, st := f.s, fp := fun _ => { writes := [r1 f.d], lat := 4 } }

/-- A literal word fails: the cause for every active lane, at the word's address (R96, R317, R324). -/
def Issue.trapLiteral (x : Issue) (c : Cause) (va : Dword) : Res :=
  .next (x.s.takeTrap x.k x.js c x.act 0 ((lanesOf x.act).map fun l => (l, va)) 0)

/-- LDC (R96): a literal word read through the instruction path. -/
def execLdc (f : FUSDI) (s : State) : Res :=
  issue s (ldcHead f) fun x =>
    match x.s.fetch x.c 0 (x.pc + (f.i.signExtend 64 <<< 2)) with
    | .word w => x.done x.s (x.write fun _ => wr1 f.d w)
    | .bad c => x.trapLiteral c (x.pc + (f.i.signExtend 64 <<< 2))
    | .walkMark => .next (x.s.walkContain x.c)

/-- What TRAP states before its effect (R97). -/
def trapHead (f : FSI) : Head :=
  { st := f.s }

/-- TRAP (R97): BREAK with the active lanes and the code. -/
def execTrap (f : FSI) (s : State) : Res :=
  issue s (trapHead f) fun x => .next (x.s.takeTrap x.k x.js .brk x.act f.i [] 0)

/-- What SYSCALL states before its effect (R323). -/
def syscallHead (f : FSI) : Head :=
  { st := f.s }

/-- SYSCALL (R323): SYSCALL with the active lanes and the code. -/
def execSyscall (f : FSI) (s : State) : Res :=
  issue s (syscallHead f) fun x => .next (x.s.takeTrap x.k x.js .syscall x.act f.i [] 0)

/-! ### Special registers (R42, R133, R134) -/

/-- The value of a special register in lane l (R42). -/
def Issue.sreg (x : Issue) (l n : Nat) : Dword :=
  let b := (tget x.s.blocks x.c.block)
  match n with
  | 0 => BitVec.ofNat 64 l
  | 1 => BitVec.ofNat 64 (l / 4)
  | 2 => BitVec.ofNat 64 x.c.crewIx
  | 3 => BitVec.ofNat 64 ((b.map (·.index)).getD 0)
  | 4 => if x.c.team = 0 then 0xFFFFFFFF else BitVec.ofNat 64 (x.c.crewIx / x.c.team)
  | 5 => BitVec.ofNat 64 (x.c.core % 128)
  | 6 => BitVec.ofNat 64 (dieOfCore x.c.core)
  | 7 => BitVec.ofNat 64 (x.s.pkg.devs.getD (if x.s.pkg.split then dieOfCore x.c.core else 0) 0)
  | 8 => BitVec.ofNat 64 x.s.clk
  | 9 => BitVec.ofNat 64 (x.s.pkg.tai / 9000000)
  | 10 => x.c.gstat.zeroExtend 64
  | _ => BitVec.ofNat 64 x.c.depth

/-- Registers 8 and 9 are 64 bits wide (R42). -/
def sregWide (i : BitVec 13) : Bool := i == 8 || i == 9

/-- What SREG states before its effect (R133). -/
def sregHead (f : FUSDI) : Head :=
  { u := f.u, st := f.s
    fp := fun _ => { writes := [rw (sregWide f.i) f.d], lat := if f.i == 9 then 0 else 2 } }

/-- SREG (R133): latency 2, but variable for %time. -/
def execSreg (f : FUSDI) (s : State) : Res :=
  scalar s (sregHead f) fun x l =>
    let v := x.sreg l f.i.toNat
    if sregWide f.i then wr2 f.d v else wr1 f.d (v.extractLsb' 0 32)

/-- What SWREG states before its effect (R43, R134). -/
def swregHead (f : FSDI) : Head :=
  { st := f.s, fp := fun _ => { handles := [r1 f.d] } }

/-- SWREG (R43, R134): %gstat, with poison cleared by a 1, unless hardware has set it at this clock, and ucheck and
stcheck written. -/
def execSwreg (f : FSDI) (s : State) : Res :=
  issue s (swregHead f) fun x =>
    let v := x.reg (lowest x.act) f.d.toNat
    x.done x.s { x.c with poison := x.c.poison && (!v.getLsbD 31 || x.c.poisonAt == x.s.clk), ucheck := v.getLsbD 1, stcheck := v.getLsbD 0 }

end Sys2Proof.Machine
end

