-- ==== Sys2Proof/Machine/Flags.lean ====
section
/-! DEFINITION. Conditions, saturation and carries: what the integer instructions compute beside their plain results
(R63, R99, R103, R104). The machine keeps no arithmetic flags (R66, R86); its conditions are predicates. -/

namespace Sys2Proof.Machine

/-- The truth of a condition between two integers (R104). `un` never holds of integers. -/
def condInt (c : Cond) (a b : Int) : Bool :=
  match c with
  | .eq => a == b
  | .ne => a != b
  | .lt => decide (a < b)
  | .le => decide (a ≤ b)
  | .gt => decide (b < a)
  | .ge => decide (b ≤ a)
  | .un => false

/-- The value of w bits, read as signed or unsigned (R62). -/
def readInt (signed : Bool) (w v : Nat) : Int := if signed then signedOf w v else ((v % 2 ^ w : Nat) : Int)

/-- The least value of an integer element (R62). -/
def minInt (signed : Bool) (w : Nat) : Int := if signed then -(2 ^ (w - 1) : Nat) else 0

/-- The greatest value of an integer element (R62). -/
def maxInt (signed : Bool) (w : Nat) : Int := if signed then (2 ^ (w - 1) : Nat) - 1 else (2 ^ w : Nat) - 1

/-- An exact result clamped to an element's range (R63). -/
def clampInt (signed : Bool) (w : Nat) (v : Int) : Int := max (minInt signed w) (min (maxInt signed w) v)

/-- An exact result as the element holds it: clamped when saturation applies, else its low w bits (R63). -/
def fitInt (sat signed : Bool) (w : Nat) (v : Int) : Nat := wrapNat w (if sat then clampInt signed w v else v)

/-- The sum and the carry of ADDC (R103). -/
def addCarry (a b : Word) (p : Bool) : Word × Bool :=
  let v := a.toNat + b.toNat + p.toNat
  (BitVec.ofNat 32 v, decide (2 ^ 32 ≤ v))

/-- The difference and the borrow of SUBC (R103). -/
def subBorrow (a b : Word) (p : Bool) : Word × Bool :=
  (a - b - BitVec.ofNat 32 p.toNat, decide (a.toNat < b.toNat + p.toNat))

end Sys2Proof.Machine
end

