-- ==== Sys2Proof/Machine/Access.lean ====
section
/-! DEFINITION. Global accesses of a gang's lanes: the checks of R179 and the trap they raise, requests to peers with their
tickets (R361, R375, R376), failed remote accesses (R362), atomics at their level (R176, R187), and results that land
when the last answer comes (R54). -/

namespace Sys2Proof.Machine

/-! ### The checks of R179 -/

/-- One lane's access of n bytes, checked through step 4 of R179. -/
def Issue.check (x : Issue) (k : AccKind) (n l : Nat) (va : Dword) : Acc :=
  if va.toNat % n ≠ 0 then .bad .misalign
  else if x.c.inSpill va n then .bad .protect
  else x.s.translate x.c.core x.c.sup.isSome k l va

/-- A cause raised with the addresses of the lanes that hold it, and whether their accesses are writes (R317, R324). -/
def Issue.trapAt (x : Issue) (cause : Cause) (lanes : List Nat) (ea : Nat → Dword) (w : Bool) : Res :=
  let m := maskOf lanes.contains
  .next (x.s.takeTrap x.k x.js cause m 0 (lanes.map fun l => (l, ea l)) (if w then m else 0))

/-- Lanes and what their checks ended in. -/
abbrev Checked := List (Nat × Acc)

/-- The lanes whose check passed, with their places. -/
def Checked.places (r : Checked) : Table Loc :=
  r.filterMap fun e => match e.2 with | .ok l => some (e.1, l) | _ => none

/-- The lanes that hold a cause. -/
def Checked.holding (r : Checked) (c : Cause) : List Nat := (r.filter fun e => e.2 == .bad c).map (·.1)

/-- The causes lanes hold. -/
def Checked.causes (r : Checked) : List Cause :=
  r.filterMap fun e => match e.2 with | .bad c => some c | _ => none

/-- An instruction whose lanes access global memory (R179): a mark that a walk consumes is contained (R345), the worst
cause is raised with every lane that holds it, and only when every lane passes is any access made. -/
def Issue.access (x : Issue) (k : AccKind) (w : Bool) (n : Nat → Nat) (lanes : List Nat)
    (ea : Nat → Dword) (body : Table Loc → Res) : Res :=
  let r : Checked := lanes.map fun l => (l, x.check k (n l) l (ea l))
  if r.any fun e => e.2 == .walkMark then .next (x.s.walkContain x.c)
  else match worst (Checked.causes r) with
    | some c => x.trapAt c (Checked.holding r c) ea w
    | none => body (Checked.places r)

/-- The translation cache filled by a gang's accesses (R327). -/
def Issue.tlbFills (x : Issue) (k : AccKind) (ps : Table Loc) (ea : Nat → Dword) : State :=
  ps.foldl (fun s e => s.tlbFill x.c.core x.c.sup.isSome k e.1 (ea e.1)) x.s

/-! ### Waiting at an instruction -/

/-- The gang has issued and waits at its instruction, with the crew as given. -/
def Issue.park (x : Issue) (c : Crew) (w : Nat → Wait) : Crew :=
  x.js.foldl (fun (c : Crew) j => c.modSlice j fun sl => { sl with pc := (x.c.slice j).pc, wait := w j }) (x.advanced c)

/-- Slices whose wait has ended go on at PC + 4. -/
def Crew.unpark (c : Crew) (js : List Nat) (clk : Nat) : Crew :=
  c.modSlices js fun sl =>
    { sl with pc := sl.pc + 4, wait := .none, readyAt := max sl.readyAt (clk + 1), since := max sl.readyAt (clk + 1) }

/-- Slices whose wait has ended and that issue their instruction again. -/
def Crew.reissue (c : Crew) (js : List Nat) (clk : Nat) : Crew :=
  c.modSlices js fun sl =>
    { sl with wait := .none, readyAt := max sl.readyAt (clk + 1), since := max sl.readyAt (clk + 1), stepped := false }

/-- The slices of the gang that slice j belongs to. -/
def Crew.gangOf (c : Crew) (j : Nat) : List Nat := c.present.filter fun i => (c.slice i).gang == (c.slice j).gang

/-! ### Requests to peers -/

/-- The owner device of a peer address (R351). -/
def peerDev (pa : Nat) : Nat := bits pa 50 41

/-- The block that a request belongs to. -/
def State.reqBlock (s : State) (r : PeerReq) : Option Nat :=
  match r.who with
  | .pend id _ => ((tget s.pends id).bind fun p => tget s.crews p.crew).map (·.block)
  | .posted k _ _ => (tget s.crews k).map (·.block)
  | .waita k _ => (tget s.crews k).map (·.block)
  | .barrier k _ => (tget s.crews k).map (·.block)
  | .copy id => (tget s.ops id).map (·.block)
  | .mat id => (tget s.ops id).map (·.block)
  | .coll id _ => (tget s.ops id).map (·.block)
  | .cont _ b => some b
  | .update b => some b

/-- The part of the Hogshead that holds the block a request belongs to. -/
def State.reqOut (s : State) (r : PeerReq) : Option Nat :=
  ((s.reqBlock r).bind fun b => tget s.blocks b).bind fun b => if b.out then some b.hogKey else none

/-- A ticket that is saved with its context in the Hogshead (R377). -/
def State.ticketOut (s : State) (r : PeerReq) : Bool := r.ticket && (s.reqOut r).isSome

/-- The ticket-table entries that requests of a die name (R375); the entry of a ticket that is out is free (R340, R377). -/
def State.entriesUsed (s : State) (die : Nat) : List Nat :=
  s.reqs.filterMap fun e => if e.2.die = die && !s.ticketOut e.2 then e.2.entry else none

/-- A free entry of a die's ticket table. -/
def State.freeEntry (s : State) (die : Nat) : Option Nat :=
  (List.range 256).find? fun i => !(s.entriesUsed die).contains i

/-- The launch or task node whose block a crew belongs to. -/
def State.nodeOf (s : State) (c : Crew) : Nat := ((tget s.blocks c.block).map (·.node)).getD 0

/-- The issuer of an access that slices of the gang make. -/
def Issue.issuer (x : Issue) (js : List Nat) : Issuer :=
  ⟨x.c.core, x.s.ctxOf x.c, x.s.nodeOf x.c, x.k, js, x.s.fresh⟩

/-- A request that a thread's own instruction made, not an engine. -/
def ReqWho.thread : ReqWho → Bool
  | .pend .. => true
  | .posted .. => true
  | .waita .. => true
  | .barrier .. => true
  | _ => false

/-- The flows of a request whose order its owner keeps: the lanes of one instruction in a page (R181) and its slices'
accesses to the page (R367). An engine's request has one of its own. -/
def PeerReq.flows (r : PeerReq) (tag : Nat) : List Nat :=
  if r.who.thread then
    (3 * (2 ^ 52 * r.issuer.born + r.pa / 4096) + 1) ::
      r.issuer.slices.map fun j => 3 * (2 ^ 52 * (8 * r.issuer.crew + j) + r.pa / 4096)
  else [3 * tag + 2]

/-- Two requests of threads are accesses of one slice to one peer page (R225, R367). -/
def PeerReq.sameFlow (r q : PeerReq) : Bool :=
  r.who.thread && q.who.thread && r.issuer.crew == q.issuer.crew && r.pa / 4096 == q.pa / 4096 &&
    r.issuer.slices.any fun j => q.issuer.slices.contains j

/-- Two requests are lanes of one instruction that go to one owner device. -/
def PeerReq.mate (r q : PeerReq) : Bool :=
  r.who.thread && q.who.thread && r.issuer.born == q.issuer.born && peerDev r.pa == peerDev q.pa

/-- An older access of the slice to the page, of another instruction, still holds a ticket (R225): numbers rise in program
order. -/
def State.behindTicket (s : State) (tag : Nat) (r : PeerReq) : Bool :=
  s.reqs.any fun e => e.2.ticket && decide (e.1 < tag) && r.sameFlow e.2 && !r.mate e.2

/-- The request under a tag was refused by its owner, and waits to be sent again (R374). -/
def State.retrying (s : State) (tag : Nat) : Bool :=
  (s.timers.any fun t => t.ev == .missLogRetry tag) || s.due.contains (.missLogRetry tag)

/-- A request to the other die of a split package is no longer on its way: its home has accepted it (R358), or its messages have
come (R378). -/
def State.accepted (s : State) (tag : Nat) (r : PeerReq) : Bool :=
  r.sent && !s.retrying tag && !((tget s.xreqs tag).any fun x => !x.accepted) &&
    !s.pkg.bridge.wire.any fun p => match p.body with | .reductionMessage m => m.tag == tag | _ => false

/-- A request to the other die waits until an older access of its slice to the page has been accepted (R359). -/
def State.heldBack (s : State) (tag : Nat) (r : PeerReq) : Bool :=
  (s.dieOfDev (peerDev r.pa)).isSome &&
    s.reqs.any fun e => decide (e.1 < tag) && r.sameFlow e.2 && !r.mate e.2 && !s.accepted e.1 e.2

/-- An older access of the slice to the page, of another instruction, has been refused and is to come again (R367). -/
def State.behindRefused (s : State) (tag : Nat) (r : PeerReq) : Bool :=
  s.reqs.any fun e => decide (e.1 < tag) && r.sameFlow e.2 && !r.mate e.2 && s.retrying e.1

/-- The request under a tag has come to the other die of a split package and waits to be served. -/
def State.onItsWay (s : State) (tag : Nat) : Bool :=
  s.due.any fun e => match e with | .peerRequest q => q.tag == tag && (s.dieOfDev q.dev).isSome | _ => false

/-- A lane of the same instruction is not ready to be served with a request: to the same page, it has not come, or its replay has
not (R181); to another page of the owner, it has not come for the first time (R179). -/
def State.mateBehind (s : State) (tag : Nat) (r : PeerReq) : Bool :=
  s.reqs.any fun e => e.1 != tag && r.mate e.2 && !s.onItsWay e.1 &&
    (match e.2.kind with | .reduce _ => false | _ => true) &&
    (if r.pa / 4096 = e.2.pa / 4096 then e.2.ticket || !s.accepted e.1 e.2
     else !r.ticket && !e.2.ticket && !s.accepted e.1 e.2)

/-- The tags of a partition that an owner in this package holds and whose requests have ended: the partition's next request to the
owner retires them (R365). -/
def State.retired (s : State) (die part dev fromPart : Nat) : List Nat :=
  (s.part die part).held.filterMap fun h =>
    if h.dev == dev && h.part == fromPart && (tget s.reqs h.tag).isNone && (tget s.resend h.tag).isNone then some h.tag else none

/-- A request as its owner receives it. -/
def State.arriving (s : State) (die tag : Nat) (r : PeerReq) : PeerIn :=
  let dev := s.pkg.devs.getD r.die 0
  { die := die, dev := dev, part := r.part, tag := tag, ticket := r.entry.getD 0
    retires := s.retired die (bits r.pa 40 37) dev r.part
    flows := r.flows tag, dstPart := bits r.pa 40 37, efn := bits r.pa 36 12, off := r.pa % 4096, n := r.n
    kind := r.kind }

/-- The type 6 messages that carry a contribution (R378): its lanes in order, in each as many as it holds. -/
def State.redMessages (s : State) (die tag : Nat) (r : PeerReq) (c : Contribution) : List RedMsg :=
  let n := 1 + Config.partLanes.val
  let k := (c.lanes.length + n - 1) / n
  (List.range k).map fun i =>
    { die := die, dev := s.devOf r.die, fromPart := r.part, tag := tag, ticket := r.entry.getD 0, part := bits r.pa 40 37
      efn := bits r.pa 36 12, lineOff := r.pa % 4096 / 128 * 128, partNo := i, final := i + 1 == k
      contrib := { c with lanes := (c.lanes.drop (n * i)).take n } }

/-- An export entry read from the tables (R371): its bits, and the requester's code in the grant map; none where an entry is
not valid, or is marked. -/
def State.exportEntry (s : State) (die part efn who : Nat) : Option (Nat × Nat) :=
  let root := (s.part die part).exproot
  let at_ := fun (a : Nat) => memKey s.pkg.split die a
  if !root.getLsbD 0 then none
  else
    let a2 := at_ (bits root.toNat 51 12 * 4096 + 8 * bits efn 24 14)
    let e2 := memNat s.mem a2 8
    if s.marked a2 8 || !bit e2 0 then none
    else
      let a1 := at_ (bits e2 51 12 * 4096 + 16 * bits efn 13 0)
      let e := memNat s.mem a1 16
      let g := at_ (bits e 115 76 * 4096 + who / 4)
      if s.marked a1 16 then none else some (e, if s.marked g 1 then 0 else (memGet s.mem g).toNat / 4 ^ (who % 4) % 4)

/-- The home slice to which a request for an exported location goes: that of the frame its entry names, or one of the owner's. -/
def State.exportHome (s : State) (die : Nat) (q : PeerIn) : Nat :=
  match s.exportEntry die q.dstPart q.efn (16 * q.dev + q.part) with
  | some (e, _) => s.homeOf (memKey s.pkg.split die (bits e 51 12 * 4096 + q.off))
  | none => 64 * die

/-- A request sent over the bridge (R354): a reduction as messages (R378), any other as a cross-die request, which takes a tracker
of its home slice (R358) and has a time-out of its own (R361). -/
def State.sendBridge (s : State) (d tag : Nat) (r : PeerReq) : State :=
  match r.kind with
  | .reduce c => (s.redMessages d tag r c).foldl (fun s m => s.cross d 2 256 (.reductionMessage m)) s
  | k =>
    let slice := s.exportHome d (s.arriving d tag r)
    let s := { s with xreqs := tset s.xreqs tag ⟨r.die, slice, s.ticks r.die, 0, false⟩ }
    let xdto := (s.die r.die).xdto.toNat
    let s := if xdto = 0 then s else s.later ⟨s.ticks r.die + xdto, some r.die, .xdieTimeout tag⟩
    s.cross d 0 (match k with | .write bs _ => bs.length | _ => 0) (.xdieRequest r.die tag slice)

/-- The port that requests towards a page of a device take (R365): from the hash on, the first that the routing entry's mask
holds. -/
def State.portTo (s : State) (die part dev page : Nat) : Option Nat :=
  (tget (s.part die part).route dev).bind fun w =>
    ((List.range 24).map fun i => (Config.portHash dev page + i) % 24).find? fun p => w.getLsbD p

/-- A request sent by its port, where the link may replay flits, an open number of times (R363, R384). -/
def State.sendOut (s : State) (tag : Nat) (r : PeerReq) : State :=
  let port := s.portTo r.die r.part (peerDev r.pa) (r.pa / 4096)
  let s := match port with
    | some p => s.modPort r.die p fun q => { q with replays := BitVec.ofNat 16 (min 0xFFFF (q.replays.toNat + s.free 25 tag)) }
    | none => s
  match r.kind with
  | .reduce c => s.emit (.reduction port (s.redMessages 0 tag r c))
  | _ => s.emit (.request tag port)

/-- A request put on its way under its entry, with its time-out, counted from when it is first sent (R361): to another package, or
in split mode over the bridge to the other die (R354), where it may have to wait (R359). -/
def State.sendReq (s : State) (tag : Nat) : State :=
  match tget s.reqs tag with
  | none => s
  | some r =>
    if s.heldBack tag r then { s with reqs := tset s.reqs tag { r with sent := false } }
    else
      let r := { r with sent := true, since := if r.sent then r.since else s.ticks r.die }
      let s := { s with reqs := tset s.reqs tag r }
      let s := match s.dieOfDev (peerDev r.pa) with
        | some d => s.sendBridge d tag r
        | none => s.sendOut tag r
      let rto := (s.die r.die).rto.toNat
      if rto = 0 then s else s.later ⟨r.since + rto, some r.die, .peerTimeout tag⟩

/-- The requests that waited for the acceptance of an older one set out (R359). -/
def State.sendHeld (s : State) : State :=
  s.reqs.foldl (fun (s : State) e => if !e.2.sent && e.2.entry.isSome then s.sendReq e.1 else s) s

/-- The tracker of a cross-die request freed (R358): its response has come, or its time-out. -/
def State.freeTracker (s : State) (tag : Nat) : State :=
  match tget s.xreqs tag with
  | some x => ({ s with xreqs := tdel s.xreqs tag }).modHome x.slice fun h =>
      { h with trackers := h.trackers.filter (· != tag), reserved := h.reserved.filter (· != tag) }
  | none => s

/-- A request to a peer. With no free ticket entry it is held at the core, and FAB_TICKSTAT.tfull counts the wait. The core's
copies of what it changes are dropped (R353). -/
def State.ask (s : State) (die : Nat) (i : Issuer) (who : ReqWho) (va : Dword) (pa n : Nat) (kind : PeerKind) : State :=
  let tag := s.nextId
  let e := s.freeEntry die
  let r : PeerReq :=
    { die := die, part := s.partOf i.ctx, issuer := i, who := who, va := va, pa := pa, n := n, kind := kind, entry := e
      sent := false, ticket := false, took := 0, since := s.ticks die, loss := none, noticed := false, published := false, known := [] }
  let s := { s with reqs := tset s.reqs tag r, nextId := tag + 1 }
  let s := if kind = .read then s else s.lcacheDrop i.core pa n
  match e with
  | some _ => s.sendReq tag
  | none => s.modDie die fun d => { d with tfull := BitVec.ofNat 16 (min 0xFFFF (d.tfull.toNat + 1)) }

/-- Replays that waited for an older ticket of their page set out (R225). -/
def State.nextReplays (s : State) : State :=
  s.reqs.foldl (fun (s : State) e =>
    if e.2.noticed && !s.behindTicket e.1 e.2 then
      ({ s with reqs := tset s.reqs e.1 { e.2 with noticed := false, since := s.ticks e.2.die } }).sendReq e.1
    else s) s

/-- The oldest requests of a die that are held at their cores take the entries that are free (R375). -/
def State.fillEntries (s : State) (die : Nat) : State :=
  s.reqs.foldl (fun (s : State) e =>
    if e.2.die == die && e.2.entry.isNone then
      match s.freeEntry die with
      | some i => ({ s with reqs := tmod s.reqs e.1 fun r => { r with entry := some i } }).sendReq e.1
      | none => s
    else s) s

/-- A request that has ended: its entry frees, and the oldest request held at the core takes it. What came to the core before a
change had been performed is no copy of it (R353). -/
def State.endReq (s : State) (tag : Nat) : State :=
  match tget s.reqs tag with
  | some r =>
    let s := { s with reqs := tdel s.reqs tag }
    let s := (if s.pkg.split then s.freeTracker tag else s).nextReplays.sendHeld
    let s := if r.kind = .read then s else s.lcacheDrop r.issuer.core r.pa r.n
    let s := s.modDie r.die fun d => { d with tickets := tdel d.tickets tag }
    s.fillEntries r.die
  | none => s

/-- A request that an instruction of a slice made itself. -/
def PeerReq.ofSlice (r : PeerReq) (k j : Nat) : Bool :=
  r.who.thread && r.issuer.crew == k && r.issuer.slices.contains j

/-- The tickets a slice holds (R203, R376). -/
def State.sliceTickets (s : State) (k j : Nat) : List (Nat × PeerReq) :=
  s.reqs.filter fun e => e.2.ticket && e.2.ofSlice k j

/-! ### What slices have outstanding (R202, R216, R220, R221) -/

/-- The contributions that have not been performed yet (R195, R216). -/
def State.contributions (s : State) : List Contribution :=
  (s.due.filterMap fun e => match e with | .reductionContribution r => some r | _ => none) ++
    s.retries.map (·.2.c) ++ s.homes.flatMap fun h => h.2.entries.flatMap (·.waiting)

/-- One of some slices of a crew made an access before a step. -/
def madeBy (i : Issuer) (k : Nat) (js : List Nat) (t : Nat) : Bool :=
  i.crew == k && decide (i.born < t) && i.slices.any js.contains

/-- An access that slices of a crew made before step t has not been performed: a contribution, or a posted request on its
way or, when `tickets` counts them, held by a ticket (R202, R203, R225). -/
def State.owed (s : State) (k : Nat) (js : List Nat) (t : Nat) (tickets : Bool) : Bool :=
  s.contributions.any (fun c => madeBy c.issuer k js t) ||
    s.reqs.any fun e => e.2.who.thread && madeBy e.2.issuer k js t && (tickets || !e.2.ticket)

/-- A ticketed write that another slice's narrower release published, and a slice has observed, waits for its replay
(R216, R225). -/
def State.owedKnown (s : State) (k : Nat) (js : List Nat) : Bool :=
  s.reqs.any fun e => e.2.ticket && (e.2.kind != .read) && js.any fun j => e.2.known.contains (k, j)

/-- Entries of a list that hold for slices of a crew besides. -/
def addKnown (k : Nat) (js : List Nat) (l : List (Nat × Nat)) : List (Nat × Nat) :=
  js.foldl (fun l j => if l.contains (k, j) then l else l ++ [(k, j)]) l

/-- What slices have written and observed before step t is published by a release (R216, R217): tile words that no cross-path
fence has ordered, and ticketed writes. -/
def State.publishOwn (s : State) (k : Nat) (js : List Nat) (t : Nat) : State :=
  let mine := fun (c j : Nat) (known : List (Nat × Nat)) => (c == k && js.contains j) || js.any fun i => known.contains (k, i)
  { s with
    blocks := tmap s.blocks fun _ b => { b with tiles := tmap b.tiles fun _ x => { x with
      shadows := x.shadows.map fun h => { h with published := h.published || (decide (h.born < t) && mine h.crew h.slice h.known) } } }
    reqs := tmap s.reqs fun _ r =>
      { r with published := r.published || (r.ticket && decide (r.issuer.born < t) && r.issuer.slices.any fun j => mine r.issuer.crew j r.known) } }

/-- An acquire of slices observes what releases have published (R216, R217). -/
def State.observeReleases (s : State) (k : Nat) (js : List Nat) : State :=
  { s with
    blocks := tmap s.blocks fun _ b => { b with tiles := tmap b.tiles fun _ t => { t with
      shadows := t.shadows.map fun h => { h with known :=
        if h.published && !(h.crew == k && js.contains h.slice) then addKnown k js h.known else h.known } } }
    reqs := tmap s.reqs fun _ r => { r with known := if r.published then addKnown k js r.known else r.known } }

/-- A later access of a slice to the peer page of one of its tickets waits for the replay (R225, R376). -/
def Issue.ticketed (x : Issue) (ps : Table Loc) : Bool :=
  ps.any fun e => isPeer e.2.pa &&
    (x.s.sliceTickets x.k (e.1 / 4)).any fun r => r.2.pa / 4096 == e.2.pa / 4096

/-- A failed remote access of a crew's thread (R362): the fabric status, and one entry in the engine fault record. -/
def Crew.failRemote (c : Crew) (clk : Nat) (l : Loss) (sync : Bool) : Crew :=
  let c := { c with
    rtimeout := c.rtimeout || sync
    rtimeoutAt := if sync then clk else c.rtimeoutAt
    fab := ⟨min 0xFFFF (c.fab.count + 1), true, l.cause, l.dev⟩ }
  c.addEfr ⟨(if l.cause = 1 then Cause.revoked else .protect).code, 0, false, 0xFFFE, l.va⟩

/-- Of two failures of one instruction, that of the lower lane (R362). -/
def lowerLoss (a b : Option Loss) : Option Loss :=
  match a, b with
  | some x, some y => if y.lane < x.lane then some y else some x
  | none, y => y
  | x, none => x

/-- The failure of a request of a lane. -/
def PeerReq.lossAt (r : PeerReq) (lane cause : Nat) : Loss := ⟨lane, cause, peerDev r.pa, r.va⟩

/-- A request of a posted instruction has ended, with a failure or none: with the last of them the instruction's failure is
noted, once, for the lowest lane that failed (R362). -/
def State.endPosted (s : State) (k : Nat) (r : PeerReq) (loss : Option Loss) : State :=
  match lowerLoss r.loss loss with
  | none => s
  | some l =>
    if s.reqs.any fun e => e.2.who.thread && e.2.issuer.born == r.issuer.born then
      { s with reqs := tmap s.reqs fun _ q =>
          if q.who.thread && q.issuer.born == r.issuer.born then { q with loss := some l } else q }
    else s.modCrew k fun c => c.failRemote s.clk l false

/-! ### Atomics (R176, R187) -/

/-- Bytes of an element (R187). -/
def elemBytes : IElem → Nat
  | .i32 => 4 | .u32 => 4 | .i64 => 8 | .u64 => 8

/-- A signed element. -/
def elemSigned : IElem → Bool
  | .i32 => true | .i64 => true | _ => false

/-- The element an etype selects, every floating one as i32 (R187). -/
def etElem (e : Nat) : IElem := if e = 1 then .u32 else if e = 2 then .i64 else if e = 3 then .u64 else .i32

/-- The new value of an atomic (R187). -/
def atomicNew (op : AtomOp) (e : IElem) (old val cmp : Nat) : Nat :=
  let w := 8 * elemBytes e
  let rd := readInt (elemSigned e) w
  match op with
  | .add => (old + val) % 2 ^ w
  | .min => if rd val < rd old then val else old
  | .max => if rd old < rd val then val else old
  | .and => old &&& val
  | .or => old ||| val
  | .xor => old ^^^ val
  | .exch => val
  | .cas => if old = cmp then val else old

/-- One atomic performed: at block scope at the core's load cache, where a held copy may be the one read and which brings
the line in (R168, R176); wider, at the L2 or the home, and the core's own copy is dropped. -/
def State.atomicAt (s : State) (core : Nat) (l : Loc) (op : AtomOp) (e : IElem) (block : Bool) (val cmp ch : Nat) :
    State × List Byte :=
  let n := elemBytes e
  let old := if block then s.loadBytes core l n ch else s.bytesAt l n
  let new := natBytes (atomicNew op e (bytesNat old) (val % 2 ^ (8 * n)) (cmp % 2 ^ (8 * n))) n
  if block then ((s.lcacheFill core l old).laneStore core l new, old) else ((s.storeAt l new).lcacheDrop core l.pa n, old)

/-! ### Results that land (R54) -/

/-- The registers a load of n bytes gives (R182). -/
def loadRegs (n : Nat) (signed : Bool) (bs : List Byte) : List Word :=
  let v := bytesNat bs
  if n < 4 then [BitVec.ofNat 32 (wrapNat 32 (readInt signed (8 * n) v))]
  else (List.range (n / 4)).map fun i => BitVec.ofNat 32 (v / 2 ^ (32 * i))

/-- The registers a landing result writes from the bytes of a lane. -/
def Land.regs (l : Land) (bs : List Byte) : List Word :=
  match l with
  | .load n sg => loadRegs n sg bs
  | .atomic .. => loadRegs bs.length false bs
  | .handle h => [h]

/-- A lane with consecutive logical registers written. -/
def Lane.setLogical (ln : Lane) (dst : List Nat) (vs : List Word) : Lane :=
  (dst.zip vs).foldl (fun ln e => ln.set 0 e.1 e.2) ln

/-- The bytes a lane of a result accesses. -/
def Land.width (ld : Land) (l : Nat) : Nat :=
  match ld with
  | .load n _ => n
  | .atomic _ _ args => elemBytes ((tget args l).getD ⟨.i32, 0, 0⟩).e
  | .handle _ => 0

/-- A result's instruction writes memory (R324). -/
def Land.writes : Land → Bool
  | .atomic .. => true
  | _ => false

/-- The local lanes of a pending result whose locations are marked: each gives DATAERR (R179, R188). -/
def State.markedLocals (s : State) (p : Pend) : List Nat :=
  (p.locals.filter fun e => s.marked e.2.pa (p.land.width e.1)).map (·.1)

/-- A pending result's local lanes performed, in ascending order (R181), none of them marked. -/
def State.performLocals (s : State) (p : Pend) (core : Nat) : State × Pend :=
  p.locals.foldl (fun (r : State × Pend) e =>
    match p.land with
    | .atomic op blk args =>
      let a := (tget args e.1).getD ⟨.i32, 0, 0⟩
      let q := r.1.atomicAt core e.2 op a.e blk a.val.toNat a.cmp.toNat e.1
      (q.1, { r.2 with vals := tset r.2.vals e.1 q.2 })
    | .load n _ =>
      let bs := r.1.loadBytes core e.2 n e.1
      (r.1.lcacheFill core e.2 bs, { r.2 with vals := tset r.2.vals e.1 bs })
    | .handle _ => r) (s, p)

/-- How many registers a pending result writes in a lane. -/
def Pend.regCount (p : Pend) (l : Nat) : Nat :=
  match p.land with
  | .atomic _ _ args => ((tget args l).map fun a => elemBytes a.e / 4).getD 1
  | _ => p.dst.length

/-- A pending result written to its lanes: the bytes that came, or all ones in a lane whose access failed (R362). -/
def Pend.write (p : Pend) (c : Crew) : Crew :=
  c.modLanes p.act fun l ln =>
    let i := p.uni.getD l
    if p.failed.contains i then ln.setLogical p.dst (List.replicate (p.regCount i) 0xFFFFFFFF)
    else match p.land, tget p.vals i with
      | .handle h, _ => ln.setLogical p.dst [h]
      | ld, some bs => ln.setLogical p.dst (ld.regs bs)
      | _, none => ln

/-- A crew in which a pending result lands: its registers, and the failure of its lanes (R362). -/
def Pend.land_ (p : Pend) (c : Crew) (clk : Nat) : Crew :=
  match p.loss with
  | some l => (p.write c).failRemote clk l true
  | none => p.write c

/-- The lowest slice of a gang. -/
def lowestOf (js : List Nat) : Nat := js.foldl min (js.headD 0)

/-- An exception of an instruction that its gang waits at: a gang that another gang's trap holds does not take it, but
issues the instruction again after ERET. Of two that trap in one clock the gang with the lower lowest slice takes its trap,
and the other goes back to before its instruction (R319). -/
def State.lateTrap (s : State) (k : Nat) (js : List Nat) (cause : Cause) (mask : BitVec 32) (addrs : Table Dword)
    (writes : BitVec 32) : State :=
  match tget s.crews k with
  | some c =>
    if c.heldFor js then
      match c.sup with
      | some sv =>
        if sv.clk = s.clk ∧ c.nested = [] ∧ lowestOf js < lowestOf sv.slices then
          (s.leaveTrap k c sv id).takeTrap k js cause mask 0 addrs writes
        else s.setCrew k (c.reissue js s.clk)
      | none => s
    else s.takeTrap k js cause mask 0 addrs writes
  | none => s

/-- The causes of a pending result's lanes: those that peers answered, and DATAERR where a local location is marked. -/
def State.pendCauses (s : State) (p : Pend) : Table Cause :=
  if p.complete then p.causes
  else (s.markedLocals p).foldl (fun t l => tset t l .dataerr) p.causes

/-- A pending result whose gang traps (R179): the mask holds every lane that holds the worst cause, and no local lane is
performed. -/
def State.trapPend (s : State) (id : Nat) (p : Pend) (cause : Cause) : State :=
  let lanes := ((s.pendCauses p).filter fun e => e.2 == cause).map (·.1)
  ({ s with pends := tdel s.pends id }).lateTrap p.crew p.slices cause (maskOf lanes.contains)
    (p.addrs.filter fun e => lanes.contains e.1) (if p.land.writes then maskOf lanes.contains else 0)

/-- A pending result whose answers have all come. A gang that still waits for it traps when a lane holds a cause, and
otherwise completes; one that went on under a ticket has its registers written (R376). The gang of a block that has ended takes no
trap (R321). -/
def State.landPend (s : State) (id : Nat) : State :=
  match tget s.pends id with
  | none => s
  | some p =>
    match tget s.crews p.crew with
    | none => { s with pends := tdel s.pends id }
    | some c =>
      let gone := p.slices.any fun j => (c.slice j).exited
      match worst ((s.pendCauses p).map (·.2)) with
      | some cause =>
        if gone then ({ s with pends := tdel s.pends id } : State).pushAll (s.crewSteps p.crew) else s.trapPend id p cause
      | none =>
        if p.complete then ({ s with pends := tdel s.pends id }).setCrew p.crew (p.land_ c s.clk)
        else
          let q := s.performLocals p c.core
          let s := ({ q.1 with pends := tdel q.1.pends id }).setCrew p.crew
            ((q.2.land_ ((tget q.1.crews p.crew).getD c) s.clk).unpark p.slices s.clk)
          if gone then s.pushAll (s.crewSteps p.crew) else s

/-- The core's copy of bytes of peer memory that a load may return instead of asking the owner (R215, R353): an open choice, but
none while a change that the core has sent to the page is on its way. -/
def State.peerCopy (s : State) (core pa n ch : Nat) : Option (List Byte) :=
  if s.free 23 ch % 2 = 0 || s.reqs.any fun e => e.2.issuer.core == core && e.2.kind != .read && e.2.pa / 4096 == pa / 4096 then none
  else ((s.core core).peers.held.find? fun e => decide (e.1 ≤ pa) && decide (pa + n ≤ e.1 + e.2.length)).map fun e =>
    (e.2.drop (pa - e.1)).take n

/-- The bytes that a load's request has brought, kept as a copy (R353) unless they may be older than what the core has seen
meanwhile (R212); a copy that they meet is given up. -/
def State.peerFill (s : State) (tag : Nat) (r : PeerReq) (bs : List Byte) : State :=
  s.modCore r.issuer.core fun c =>
    let p := c.peers.drop r.pa r.n s.nextId
    let fresh := decide (c.peers.since ≤ tag) || (c.peers.by_ == r.issuer.born + 1 && p.held.length == c.peers.held.length)
    let busy := s.reqs.any fun e => e.2.issuer.core == r.issuer.core && e.2.kind != .read && e.2.pa / 4096 == r.pa / 4096
    if fresh && !busy && decide (c.lcache.length + p.held.length < 1024) then
      { c with peers := ⟨tset p.held r.pa bs, s.nextId, r.issuer.born + 1⟩ }
    else { c with peers := p }

/-- The lanes of a load that take a copy of peer memory which the core holds. -/
def Issue.copies (x : Issue) (land : Land) (ps : Table Loc) (n : Nat → Nat) : Table (List Byte) :=
  match land with
  | .load .. => ps.filterMap fun e =>
      if isPeer e.2.pa then (x.s.peerCopy x.c.core e.2.pa (n e.1) e.1).map fun bs => (e.1, bs) else none
  | _ => []

/-- A synchronous access of a gang: with no peer lane, or copies for all of them, it completes at once, or raises DATAERR;
otherwise a request goes to each other peer lane's owner and the gang waits for the answers (R180). An atomic with a marked local lane asks no peer, so that
none of its lanes is performed; one whose peer lanes all lie on the other die asks it, which then performs none of them either
(R179, log entry 89). A narrower load asks for the word that holds its bytes (R363). -/
def Issue.synchronous (x : Issue) (k : AccKind) (land : Land) (d nd : Nat) (uni : Option Nat) (ps : Table Loc)
    (ea : Nat → Dword) (kind : Nat → PeerKind) (n : Nat → Nat) : Res :=
  let id := x.s.nextId
  let copies := x.copies land ps n
  let peers := ps.filter fun e => isPeer e.2.pa && (tget copies e.1).isNone
  let p : Pend :=
    { crew := x.k, slices := x.js, act := x.act, uni := uni, land := land
      dst := (List.range nd).map (x.c.depth + d + ·), dp := false, addrs := ps.map fun e => (e.1, ea e.1)
      locals := ps.filter fun e => !isPeer e.2.pa, vals := copies, causes := [], failed := [], loss := none
      complete := false }
  let s := x.tlbFills k ps ea
  let bad := s.markedLocals p
  if x.ticketed ps then x.stall
  else if !bad.isEmpty && (peers.isEmpty || (land.writes && peers.any fun e => (s.dieOfDev (peerDev e.2.pa)).isNone)) then x.trapAt .dataerr bad ea land.writes
  else if peers.isEmpty then
    let q := s.performLocals p x.c.core
    x.done q.1 (q.2.write ((tget q.1.crews x.k).getD x.c))
  else
    let s := { s with pends := tset s.pends id p, nextId := id + 1 }
    let s := s.setCrew x.k (x.park x.c fun _ => .peer id)
    .next (peers.foldl (fun s e => s.ask (dieOfCore x.c.core) (x.issuer (if uni.isSome then x.js else [e.1 / 4])) (.pend id e.1) (ea e.1) (e.2.pa / 4 * 4) (max 4 (n e.1)) (kind e.1)) s)

end Sys2Proof.Machine
end

