-- ==== Sys2Proof/Machine/Memory.lean ====
section
/-! DEFINITION. LD, ST, the atomics, RED, WAITA, FENCE, PREF and CCTL (R178 to R190, R198 to R206). -/

namespace Sys2Proof.Machine

/-- The data registers of an access of n bytes (R178). -/
def dataGrp (n : Nat) (d : BitVec 6) : Grp := if n = 8 then r2 d else if n = 16 then r4 d else r1 d

/-- The low n bytes of the data registers of a lane (R182). -/
def Issue.dataBytes (x : Issue) (l n : Nat) (d : BitVec 6) : List Byte :=
  (((List.range ((n + 3) / 4)).flatMap fun i => natBytes (x.reg l (d.toNat + i)).toNat 4)).take n

/-- The address of LD and ST in lane l (R182). -/
def Issue.offsetAddr (x : Issue) (l : Nat) (a : BitVec 6) (i : BitVec 7) (n : Nat) : Dword :=
  x.reg64 l a.toNat + BitVec.ofInt 64 (i.toInt * n)

/-! ### LD and ST (R182) -/

/-- What LD of n bytes states before its effect (R179 to R182). -/
def loadHead (f : FUSDAI) (n : Nat) : Head :=
  { u := f.u, st := f.s, fp := fun _ => { reads := [r2 f.a], writes := [dataGrp n f.d] } }

/-- LD of n bytes (R179 to R182); under U one access at the lowest active lane's address (R51). -/
def load (s : State) (f : FUSDAI) (n : Nat) (signed : Bool) : Res :=
  issue s (loadHead f n) fun x =>
    let ea := fun l => x.offsetAddr l f.a f.i n
    x.access .read false (fun _ => n) (if f.u then [lowest x.act] else lanesOf x.act) ea fun ps =>
      x.synchronous .read (.load n signed) f.d.toNat (dataGrp n f.d).count (if f.u then some (lowest x.act) else none) ps ea
        (fun _ => .read) (fun _ => n)

/-- LD.u8 (R182). -/
def execLdU8 (f : FUSDAI) (s : State) : Res := load s f 1 false
/-- LD.s8 (R182). -/
def execLdS8 (f : FUSDAI) (s : State) : Res := load s f 1 true
/-- LD.u16 (R182). -/
def execLdU16 (f : FUSDAI) (s : State) : Res := load s f 2 false
/-- LD.s16 (R182). -/
def execLdS16 (f : FUSDAI) (s : State) : Res := load s f 2 true
/-- LD.b32 (R182). -/
def execLdB32 (f : FUSDAI) (s : State) : Res := load s f 4 false
/-- LD.b64 (R182). -/
def execLdB64 (f : FUSDAI) (s : State) : Res := load s f 8 false
/-- LD.b128 (R182). -/
def execLdB128 (f : FUSDAI) (s : State) : Res := load s f 16 false

/-- The stores of a gang's lanes, in ascending order (R181): local ones performed, peer ones posted (R180, R363). -/
def Issue.storeLanes (x : Issue) (s : State) (n : Nat) (ea : Nat → Dword) (bs : Nat → List Byte) (ps : Table Loc) : State :=
  ps.foldl (fun s e =>
    if isPeer e.2.pa then
      s.ask (dieOfCore x.c.core) (x.issuer [e.1 / 4]) (.posted x.k [e.1 / 4] e.1) (ea e.1) e.2.pa n (.write (bs e.1) [])
    else s.laneStore x.c.core e.2 (bs e.1)) s

/-- What ST of n bytes states before its effect (R179 to R182). -/
def storeHead (f : FSDAI) (n : Nat) : Head :=
  { st := f.s, fp := fun _ => { reads := [r2 f.a, dataGrp n f.d] } }

/-- ST of n bytes (R179 to R182): posted, complete once its checks have passed. -/
def store (s : State) (f : FSDAI) (n : Nat) : Res :=
  issue s (storeHead f n) fun x =>
    let ea := fun l => x.offsetAddr l f.a f.i n
    x.access .write true (fun _ => n) (lanesOf x.act) ea fun ps =>
      if x.ticketed ps then x.stall
      else
        let s := x.tlbFills .write ps ea
        let s := x.storeLanes s n ea (fun l => x.dataBytes l n f.d) ps
        x.doneIn s

/-- ST.b8 (R182). -/
def execStB8 (f : FSDAI) (s : State) : Res := store s f 1
/-- ST.b16 (R182). -/
def execStB16 (f : FSDAI) (s : State) : Res := store s f 2
/-- ST.b32 (R182). -/
def execStB32 (f : FSDAI) (s : State) : Res := store s f 4
/-- ST.b64 (R182). -/
def execStB64 (f : FSDAI) (s : State) : Res := store s f 8
/-- ST.b128 (R182). -/
def execStB128 (f : FSDAI) (s : State) : Res := store s f 16

/-! ### Atomics (R187, R188, R190) -/

/-- The data operand of an atomic: a register, or a pair at 8 bytes (R187). -/
def atomGrp (m : BitVec 13) (d : BitVec 6) : Grp := rw (etPair (modeEtype m)) d

/-- The group of ATOMCAS and TATOM.cas: a pair at 4 bytes, a quad at 8 (R187). -/
def casGrp (m : BitVec 13) (d : BitVec 6) : Grp := if etPair (modeEtype m) then r4 d else r2 d

/-- Some acting slice has a packed integer etype, under which the atomics are ILLEGAL (R187). -/
def Issue.packed (x : Issue) : Bool := x.actors.any fun j => etPacked (modeEtype (x.c.slice j).mode)

/-- The operands of an atomic in a lane (R187). -/
def Issue.atomArg (x : Issue) (l : Nat) (cas : Bool) (d : BitVec 6) : AtomArg :=
  let i := d.toNat
  let e := etElem (modeEtype (x.mode l))
  if elemBytes e = 8 then
    if cas then ⟨e, x.reg64 l (i + 2), x.reg64 l i⟩ else ⟨e, x.reg64 l i, 0⟩
  else if cas then ⟨e, (x.reg l (i + 1)).zeroExtend 64, (x.reg l i).zeroExtend 64⟩
  else ⟨e, (x.reg l i).zeroExtend 64, 0⟩

/-- The width of an atomic in a lane (R187). -/
def Issue.atomWidth (x : Issue) (l : Nat) : Nat := elemBytes (etElem (modeEtype (x.mode l)))

/-- What ATOM and ATOMCAS state before their effect (R187, R188). -/
def atomicHead (f : FSDAC) (op : AtomOp) : Head :=
  let cas := op == .cas
  { st := f.s
    fp := fun m =>
      { reads := [r2 f.a, if cas then casGrp m f.d else atomGrp m f.d], writes := [atomGrp m f.d] }
    dyn := Issue.packed }

/-- ATOM and ATOMCAS (R187, R188) at the scope's level (R176). -/
def atomic (s : State) (f : FSDAC) (op : AtomOp) : Res :=
  let cas := op == .cas
  issue s (atomicHead f op) fun x =>
    let ea := fun l => x.reg64 l f.a.toNat
    x.access (.atomic (f.c == 4)) true x.atomWidth (lanesOf x.act) ea fun ps =>
      let nd := if ps.any fun e => x.atomWidth e.1 == 8 then 2 else 1
      x.synchronous (.atomic (f.c == 4)) (.atomic op (f.c == 0) (ps.map fun e => (e.1, x.atomArg e.1 cas f.d))) f.d.toNat nd none ps ea
        (fun l => let a := x.atomArg l cas f.d; .atomic op a.e a.val a.cmp) x.atomWidth

/-- ATOM.add (R187). -/
def execAtomAdd (f : FSDAC) (s : State) : Res := atomic s f .add
/-- ATOM.min (R187). -/
def execAtomMin (f : FSDAC) (s : State) : Res := atomic s f .min
/-- ATOM.max (R187). -/
def execAtomMax (f : FSDAC) (s : State) : Res := atomic s f .max
/-- ATOM.and (R187). -/
def execAtomAnd (f : FSDAC) (s : State) : Res := atomic s f .and
/-- ATOM.or (R187). -/
def execAtomOr (f : FSDAC) (s : State) : Res := atomic s f .or
/-- ATOM.xor (R187). -/
def execAtomXor (f : FSDAC) (s : State) : Res := atomic s f .xor
/-- ATOM.exch (R187). -/
def execAtomExch (f : FSDAC) (s : State) : Res := atomic s f .exch
/-- ATOMCAS (R187). -/
def execAtomcas (f : FSDAC) (s : State) : Res := atomic s f .cas

/-- One lane of a reduction: its place, slice, index, last, and kind and operand. -/
structure RedPart where
  loc : Loc
  slice : Nat
  index : Nat
  last : Bool
  lane : RedLane
  deriving DecidableEq, Repr

/-- The contributions of an instruction: its lanes gathered by line and index, in ascending lane order (R193). -/
def gather (by_ : List Nat → Issuer) (stream : Nat) (slice : Nat → Nat) : List RedPart → List Contribution
  | [] => []
  | p :: r =>
    match gather by_ stream slice r with
    | cs =>
      let line := p.loc.pa / 128
      if cs.any fun c => c.line == line && c.index == p.index then
        cs.map fun c =>
          if c.line == line && c.index == p.index then
            { c with lanes := p.lane :: c.lanes, last := c.last || p.last, issuer := by_ (sins p.slice c.issuer.slices) }
          else c
      else
        { slice := slice p.loc.pa, line := line, stream := stream, index := p.index, last := p.last, coll := false
          key := p.loc.key, issuer := by_ [p.slice], lanes := [p.lane] } :: cs

/-- The contributions of an instruction's peer lanes sent to their owners, posted (R180, R378). -/
def Issue.askReduce (x : Issue) (s : State) (stream : Nat) (ea : Nat → Dword) (parts : Table RedPart) : State :=
  (gather x.issuer stream (fun _ => 0) (parts.map (·.2))).foldl (fun (s : State) c =>
    let l0 := ((parts.find? fun e => e.2.loc.pa / 128 == c.line && e.2.index == c.index).map (·.1)).getD 0
    s.ask (dieOfCore x.c.core) c.issuer (.posted x.k c.issuer.slices l0) (ea l0) (c.line * 128) 128 (.reduce c)) s

/-- What RED states before its effect (R190). -/
def reduceHead (f : FSDAC) : Head :=
  { st := f.s, fp := fun m => { reads := [r2 f.a, atomGrp m f.d] }, dyn := Issue.packed }

/-- RED (R190): the update of R187, posted, returning nothing; a poisoned location stays poisoned (R180). A peer's part
is carried as a type 6 message (R378). -/
def reduce (s : State) (f : FSDAC) (op : AtomOp) : Res :=
  issue s (reduceHead f) fun x =>
    let ea := fun l => x.reg64 l f.a.toNat
    x.access (.atomic (f.c == 4)) true x.atomWidth (lanesOf x.act) ea fun ps =>
      if x.ticketed ps then x.stall
      else
        let s := x.tlbFills (.atomic (f.c == 4)) ps ea
        let s := (ps.filter fun e => !isPeer e.2.pa).foldl (fun s e =>
          let a := x.atomArg e.1 false f.d
          if s.marked e.2.pa (elemBytes a.e) then s
          else (s.atomicAt x.c.core e.2 op a.e (f.c == 0) a.val.toNat 0 e.1).1) s
        x.doneIn (x.askReduce s 0 ea ((ps.filter fun e => isPeer e.2.pa).map fun e =>
          let a := x.atomArg e.1 false f.d
          (e.1, ⟨e.2, e.1 / 4, 0, false, ⟨.wrap op a.e, e.2.pa % 128, a.val, false⟩⟩)))

/-- RED.add (R190). -/
def execRedAdd (f : FSDAC) (s : State) : Res := reduce s f .add
/-- RED.min (R190). -/
def execRedMin (f : FSDAC) (s : State) : Res := reduce s f .min
/-- RED.max (R190). -/
def execRedMax (f : FSDAC) (s : State) : Res := reduce s f .max
/-- RED.and (R190). -/
def execRedAnd (f : FSDAC) (s : State) : Res := reduce s f .and
/-- RED.or (R190). -/
def execRedOr (f : FSDAC) (s : State) : Res := reduce s f .or
/-- RED.xor (R190). -/
def execRedXor (f : FSDAC) (s : State) : Res := reduce s f .xor

/-! ### Accesses made once for the gang -/

/-- An address checked once for the gang through step 4 of R179; a failure names every active lane. -/
def Issue.accessOnce (x : Issue) (k : AccKind) (w : Bool) (n : Nat) (va : Dword) (body : Loc → Res) : Res :=
  match x.check k n (lowest x.act) va with
  | .walkMark => .next (x.s.walkContain x.c)
  | .bad c => x.trapAt c (lanesOf x.act) (fun _ => va) w
  | .ok l => body l

/-! ### WAITA (R198 to R201) -/

/-- The word a WAITA reads, at its scope's level (R198). -/
def State.waitaRead (s : State) (core : Nat) (w : WaitA) : List Byte :=
  if w.scope = .block then s.loadBytes core w.loc w.n 0 else s.bytesAt w.loc w.n

/-- Whether the condition of a WAITA holds of what it read. -/
def WaitA.holds (w : WaitA) (bs : List Byte) : Bool :=
  condInt w.cond (readInt w.signed (8 * w.n) (bytesNat bs)) (readInt w.signed (8 * w.n) w.cmp.toNat)

/-- A crew with the observed value written to the result registers of a WAITA's lanes (R199). -/
def WaitA.result (w : WaitA) (c : Crew) (bs : List Byte) : Crew :=
  c.modLanes w.act fun _ ln => ln.setLogical ((List.range (w.n / 4)).map (w.d + ·)) (loadRegs w.n false bs)

/-- A core that has read a location for WAITA keeps no copy of it that a later load could find older (R212, R226): one read at
block scope is renewed, one read past the load cache is dropped. -/
def State.seen (s : State) (core : Nat) (w : WaitA) (bs : List Byte) : State :=
  if w.scope != .block then s.lcacheDrop core w.loc.pa w.n
  else if (tget (s.core core).lcache (w.loc.pa / 128)).isSome then s.lcacheFill core w.loc bs
  else s.modCore core fun c => { c with olds := dropOlds c.olds w.loc.pa w.n }

/-- A monitor of a core given back. -/
def State.disarm (s : State) (core k j : Nat) : State :=
  s.modCore core fun c => { c with monitors := c.monitors.filter (· != (k, j)) }

/-- The scope a code names (R48). -/
def scopeOf (c : BitVec 3) : Scope :=
  match c.toNat with
  | 0 => .block | 1 => .cluster | 2 => .die | 3 => .device | _ => .pod

/-- A WAITA that arms no monitor: the next read comes CORE_WAITIVL.ivl clocks later (R199, R201). -/
def State.pollLater (s : State) (core k j : Nat) : State :=
  s.later ⟨s.clk + max 64 (s.core core).waitivl.toNat, none, .waitaPoll k j⟩

/-- What WAITA states before its effect (R198, R199). -/
def waitAHead (f : FSDAC) : Head :=
  { st := f.s, cons := consEtype
    fp := fun m =>
      let q := if etPair (modeEtype m) then 2 else 1
      { handles := [r2 f.a, ⟨f.d.toNat, q, 2 * q⟩], writes := [⟨f.d.toNat + q, q, 1⟩] }
    dyn := Issue.packed }

/-- WAITA (R198, R199): completes when the condition holds; else arms a monitor, or polls when none is free or the
address is a peer's (R353). -/
def waitA (s : State) (f : FSDAC) (cond : Cond) : Res :=
  issue s (waitAHead f) fun x =>
    let l := lowest x.act
    let el := etElem (modeEtype (x.mode l))
    let n := elemBytes el
    let va := x.reg64 l f.a.toNat
    x.accessOnce (.watch (f.c == 4)) false n va fun loc =>
      let w : WaitA :=
        { loc := loc, n := n, signed := elemSigned el, cond := cond
          cmp := if n = 8 then x.reg64 l f.d.toNat else (x.reg l f.d.toNat).zeroExtend 64
          d := x.c.depth + f.d.toNat + n / 4, armed := false, polled := false, act := x.act, scope := scopeOf f.c, va := va }
      let j0 := x.js.headD 0
      if isPeer loc.pa then
        if x.ticketed [(l, loc)] then x.stall
        else
          let s := x.s.setCrew x.k (x.park x.c fun _ => .waita w)
          .next (s.ask (dieOfCore x.c.core) (x.issuer x.actors) (.waita x.k j0) va loc.pa n .read)
      else if x.s.marked loc.pa n then x.trapAt .dataerr (lanesOf x.act) (fun _ => va) false
      else
        let bs := x.s.waitaRead x.c.core w
        let s := x.s.seen x.c.core w bs
        if w.holds bs then x.done s (w.result x.c bs)
        else if (s.core x.c.core).monitors.length < 64 then
          let s := s.modCore x.c.core fun c => { c with monitors := c.monitors ++ [(x.k, j0)] }
          .next (s.setCrew x.k (x.park x.c fun _ => .waita { w with armed := true }))
        else
          let s := s.modCore x.c.core fun c => { c with waitpoll := c.waitpoll + 1 }
          .next ((s.setCrew x.k (x.park x.c fun _ => .waita { w with polled := true })).pollLater x.c.core x.k j0)

/-- WAITA.eq (R198). -/
def execWaitaEq (f : FSDAC) (s : State) : Res := waitA s f .eq
/-- WAITA.ne (R198). -/
def execWaitaNe (f : FSDAC) (s : State) : Res := waitA s f .ne
/-- WAITA.ge (R198). -/
def execWaitaGe (f : FSDAC) (s : State) : Res := waitA s f .ge
/-- WAITA.lt (R198). -/
def execWaitaLt (f : FSDAC) (s : State) : Res := waitA s f .lt

/-- A sleeping WAITA that reads its word again: it completes when the condition holds, and may complete when it does not
(R200); poisoned data raises DATAERR (R199). -/
def State.waitaAgain (s : State) (k j : Nat) : State :=
  match tget s.crews k with
  | none => s
  | some c =>
    let js := c.gangOf j
    match (c.slice j).wait with
    | .waita w =>
      if isPeer w.loc.pa then
        s.ask (dieOfCore c.core) ⟨c.core, s.ctxOf c, s.nodeOf c, k, js, s.fresh⟩ (.waita k j) w.va w.loc.pa w.n .read
      else if s.marked w.loc.pa w.n then
        (s.disarm c.core k j).lateTrap k js .dataerr w.act ((lanesOf w.act).map fun l => (l, w.va)) 0
      else
        let bs := s.waitaRead c.core w
        let s := s.seen c.core w bs
        if w.holds bs || s.free 8 0 % 2 == 1 then
          (s.disarm c.core k j).setCrew k ((w.result c bs).unpark js s.clk)
        else if w.armed then s
        else s.pollLater c.core k j
    | _ => s

/-- WAITA_MONITOR_WAKE (R199, R200). -/
def execWaitaMonitorWake (s : State) : Res :=
  match s.ev with
  | some (.waitaMonitorWake k j) => .next (s.waitaAgain k j)
  | _ => .fault .noGang

/-- WAITA_POLL (R199, R200). -/
def execWaitaPoll (s : State) : Res :=
  match s.ev with
  | some (.waitaPoll k j) => .next (s.waitaAgain k j)
  | _ => .fault .noGang

/-! ### FENCE, PREF, CCTL (R202 to R206) -/

/-- The slices' unfenced tile writes are complete in the banks (R204), and those before them in their words (R212). -/
def State.fenceTiles (s : State) (b k : Nat) (js : List Nat) : State :=
  s.modBlock b fun x =>
    { x with tiles := tmap x.tiles fun _ t => { t with shadows := t.shadows.filter fun h =>
        !(t.shadows.any fun g => g.crew == k && js.contains g.slice && g.word == h.word && decide (h.born ≤ g.born)) } }

/-- What FENCE states before its effect (R202 to R204). -/
def fenceHead (f : FSCOE) : Head :=
  { st := f.s, guard := .gang }

/-- FENCE (R202 to R204, R216 to R218): a release waits for its slices' own accesses that are not performed, ticketed ones
too at device and pod scope, and publishes; an acquire at cluster scope or wider drops the core's load-cache lines, and at
any scope observes what is published and leaves no replaced value to read; the engines bit completes the slices' tile writes. -/
def execFence (f : FSCOE) (s : State) : Res :=
  issue s (fenceHead f) fun x =>
    let rel := f.o != 0
    let acq := f.o != 1
    let wide := decide (3 ≤ f.c.toNat)
    if rel && (x.s.owed x.k x.actors x.s.fresh wide || (wide && x.s.owedKnown x.k x.actors)) then x.stall
    else
      let s := if !acq then x.s else if f.c != 0 then x.s.lcacheClear x.c.core
        else x.s.modCore x.c.core fun c => { c with olds := [] }
      let s := if acq then s.observeReleases x.k x.actors else s
      let s := if rel then s.publishOwn x.k x.actors x.s.fresh else s
      let s := if f.e then s.fenceTiles x.c.block x.k x.actors else s
      x.done s x.c

/-- What PREF states before its effect (R205). -/
def prefHead (f : FSDAI) : Head :=
  { st := f.s, fp := fun _ => { reads := [r2 f.a] } }

/-- PREF (R205): the line into the load cache or the L2; it never traps. -/
def execPref (f : FSDAI) (s : State) : Res :=
  issue s (prefHead f) fun x =>
    let s := (lanesOf x.act).foldl (fun (s : State) l =>
      let va := (x.reg64 l f.a.toNat + BitVec.ofInt 64 (f.i.toInt * 128)) &&& ~~~127
      match x.check .read 1 l va with
      | .ok loc =>
        if f.d = 0 && !isPeer loc.pa && !s.marked loc.pa 128 && (tget (s.core x.c.core).lcache (loc.pa / 128)).isNone
        then s.lcacheFill x.c.core loc (s.bytesAt loc 128) else s
      | _ => s) x.s
    x.done s x.c

/-- The addresses of the lines that meet a lane's range (R206). -/
def lineAddrs (va : Dword) (len : Nat) : List Dword :=
  if len = 0 then []
  else (List.range ((va.toNat % 128 + len + 127) / 128)).map fun i => (va &&& ~~~127) + BitVec.ofNat 64 (128 * i)

/-- What CCTL states before its effect (R206). -/
def cacheControlHead (f : FSAB) : Head :=
  { st := f.s, fp := fun _ => { reads := [r2 f.a, r1 f.b] } }

/-- CCTL (R206): every line translated as a read; a lane with one that does not translate or may not be read raises its
cause, and no line is acted on. -/
def cacheControl (s : State) (f : FSAB) (drop : Bool) : Res :=
  issue s (cacheControlHead f) fun x =>
    let lines := fun l => lineAddrs (x.reg64 l f.a.toNat) (x.reg l f.b.toNat).toNat
    let one := fun l va => x.s.translate x.c.core x.c.sup.isSome .read l va
    let r : Checked := (lanesOf x.act).flatMap fun l => (lines l).map fun va => (l, one l va)
    if r.any fun e => e.2 == .walkMark then .next (x.s.walkContain x.c)
    else match worst (Checked.causes r) with
      | some c =>
        x.trapAt c (Checked.holding r c).dedup
          (fun l => ((lines l).find? fun va => one l va == .bad c).getD (x.reg64 l f.a.toNat)) false
      | none =>
        let s := if drop then (Checked.places r).foldl (fun s e => s.lcacheDrop x.c.core e.2.pa 128) x.s else x.s
        x.done s x.c

/-- CCTL.inv (R206): drops the core's load-cache copies. -/
def execCctlInv (f : FSAB) (s : State) : Res := cacheControl s f true
/-- CCTL.clean (R206): dirty L2 lines go to HBM4E, which changes no value. -/
def execCctlClean (f : FSAB) (s : State) : Res := cacheControl s f false
/-- CCTL.flush (R206): the same, and the copies are dropped from the L2 and the load cache. -/
def execCctlFlush (f : FSAB) (s : State) : Res := cacheControl s f true

end Sys2Proof.Machine
end

