-- ==== Sys2Proof/Machine/Nodes.lean ====
section
/-! DEFINITION. The region control block tree: its fields, effective values, the checks of a link, linking, and the end of
a launch or task node (R135 to R141, R144 to R146, R155). -/

namespace Sys2Proof.Machine

/-! ### Addresses of a context, outside a core -/

/-- An address translated and checked for a context by an agent outside its cores (R326, R179). -/
def State.ctxTranslate (s : State) (ctx : Nat) (sup : Bool) (k : AccKind) (ch : Nat) (va : Dword) : Acc :=
  match tget s.ctxs ctx with
  | none => .bad .pagefault
  | some x =>
    if !canonical va then .bad .protect
    else match s.walkRun x.info.die ch 5 (ctxRoot x.info) va.toNat with
      | .fault => .bad .pagefault
      | .protect => .bad .protect
      | .mark => .walkMark
      | .leaf lv _ e => s.useLeaf x.info.die x.info.part sup k lv e va.toNat

/-! ### Fields (R135) -/

/-- The inheritable fields of R136, by number. -/
def inheritable : List (Nat × Nat) :=
  [(271, 256), (287, 272), (319, 288), (351, 320), (383, 352), (447, 384), (450, 448), (479, 464), (511, 480), (456, 456)]

/-- The bits of an RCB in memory. -/
def State.rcb (s : State) (pa : Nat) : Nat := memNat s.mem pa 256

/-- The bits of a linked node: bits [959:256] as they last passed the checks (R138). -/
def State.nodeBits (s : State) (pa : Nat) (n : Node) : Nat :=
  bytesNat (memBytes s.mem pa 32 ++ n.kept ++ memBytes s.mem (pa + 120) 136)

/-- The values in force for the block of a node with an index (R138): those kept when it was bound. -/
def Node.keptFor (n : Node) (index : Nat) : Node :=
  { n with kept := ((n.binds.find? fun e => decide (index < e.1)).map (·.2.1)).getD n.kept }

/-- The effective values of R136 in force for the block of a node with an index (R138). -/
def Node.effsFor (n : Node) (index : Nat) : List Nat := ((n.binds.find? fun e => decide (index < e.1)).map (·.2.2)).getD []

/-- An inheritable field as a node itself gives it: the partition root's tlimit of 0 means 2,000 (R135, R136). -/
def ownField (v i : Nat) : Nat :=
  let r := inheritable.getD i (0, 0)
  let x := bits v r.1 r.2
  if i = 8 ∧ bits v 7 0 = 1 ∧ x = 0 then 2000 else x

/-- A node gives field i itself. -/
def gives (v i : Nat) : Bool := bits v 7 0 == 1 || bit v (16 + i)

/-- The effective value of field i of a linked node, up the tree (R136); depths go to 7 (R137). -/
def State.effUp (s : State) (i : Nat) : Nat → Nat → Nat
  | 0, _ => 0
  | fuel + 1, pa =>
    match tget s.nodes pa with
    | none => 0
    | some n =>
      let v := s.nodeBits pa n
      if gives v i then ownField v i else s.effUp i fuel n.parent

/-- The effective value of field i of a linked node. -/
def State.eff (s : State) (pa i : Nat) : Nat := s.effUp i 9 pa

/-- The effective value that bits under a parent would have. -/
def State.effOf (s : State) (v parent i : Nat) : Nat := if gives v i then ownField v i else s.eff parent i

/-- A reserved field or an override bit 26 to 31 is nonzero (R137, with R238). -/
def rcbReserved (v : Nat) : Bool :=
  bits v 2047 961 != 0 || bits v 831 802 != 0 || bits v 735 720 != 0 || bits v 463 457 != 0 || bits v 455 451 != 0 ||
    bits v 31 26 != 0

/-- The shape of a launch or task node is valid (R117, R135, R137). -/
def rcbShape (v : Nat) : Bool :=
  let crews := bits v 679 672
  let slices := bits v 687 680
  let team := bits v 695 688
  let cl := bits v 703 696
  let regs := bits v 719 704
  decide (1 ≤ crews) && decide (crews ≤ 64) && decide (1 ≤ slices) && decide (slices ≤ 8) &&
    (team == 0 || (decide (2 ≤ team) && decide (team ≤ 8) && crews % team == 0)) &&
    decide (1 ≤ cl) && decide (cl ≤ 8) && bits v 671 640 % cl == 0 &&
    decide (16 ≤ regs) && decide (regs ≤ 256) && regs % 16 == 0 && decide (crews * slices * 4 * regs * 4 ≤ 1048576) &&
    bits v 767 736 % 256 == 0 && decide (bits v 767 736 ≤ 393216) &&
    bits v 799 768 % 256 == 0 && decide (bits v 799 768 ≤ 524288) && bits v 927 896 % 4096 == 0

/-- The shape rules that a node's kind brings in: those above for launch and task nodes, the range of corebudget for a node
that gives it (R135, R136). -/
def rcbShapeFor (v : Nat) : Bool :=
  (decide (bits v 271 256 ≤ 256) || (bits v 7 0 != 1 && !bit v 16)) && (bits v 7 0 ≤ 3 || rcbShape v)

/-- Effective budgets and prio do not exceed the parent's (R136); hbmquota counts as a budget (log entry 92). -/
def State.withinParent (s : State) (v parent : Nat) : Bool :=
  (List.range 7).all fun i => decide (s.effOf v parent i ≤ s.eff parent i)

/-- The kinds a parent may have (R140). -/
def parentAllowed (kind : Nat) (parent : Option Nat) : Bool :=
  match parent with
  | none => kind == 1
  | some 1 => kind == 2
  | some 2 => kind == 2 || kind == 3
  | some 3 => kind == 4 || kind == 5
  | some _ => false

/-- Bits [959:256] of a linked node kept as they last passed R135 to R137 (R138). -/
def State.keptNow (s : State) (pa : Nat) (n : Node) : List Byte :=
  let now := memBytes s.mem (pa + 32) 88
  let v := s.nodeBits pa { n with kept := now }
  if !rcbReserved v && rcbShapeFor v && (n.kind == 1 || s.withinParent v n.parent) then now else n.kept

/-- A node and its ancestors, from the node up. -/
def State.chainUp (s : State) : Nat → Nat → List Nat
  | 0, _ => []
  | fuel + 1, pa =>
    match tget s.nodes pa with
    | none => []
    | some n => pa :: (if n.kind = 1 then [] else s.chainUp fuel n.parent)

/-- A node and its ancestors. -/
def State.chain (s : State) (pa : Nat) : List Nat := s.chainUp 9 pa

/-- The fields of a node and its ancestors read again, the root first (R138). -/
def State.reread (s : State) (pa : Nat) : State :=
  (s.chain pa).reverse.foldl (fun (s : State) p =>
    match tget s.nodes p with
    | some n => { s with nodes := tset s.nodes p { n with kept := s.keptNow p n } }
    | none => s) s

/-! ### Linking (R139, R140) -/

/-- The device number within the package of a context: its die in split mode. -/
def State.dieOfCtx (s : State) (ctx : Nat) : Nat := if s.pkg.split then ((tget s.ctxs ctx).map (·.info.die)).getD 0 else 0

/-- The code of a link that fails (R137, R144), 0 when it passes. LAUNCH links launch and task nodes under a queue node alone;
the monitor's link call every kind (R139, R140); a parent of another partition is none (R440, log entry 121). A status that is not 0 decides first, then the kind; which of several other
codes is given is an open choice (log entry 18). -/
def State.linkCode (s : State) (pa ctx : Nat) (parent : Option Nat) (call_ : Bool) : Nat :=
  let v := s.rcb pa
  let p : Option (Nat × Node) := parent.bind fun q => (tget s.nodes q).map fun n => (q, n)
  let pk := match parent with
    | none => none
    | some _ => some ((p.map (·.2.kind)).getD 0)
  if bits v 63 32 ≠ 0 ∨ (tget s.nodes pa).isSome then 0x16
  else if !parentAllowed (bits v 7 0) pk || (p.any fun q => s.partOf q.2.ctx != s.partOf ctx) || (!call_ && pk != some 3) then 0x10
  else
    let deep := match p with | some (_, n) => decide (7 ≤ n.depth) | none => false
    let above := match p with | some (q, _) => !s.withinParent v q | none => false
    let queues := s.queues.filter fun q => q.die == s.dieOfCtx ctx
    let full := bits v 7 0 == 3 && decide ((if s.pkg.split then 32 else 64) ≤ queues.length)
    let fails := (if deep then [0x11] else []) ++ (if above then [0x12] else []) ++
      (if !rcbShapeFor v then [0x13] else []) ++ (if full then [0x14] else []) ++ (if rcbReserved v then [0x15] else [])
    match fails with
    | [] => 0
    | [c] => c
    | c :: r => (c :: r).getD (s.free 9 0 % (r.length + 1)) c

/-- A node's status field written. -/
def State.putStatus (s : State) (pa st : Nat) : State := s.hwPoke (pa + 4) (natBytes st 4)

/-- The last node linked under a parent that is still linked. -/
def State.lastChild (s : State) (parent : Nat) (kind : Nat → Bool) : Option (Nat × Node) :=
  (s.nodes.filter fun e => e.2.parent == parent && e.2.kind != 1 && kind e.2.kind).foldl (fun r e =>
    match r with
    | none => some e
    | some q => if q.2.order < e.2.order then some e else r) none

/-- A queue node entered in its device's queue table (R144) under the lowest number that is free there (log entry 90). -/
def State.enterQueue (s : State) (pa ctx : Nat) : State :=
  let die := s.dieOfCtx ctx
  let num := ((List.range 64).find? fun i => !(s.queues.any fun q => q.die == die && q.num == i)).getD 0
  { s with queues := s.queues ++ [⟨num, die, pa, 0, 0, true⟩] }

/-- A node that passed linked as its parent's last child (R139, R140): depth and status set, the parent's child, head and
tail fields and the previous child's sibling written, a queue node entered in the queue table (R144), a task node of
depcount 0 or below ready at once (R146). -/
def State.linkNode (s : State) (pa : Nat) (va : Dword) (ctx : Nat) (parent : Option Nat) : State :=
  let v := s.rcb pa
  let kind := bits v 7 0
  let p := parent.getD 0
  let depth := ((parent.bind fun q => tget s.nodes q).map fun n => n.depth + 1).getD 0
  let st := if kind = 1 then 2 else 1
  let vb := natBytes va.toNat 8
  let last := s.lastChild p fun _ => true
  let n : Node :=
    { va := va, ctx := ctx, kind := kind, parent := p, depth := depth, order := s.nextId
      pred := ((s.lastChild p (· == 4)).map (·.2.order)).getD 0, status := st, kept := memBytes s.mem (pa + 32) 88
      binds := [], bound := 0, created := 0, retired := 0, ready := kind == 5 && decide (s.depcount pa ≤ 0)
      released := false, faulted := false, dpoison := false, code := [], launchOp := none }
  let s := { s with nodes := tset s.nodes pa n, nextId := s.nextId + 1 }
  let s := (s.guardBytes pa pa 32).guardBytes pa (pa + 120) 136
  let s := (s.hwPoke (pa + 1) [BitVec.ofNat 8 depth]).putStatus pa st
  let s := match parent with
    | none => s
    | some q =>
      let queue := ((tget s.nodes q).map fun (n : Node) => n.kind).getD 0 == 3
      let s := if memNat s.mem (q + 16) 8 = 0 then
          let s := s.hwPoke (q + 16) vb
          if queue then s.hwPoke (q + 64) vb else s
        else match last with
          | some (l, _) => s.hwPoke (l + 24) vb
          | none => s
      if queue then s.hwPoke (q + 72) vb else s
  if kind = 3 then s.enterQueue pa ctx else s.wakeQueue p

/-- Steps 3 to 5 of R139 for a node, by LAUNCH or by the link call: the state and the status given; 0x16 is never written. -/
def State.link (s : State) (pa : Nat) (va : Dword) (ctx : Nat) (parent : Option Nat) (call_ : Bool) : State × Nat :=
  match s.linkCode pa ctx parent call_ with
  | 0 => (s.linkNode pa va ctx parent, if bits (s.rcb pa) 7 0 = 1 then 2 else 1)
  | 0x16 => (s, 0x16)
  | c => (s.putStatus pa c, c)

/-- The row of R345 that a read of a node belongs to. -/
def nodeRow (kind : Nat) : Nat := if kind = 1 ∨ kind = 2 then 6 else 8

/-- A node's guarded bytes were overwritten while it was linked (R138). -/
def State.nodeTainted (s : State) (pa : Nat) : Bool := s.tainted.contains pa

/-! ### Start and end of a node -/

/-- The start condition of a node (R153): for a launch node by its place in the queue and the overlap flag, for a task
node by its counter. -/
def State.startOk (s : State) (n : Node) (overlap : Bool) : Bool :=
  if n.kind = 5 then n.ready
  else if overlap then
    !(s.nodes.any fun e => e.2.parent == n.parent && e.2.kind == 4 && e.2.order == n.pred && !e.2.released)
  else !(s.nodes.any fun e => e.2.parent == n.parent && e.2.kind == 4 && decide (e.2.order < n.order))

/-- A launch or task node ends (R155): its status becomes 3, or 4 after a fault, the token of its LAUNCH completes, and
it is linked no more. -/
def State.endNode (s : State) (pa : Nat) : State :=
  match tget s.nodes pa with
  | some n =>
    let s := (s.putStatus pa (if n.faulted then 4 else 3)).unguard pa
    let s := ({ s with nodes := tdel s.nodes pa }).wakeQueue n.parent
    match n.launchOp.bind fun id => (tget s.ops id).map fun o => (id, o) with
    | some (id, o) => s.completeOp id (o.token.toList.map fun t => (o.crew, t)) 0 n.faulted
    | none => s
  | none => s

/-- The block count of a node. -/
def State.blocksOf (s : State) (pa : Nat) (n : Node) : Nat := bits (s.nodeBits pa n) 671 640

/-- A write of a node's blocks is still to be performed: a request to a peer, or a contribution (R155). -/
def State.nodeOwes (s : State) (pa : Nat) : Bool :=
  s.reqs.any (fun e => e.2.issuer.node == pa) || s.contributions.any fun c => c.issuer.node == pa

/-- A node whose last block, and every block that is bound, has retired, and whose writes are released at device scope (R138,
R155). -/
def State.nodeOver (s : State) (pa : Nat) (n : Node) : Bool :=
  !s.nodeOwes pa && n.kind != 1 && n.status == 2 && n.kind != 2 && n.kind != 3 && decide (s.blocksOf pa n ≤ n.created) && decide (n.bound ≤ n.created) &&
    n.created == n.retired

/-- A node of 0 blocks whose start condition holds (R155). -/
def State.nodeEmpty (s : State) (pa : Nat) (n : Node) : Bool :=
  (n.kind == 4 || n.kind == 5) && n.status == 1 && n.bound == 0 && s.blocksOf pa n == 0 &&
    s.startOk n (bit (s.nodeBits pa n) 800)

/-- A task node's counter decremented at its home (R146, R238), its dpoison bit set by poison. -/
def State.decrement (s : State) (pa count : Nat) (poison : Bool) : State :=
  let s := s.hwPoke (pa + 116) (natBytes (wrapNat 32 (s.depcount pa - count)) 4)
  if poison then s.hwPoke (pa + 120) [memGet s.mem (pa + 120) ||| 1] else s

/-- TASK_DEPCOUNT_DECREMENT (R146, R237, R238). -/
def execTaskDepcountDecrement (s : State) : Res :=
  match s.ev with
  | some (.taskDepcountDecrement pa n poison) => .next (s.decrement pa n poison)
  | _ => .fault .noGang

/-- LAUNCH_NODE_RETIRE (R155): every write of the launch's blocks has been performed. -/
def execLaunchNodeRetire (s : State) : Res :=
  match s.ev with
  | some (.launchNodeRetire pa) =>
    match tget s.nodes pa with
    | some n => if s.nodeOver pa n then .next (s.endNode pa) else .next s
    | none => .next s
  | _ => .fault .noGang

/-- ZERO_BLOCK_NODE (R155). -/
def execZeroBlockNode (s : State) : Res :=
  match s.ev with
  | some (.zeroBlockNode pa) =>
    match tget s.nodes pa with
    | some n => if s.nodeEmpty pa n then .next (s.endNode pa) else .next s
    | none => .next s
  | _ => .fault .noGang

/-- LINK_CALL (R140): the monitor links a node for a context, and answers with the status it wrote. The call makes steps 2 to
5 of R139, not the checks of step 1, so that neither alignment nor the place of the node is checked (log entry 91); an address that does not translate, or a parent that is not linked, gives no link.
The partition root is linked by the monitor when it starts the partition (log entry 19). -/
def execLinkCall (s : State) : Res :=
  match s.ev with
  | some (.linkCall ctx rcb) =>
    match s.ctxTranslate ctx true .write 0 rcb with
    | .ok l =>
      let v := s.rcb l.pa
      let kind := bits v 7 0
      if s.marked l.pa 256 then .next (s.contain (nodeRow kind) none (some ctx))
      else
        let started := s.nodes.any fun e => e.2.kind == 1 && s.partOf e.2.ctx == s.partOf ctx
        if kind = 1 ∧ !started then
          let r := s.link l.pa rcb ctx none true
          .next (r.1.emit (.linkStatus ctx r.2))
        else
          match s.ctxTranslate ctx true .write 1 (BitVec.ofNat 64 (bits v 127 64)) with
          | .ok q =>
            if s.marked q.pa 256 then
              .next (s.contain (nodeRow (bits (s.rcb q.pa) 7 0)) none (some ctx))
            else if s.nodeTainted q.pa then .fault .nodeUndefined
            else
              let r := s.link l.pa rcb ctx (some q.pa) true
              .next (r.1.emit (.linkStatus ctx r.2))
          | .walkMark => .next (s.contain 10 none (some ctx))
          | .bad _ =>
            let r := s.link l.pa rcb ctx (some (2 ^ 60)) true
            .next (r.1.emit (.linkStatus ctx r.2))
    | .walkMark => .next (s.contain 10 none (some ctx))
    | .bad _ => .next s
  | _ => .fault .noGang

/-! ### LAUNCH (R139, R141) -/

/-- A token of a crew is pending. -/
def Crew.pending (c : Crew) (t : Nat) : Bool := match (c.tok t).st with | .pending _ => true | _ => false

/-- A crew whose token is poisoned at once. -/
def Crew.poisonTok (c : Crew) (t : Nat) : Crew :=
  { (c.modTok t fun _ => ⟨.poisoned, 0, []⟩) with macros := tdel c.macros t }

/-- The slices that act have accesses that a release at device scope waits for (R202, R203, R216). -/
def Issue.owes (x : Issue) : Bool := x.s.owed x.k x.actors x.s.fresh true || x.s.owedKnown x.k x.actors

/-- An address checked once for the gang as a write to local memory (R139, R238, R256, R455). -/
def Issue.localOnce (x : Issue) (n : Nat) (va : Dword) (body : Loc → Res) : Res :=
  if va.toNat % n ≠ 0 then x.trapAt .misalign (lanesOf x.act) (fun _ => va) true
  else x.accessOnce .write true n va fun l =>
    if isLocal l.pa then body l else x.trapAt .protect (lanesOf x.act) (fun _ => va) true

/-- What LAUNCH states before its effect (R139). -/
def launchHead (f : FSDA) : Head :=
  { st := f.s, fp := fun _ => { handles := [r2 f.a] }, dyn := fun x => x.c.pending f.d.toNat }

/-- LAUNCH (R139). A read of a node that consumes a mark poisons the token and does not retire (R345). -/
def execLaunch (f : FSDA) (s : State) : Res :=
  issue s (launchHead f) fun x =>
    let va := x.reg64 (lowest x.act) f.a.toNat
    let ctx := ((tget x.s.blocks x.c.block).map (·.ctx)).getD 0
    let marked : Res := .next ((x.s.setCrew x.k (x.c.poisonTok f.d.toNat)).contain 8 (some x.c.block) (some ctx))
    let poisoned := fun (s : State) => x.done s (((tget s.crews x.k).getD x.c).poisonTok f.d.toNat)
    x.localOnce 256 va fun l =>
      let pva := BitVec.ofNat 64 (memNat x.s.mem (l.pa + 8) 8)
      if x.s.marked l.pa 256 then marked
      else x.localOnce 256 pva fun q =>
        if x.s.marked q.pa 256 then marked
        else if x.owes then x.stall
        else if x.s.nodeTainted q.pa then .fault .nodeUndefined
        else
          let r := x.s.link l.pa va ctx (some q.pa) false
          if r.2 = 1 then
            let id := r.1.nextId
            let o : Op :=
              { crew := x.k, token := some f.d.toNat, parent := none, core := x.c.core, block := x.c.block
                slices := x.js, sup := false, born := x.s.fresh, pre := ⟨[], false⟩, order := none, body := .launch l.pa }
            let s := { r.1 with ops := tset r.1.ops id o, nextId := id + 1 }
            let s := s.modNode l.pa fun n => { n with launchOp := some id }
            x.done s (((tget s.crews x.k).getD x.c).modTok f.d.toNat fun _ => ⟨.pending id, 0, []⟩)
          else poisoned r.1

/-- What LAUNCH_RELEASE states before its effect (R141). -/
def launchReleaseHead (f : FS) : Head :=
  { st := f.s }

/-- LAUNCH_RELEASE (R141): the released bit of the crew's node. -/
def execLaunchRelease (f : FS) (s : State) : Res :=
  issue s (launchReleaseHead f) fun x =>
    match (tget x.s.blocks x.c.block).map (·.node) with
    | some pa =>
      let s := x.s.hwPoke (pa + 100) [memGet x.s.mem (pa + 100) ||| 2]
      let q := ((tget s.nodes pa).map (·.parent)).getD 0
      x.doneIn ((s.modNode pa fun n => { n with released := true, kept := n.kept.set 68 (memGet s.mem (pa + 100)) }).wakeQueue q)
    | none => x.nop

end Sys2Proof.Machine
end

