-- ==== Sys2Proof/Machine/Tokens.lean ====
section
/-! DEFINITION. Token instructions and their wakes, task counters, and the batches that copies join (R228 to R238, R256,
R279 to R281). -/

namespace Sys2Proof.Machine

/-! ### Waits and tests on tokens (R234) -/

/-- The tokens of a mask whose state satisfies p. -/
def Crew.tokensIn (c : Crew) (m : Word) (p : TokState → Bool) : Word :=
  maskOf fun i => m.getLsbD i && p (c.tok i).st

/-- A token state is not pending (R234: free counts as done). -/
def TokState.settled : TokState → Bool
  | .pending _ => false
  | _ => true

/-- A crew that is told of poison, or of none, in p7 of some lanes at a clock (R257, R134). -/
def Crew.report (c : Crew) (clk : Nat) (act : BitVec 32) (p : Bool) : Crew :=
  { (c.modLanes act fun _ ln => ln.setPred 7 p) with
    poison := c.poison || p, poisonAt := if p then clk else c.poisonAt }

/-- What a returning TKWAIT, TKANY or TKTEST leaves (R234): `dst` is the first logical register of the pair of masks. -/
def Crew.tokResult (c : Crew) (clk : Nat) (m : Word) (dst : Option Nat) (act : BitVec 32) : Crew :=
  let pz := c.tokensIn m (· == .poisoned)
  let c := match dst with
    | some d => c.modLanes act fun _ ln => ln.setLogical [d, d + 1] [c.tokensIn m TokState.settled, pz]
    | none => c
  c.report clk act (pz != 0)

/-- A TKWAIT or TKANY: it returns at once when its condition holds, else the gang sleeps. -/
def Issue.tokenWait (x : Issue) (m : Word) (any : Bool) (d : Nat) : Res :=
  let met := if any then m == 0 || x.c.anySettled m else !x.c.anyPending m
  if met then x.done x.s (x.c.tokResult x.s.clk m (if any then some (x.c.depth + d) else none) x.act)
  else .next (x.s.setCrew x.k (x.park x.c fun _ => .tokens m any (x.c.depth + d) x.act))

/-- What TKWAIT of one token states before its effect (R233, R234). -/
def tkwaitHead (f : FSD) : Head :=
  { st := f.s, fp := fun _ => { writesP := [7] } }

/-- TKWAIT of one token (R233, R234). -/
def execTkwait (f : FSD) (s : State) : Res :=
  issue s (tkwaitHead f) fun x => x.tokenWait (1#32 <<< f.d.toNat) false 0

/-- What TKWAIT of a mask states before its effect (R233, R234). -/
def tkwaitMaskHead (f : FSA) : Head :=
  { st := f.s, fp := fun _ => { handles := [r1 f.a], writesP := [7] } }

/-- TKWAIT of a mask (R233, R234). -/
def execTkwaitMask (f : FSA) (s : State) : Res :=
  issue s (tkwaitMaskHead f) fun x =>
    x.tokenWait (x.reg (lowest x.act) f.a.toNat) false 0

/-- What TKANY states before its effect (R234). -/
def tkanyHead (f : FSDA) : Head :=
  { st := f.s, fp := fun _ => { handles := [r1 f.a], writes := [r2 f.d], writesP := [7] } }

/-- TKANY (R234). -/
def execTkany (f : FSDA) (s : State) : Res :=
  issue s (tkanyHead f) fun x =>
    x.tokenWait (x.reg (lowest x.act) f.a.toNat) true f.d.toNat

/-- What TKTEST states before its effect (R234). -/
def tktestHead (f : FSDA) : Head :=
  { st := f.s, fp := fun _ => { handles := [r1 f.a], writes := [r2 f.d], writesP := [7] } }

/-- TKTEST (R234): the same results with no sleep. -/
def execTktest (f : FSDA) (s : State) : Res :=
  issue s (tktestHead f) fun x =>
    x.done x.s (x.c.tokResult x.s.clk (x.reg (lowest x.act) f.a.toNat) (some (x.c.depth + f.d.toNat)) x.act)

/-- TOKEN_WAIT_WAKE (R234): a sleeping TKWAIT or TKANY whose condition holds returns. -/
def execTokenWaitWake (s : State) : Res :=
  match s.ev with
  | some (.tokenWaitWake k j) =>
    match tget s.crews k with
    | some c =>
      match (c.slice j).wait with
      | .tokens m any d act =>
        if (if any then m == 0 || c.anySettled m else !c.anyPending m) then
          .next (s.setCrew k ((c.tokResult s.clk m (if any then some d else none) act).unpark (c.gangOf j) s.clk))
        else .next s
      | _ => .next s
    | none => .next s
  | _ => .fault .noGang

/-! ### TKFREE (R235) -/

/-- A crew with every token of a mask free. -/
def Crew.freeTokens (c : Crew) (m : Word) : Crew :=
  (List.range 32).foldl (fun c i => if m.getLsbD i then c.modTok i fun _ => ⟨.free, 0, []⟩ else c) c

/-- What TKFREE of one token states before its effect (R235). -/
def tkfreeHead (f : FSD) : Head :=
  { st := f.s, dyn := fun x => x.c.pending f.d.toNat }

/-- TKFREE of one token (R235). -/
def execTkfree (f : FSD) (s : State) : Res :=
  issue s (tkfreeHead f) fun x =>
    x.done x.s (x.c.freeTokens (1#32 <<< f.d.toNat))

/-- What TKFREE of a mask states before its effect (R235). -/
def tkfreeMaskHead (f : FSA) : Head :=
  { st := f.s, fp := fun _ => { handles := [r1 f.a] }
    dyn := fun x => x.c.anyPending (x.reg (lowest x.act) f.a.toNat) }

/-- TKFREE of a mask (R235): a pending token raises ILLEGAL and none is freed. -/
def execTkfreeMask (f : FSA) (s : State) : Res :=
  issue s (tkfreeMaskHead f) fun x =>
    x.done x.s (x.c.freeTokens (x.reg (lowest x.act) f.a.toNat))

/-! ### Exports to task nodes, and task counters (R238, R256) -/

/-- A token that takes no further export: it is free, or holds four unfired ones (R236). -/
def Crew.noExport (c : Crew) (t : Nat) : Bool :=
  (c.tok t).st == .free || decide (4 ≤ (c.tok t).exports.length)

/-- An export attached, or fired at once when the token is done or poisoned (R236). -/
def Issue.attach (x : Issue) (t : Nat) (e : Export) : Res :=
  let tok := x.c.tok t
  if x.c.pending t then x.done x.s (x.c.modTok t fun q => { q with exports := q.exports ++ [e] })
  else
    let es := exportSteps x.c.core x.c.block (x.s.ctxOf x.c) tok.bytes (tok.st == .poisoned) [e]
    x.done { x.s with due := x.s.due ++ es } x.c

/-- A task node's address checked (R238, R256): a node whose kind is not 5 raises ILLEGAL after the address checks; a
read that consumes a mark is contained (R345). -/
def Issue.taskNode (x : Issue) (va : Dword) (body : Nat → Res) : Res :=
  x.localOnce 256 va fun l =>
    if x.s.marked l.pa 256 then .next (x.s.contain 8 (some x.c.block) (some (x.s.ctxOf x.c)))
    else if (memGet x.s.mem l.pa).toNat ≠ 5 then x.trap .illegal x.live
    else body l.pa

/-- What TKEXP.task states before its effect (R236, R238). -/
def tkexpTaskHead (f : FSDA) : Head :=
  { st := f.s, fp := fun _ => { handles := [r2 f.a] }, dyn := fun x => x.c.noExport f.d.toNat }

/-- TKEXP.task (R236, R238). -/
def execTkexpTask (f : FSDA) (s : State) : Res :=
  issue s (tkexpTaskHead f) fun x =>
    x.taskNode (x.reg64 (lowest x.act) f.a.toNat) fun pa => x.attach f.d.toNat (.task pa)

/-- What TASKD states before its effect (R256). -/
def taskdHead (f : FSAB) : Head :=
  { st := f.s, fp := fun _ => { handles := [r2 f.a, r1 f.b] }
    dyn := fun x =>
      let n := (x.reg (lowest x.act) f.b.toNat).toNat
      n == 0 || decide (2 ^ 31 ≤ n) }

/-- TASKD (R256): the slice's earlier writes are released at device scope, then the counter falls. -/
def execTaskd (f : FSAB) (s : State) : Res :=
  issue s (taskdHead f) fun x =>
    x.taskNode (x.reg64 (lowest x.act) f.a.toNat) fun pa =>
      if x.owes then x.stall
      else x.doneIn (x.s.decrement pa (x.reg (lowest x.act) f.b.toNat).toNat false)

/-! ### Batches (R279 to R281) -/

/-- The number after n; 0 names no batch (R279). -/
def nextBatch (n : Word) : Word := if n + 1 = 0 then 1 else n + 1

/-- n is ahead of the last sealed batch (R279); 0, which is no batch's number, is not, and covers nothing (R281; for BARRD too:
log entry 95). -/
def aheadOf (n last : Word) : Bool := n != 0 && n != last && decide ((n - last).toNat < 2 ^ 31)

/-- The open batch sealed; a record whose copies have all completed clean retires at once (R280). -/
def Batches.seal (b : Batches) : Batches :=
  let n := nextBatch b.last
  { last := n, opened := [], openPoison := false
    recs := if b.opened.isEmpty && !b.openPoison then b.recs else b.recs ++ [⟨n, b.opened, b.openPoison⟩] }

/-- What SEAL states before its effect (R280). -/
def sealHead (f : FSD) : Head :=
  { st := f.s, fp := fun _ => { writes := [r1 f.d] }
    dyn := fun x => x.actors.any fun j =>
      let r := (x.c.slice j).batch.recs
      decide (32 ≤ r.length) && r.all fun q => q.copies.isEmpty && q.poisoned }

/-- SEAL (R280). -/
def execSeal (f : FSD) (s : State) : Res :=
  issue s (sealHead f) fun x =>
    if x.actors.any fun j => decide (32 ≤ (x.c.slice j).batch.recs.length) then x.stall
    else
      let c := x.c.modSlices x.actors fun sl => { sl with batch := sl.batch.seal }
      x.done x.s (c.modLanes x.act fun l ln => ln.write c.depth (wr1 f.d (c.slice (l / 4)).batch.last))

/-- Whether a batch covered by n holds a copy that completed poisoned. -/
def Batches.poisonedBy (b : Batches) (n : Word) : Bool := b.recs.any fun r => covers n r.num && r.poisoned

/-- The batches once a wait or arrival that covers n has reported them. -/
def Batches.retire (b : Batches) (n : Word) : Batches :=
  { b with recs := b.recs.filter fun r => !(covers n r.num && r.copies.isEmpty) }

/-- A crew once a WAITB of some slices returns: each slice's number is `n j` (R281). -/
def Crew.batchResult (c : Crew) (clk : Nat) (js : List Nat) (n : Nat → Word) (act : BitVec 32) : Crew :=
  js.foldl (fun (c : Crew) j =>
    let m := act &&& (0xF#32 <<< (4 * j))
    if m = 0 then c
    else
      let pz := (c.slice j).batch.poisonedBy (n j)
      (c.modSlice j fun sl => { sl with batch := sl.batch.retire (n j) }).report clk m pz) c

/-- The number slice j's WAITB names, from its lowest active lane (R281). -/
def Issue.batchNum (x : Issue) (f : FSA) (j : Nat) : Word :=
  x.reg (lowest (x.act &&& (0xF#32 <<< (4 * j)))) f.a.toNat

/-- What WAITB states before its effect (R281). -/
def waitbHead (f : FSA) : Head :=
  let bad := fun (x : Issue) => x.actors.filter fun j => aheadOf (x.batchNum f j) (x.c.slice j).batch.last
  { st := f.s, fp := fun _ => { reads := [r1 f.a], writesP := [7] }
    dyn := fun x => !(bad x).isEmpty, dynMask := fun x => x.c.live (bad x) }

/-- WAITB (R281). -/
def execWaitb (f : FSA) (s : State) : Res :=
  issue s (waitbHead f) fun x =>
    let n := x.batchNum f
    let split := x.actors.foldl (fun m j => m ||| differing (x.act &&& (0xF#32 <<< (4 * j))) fun l => x.reg l f.a.toNat) 0
    if split != 0 then x.trap .nonuniform split
    else if x.actors.all fun j => (x.c.slice j).batchDone (n j) then x.done x.s (x.c.batchResult x.s.clk x.actors n x.act)
    else .next (x.s.setCrew x.k (x.park x.c fun j => .batch (if x.actors.contains j then n j else 0) x.act))

/-- BATCH_WAIT_WAKE (R281). -/
def execBatchWaitWake (s : State) : Res :=
  match s.ev with
  | some (.batchWaitWake k j) =>
    match tget s.crews k with
    | some c =>
      let js := c.gangOf j
      let n := fun i => match (c.slice i).wait with | .batch n _ => n | _ => 0
      match (c.slice j).wait with
      | .batch _ act =>
        if js.all fun i => (c.slice i).batchDone (n i) then
          .next (s.setCrew k ((c.batchResult s.clk js n act).unpark js s.clk))
        else .next s
      | _ => .next s
    | none => .next s
  | _ => .fault .noGang

end Sys2Proof.Machine
end

