-- ==== Sys2Proof/Machine/Barriers.lean ====
section
/-! DEFINITION. Phase barriers: the object at its level, its updates and phases, the barrier instructions, continuations,
deferred arrivals, and barriers of peers (R239 to R255, R455). -/

namespace Sys2Proof.Machine

/-! ### New crews (R118, R255) -/

/-- A new crew: one gang at its entry, its first registers as given, every other register 0 (R118). -/
def newCrew (block core crewIx nsl team allot prio : Nat) (entry : Dword) (regs : List Word) (spillBase : Dword)
    (spillSize : Nat) (poison : Bool) (clk : Nat) : Crew :=
  let set := (regs.zipIdx.filter fun e => e.1 != 0).map fun e => (e.2, e.1)
  let sl : Slice := ⟨0xF, false, 0, entry, 0x0008, [], .none, clk, clk, 0, false, [], ⟨0, [], false, []⟩, false⟩
  { block := block, core := core, crewIx := crewIx, nsl := nsl, team := team, depth := 0, allot := allot, prio := prio
    toks := Vector.replicate 32 ⟨.free, 0, []⟩, macros := [], poison := poison, poisonAt := clk, rtimeout := false, rtimeoutAt := 0, ucheck := false, stcheck := false
    spillBase := spillBase, spillSize := spillSize, spillSegs := [], spillLost := false, sup := none, nested := []
    trap := ⟨0, 0, 0, 0, [], 0⟩, efr := [], efrLost := false, fab := ⟨0, false, 0, 0⟩, deferred := [], role := none
    claimed := false, lanes := Vector.replicate 32 ⟨set, 0, []⟩
    slices := Vector.ofFn fun i => { sl with exited := decide (nsl ≤ i.val), live := if i.val < nsl then 0xF else 0 } }

/-! ### The object at its level (R239 to R242) -/

/-- Phase n is complete (R251). -/
def phaseDone (phase n : Word) : Bool := decide (1 ≤ (phase - n).toNat) && decide ((phase - n).toNat ≤ 2 ^ 31)

/-- What a barrier's level finds when it reads an object. -/
inductive BarSeen where
  | ok (o : BarObj)
  | mark
  | undefined
  deriving DecidableEq, Repr

/-- A barrier object read at its level: a mark in memory (R345); overwritten while valid (R239). -/
def State.barSee (s : State) (pa : Nat) : BarSeen :=
  let b := tget s.bars pa
  if (b.bind (·.cached)).isNone && s.marked pa 64 then .mark
  else
    let o := s.barObj pa
    if s.tainted.contains pa then .undefined else .ok o

/-- The entries in use of a region table (R240). -/
def State.regionTable (s : State) (rpa nb : Nat) : List (Nat × Nat) :=
  (List.range nb).map fun i => (memNat s.mem (rpa + 16 * i) 8, memNat s.mem (rpa + 16 * i + 8) 4)

/-- The load-cache lines of a core that meet a region of virtual addresses dropped, page by page. -/
def State.dropRegion (s : State) (core base len : Nat) : State :=
  if len = 0 then s
  else
    (List.range ((base % 4096 + len + 4095) / 4096)).foldl (fun (s : State) i =>
      let lo := max base (base / 4096 * 4096 + 4096 * i)
      let hi := min (base + len) (base / 4096 * 4096 + 4096 * (i + 1))
      match s.translate core true .read (100 + i) (BitVec.ofNat 64 lo) with
      | .ok l => s.lcacheDrop core l.pa (hi - lo)
      | _ => s) s

/-- What observing a phase does to the observer's core (R251): its lines that meet a bound region are dropped. -/
def State.observe (s : State) (core pa : Nat) (o : BarObj) : State :=
  let rpa := ((tget s.bars pa).map (·.regionsPa)).getD 0
  (s.regionTable rpa o.nbound).foldl (fun s r => s.dropRegion core r.1 r.2) s

/-! ### Phases and updates (R243, R244, R255) -/

/-- A continuation spawns as a new crew of its block (R255), or, while the block is in the Hogshead, is marked as fired
(R342); one of a block that a fault has ended never spawns (R254). Its first instruction observes the phase. -/
def State.spawn (s : State) (pa : Nat) (o : BarObj) (t : Cont) (lp : Bool) : State :=
  let s := s.unguard t.rec_
  match tget s.blocks t.block with
  | some b =>
    if b.stopped then s
    else if b.out then
      let h := (tget s.hogs b.hogKey).getD ⟨[], 0, 0, [], [], []⟩
      { s with hogs := tset s.hogs b.hogKey { h with fired := h.fired ++ [(t, lp)] } }
    else
      let x3 := (t.args.getD 3 0 &&& 0x7FFFFFFF) ||| (if lp then 0x80000000 else 0)
      let c := newCrew t.block t.core t.crewIx 1 0 t.allot t.prio t.entry (t.args.take 3 ++ [x3]) t.spillBase t.spillSize
        lp (s.clk + 1)
      (({ s with crews := tset s.crews s.nextId c, nextId := s.nextId + 1 }).observe t.core pa o)
  | none => s

/-- A continuation of a peer's barrier spawns (R255, R455). The bound regions are the peer's, so that the whole load cache of its
core is dropped (R251, log entry 116). -/
def State.spawnPeer (s : State) (t : Cont) (lp : Bool) : State := (s.lcacheClear t.core).spawn 0 (BarObj.ofNat 0) t lp

/-- The continuation record that the object of a barrier names. -/
def State.contHead (s : State) (pa : Nat) : Dword := ((tget s.bars pa).map fun b => headOf b.conts b.remotes).getD 0

/-- The gangs that wait on a barrier for a phase that is complete. -/
def State.barWakes (s : State) (pa : Nat) (phase : Word) : List Event :=
  s.crews.flatMap fun e => e.2.present.filterMap fun j =>
    match (e.2.slice j).wait with
    | .barrier p n _ => if p = pa ∧ phaseDone phase n ∧ e.2.gangLead j = j then some (.barrierWaitWake e.1 j) else none
    | _ => none

/-- Peers that wait on a barrier answered, where their phase is complete. -/
def State.answerRemotes (s : State) (pa : Nat) (p : Word → Bool) (lp : Bool) : State :=
  match tget s.bars pa with
  | some b =>
    let now := b.remotes.filter fun r => p r.n
    let s := { s with bars := tset s.bars pa { b with remotes := b.remotes.filter fun r => !p r.n } }
    now.foldl (fun s r => s.emit (.answer r.dev r.part r.tag (.data [if lp then 1 else 0] []))) s
  | none => s

/-- A phase completes (R243): poison moves on, the counts start again, waiters wake, and its continuations spawn in
registration order; none when a continuation's record was overwritten (R253). -/
def State.completePhase (s : State) (pa : Nat) (o : BarObj) : Option State :=
  let b := tget s.bars pa
  let conts := (b.map (·.conts)).getD []
  let ph := o.phase + 1
  let now := conts.filter fun t => phaseDone ph t.phase
  let rest := conts.filter fun t => !phaseDone ph t.phase
  let o := { o with
    lpoison := o.cpoison, cpoison := false, phase := ph, parr := o.expected, pbytes := 0
    conthead := headOf rest (((b.map (·.remotes)).getD []).filter fun r => !phaseDone ph r.n) }
  if now.any fun t => s.tainted.contains t.rec_ then none
  else
    let s := { s with bars := tmod s.bars pa fun b => { b with conts := rest } }
    let s := (s.barPut pa o).pushAll (s.barWakes pa ph)
    let s := s.answerRemotes pa (phaseDone ph) o.lpoison
    some (now.foldl (fun s t => s.spawn pa o t o.lpoison) s)

/-- A barrier object after an arrival, a byte change and poison (R243, R244). -/
def BarObj.update (o : BarObj) (arrive : Bool) (bytes : Int) (poison : Bool) : BarObj :=
  let o := if arrive then if o.parr = 0 then { o with cpoison := true } else { o with parr := o.parr - 1 } else o
  let n := o.pbytes.toInt + bytes
  let o := if -(2 ^ 31 : Int) ≤ n ∧ n < 2 ^ 31 then { o with pbytes := BitVec.ofInt 32 n } else { o with cpoison := true }
  { o with cpoison := o.cpoison || poison }

/-- One update applied to a valid object at its level (R243). -/
def State.barApply (s : State) (pa : Nat) (o : BarObj) (arrive : Bool) (bytes : Int) (poison : Bool) : Option State :=
  let o := o.update arrive bytes poison
  if (arrive || bytes != 0) && o.parr == 0 && o.pbytes == 0 then s.completePhase pa o else some (s.barPut pa o)

/-- An update by an engine, a deferred arrival or a peer (R237, R243): discarded when the object is no longer valid; a
mark that the level reads is contained (R345). None: undefined. -/
def State.barUpdate (s : State) (u : BarUpd) : Option State :=
  if isPeer u.pa then some (s.ask u.die (Issuer.hardware u.ctx) (.update u.block) u.va u.pa 64 (.barrier u.arrive u.bytes u.poison))
  else match s.barSee u.pa with
    | .mark => some (s.contain 4 (some u.block) (some u.ctx))
    | .undefined => none
    | .ok o => if o.valid then s.barApply u.pa o u.arrive u.bytes u.poison else some s

/-- A step that answers undefined where there is no state. -/
def orUndefined : Option State → Res
  | some s => .next s
  | none => .fault .barrierUndefined

/-- BARRIER_UPDATE (R237, R243). -/
def execBarrierUpdate (s : State) : Res :=
  match s.ev with
  | some (.barrierUpdate u) => orUndefined (s.barUpdate u)
  | _ => .fault .noGang

/-- A deferred arrival can be made (R224, R249, R250): its covered copies have completed, and the accesses that its slices
made before the BARRD have been performed. -/
def State.arrivalDue (s : State) (k : Nat) (d : Deferred) : Bool :=
  d.copies.isEmpty && !s.owed k (d.covers.map (·.1)) d.born true

/-- DEFERRED_ARRIVAL (R250): the crew's oldest deferred arrival that can be made is made, and the poisoned records it covers
retire (R280). -/
def execDeferredArrival (s : State) : Res :=
  match s.ev with
  | some (.deferredArrival k) =>
    match tget s.crews k with
    | some c =>
      match c.deferred.find? fun d => s.arrivalDue k d with
      | some d =>
        let poison := d.covers.any fun e => (c.slice e.1).batch.poisonedBy e.2
        let c1 := d.covers.foldl (fun (c : Crew) e => c.modSlice e.1 fun sl => { sl with batch := sl.batch.retire e.2 }) c
        let s1 := s.setCrew k { c1 with deferred := c.deferred.erase d }
        orUndefined ((s1.barUpdate ⟨dieOfCore c.core, d.pa, d.va, true, d.bytes.toInt, poison, c.block, s.ctxOf c⟩).map
          fun s => s.pushAll (s.crewSteps k))
      | none => .next s
    | none => .next s
  | _ => .fault .noGang

/-! ### The checks of a barrier instruction (R246) -/

/-- The issuer lies within a barrier's scope, taken relative to the slice that executed BINIT (R208, R242). -/
def State.inScope (s : State) (c : Crew) (b : Bar) (scope : Nat) : Bool :=
  let cl := ((tget s.blocks c.block).map (·.cluster)).getD 0
  match scope with
  | 0 => c.block == b.block
  | 1 => cl == b.cluster
  | 2 => dieOfCore c.core == dieOfCore b.core
  | 3 => !s.pkg.split || dieOfCore c.core == dieOfCore b.core
  | _ => true

/-- What a peer answered the barrier instruction that this gang issues again. -/
def Issue.answer (x : Issue) : Option Resp := tget x.s.answers (8 * x.k + x.js.headD 0)

/-- A barrier instruction on a peer's object (R455): the first issue sends the request and waits; when the answer has come
the instruction issues again and goes on with it. It is not ready while its slice holds a ticket of the page (R376). -/
def Issue.peerBarrier (x : Issue) (va : Dword) (pa : Nat) (kind : PeerKind) (body : State → List Byte → Res) : Res :=
  let s := { x.s with answers := tdel x.s.answers (8 * x.k + x.js.headD 0) }
  let fail := fun (cause : Cause) =>
    (.next (s.takeTrap x.k x.js cause x.act 0 ((lanesOf x.act).map fun l => (l, va)) 0) : Res)
  match x.answer with
  | none =>
    if x.ticketed ((lanesOf x.act).map fun l => (l, ⟨pa, 0⟩)) then x.stall
    else
    let s := x.s.setCrew x.k (x.park x.c fun _ => .peerBar)
    .next (s.ask (dieOfCore x.c.core) (x.issuer x.actors) (.barrier x.k (x.js.headD 0)) va pa 64 kind)
  | some (.data bs _) => body s bs
  | some .done => body s []
  | some .protect => fail .protect
  | some .revoked => fail .revoked
  | some .illegal => .next (s.takeTrap x.k x.js .illegal x.live 0 [] 0)
  | some .unsupported => fail .protect
  | some .dropped => body s []
  | some .refused => fail .protect

/-- What an access to an object leaves at its level (R241): the object cached on its core again, if it was written back. One
that is valid though no BINIT made it so, as the bytes of memory may be, is taken as initialised by the slice that reaches
it; whether that slice lies in its scope is an open choice (R242, log entry 96). -/
def Issue.reached (x : Issue) (pa : Nat) (o : BarObj) : Issue :=
  if !o.valid then x
  else match tget x.s.bars pa with
    | some _ => { x with s := x.s.recache pa o }
    | none =>
      let b := tget x.s.blocks x.c.block
      let rpa := match x.s.translate x.c.core true .write 2 o.regions with
        | .ok l => l.pa
        | _ => 0
      let bar : Bar :=
        { core := x.c.core, block := x.c.block, cluster := (b.map (·.cluster)).getD 0, ctx := (b.map (·.ctx)).getD 0
          regionsPa := rpa, conts := [], remotes := [], cached := none }
      { x with s := { x.s with bars := tset x.s.bars pa bar } }

/-- The checks of R246 from the address on: the object, for BINIT its region table, the scope, and validity. `peer` is
what the instruction does on a peer's object, none where R455 forbids one. -/
def Issue.barrier (x : Issue) (va : Dword) (w : Bool) (rtab : Dword) (needValid : Bool) (peer : Option (Nat → Res))
    (body : Issue → Nat → Nat → BarObj → Res) : Res :=
  let protect := fun (v : Dword) (w : Bool) => x.trapAt .protect (lanesOf x.act) (fun _ => v) w
  let level := fun (pa rpa : Nat) =>
    match x.s.barSee pa with
    | .mark => (.next (x.s.contain 4 (some x.c.block) (some (x.s.ctxOf x.c))) : Res)
    | .undefined => .fault .barrierUndefined
    | .ok o =>
      let inside := match tget x.s.bars pa with
        | some b => x.s.inScope x.c b o.scope
        | none => !o.valid || x.s.free 19 0 % 2 == 1
      if o.valid && !inside then protect va w
      else if needValid && !o.valid then x.trap .illegal x.live
      else body (x.reached pa o) pa rpa o
  x.accessOnce (if w then .write else .read) w 64 va fun l =>
    if isPeer l.pa then
      match peer with
      | some f => f l.pa
      | none => protect va w
    else if !isLocal l.pa then protect va w
    else if rtab = 0 then level l.pa 0
    else if rtab.toNat % 256 ≠ 0 then x.trapAt .misalign (lanesOf x.act) (fun _ => rtab) true
    else x.accessOnce .write true 256 rtab fun r => if isLocal r.pa then level l.pa r.pa else protect rtab true

/-- The object address of a barrier group. -/
def Issue.barAddr (x : Issue) (a : BitVec 6) : Dword := x.reg64 (lowest x.act) a.toNat
/-- W2 of a barrier group. -/
def Issue.w2 (x : Issue) (a : BitVec 6) : Word := x.reg (lowest x.act) (a.toNat + 2)
/-- W3 of a barrier group. -/
def Issue.w3 (x : Issue) (a : BitVec 6) : Word := x.reg (lowest x.act) (a.toNat + 3)

/-- A state in which the instruction completes, or undefined. -/
def Issue.doneIf (x : Issue) : Option State → Res
  | some s => x.doneIn s
  | none => .fault .barrierUndefined

/-! ### Waits (R251) -/

/-- A gang that waited on a phase goes on, told of poison; its core's lines that meet a bound region are dropped. -/
def State.endBarWait (s : State) (k j : Nat) (pa : Nat) (act : BitVec 32) (o : BarObj) (lp : Bool) : State :=
  match tget s.crews k with
  | some c => (s.setCrew k ((c.report s.clk act lp).unpark (c.gangOf j) s.clk)).observe c.core pa o
  | none => s

/-- A crew's block is held in the Hogshead (R342). -/
def State.isOut (s : State) (c : Crew) : Bool := ((tget s.blocks c.block).map (·.out)).getD false

/-- BARRIER_WAIT_WAKE (R251): the phase is complete, or the object invalid, which wakes as at a poisoned completion. -/
def execBarrierWaitWake (s : State) : Res :=
  match s.ev with
  | some (.barrierWaitWake k j) =>
    match tget s.crews k with
    | some c =>
      match (c.slice j).wait with
      | .barrier pa n act =>
        if s.isOut c then .next s
        else match s.barSee pa with
          | .mark => .next (s.contain 4 (some c.block) (some (s.ctxOf c)))
          | .undefined => .fault .barrierUndefined
          | .ok o =>
            if !o.valid then .next (s.endBarWait k j pa act o true)
            else if phaseDone o.phase n then .next (s.endBarWait k j pa act o o.lpoison)
            else .next s
      | _ => .next s
    | none => .next s
  | _ => .fault .noGang

/-! ### BINIT, BBIND, BARR, BARRD, BEXP (R247 to R250) -/

/-- A barrier invalidated (R247): gangs that wait wake as at a poisoned completion, its continuations spawn with poison,
and the object is written back invalid. -/
def State.invalidate (s : State) (pa : Nat) (o : BarObj) : Option State :=
  let conts := ((tget s.bars pa).map (·.conts)).getD []
  if conts.any fun t => s.tainted.contains t.rec_ then none
  else
    let s := s.crews.foldl (fun (s : State) e =>
      if s.isOut e.2 then s
      else e.2.present.foldl (fun (s : State) j =>
        match (e.2.slice j).wait with
        | .barrier p _ act => if p = pa ∧ e.2.gangLead j = j then s.endBarWait e.1 j pa act o true else s
        | _ => s) s) s
    let s := s.answerRemotes pa (fun _ => true) true
    let s := conts.foldl (fun s t => s.spawn pa o t true) s
    let s := { s with bars := tdel s.bars pa }
    some ((s.writeBar pa { o with valid := false, conthead := 0 }).unguard pa)

/-- An object initialised (R247). -/
def Issue.initBar (x : Issue) (pa rpa : Nat) (expected scope : Nat) (regions : Dword) : State :=
  let b := tget x.s.blocks x.c.block
  let s := x.s.unguard pa
  let s := if regions = 0 then s else s.hwPoke rpa (List.replicate 256 0)
  let s := (s.hwPoke pa (List.replicate 64 0)).guardBytes pa pa 64
  let s := if regions = 0 then s else s.guardBytes pa rpa 256
  let bar : Bar :=
    { core := x.c.core, block := x.c.block, cluster := (b.map (·.cluster)).getD 0, ctx := (b.map (·.ctx)).getD 0
      regionsPa := rpa, conts := [], remotes := [], cached := none }
  let s := { s with bars := tset s.bars pa bar }
  s.barPut pa
    { phase := 0, expected := expected, parr := expected, pbytes := 0, valid := true, cpoison := false, lpoison := false
      scope := scope, nbound := 0, regions := regions, conthead := 0 }

/-- What BINIT states before its effect (R247). -/
def binitHead (f : FSA) : Head :=
  { st := f.s, fp := fun _ => { handles := [⟨f.a.toNat, 6, 4⟩] }
    dyn := fun x => x.w3 f.a != 0 || (x.w2 f.a).extractLsb' 19 13 != 0 ||
      decide (4 < ((x.w2 f.a).extractLsb' 16 3).toNat) }

/-- BINIT (R247). Its group is six registers from a multiple of 4 (R245). -/
def execBinit (f : FSA) (s : State) : Res :=
  issue s (binitHead f) fun x =>
    let expected := ((x.w2 f.a).extractLsb' 0 16).toNat
    let regions := x.reg64 (lowest x.act) (f.a.toNat + 4)
    x.barrier (x.barAddr f.a) true regions false none fun x pa rpa o =>
      if expected = 0 then if o.valid then x.doneIf (x.s.invalidate pa o) else x.nop
      else if o.valid then x.trap .illegal x.live
      else x.doneIn (x.initBar pa rpa expected ((x.w2 f.a).extractLsb' 16 3).toNat regions)

/-- The bytes of a region table's entry. -/
def regionBytes (r : Nat × Nat) : List Byte := natBytes r.1 8 ++ natBytes r.2 4 ++ [0, 0, 0, 0]

/-- What BBIND states before its effect (R248). -/
def bbindHead (f : FSAB) : Head :=
  let b := f.b.toNat
  { st := f.s, fp := fun _ => { handles := [r4 f.a, r4 f.b] }
    dyn := fun x => x.w2 f.a != 0 || x.w3 f.a != 0 || x.reg (lowest x.act) (b + 3) != 0 }

/-- BBIND (R248). -/
def execBbind (f : FSAB) (s : State) : Res :=
  let b := f.b.toNat
  issue s (bbindHead f) fun x =>
    let base := (x.reg64 (lowest x.act) b).toNat
    let len := (x.reg (lowest x.act) (b + 2)).toNat
    x.barrier (x.barAddr f.a) false 0 true none fun x pa _ o =>
      let rpa := ((tget x.s.bars pa).map (·.regionsPa)).getD 0
      if len = 0 then
        let keep := (x.s.regionTable rpa o.nbound).filter fun r => r.1 != base
        let bytes := (keep.flatMap regionBytes) ++ List.replicate (256 - 16 * keep.length) 0
        if o.regions = 0 then x.nop
        else x.doneIn ((x.s.hwPoke rpa bytes).barPut pa { o with nbound := keep.length })
      else if o.nbound = 16 ∨ o.regions = 0 then x.trap .illegal x.live
      else x.doneIn ((x.s.hwPoke (rpa + 16 * o.nbound) (regionBytes (base, len))).barPut pa { o with nbound := o.nbound + 1 })

/-- What BARR states before its effect (R249). -/
def barrHead (f : FSA) : Head :=
  { st := f.s, fp := fun _ => { handles := [r4 f.a] }, dyn := fun x => x.w3 f.a != 0 }

/-- BARR (R249): the slice's earlier writes in bound regions are performed first; on a peer's object, whose regions this device
does not see, all its earlier accesses. -/
def execBarr (f : FSA) (s : State) : Res :=
  issue s (barrHead f) fun x =>
    x.barrier (x.barAddr f.a) false 0 true
      (some fun pa =>
        if x.answer.isNone && x.owes then x.stall
        else x.peerBarrier (x.barAddr f.a) pa (.barrier true (x.w2 f.a).toInt false) fun s _ => x.done s x.c) fun x pa _ o =>
      if o.nbound ≠ 0 && x.owes then x.stall
      else x.doneIf (x.s.barApply pa o true (x.w2 f.a).toInt false)

/-- What BEXP states before its effect (R249). -/
def bexpHead (f : FSA) : Head :=
  { st := f.s, fp := fun _ => { handles := [r4 f.a] }, dyn := fun x => x.w3 f.a != 0 || x.w2 f.a == 0 }

/-- BEXP (R249). -/
def execBexp (f : FSA) (s : State) : Res :=
  issue s (bexpHead f) fun x =>
    x.barrier (x.barAddr f.a) false 0 true
      (some fun pa => x.peerBarrier (x.barAddr f.a) pa (.barrier false (x.w2 f.a).toInt false) fun s _ => x.done s x.c)
      fun x pa _ o => x.doneIf (x.s.barApply pa o false (x.w2 f.a).toInt false)

/-- The deferred arrival that a BARRD records (R250). -/
def Issue.deferral (x : Issue) (pa : Nat) (a : BitVec 6) : Deferred :=
  let n := x.w3 a
  let recs := x.actors.flatMap fun j => (x.c.slice j).batch.recs.filter fun r => covers n r.num
  { pa := pa, va := x.barAddr a, bytes := x.w2 a, covers := x.actors.map fun j => (j, n)
    copies := (recs.flatMap (·.copies)).dedup, born := x.s.fresh }

/-- A BARRD's record joins the crew's. -/
def Issue.defer (x : Issue) (s : State) (d : Deferred) : Res :=
  let c := x.advanced { x.c with deferred := x.c.deferred ++ [d] }
  let s := s.setCrew x.k c
  .next (s.pushAll (s.crewSteps x.k))

/-- What BARRD states before its effect (R250). -/
def barrdHead (f : FSA) : Head :=
  { st := f.s, fp := fun _ => { handles := [r4 f.a] }
    dyn := fun x => x.actors.any fun j => aheadOf (x.w3 f.a) (x.c.slice j).batch.last }

/-- BARRD (R250): a seventeenth unperformed arrival of the crew waits. -/
def execBarrd (f : FSA) (s : State) : Res :=
  issue s (barrdHead f) fun x =>
    if 16 ≤ x.c.deferred.length then x.stall
    else
      x.barrier (x.barAddr f.a) false 0 true
        (some fun pa => x.peerBarrier (x.barAddr f.a) pa (.barTest 0) fun s _ => x.defer s (x.deferral pa f.a))
        fun x pa _ _ => x.defer x.s (x.deferral pa f.a)

/-- What TKEXP.bar states before its effect (R236, R237). -/
def tkexpBarHead (f : FSDA) : Head :=
  { st := f.s, fp := fun _ => { handles := [r2 f.a] }, dyn := fun x => x.c.noExport f.d.toNat }

/-- TKEXP.bar (R236, R237). -/
def execTkexpBar (f : FSDA) (s : State) : Res :=
  issue s (tkexpBarHead f) fun x =>
    let va := x.reg64 (lowest x.act) f.a.toNat
    x.barrier va false 0 true
      (some fun pa => x.peerBarrier va pa (.barTest 0) fun s _ =>
        ({ x with s := s }).attach f.d.toNat (.bar pa va)) fun x pa _ _ => x.attach f.d.toNat (.bar pa va)

/-! ### BWAIT, BTEST, BCONT (R251 to R253) -/

/-- What BWAIT states before its effect (R251). -/
def bwaitHead (f : FSA) : Head :=
  { st := f.s, fp := fun _ => { handles := [r4 f.a], writesP := [7] }, dyn := fun x => x.w3 f.a != 0 }

/-- BWAIT (R251). -/
def execBwait (f : FSA) (s : State) : Res :=
  issue s (bwaitHead f) fun x =>
    x.barrier (x.barAddr f.a) false 0 true
      (some fun pa => x.peerBarrier (x.barAddr f.a) pa (.barWait (x.w2 f.a)) fun s bs =>
        x.done (s.lcacheClear x.c.core) (x.c.report x.s.clk x.act (bytesNat bs % 2 == 1))) fun x pa _ o =>
      if phaseDone o.phase (x.w2 f.a) then x.done (x.s.observe x.c.core pa o) (x.c.report x.s.clk x.act o.lpoison)
      else .next (x.s.setCrew x.k (x.park x.c fun _ => .barrier pa (x.w2 f.a) x.act))

/-- The status word of BTEST (R252). -/
def BarObj.status (o : BarObj) (n : Word) : Word :=
  BitVec.ofNat 32 ((phaseDone o.phase n).toNat + 2 * o.lpoison.toNat + 4 * o.cpoison.toNat + 65536 * o.parr)

/-- What BTEST leaves in the crew. -/
def Issue.testResult (x : Issue) (d : BitVec 6) (phase st : Word) : Crew :=
  (x.write fun _ => wrN d.toNat [phase, st]).report x.s.clk x.act (st.getLsbD 0 && st.getLsbD 1)

/-- What BTEST states before its effect (R252). -/
def btestHead (f : FSDA) : Head :=
  { st := f.s, fp := fun _ => { handles := [r4 f.a], writes := [r2 f.d], writesP := [7] }
    dyn := fun x => x.w3 f.a != 0 }

/-- BTEST (R252). -/
def execBtest (f : FSDA) (s : State) : Res :=
  issue s (btestHead f) fun x =>
    x.barrier (x.barAddr f.a) false 0 true
      (some fun pa => x.peerBarrier (x.barAddr f.a) pa (.barTest (x.w2 f.a)) fun s bs =>
        x.done (if bit (bytesNat (bs.drop 4)) 0 then s.lcacheClear x.c.core else s) (x.testResult f.d (BitVec.ofNat 32 (bytesNat (bs.take 4))) (BitVec.ofNat 32 (bytesNat (bs.drop 4)))))
      fun x pa _ o =>
        let s := if phaseDone o.phase (x.w2 f.a) then x.s.observe x.c.core pa o else x.s
        x.done s (x.testResult f.d o.phase (o.status (x.w2 f.a)))

/-- The continuation that a BCONT registers (R253, R255). -/
def Issue.cont (x : Issue) (f : FSDAB) (rpa tag : Nat) : Cont :=
  let l := lowest x.act
  { phase := x.w2 f.a, entry := codeTarget (x.reg64 l f.b.toNat)
    args := (List.range 4).map fun i => x.reg l (f.d.toNat + i)
    rec_ := rpa, recVa := x.c.spillBase, block := x.c.block, core := x.c.core, crewIx := x.c.crewIx, allot := x.c.allot
    prio := x.c.prio, spillBase := x.c.spillBase, spillSize := x.c.spillSize, born := x.s.fresh, tag := tag }

/-- The crew of a BCONT ends: every slice exits, and its allotment stays claimed by the continuation (R253, R254). -/
def Issue.endCrew (x : Issue) (s : State) : State :=
  let c := (x.advanced x.c).modSlices (List.range 8) fun sl => { sl with exited := true }
  (s.setCrew x.k { c with claimed := true }).afterExit x.k

/-- The record of a continuation written to the spill area: unspecified bytes, guarded while it is registered (R253). -/
def State.writeRecord (s : State) (rpa : Nat) : State :=
  (s.hwPoke rpa ((List.range 32).map fun i => BitVec.ofNat 8 (s.free 10 i))).guardBytes rpa rpa 32

/-- What BCONT states before its effect (R253). -/
def bcontHead (f : FSDAB) : Head :=
  { st := f.s, guard := .gang, fp := fun _ => { handles := [r4 f.a, r2 f.b, r4 f.d] }, word := fun x => !x.holdsCrew
    dyn := fun x => x.w3 f.a != 0 }

/-- BCONT (R253): the 32 bytes of its record are checked as a write before the barrier's level accepts it; of a failure
there and one of the object's address, the worse is raised (R58). -/
def execBcont (f : FSDAB) (s : State) : Res :=
  issue s (bcontHead f) fun x =>
    let va := x.barAddr f.a
    let n := x.w2 f.a
    if x.c.spillSize < 64 then x.trap .spill x.act
    else match x.s.translate x.c.core x.c.sup.isSome .write 1 x.c.spillBase with
      | .walkMark => .next (x.s.walkContain x.c)
      | .bad e =>
        match x.check .read 64 (lowest x.act) va with
        | .bad o =>
          if e.before o then x.trapAt e (lanesOf x.act) (fun _ => x.c.spillBase) true
          else x.trapAt o (lanesOf x.act) (fun _ => va) false
        | _ => x.trapAt e (lanesOf x.act) (fun _ => x.c.spillBase) true
      | .ok r =>
        x.barrier va false 0 true
          (some fun pa => x.peerBarrier va pa (.barTest n) fun s bs =>
            let st := bytesNat (bs.drop 4)
            let s := x.endCrew (s.writeRecord r.pa)
            if bit st 0 then .next (s.spawnPeer (x.cont f r.pa 0) (bit st 1))
            else
              let b := (tget s.bars pa).getD ⟨x.c.core, x.c.block, 0, s.ctxOf x.c, 0, [], [], none⟩
              let s := { s with bars := tset s.bars pa { b with conts := b.conts ++ [x.cont f r.pa s.nextId] } }
              .next (s.ask (dieOfCore x.c.core) (x.issuer []) (.cont pa x.c.block) va pa 64 (.barCont n x.c.spillBase)))
          fun x pa _ o =>
          let s := x.endCrew (x.s.writeRecord r.pa)
          if phaseDone o.phase n then .next (s.spawn pa o (x.cont f r.pa 0) o.lpoison)
          else
            let s := { s with bars := tmod s.bars pa fun b => { b with conts := b.conts ++ [x.cont f r.pa 0] } }
            .next (s.barPut pa { o with conthead := s.contHead pa })

end Sys2Proof.Machine
end

