-- ==== Sys2Proof/Machine/Coding.lean ====
section
/-! DEFINITION. The chunks of a collective on the wire: the three forms, the exponent coding and the CRC (R425 to R427). -/

namespace Sys2Proof.Machine

/-- One byte put through the CRC-32C (R425). -/
def crcByte (c : BitVec 32) (b : Byte) : BitVec 32 :=
  (List.range 8).foldl (fun c _ => if c.getLsbD 0 then (c >>> 1) ^^^ 0x82F63B78#32 else c >>> 1) (c ^^^ b.zeroExtend 32)

/-- The CRC-32C of a string of bytes. -/
def crc32c (bs : List Byte) : BitVec 32 := ~~~ (bs.foldl crcByte 0xFFFFFFFF)

/-- Bytes with their CRC after them. -/
def withCrc (bs : List Byte) : List Byte := bs ++ natBytes (crc32c bs).toNat 4

/-- The code lengths of a profile by symbol (R426). -/
def codeLens : Nat → List Nat
  | 0 => List.replicate 16 4
  | 1 => [2, 3, 3, 4, 4, 4, 4, 5, 5, 5, 5, 6, 6, 6, 6, 4]
  | 2 => [1, 3, 3, 4, 4, 5, 5, 6, 6, 7, 7, 8, 8, 9, 9, 8]
  | _ => [1, 2, 3, 5, 5, 6, 6, 7, 7, 8, 8, 9, 9, 10, 10, 9]

/-- The symbols of a profile ordered by length and number. -/
def symbolOrder (lens : List Nat) : List Nat :=
  (List.range 16).flatMap fun n => (List.range 16).filter fun j => lens.getD j 0 == n

/-- The canonical code of each symbol, as its bits from the highest down (R426). -/
def codes (lens : List Nat) : Table (List Bool) :=
  ((symbolOrder lens).foldl (fun (r : Table (List Bool) × Nat × Nat) j =>
    let n := lens.getD j 0
    let c := if r.1.isEmpty then 0 else (r.2.1 + 1) * 2 ^ (n - r.2.2)
    (tset r.1 j ((List.range n).map fun i => bit c (n - 1 - i)), c, n)) ([], 0, 0)).1

/-- Bits packed into bytes from bit 7 down, padded with 0. -/
def packBits : Nat → List Bool → List Byte
  | 0, _ => []
  | fuel + 1, bs =>
    if bs.isEmpty then []
    else (BitVec.ofNat 8 ((List.range 8).foldl (fun v i => 2 * v + (bs.getD i false).toNat) 0)) :: packBits fuel (bs.drop 8)

/-- The exponent of an element, the rest of it, and an element put together again: BF16 for 2 bytes, FP32 for 4 (R64). -/
def exponentOf (es v : Nat) : Nat := if es = 2 then bits v 14 7 else bits v 30 23
/-- Sign and fraction. -/
def restOf (es v : Nat) : Nat := if es = 2 then bits v 15 15 * 128 + bits v 6 0 else bits v 31 31 * 2 ^ 23 + bits v 22 0
/-- The element of an exponent and a rest. -/
def joinElem (es e r : Nat) : Nat :=
  if es = 2 then r / 128 * 2 ^ 15 + e * 128 + r % 128 else r / 2 ^ 23 * 2 ^ 31 + e * 2 ^ 23 + r % 2 ^ 23

/-- An exponent put into a list ordered by frequency, highest first, ties to the lower exponent. -/
def insertExp (f : Nat → Nat) (e : Nat) : List Nat → List Nat
  | [] => [e]
  | x :: r => if f x < f e ∨ (f x = f e ∧ e < x) then e :: x :: r else x :: insertExp f e r

/-- The exponent table of a chunk (R426). -/
def exponentTable (es : List Nat) : List Nat :=
  let f := fun e => (es.filter (· == e)).length
  let here := (List.range 256).filter es.contains
  let top := (here.foldr (insertExp f) []).take 15
  top ++ ((List.range 256).filter fun e => !here.contains e).take (15 - top.length)

/-- The exponent section under a profile: one code an element, an escape followed by its 8 bits. -/
def exponentBits (table es : List Nat) (profile : Nat) : List Bool :=
  let cs := codes (codeLens profile)
  es.flatMap fun e =>
    let j := table.findIdx (· == e)
    if j < 15 then (tget cs j).getD [] else (tget cs 15).getD [] ++ (List.range 8).map fun i => bit e (7 - i)

/-- The profile with the fewest bits, ties to the lower number. -/
def bestProfile (table es : List Nat) : Nat :=
  (List.range 4).foldl (fun b p =>
    if (exponentBits table es p).length < (exponentBits table es b).length then p else b) 0

/-- A chunk's header. -/
def chunkHeader (first m : Nat) : List Byte := natBytes first 1 ++ [0] ++ natBytes m 2

/-- A raw chunk. -/
def rawChunk (m : Nat) (data : List Byte) : List Byte := withCrc (chunkHeader 0x80 m ++ data)

/-- A poison chunk. -/
def poisonChunk (m : Nat) : List Byte := withCrc (chunkHeader 0x10 m)

/-- The elements of a byte string. -/
def elemsOf (es : Nat) (data : List Byte) : List Nat :=
  (List.range (data.length / es)).map fun i => bytesNat ((data.drop (i * es)).take es)

/-- A coded chunk (R425, R426). -/
def codedChunk (es m : Nat) (data : List Byte) : List Byte :=
  let xs := elemsOf es data
  let exps := xs.map (exponentOf es)
  let table := exponentTable exps
  let p := bestProfile table exps
  let bs := exponentBits table exps p
  withCrc (chunkHeader (p * 32) m ++ table.map (BitVec.ofNat 8) ++ packBits (bs.length + 1) bs ++
    xs.flatMap fun x => natBytes (restOf es x) (es - 1))

/-- A chunk as sent: coded when asked for and no longer than raw (R425, R426). -/
def encodeChunk (compress : Bool) (es m : Nat) (data : List Byte) : List Byte :=
  let raw := rawChunk m data
  let coded := codedChunk es m data
  if compress && decide (coded.length ≤ raw.length) then coded else raw

/-- The symbol that bits begin with, and what follows it. -/
def readSymbol (cs : Table (List Bool)) (bs : List Bool) : Option (Nat × List Bool) :=
  (cs.find? fun e => e.2.isPrefixOf bs).map fun e => (e.1, bs.drop e.2.length)

/-- The exponents that a section holds, and the bits left over. -/
def readExponents (table : List Nat) (cs : Table (List Bool)) : Nat → List Bool → Option (List Nat × List Bool)
  | 0, bs => some ([], bs)
  | n + 1, bs =>
    match readSymbol cs bs with
    | none => none
    | some (j, r) =>
      let q := if j < 15 then some (table.getD j 0, r)
        else if r.length < 8 then none
        else some ((List.range 8).foldl (fun v i => 2 * v + (r.getD i false).toNat) 0, r.drop 8)
      match q with
      | none => none
      | some (e, r) => (readExponents table cs n r).map fun x => (e :: x.1, x.2)

/-- A coded body's bytes; none when a check of R427 fails. -/
def decodeCoded (es m profile : Nat) (body : List Byte) : Option (List Byte) :=
  let table := (body.take 15).map (·.toNat)
  let bs := (body.drop 15).flatMap fun b => (List.range 8).map fun i => b.getLsbD (7 - i)
  match readExponents table (codes (codeLens profile)) m bs with
  | none => none
  | some (exps, left) =>
    let rest := m * (es - 1)
    let pad := left.take (left.length - 8 * rest)
    let tail := (body.drop 15).drop ((bs.length - left.length + 7) / 8)
    if tail.length = rest ∧ pad.length < 8 ∧ pad.all (!·) then
      some ((exps.zipIdx).flatMap fun e =>
        natBytes (joinElem es e.1 (bytesNat ((tail.drop (e.2 * (es - 1))).take (es - 1)))) es)
    else none

/-- What a chunk of m elements holds: none when a check of R427 fails or it is a poison chunk, with whether it failed. -/
def decodeChunk (es m : Nat) (wire : List Byte) : Option (List Byte) × Bool :=
  let n := wire.length - 4
  let b := wire.take n
  let h := (wire.headD 0).toNat
  if wire.length < 8 ∨ bytesNat (wire.drop n) ≠ (crc32c b).toNat ∨ bytesNat ((b.drop 2).take 2) ≠ m then (none, true)
  else if bit h 4 then (none, n != 4)
  else if bit h 7 then (if n = 4 + m * es then (some (b.drop 4), false) else (none, true))
  else match decodeCoded es m (bits h 6 5) (b.drop 4) with
    | some x => (some x, false)
    | none => (none, true)

end Sys2Proof.Machine
end

