-- ==== Sys2Proof/Machine/Tile.lean ====
section
/-! DEFINITION. Tiles: allocation, description, loads, stores and atomics in tile memory (R158 to R163, R183 to R186,
R189). -/

namespace Sys2Proof.Machine

/-- The block of a crew. -/
def State.blockOf (s : State) (c : Crew) : Option Block := tget s.blocks c.block

/-- A live tile of a block (R161, R162). -/
def Block.live (b : Block) (h : Nat) : Option Tile :=
  if h = 0 then none
  else match tget b.tiles h with
    | some t => if t.freeing then none else some t
    | none => none

/-- The bytes of a tile. -/
def Tile.size (t : Tile) : Nat := t.rows * t.rowBytes

/-- morton(row, c) for coordinates of so many bits (R159): their low bits by turns, c's first, and above them what the wider
one has left. -/
def mortonIndex (rowBits colBits row c : Nat) : Nat :=
  let k := min rowBits colBits
  ((List.range k).map fun j => (c / 2 ^ j % 2 + 2 * (row / 2 ^ j % 2)) * 4 ^ j).sum + (c / 2 ^ k + row / 2 ^ k) * 4 ^ k

/-- The storage offset of a logical offset (R159); the operand store's layout is not observable (R167). -/
def Tile.place (t : Tile) (off : Nat) : Nat :=
  if t.morton && !t.os then
    16 * mortonIndex t.rows.log2 (t.rowBytes / 16).log2 (off / t.rowBytes) (off % t.rowBytes / 16) + off % 16
  else off

/-- The n bytes at a logical offset of a tile. -/
def Tile.read (t : Tile) (off n : Nat) : List Byte :=
  if t.morton then (List.range n).map fun i => memGet t.data (t.place (off + i)) else memBytes t.data off n

/-- A tile's storage with bytes put at a logical offset. -/
def Tile.store (t : Tile) (off : Nat) (bs : List Byte) : Table Byte :=
  if t.morton then bs.zipIdx.foldl (fun d e => memWrite d (t.place (off + e.2)) [e.1]) t.data else memWrite t.data off bs

/-- A word of a tile that an access meets is marked. -/
def Tile.badAt (t : Tile) (off n : Nat) : Bool :=
  n != 0 && (List.range ((off + n - 1) / 4 + 1 - off / 4)).any fun i => t.marks.contains (off / 4 + i)

/-- The word indices that a range meets. -/
def wordsIn (off n : Nat) : List Nat := if n = 0 then [] else (List.range ((off + n - 1) / 4 + 1 - off / 4)).map (off / 4 + ·)

/-- A tile with bytes written: the mark of every word written whole is cleared (R183). -/
def Tile.put (t : Tile) (off : Nat) (bs : List Byte) : Tile :=
  let whole := (wordsIn off bs.length).filter fun w => decide (off ≤ 4 * w) && decide (4 * w + 4 ≤ off + bs.length)
  { t with data := t.store off bs, marks := t.marks.filter fun m => !whole.contains m }

/-- A tile with words marked. -/
def Tile.mark (t : Tile) (ws : List Nat) : Tile := { t with marks := ws.foldl (fun m w => sins w m) t.marks }

/-- A thread's write to a tile: what its words held before is noted until the cross-path fence (R204, R221). -/
def Tile.threadPut (t : Tile) (crew slice born off : Nat) (bs : List Byte) : Tile :=
  let new := (wordsIn off bs.length).map fun w =>
    (⟨crew, slice, w, BitVec.ofNat 32 (bytesNat (t.read (4 * w) 4)), born, false, []⟩ : Shadow)
  { (t.put off bs) with shadows := t.shadows ++ new.filter fun h => !t.shadows.contains h }

/-- Slices have read words of a tile: no later engine read of theirs gives an older value (R212). -/
def Tile.seen (t : Tile) (k : Nat) (js ws : List Nat) : Tile :=
  { t with shadows := t.shadows.map fun h => if ws.contains h.word then { h with known := addKnown k js h.known } else h }

/-- The state with one tile of a block changed. -/
def State.modTile (s : State) (b h : Nat) (f : Tile → Tile) : State :=
  s.modBlock b fun x => { x with tiles := tmod x.tiles h f }

/-- The tile-memory tile a thread access names (R161, R183). -/
def Issue.tile (x : Issue) (v : Word) : Option Tile :=
  match x.s.blockOf x.c with
  | some b => if v.toNat < 256 then (b.live v.toNat).filter fun t => !t.os else none
  | none => none

/-- The lanes of a tile access whose offset is misaligned or whose end lies outside (R161). -/
def outOfTile (t : Tile) (n : Nat → Nat) (off : Nat → Nat) (lanes : List Nat) : List Nat :=
  lanes.filter fun l => decide (t.size < off l + n l) || off l % n l != 0

/-- A tile access by the lanes of a gang (R161, R183, R189): the handle, the bounds, and for reads the marks, in that
order. -/
def Issue.tileAccess (x : Issue) (v : Word) (n : Nat → Nat) (off : Nat → Nat) (lanes : List Nat) (reads : Bool)
    (body : Tile → Res) : Res :=
  match x.tile v with
  | none => x.trap .tilehandle (maskOf lanes.contains)
  | some t =>
    let out := outOfTile t n off lanes
    let bad := if reads then lanes.filter fun l => t.badAt (off l) (n l) else []
    if !out.isEmpty then x.trap .tilebound (maskOf out.contains)
    else if !bad.isEmpty then x.trap .dataerr (maskOf bad.contains)
    else body t

/-- What LDT of n bytes states before its effect (R183). -/
def loadTileHead (f : FUSDAB) (n : Nat) : Head :=
  { u := f.u, st := f.s
    fp := fun _ => { reads := [r1 f.b], handles := [r1 f.a], writes := [dataGrp n f.d] } }

/-- LDT of n bytes (R183). -/
def loadTile (s : State) (f : FUSDAB) (n : Nat) (signed : Bool) : Res :=
  issue s (loadTileHead f n) fun x =>
    let off := fun l => (x.reg l f.b.toNat).toNat
    let lanes := if f.u then [lowest x.act] else lanesOf x.act
    let h := x.reg (lowest x.act) f.a.toNat
    x.tileAccess h (fun _ => n) off lanes true fun t =>
      x.done (x.s.modTile x.c.block h.toNat fun t =>
        lanes.foldl (fun t l => t.seen x.k (if f.u then x.actors else [l / 4]) (wordsIn (off l) n)) t) (x.write fun l =>
        wrN f.d.toNat (loadRegs n signed (t.read (off (if f.u then lowest x.act else l)) n)))

/-- LDT.u8 (R183). -/
def execLdtU8 (f : FUSDAB) (s : State) : Res := loadTile s f 1 false
/-- LDT.s8 (R183). -/
def execLdtS8 (f : FUSDAB) (s : State) : Res := loadTile s f 1 true
/-- LDT.u16 (R183). -/
def execLdtU16 (f : FUSDAB) (s : State) : Res := loadTile s f 2 false
/-- LDT.s16 (R183). -/
def execLdtS16 (f : FUSDAB) (s : State) : Res := loadTile s f 2 true
/-- LDT.b32 (R183). -/
def execLdtB32 (f : FUSDAB) (s : State) : Res := loadTile s f 4 false
/-- LDT.b64 (R183). -/
def execLdtB64 (f : FUSDAB) (s : State) : Res := loadTile s f 8 false
/-- LDT.b128 (R183). -/
def execLdtB128 (f : FUSDAB) (s : State) : Res := loadTile s f 16 false

/-- What STT of n bytes states before its effect (R163, R183). -/
def storeTileHead (f : FSDAB) (n : Nat) : Head :=
  { st := f.s, fp := fun _ => { reads := [r1 f.b, dataGrp n f.d], handles := [r1 f.a] } }

/-- STT of n bytes (R163, R183): lanes in ascending order, so that the highest writer remains. -/
def storeTile (s : State) (f : FSDAB) (n : Nat) : Res :=
  issue s (storeTileHead f n) fun x =>
    let off := fun l => (x.reg l f.b.toNat).toNat
    let h := x.reg (lowest x.act) f.a.toNat
    x.tileAccess h (fun _ => n) off (lanesOf x.act) false fun _ =>
      x.done (x.s.modTile x.c.block h.toNat fun t =>
        (lanesOf x.act).foldl (fun t l => t.threadPut x.k (l / 4) x.s.fresh (off l) (x.dataBytes l n f.d)) t) x.c

/-- STT.b8 (R183). -/
def execSttB8 (f : FSDAB) (s : State) : Res := storeTile s f 1
/-- STT.b16 (R183). -/
def execSttB16 (f : FSDAB) (s : State) : Res := storeTile s f 2
/-- STT.b32 (R183). -/
def execSttB32 (f : FSDAB) (s : State) : Res := storeTile s f 4
/-- STT.b64 (R183). -/
def execSttB64 (f : FSDAB) (s : State) : Res := storeTile s f 8
/-- STT.b128 (R183). -/
def execSttB128 (f : FSDAB) (s : State) : Res := storeTile s f 16

/-- What TATOM states before its effect (R187, R189). -/
def tileAtomicHead (f : FSDAB) (op : AtomOp) : Head :=
  let cas := op == .cas
  { st := f.s
    fp := fun m =>
      { reads := [r1 f.b, if cas then casGrp m f.d else atomGrp m f.d], handles := [r1 f.a], writes := [atomGrp m f.d] }
    dyn := Issue.packed }

/-- TATOM (R187, R189): each lane's read-modify-write in ascending order, in tile memory. -/
def tileAtomic (s : State) (f : FSDAB) (op : AtomOp) : Res :=
  let cas := op == .cas
  issue s (tileAtomicHead f op) fun x =>
    let off := fun l => (x.reg l f.b.toNat).toNat
    let h := x.reg (lowest x.act) f.a.toNat
    x.tileAccess h x.atomWidth off (lanesOf x.act) true fun t =>
      let r := (lanesOf x.act).foldl (fun (r : Tile × Table (List Byte)) l =>
        let a := x.atomArg l cas f.d
        let n := elemBytes a.e
        let old := r.1.read (off l) n
        let new := natBytes (atomicNew op a.e (bytesNat old) (a.val.toNat % 2 ^ (8 * n)) (a.cmp.toNat % 2 ^ (8 * n))) n
        ((r.1.seen x.k [l / 4] (wordsIn (off l) n)).threadPut x.k (l / 4) x.s.fresh (off l) new, tset r.2 l old)) (t, [])
      x.done (x.s.modTile x.c.block h.toNat fun _ => r.1)
        (x.write fun l => wrN f.d.toNat (loadRegs (x.atomWidth l) false ((tget r.2 l).getD [])))

/-- TATOM.add (R189). -/
def execTatomAdd (f : FSDAB) (s : State) : Res := tileAtomic s f .add
/-- TATOM.min (R189). -/
def execTatomMin (f : FSDAB) (s : State) : Res := tileAtomic s f .min
/-- TATOM.max (R189). -/
def execTatomMax (f : FSDAB) (s : State) : Res := tileAtomic s f .max
/-- TATOM.and (R189). -/
def execTatomAnd (f : FSDAB) (s : State) : Res := tileAtomic s f .and
/-- TATOM.or (R189). -/
def execTatomOr (f : FSDAB) (s : State) : Res := tileAtomic s f .or
/-- TATOM.xor (R189). -/
def execTatomXor (f : FSDAB) (s : State) : Res := tileAtomic s f .xor
/-- TATOM.exch (R189). -/
def execTatomExch (f : FSDAB) (s : State) : Res := tileAtomic s f .exch
/-- TATOM.cas (R189). -/
def execTatomCas (f : FSDAB) (s : State) : Res := tileAtomic s f .cas

/-! ### Allocation (R158, R160, R184 to R186) -/

/-- A number is a power of two. -/
def isPow2 (n : Nat) : Bool := n != 0 && n == 2 ^ n.log2

/-- The shapes TALLOC allows (R158). -/
def tileShapeOk (os morton : Bool) (rows rb : Nat) : Bool :=
  if os then rows % 32 == 0 && decide (32 ≤ rows) && decide (rows ≤ 256) && (rb == 256 || rb == 512 || rb == 1024)
  else decide (1 ≤ rows) && decide (rows ≤ 4096) && rb % 16 == 0 && decide (16 ≤ rb) && decide (rb ≤ 16384) &&
    (!morton || (isPow2 rows && isPow2 rb))

/-- The charge of a tile in units of 256 bytes (R158). -/
def tileCharge (rows rb : Nat) : Nat := (rows * rb + 255) / 256

/-- What a block's tiles of a level are charged. -/
def Block.charged (b : Block) (os : Bool) : Nat :=
  ((b.tiles.filter fun t => t.2.os == os).map fun t => tileCharge t.2.rows t.2.rowBytes).sum

/-- The handle a TALLOC returns: the lowest free number, or 0 when the quota, the block's handles or the core's table is
exhausted (R158). A tile that TFREE has freed and an engine operation still names keeps its number, its storage and its entry of the
table (log entry 102). -/
def State.newHandle (s : State) (b : Block) (os : Bool) (rows rb : Nat) : Nat :=
  let quota := if os then b.osquota else b.tmquota
  let coreTiles := ((s.blocks.filter fun e => e.2.core == b.core && !e.2.out).map fun e => e.2.tiles.length).sum
  if quota < b.charged os + tileCharge rows rb ∨ 1024 ≤ coreTiles then 0
  else (((List.range 255).map (· + 1)).find? fun h => (tget b.tiles h).isNone).getD 0

/-- What TALLOC states before its effect (R158, R160, R184). -/
def allocateHead (f : FSDAB) (os : Bool) (morton : Bool) : Head :=
  { st := f.s, fp := fun _ => { handles := [r1 f.a, r1 f.b], writes := [r1 f.d] }
    dyn := fun x =>
      let l := lowest x.act
      !tileShapeOk os morton (x.reg l f.a.toNat).toNat (x.reg l f.b.toNat).toNat }

/-- TALLOC (R158, R160, R184): the tile is cleared before its handle is written, as a result that has not landed. -/
def allocate (s : State) (f : FSDAB) (os morton : Bool) : Res :=
  issue s (allocateHead f os morton) fun x =>
    let rows := (x.reg (lowest x.act) f.a.toNat).toNat
    let rb := (x.reg (lowest x.act) f.b.toNat).toNat
    match x.s.blockOf x.c with
    | none => .fault .noGang
    | some b =>
      let h := x.s.newHandle b os rows rb
      let id := x.s.nextId
      let t : Tile := ⟨id, os, morton, rows, rb, [], [], false, []⟩
      let p : Pend :=
        { crew := x.k, slices := x.js, act := x.act, uni := none, land := .handle (BitVec.ofNat 32 h)
          dst := [x.c.depth + f.d.toNat], dp := false, addrs := [], locals := [], vals := [], causes := [], failed := [], loss := none
          complete := true }
      let s := { x.s with pends := tset x.s.pends id p, nextId := id + 1 }
      let s := if h = 0 then s else s.modBlock x.c.block fun b => { b with tiles := tset b.tiles h t }
      x.done (s.push (.tileClearDone id)) x.c

/-- TALLOC.tm (R184). -/
def execTallocTm (f : FSDAB) (s : State) : Res := allocate s f false false
/-- TALLOC.tmz (R184). -/
def execTallocTmz (f : FSDAB) (s : State) : Res := allocate s f false true
/-- TALLOC.os (R184). -/
def execTallocOs (f : FSDAB) (s : State) : Res := allocate s f true false
/-- TALLOC.osz (R184). -/
def execTallocOsz (f : FSDAB) (s : State) : Res := allocate s f true true

/-- TILE_CLEAR_DONE (R160, R184): the handle is written. -/
def execTileClearDone (s : State) : Res :=
  match s.ev with
  | some (.tileClearDone id) => .next (s.landPend id)
  | _ => .fault .noGang

/-- What TFREE states before its effect (R162, R185). -/
def tfreeHead (f : FSA) : Head :=
  { st := f.s, fp := fun _ => { handles := [r1 f.a] } }

/-- TFREE (R162, R185): the handle is dead to threads at once; its storage returns when no engine operation names it. -/
def execTfree (f : FSA) (s : State) : Res :=
  issue s (tfreeHead f) fun x =>
    let h := (x.reg (lowest x.act) f.a.toNat).toNat % 256
    match (x.s.blockOf x.c).bind fun b => b.live h with
    | none => x.trap .tilehandle x.act
    | some t =>
      if x.s.tileNamed t.uid then x.done (x.s.modTile x.c.block h fun t => { t with freeing := true }) x.c
      else x.done (x.s.modBlock x.c.block fun b => { b with tiles := tdel b.tiles h }) x.c

/-- The description TQUERY writes (R186). -/
def describeTile : Option Tile → Word × Word
  | none => (0, 0)
  | some t =>
    let flags := BitVec.ofNat 32 (2 ^ 30 * t.os.toNat + 2 ^ 29 * t.morton.toNat)
    if t.freeing then (0, flags ||| 0x10000000)
    else (BitVec.ofNat 32 t.rows, flags ||| 0x80000000 ||| BitVec.ofNat 32 t.rowBytes)

/-- What TQUERY states before its effect (R186). -/
def tqueryHead (f : FSDA) : Head :=
  { st := f.s, fp := fun _ => { handles := [r1 f.a], writes := [r2 f.d], lat := 2 } }

/-- TQUERY (R186): it never traps on the handle's value. -/
def execTquery (f : FSDA) (s : State) : Res :=
  issue s (tqueryHead f) fun x =>
    let h := (x.reg (lowest x.act) f.a.toNat).toNat % 256
    let r := describeTile ((x.s.blockOf x.c).bind fun b => tget b.tiles h)
    x.done x.s (x.write fun _ => wrN f.d.toNat [r.1, r.2])

end Sys2Proof.Machine
end

