-- ==== Sys2Proof/Machine/Engine.lean ====
section
/-! DEFINITION. What the engines of a core share: operations put in flight, tiles bound at issue, tile and global accesses,
marks, and failures (R229 to R232, R257, R258, R260, R262, R272, R273). -/

namespace Sys2Proof.Machine

/-! ### Blocks held in the Hogshead (R340) -/

/-- A block is out, or its save is in progress and it may not go on. -/
def State.blockOut (s : State) (b : Nat) : Bool := ((tget s.blocks b).map (·.out)).getD false

/-- A crew's block is out. -/
def State.crewOut (s : State) (k : Nat) : Bool := ((tget s.crews k).map fun c => s.blockOut c.block).getD false

/-- An operation's block is out. -/
def State.opOut (s : State) (id : Nat) : Bool := ((tget s.ops id).map fun o => s.blockOut o.block).getD false

/-! ### Open choices of an engine -/

/-- One of n things that an engine may do next, an open choice where there are several (R209, R261). -/
def State.pick (s : State) (kind ch n : Nat) : Nat := if n ≤ 1 then 0 else s.free kind ch % n

/-! ### Issue -/

/-- The words of an operand group, which every active lane holds alike (R50). -/
def Issue.group (x : Issue) (a : BitVec 6) (n : Nat) : List Word :=
  (List.range n).map fun i => x.reg (lowest x.act) (a.toNat + i)

/-- The preconditions that a mask records (R231). -/
def Crew.pre (c : Crew) (m : Word) : Pre :=
  let on := (List.range 32).filter fun i => m.getLsbD i
  { owners := (on.filterMap fun i => match (c.tok i).st with | .pending op => some op | _ => none).dedup
    poisoned := on.any fun i => (c.tok i).st == .poisoned }

/-- What of a token and a mask is ILLEGAL at issue (R229, R232). -/
def Crew.tokenBad (c : Crew) (t : Nat) (m : Word) : Bool := c.pending t || m.getLsbD t

/-- An operation whose preconditions have completed takes its place in start order (R232). -/
def State.tryStart (s : State) (id : Nat) : State :=
  match tget s.ops id with
  | some o =>
    if o.clear && o.order.isNone then
      let s := { s with ops := tset s.ops id { o with order := some (orderAt s.clk id) } }
      match startEvent id o.body with
      | some ev => s.push ev
      | none => s
    else s
  | none => s

/-- An operation put in flight; its number. -/
def State.addOp (s : State) (o : Op) : State × Nat :=
  let id := s.nextId
  (({ s with ops := tset s.ops id o, nextId := id + 1 }).tryStart id, id)

/-- An operation of the issuing gang under a token. -/
def Issue.newOp (x : Issue) (t : Nat) (pre : Pre) (body : OpBody) : Op :=
  { crew := x.k, token := some t, parent := none, core := x.c.core, block := x.c.block, slices := x.js
    sup := x.c.sup.isSome, born := x.s.fresh, pre := pre, order := none, body := body }

/-- The issuer of an access that an operation makes. -/
def State.opIssuer (s : State) (o : Op) : Issuer :=
  let b := tget s.blocks o.block
  ⟨o.core, (b.map (·.ctx)).getD 0, (b.map (·.node)).getD 0, o.crew, o.slices, o.born⟩

/-- An operation among those given that comes before it in start order has not started (R232). -/
def State.startBehind (s : State) (id : Nat) (o : Op) (waiting : Op → Bool) : Bool :=
  s.ops.any fun e => e.1 != id && waiting e.2 && !s.blockOut e.2.block && (match e.2.order, o.order with
    | some a, some b => decide (a < b)
    | _, _ => false)

/-- Accesses that an operation's slices made before it are still to be performed, so that it makes none (R221, R276). -/
def State.opOwes (s : State) (o : Op) : Bool := s.owed o.crew o.slices o.born false

/-- An access of an operation's slices to a peer page, made before it, holds a ticket: the operation's own access to the page
waits (R225). -/
def State.pageHeld (s : State) (o : Op) (pa : Nat) : Bool :=
  s.reqs.any fun e => e.2.ticket && e.2.who.thread && madeBy e.2.issuer o.crew o.slices o.born && e.2.pa / 4096 == pa / 4096

/-- A request of an operation to a peer. -/
def State.opAsk (s : State) (o : Op) (who : ReqWho) (va : Dword) (pa n : Nat) (kind : PeerKind) : State :=
  s.ask (dieOfCore o.core) (s.opIssuer o) who va pa n kind

/-! ### Tiles bound at issue (R260) -/

/-- The tile live under a handle word in a block, bound. -/
def State.bindTile (s : State) (block : Nat) (w : Word) : Bound :=
  let h := w.toNat % 256
  ⟨block, h, ((tget s.blocks block).bind fun b => b.live h).map (·.uid)⟩

/-- The tile memory tile a handle word names at issue: the operand store is reached by the matrix engine's accumulators only
(R157), so that a handle of an accumulator tile names none (R161). -/
def State.bindData (s : State) (block : Nat) (w : Word) : Bound :=
  let h := w.toNat % 256
  ⟨block, h, (((tget s.blocks block).bind fun b => b.live h).filter fun t => !t.os).map (·.uid)⟩

/-- A bound tile, also after TFREE or the retirement of its block. -/
def State.bound (s : State) (b : Bound) : Option Tile :=
  match b.uid with
  | none => none
  | some u =>
    match (tget s.blocks b.block).bind fun x => tget x.tiles b.handle with
    | some t => if t.uid = u then some t else (tget s.orphans u).map (·.tile)
    | none => (tget s.orphans u).map (·.tile)

/-- A tile kept for an engine after its block changed. -/
def State.modOrphan (s : State) (u : Nat) (f : Tile → Tile) : State :=
  { s with orphans := tmod s.orphans u fun o => { o with tile := f o.tile } }

/-- A bound tile changed. -/
def State.modBound (s : State) (b : Bound) (f : Tile → Tile) : State :=
  match b.uid with
  | none => s
  | some u =>
    match (tget s.blocks b.block).bind fun x => tget x.tiles b.handle with
    | some t => if t.uid = u then s.modTile b.block b.handle f else s.modOrphan u f
    | none => s.modOrphan u f

/-- The words an operation reads or writes unordered with it, as it notes them: tile, word, and what the word held. -/
abbrev Olds := List (Nat × Nat × Word)

/-- The words of tiles that an operation of slices js of crew k may read old, with what they held (R212, R221): those whose thread
writes no cross-path fence has ordered, and neither a release and acquire nor a read of the value for one of the slices; a
write that is ordered hides those before it. When further slices join
an operation it is those noted so far, and those written since. -/
def State.shadowsAt (s : State) (bs : List Bound) (k : Nat) (js : List Nat) (since : Nat) (sh : Olds) : Olds :=
  bs.flatMap fun b => match s.bound b with
    | some t => t.shadows.filterMap fun h =>
        if (t.shadows.any fun g => g.word == h.word && decide (h.born ≤ g.born) && js.any fun j => g.known.contains (k, j)) then none
        else if since ≤ h.born ∨ sh.contains (t.uid, h.word, h.old) then some (t.uid, h.word, h.old)
        else none
    | none => []

/-- What an operation has noted of words it may read old. -/
def Op.olds (o : Op) : Olds :=
  match o.body with
  | .copy c => c.shadows
  | .mat m => m.shadows
  | .furlong f => f.shadows
  | _ => []

/-- An operation with what it has noted changed. -/
def Op.mapOlds (o : Op) (f : Olds → Olds) : Op :=
  { o with body := match o.body with
    | .copy c => .copy { c with shadows := f c.shadows }
    | .mat m => .mat { m with shadows := f m.shadows }
    | .furlong m => .furlong { m with shadows := f m.shadows }
    | b => b }

/-- A word of a tile as an engine reads it: what it holds, or what it held before a write that is not ordered before the
operation, an open choice (R221, R223); and its mark. `born` is the step that issued the operation. -/
def State.engineWord (s : State) (t : Tile) (sh : Olds) (born w : Nat) : List Byte × Bool :=
  let olds := (sh.filterMap fun h => if h.1 = t.uid ∧ h.2.1 = w then some h.2.2 else none) ++
    (t.shadows.filterMap fun h => if h.word = w ∧ born < h.born then some h.old else none)
  let now := t.read (4 * w) 4
  let pick := match olds with
    | [] => now
    | _ => match olds[s.free 11 (w + 2 ^ 20 * t.uid) % (olds.length + 1)]? with
      | some o => natBytes o.toNat 4
      | none => now
  (pick, t.marks.contains w)

/-- Bytes of a tile as an engine reads them, and whether a word of them is marked. -/
def State.engineBytes (s : State) (t : Tile) (sh : Olds) (born off n : Nat) : List Byte × Bool :=
  let ws := (wordsIn off n).map (s.engineWord t sh born)
  (((ws.flatMap (·.1)).drop (off % 4)).take n, ws.any (·.2))

/-- An engine's write to a tile: the words' marks follow the poison of what was written, and older values are gone. -/
def Tile.enginePut (t : Tile) (off : Nat) (bs : List Byte) (bad : Bool) : Tile :=
  let ws := wordsIn off bs.length
  let t := t.put off bs
  let t := { t with shadows := t.shadows.filter fun h => !ws.contains h.word, marks := t.marks.filter fun m => !ws.contains m }
  if bad then t.mark ws else t

/-- Operation a waits, directly or through others, for operation b (R223), with fuel for as many as are in flight. -/
def State.chained (s : State) (b : Nat) : Nat → Nat → Bool
  | 0, _ => false
  | fuel + 1, a =>
    match tget s.ops a with
    | some o => (o.pres.flatMap (·.owners)).any fun i => i == b || s.chained b fuel i
    | none => false

/-- An operation may read a tile of a block: one it named, or, for the matrix engine, any tile of its block, since the format
block names tiles too (R298). -/
def Op.mayRead (o : Op) (block uid : Nat) : Bool := o.tiles.contains uid || (!o.members.isEmpty && o.block == block)

/-- Operation i comes after what operation `id`, o, writes (R223, R302, R311): it waits for it, both are the matrix engine's, or
they belong to one macro. -/
def State.follows (s : State) (id : Nat) (o : Op) (i : Nat) (q : Op) : Bool :=
  s.chained id s.ops.length i || (!o.members.isEmpty && !q.members.isEmpty) ||
    (match o.parent with
     | some p => p.1 == i || (q.parent.map (·.1)) == some p.1
     | none => false)

/-- What operations have noted of words that operation `id` writes in a tile of a block (R221, R223): one that comes after it
reads the new value; any other in flight may read what the word held. -/
def State.noteOld (s : State) (id block : Nat) (t : Tile) (ws : List Nat) : State :=
  if s.ops.any fun e => e.1 != id && e.2.mayRead block t.uid then
    { s with ops := tmap s.ops fun i o =>
        if i = id || !o.mayRead block t.uid then o
        else if ((tget s.ops id).map fun w => s.follows id w i o).getD false then
          o.mapOlds fun sh => sh.filter fun h => !(h.1 == t.uid && ws.contains h.2.1)
        else o.mapOlds fun sh => ws.foldl (fun sh w =>
          let h := (t.uid, w, BitVec.ofNat 32 (bytesNat (t.read (4 * w) 4)))
          if sh.contains h then sh else sh ++ [h]) sh }
  else s

/-- An operation's write to a bound tile. -/
def State.tilePut (s : State) (id : Nat) (b : Bound) (off : Nat) (bs : List Byte) (bad : Bool) : State :=
  match s.bound b with
  | some t => (s.noteOld id b.block t (wordsIn off bs.length)).modBound b fun t => t.enginePut off bs bad
  | none => s

/-- Words of a tile marked where they lie in it. -/
def Tile.markRange (t : Tile) (off n : Nat) : Tile := t.mark ((wordsIn off n).filter fun w => decide (4 * w + 4 ≤ t.size))

/-- Why a tile access of n bytes fails (R161); none when it does not. -/
def tileFail (t : Option Tile) (off n : Nat) : Option Cause :=
  match t with
  | none => some .tilehandle
  | some t => if t.size < off + n ∨ off % n ≠ 0 then some .tilebound else none

/-! ### Global accesses (R262, R272) -/

/-- What an engine's global access ends in. -/
inductive Reach where
  | here (l : Loc)
  | peer (l : Loc)
  | bad (c : Cause)
  | mark
  deriving DecidableEq, Repr

/-- An engine's address, of n bytes, checked by steps 2 to 5 of R179, the issuing crew's own spill area among them. -/
def State.reach (s : State) (o : Op) (k : AccKind) (ch n : Nat) (va : Dword) : Reach :=
  if ((tget s.crews o.crew).map fun c => c.inSpill va n).getD false then .bad .protect
  else match s.translate o.core o.sup k ch va with
  | .ok l => if isPeer l.pa then .peer l else .here l
  | .bad c => .bad c
  | .walkMark => .mark

/-- The place in local, host or peer memory a page gives a virtual address, whatever its rights, for a mark (R273). -/
def State.placeFor (s : State) (core : Nat) (va : Dword) : Option Nat :=
  if canonical va then
    match s.walkRun (dieOfCore core) (2 ^ 21) 5 (s.core core).ptroot va.toNat with
    | .leaf lv _ e =>
      let pa := leafPa lv e va.toNat
      match placeOf s.pkg.split pa with
      | .bad => none
      | _ => some (memKey s.pkg.split (dieOfCore core) pa)
    | _ => none
  else none

/-- One bump for each 128-byte line that an operation writes for the first time (R393). -/
def State.noteLines (s : State) (lines : List Nat) (a n : Nat) : State × List Nat :=
  let new := ((List.range ((a + n - 1) / 128 + 1 - a / 128)).map (a / 128 + ·)).filter fun l => !lines.contains l
  (new.foldl (fun s l => s.bump (l * 128) 1) s, lines ++ new)

/-- The bytes of words that an engine of a core reads: for each word its value, or one that a write has replaced and that nothing
orders before the read, an open choice (R209, R215, R221). -/
def State.wordsRead (s : State) (core : Nat) (l : Loc) (n : Nat) : List Byte :=
  (List.range (n / 4)).flatMap fun i =>
    let olds := ((tget (s.core core).olds (l.pa / 4 + i)).getD []).filter (·.1 == l.key)
    match olds[s.pick 29 (l.pa / 4 + i) (olds.length + 1)]? with
    | some e => natBytes e.2.toNat 4
    | none => s.bytesAt ⟨l.pa + 4 * i, l.key⟩ 4

/-- An engine's write of bytes within one granule (R258, R272, R386): `whole` when the operation covers all of the granule, which a
write of all its bytes clears of its mark. A part of a marked granule that the operation does not cover is dropped and counted;
poison marks the granule. The state, and whether the bytes were written. -/
def State.enginePut (s : State) (l : Loc) (bs : List Byte) (whole bad : Bool) : State × Bool :=
  let s := if whole then s else s.mergeRead l.pa bs.length
  if s.marked l.pa bs.length && !whole then (s.dropWrite l.pa, false)
  else
    let s := if whole && bs.length == 32 then s.unmark (l.pa / 32) else s
    let s := ((s.noteOlder l bs.length).rekey l bs.length).poke l.pa bs
    (if bad then s.mark l.pa bs.length else s, true)

/-- What marking a destination has done: the state, the lines written, and the pieces that lie in peer memory: the virtual
and the physical address and the length of each. -/
structure Marking where
  s : State
  lines : List Nat
  peers : List (Dword × Nat × Nat)

/-- The granules of a virtual range marked where a page gives them a place (R272, R273): local ones at once; a peer's are to be
written as poison (R363). -/
def Marking.range (r : Marking) (core : Nat) (va : Dword) (n : Nat) : Marking :=
  if n = 0 then r
  else
    (List.range ((va.toNat % 32 + n + 31) / 32)).foldl (fun (r : Marking) i =>
      let lo := BitVec.ofNat 64 (va.toNat / 32 * 32 + 32 * i)
      match r.s.placeFor core lo with
      | some pa =>
        if isPeer pa then
          let a := if i = 0 then va.toNat % 32 else 0
          let e := min 32 (va.toNat % 32 + n - 32 * i)
          { r with peers := r.peers ++ [(lo + BitVec.ofNat 64 a, pa + a, e - a)] }
        else
          let q := (r.s.mark pa 32).noteLines r.lines pa 32
          { r with s := q.1, lines := q.2 }
      | none => r) r

/-- Lines of a core's load cache dropped (R262). -/
def State.dropLines (s : State) (core : Nat) (lines : List Nat) : State :=
  s.modCore core fun c => { c with lcache := c.lcache.filter fun e => !lines.contains e.1 }

/-- A handle word and an offset as the engine fault record holds them (R324). -/
def tileAddr (h off : Nat) : Dword := BitVec.ofNat 64 (h % 2 ^ 32 + 2 ^ 32 * (off % 2 ^ 32))

/-! ### The end of an operation -/

/-- The tokens an operation completes. -/
def Op.tokens (o : Op) : List (Nat × Nat) :=
  match o.members with
  | [] => o.token.toList.map fun t => (o.crew, t)
  | ms => ms.map fun m => (m.crew, m.token)

/-- An entry in the engine fault record of every crew an operation belongs to (R273, R306). -/
def State.recordFault (s : State) (o : Op) (c : Cause) (step : Nat) (tile : Bool) (addr : Dword) : State :=
  o.tokens.foldl (fun (s : State) t => s.modCrew t.1 fun x => x.addEfr ⟨c.code, t.2, tile, step, addr⟩) s

/-- A step of a Furlong macro ends (R313, R314): the macro notes it done, poisoned or failed, and goes on. -/
def State.stepDone (s : State) (f step : Nat) (poison : Bool) (fail : Option EfrEntry) : State :=
  let s := s.modOp f fun o => match o.body with
    | .furlong m => { o with body := .furlong { m with
        doneSteps := m.doneSteps ++ [step], poisoned := m.poisoned || poison
        failed := match m.failed with | some e => some e | none => fail.map fun e => (step, e) } }
    | _ => o
  s.push (.furlongStep f)

/-- An operation of an engine completes: its tokens, or the macro it works for, learn of it. -/
def State.finishOp (s : State) (id bytes : Nat) (poison : Bool) (fail : Option EfrEntry) : State :=
  match tget s.ops id with
  | some o =>
    match o.parent with
    | some (f, step) => (s.completeOp id [] bytes poison).stepDone f step poison fail
    | none => s.completeOp id o.tokens bytes poison
  | none => s

end Sys2Proof.Machine
end

