-- ==== Sys2Proof/Machine/Formats.lean ====
section
/-! DEFINITION. Floating-point formats, exact arithmetic on their values, rounding and saturation (R64 to R69), and
the correctly rounded transcendentals (R109). Every value is an exact dyadic number until the one rounding. -/

namespace Sys2Proof.Machine

/-- An exact value: a NaN, an infinity, or (−1)^neg × m × 2^e; a zero keeps its sign. -/
inductive Fl where
  | nan
  | inf (neg : Bool)
  | fin (neg : Bool) (m : Nat) (e : Int)
  deriving DecidableEq, Repr

/-- Exponent bits of a format (R64). -/
def expBits : FFmt → Nat
  | .fp32 => 8 | .fp16 => 5 | .bf16 => 8 | .e4m3 => 4 | .e5m2 => 5
/-- Fraction bits of a format (R64). -/
def fracBits : FFmt → Nat
  | .fp32 => 23 | .fp16 => 10 | .bf16 => 7 | .e4m3 => 3 | .e5m2 => 2
/-- Bias of a format (R64). -/
def expBias : FFmt → Nat
  | .fp32 => 127 | .fp16 => 15 | .bf16 => 127 | .e4m3 => 7 | .e5m2 => 15
/-- Width of a format. -/
def fmtWidth (f : FFmt) : Nat := 1 + expBits f + fracBits f
/-- The canonical NaN (R64, R67). -/
def canonNan : FFmt → Nat
  | .fp32 => 0x7FC00000 | .fp16 => 0x7E00 | .bf16 => 0x7FC0 | .e4m3 => 0x7F | .e5m2 => 0x7E
/-- The code of the largest finite value (R64). -/
def maxCode : FFmt → Nat
  | .fp32 => 0x7F7FFFFF | .fp16 => 0x7BFF | .bf16 => 0x7F7F | .e4m3 => 0x7E | .e5m2 => 0x7B
/-- The code of +infinity; in E4M3, which has none, the NaN (R65, R68). -/
def infCode : FFmt → Nat
  | .fp32 => 0x7F800000 | .fp16 => 0x7C00 | .bf16 => 0x7F80 | .e4m3 => 0x7F | .e5m2 => 0x7C

/-- The value of a code (R64, R65). -/
def decodeFl (f : FFmt) (v : Nat) : Fl :=
  let s := bit v (fmtWidth f - 1)
  let c := v % 2 ^ (fmtWidth f - 1)
  let E := c / 2 ^ fracBits f
  let F := c % 2 ^ fracBits f
  if c > maxCode f then (if c = infCode f ∧ f ≠ .e4m3 then .inf s else .nan)
  else if E = 0 then .fin s F (1 - expBias f - fracBits f)
  else .fin s (2 ^ fracBits f + F) (E - expBias f - fracBits f)

/-- Whether rounding adds one unit: mode, sign, last bit kept, and how the rest compares with half a unit. -/
def roundUp (rm : Nat) (neg odd : Bool) (rest : Ordering) (exact : Bool) : Bool :=
  if exact then false
  else match rm with
    | 0 => rest == .gt || (rest == .eq && odd)
    | 1 => false
    | 2 => neg
    | 3 => !neg
    | _ => rest != .lt

/-- A magnitude m × 2^e in units of 2^q, rounded (R68). -/
def roundUnits (rm : Nat) (neg : Bool) (m : Nat) (e q : Int) : Nat :=
  if q ≤ e then m * 2 ^ (e - q).toNat
  else
    let k := min (q - e).toNat (m.log2 + 2)
    let n := m / 2 ^ k
    let r := m % 2 ^ k
    if roundUp rm neg (n % 2 == 1) (Ord.compare (2 * r) (2 ^ k)) (r == 0) then n + 1 else n

/-- A result that overflows, by mode and sign (R68): whether the infinity is picked. -/
def overflowInf (rm : Nat) (neg : Bool) : Bool :=
  match rm with
  | 0 => true | 1 => false | 2 => neg | 3 => !neg | _ => true

/-- A magnitude exceeds the largest finite value of a format. -/
def exceeds (f : FFmt) (m : Nat) (e : Int) : Bool :=
  match decodeFl f (maxCode f) with
  | .fin _ M E =>
    let L := (m.log2 : Int) + e
    let LM := (M.log2 : Int) + E
    m != 0 && (decide (LM < L) || (L == LM && decide (M * 2 ^ (E - min e E).toNat < m * 2 ^ (e - min e E).toNat)))
  | _ => false

/-- `round(fmt, sat(fmt, x), rmode)` of R68 and R69, as a code. -/
def roundFl (f : FFmt) (rm : Nat) (sat : Bool) (x : Fl) : Nat :=
  let sgn := fun (neg : Bool) => if neg then 2 ^ (fmtWidth f - 1) else 0
  let infty := fun (neg : Bool) => if f = .e4m3 then canonNan f else sgn neg + infCode f
  match x with
  | .nan => canonNan f
  | .inf neg => if sat then sgn neg + maxCode f else infty neg
  | .fin neg m e =>
    if m = 0 then sgn neg
    else if sat && exceeds f m e then sgn neg + maxCode f
    else
      let q : Int := max ((m.log2 : Int) + e) (1 - (expBias f : Int)) - fracBits f
      let n := roundUnits rm neg m e q
      if n = 0 then sgn neg
      else
        let top := decide (2 ^ (fracBits f + 1) ≤ n)
        let n' := if top then 2 ^ fracBits f else n
        let E : Int := if n' < 2 ^ fracBits f then 0 else (if top then q + 1 else q) + fracBits f + expBias f
        if E > maxCode f / 2 ^ fracBits f then (if overflowInf rm neg then infty neg else sgn neg + maxCode f)
        else
          let c := E.toNat * 2 ^ fracBits f + n' % 2 ^ fracBits f
          if c > maxCode f then (if overflowInf rm neg then infty neg else sgn neg + maxCode f) else sgn neg + c

/-! ### Exact arithmetic (R76, R108) -/

/-- The value with its sign changed. -/
def negFl : Fl → Fl
  | .nan => .nan
  | .inf n => .inf (!n)
  | .fin n m e => .fin (!n) m e

/-- The value with sign 0. -/
def absFl : Fl → Fl
  | .nan => .nan
  | .inf _ => .inf false
  | .fin _ m e => .fin false m e

/-- The exact product; an infinity times a zero is a NaN (R108). -/
def mulFl : Fl → Fl → Fl
  | .nan, _ => .nan
  | _, .nan => .nan
  | .inf a, .inf b => .inf (a != b)
  | .inf a, .fin b m _ => if m = 0 then .nan else .inf (a != b)
  | .fin a m _, .inf b => if m = 0 then .nan else .inf (a != b)
  | .fin a m e, .fin b n k => .fin (a != b) (m * n) (e + k)

/-- A finite value in units of 2^q, q at or below its exponent. -/
def unitsFl (q : Int) : Fl → Int
  | .fin n m e => (if n then -1 else 1) * (m * 2 ^ (e - q).toNat : Nat)
  | _ => 0

/-- The least exponent among finite nonzero values, 0 when there is none. -/
def lowExp (xs : List Fl) : Int :=
  let es := xs.filterMap fun | .fin _ m e => if m = 0 then none else some e | _ => none
  es.foldl min (es.headD 0)

/-- The exact sum; a NaN or infinities of both signs give a NaN; an exact zero is −0 only when every term is −0 (R76). -/
def sumFl (xs : List Fl) : Fl :=
  if xs.any (· == .nan) || (xs.any (· == .inf true) && xs.any (· == .inf false)) then .nan
  else if xs.any (· == .inf true) then .inf true
  else if xs.any (· == .inf false) then .inf false
  else
    let q := lowExp xs
    let v := (xs.map (unitsFl q)).sum
    if v = 0 then
      .fin (!xs.isEmpty && xs.all fun | .fin n m _ => n && m == 0 | _ => false) 0 0
    else .fin (decide (v < 0)) v.natAbs q

/-- The exact sum of two values; a zero from values of opposite sign is −0 under RDN alone (R68). -/
def addFl (rm : Nat) (a b : Fl) : Fl :=
  match sumFl [a, b] with
  | .fin neg 0 e =>
    if rm = 2 then
      match a, b with
      | .fin na _ _, .fin nb _ _ => .fin (na || nb) 0 e
      | _, _ => .fin neg 0 e
    else .fin neg 0 e
  | r => r

/-- a is below b as numbers: −0 equals +0; false when either is a NaN. -/
def ltFl : Fl → Fl → Bool
  | .nan, _ => false
  | _, .nan => false
  | .inf a, .inf b => a && !b
  | .inf a, .fin .. => a
  | .fin .., .inf b => !b
  | a, b => decide (unitsFl (lowExp [a, b]) a < unitsFl (lowExp [a, b]) b)

/-- The sign of a value. -/
def Fl.neg : Fl → Bool
  | .nan => false
  | .inf n => n
  | .fin n _ _ => n

/-- The smaller value; −0 is below +0; a NaN gives a NaN (R108, R194). -/
def minFl (a b : Fl) : Fl :=
  if a = .nan ∨ b = .nan then .nan
  else if ltFl a b then a else if ltFl b a then b else if a.neg then a else b

/-- The larger value; +0 is above −0; a NaN gives a NaN (R108, R194). -/
def maxFl (a b : Fl) : Fl :=
  if a = .nan ∨ b = .nan then .nan
  else if ltFl a b then b else if ltFl b a then a else if a.neg then b else a

/-- A value rounded to an integral one, keeping its sign (R108). -/
def integralFl (rm : Nat) : Fl → Fl
  | .fin n m e => if 0 ≤ e then .fin n m e else .fin n (roundUnits rm n m e 0) 0
  | x => x

/-- The condition of an FCMP (R110). -/
def condFl (c : Cond) (a b : Fl) : Bool :=
  let un := a == .nan || b == .nan
  match c with
  | .un => un
  | .ne => un || ltFl a b || ltFl b a
  | .eq => !un && !ltFl a b && !ltFl b a
  | .lt => ltFl a b
  | .gt => ltFl b a
  | .le => !un && !ltFl b a
  | .ge => !un && !ltFl a b

/-- The class bit of a code (R111). -/
def classBit (f : FFmt) (v : Nat) : Nat :=
  let sub := decide (v % 2 ^ (fmtWidth f - 1) < 2 ^ fracBits f)
  match decodeFl f v with
  | .nan => 8
  | .inf n => if n then 0 else 7
  | .fin n m _ => if m = 0 then (if n then 3 else 4) else if sub then (if n then 2 else 5) else (if n then 1 else 6)

/-- An integer's exact value; 0 is +0 (R115). -/
def intFl (v : Int) : Fl := .fin (decide (v < 0)) v.natAbs 0

/-- The integer of w bits that a float gives (R115). -/
def flToInt (rm : Nat) (sat signed : Bool) (w : Nat) (x : Fl) : Nat :=
  let lo := minInt signed w
  let hi := maxInt signed w
  let out := if signed then 2 ^ (w - 1) else 2 ^ w - 1
  match integralFl rm x with
  | .nan => if sat then 0 else out
  | .inf n => if sat then wrapNat w (if n then lo else hi) else out
  | .fin n m e =>
    if e > 200 ∧ m ≠ 0 then (if sat then wrapNat w (if n then lo else hi) else out)
    else
      let v := unitsFl 0 (.fin n m e)
      if lo ≤ v ∧ v ≤ hi then wrapNat w v
      else if sat then wrapNat w (if v < lo then lo else hi) else out

/-! ### Correctly rounded functions (R109)

An irrational result is held between two bounds in units of 2^−192. When both bounds round alike, that is the correctly
rounded result; where they would not, the result is the unstated choice of log entry 14. -/

/-- The fixed point of the enclosures. -/
def fixBits : Nat := 192

/-- The floor of ln 2 × 2^192. -/
def ln2Fix : Nat := 4350955369971217654477563090224794165364344896676135745069

/-- Bounds on e^t, for 0 ≤ t < 1 in units of 2^−192, from a floor of t. -/
def expFix (t : Nat) : Nat × Nat :=
  let r := (List.range 64).foldl (fun (p : Nat × Nat) n => (p.1 + p.2, p.2 * t / ((n + 1) * 2 ^ fixBits))) (0, 2 ^ fixBits)
  (r.1 - 512, r.1 + 512)

/-- Bounds on ln x, for 1 ≤ x ≤ 2, x = a ÷ b: twice the inverse hyperbolic tangent of (a − b) ÷ (a + b). -/
def lnFix (a b : Nat) : Nat × Nat :=
  let z := (a - b) * 2 ^ fixBits / (a + b)
  let z2 := z * z / 2 ^ fixBits
  let r := (List.range 70).foldl (fun (p : Nat × Nat) n => (p.1 + p.2 / (2 * n + 1), p.2 * z2 / 2 ^ fixBits)) (0, z)
  (2 * r.1 - 512, 2 * r.1 + 512)

/-- The code of a value strictly between lo and hi, in units of 2^q. -/
def encloseFl (f : FFmt) (rm : Nat) (sat neg : Bool) (lo hi : Nat) (q : Int) : Nat :=
  let a := roundFl f rm sat (.fin neg (2 * lo + 1) (q - 1))
  let b := roundFl f rm sat (.fin neg (2 * hi - 1) (q - 1))
  if a = b then a else Config.freeFunc a b % 2 ^ fmtWidth f

/-- The square root by binary digits, for numbers below 2^256. -/
def isqrt (n : Nat) : Nat :=
  (List.range 128).foldl (fun r i => let c := r + 2 ^ (127 - i); if c * c ≤ n then c else r) 0

/-- The quotient or root q with a sticky bit for what is left: exact for every rounding to fewer bits. -/
def sticky (neg : Bool) (q : Nat) (exact : Bool) (e : Int) : Fl := .fin neg (2 * q + if exact then 0 else 1) (e - 1)

/-- 1 ÷ a (R109). -/
def recipFl : Fl → Fl
  | .nan => .nan
  | .inf n => .fin n 0 0
  | .fin n m e =>
    if m = 0 then .inf n
    else
      let k := m.log2 + 64
      sticky n (2 ^ k / m) (2 ^ k % m == 0) (-e - k)

/-- √a (R109). -/
def sqrtFl : Fl → Fl
  | .nan => .nan
  | .inf n => if n then .nan else .inf false
  | .fin n m e =>
    if m = 0 then .fin n 0 0
    else if n then .nan
    else
      let odd := e % 2 = 1
      let m2 := (if odd then 2 * m else m) * 2 ^ 80
      let e2 := (if odd then e - 1 else e) - 80
      let r := isqrt m2
      sticky false r (r * r == m2) (e2 / 2)

/-- 1 ÷ √a (R109). -/
def rsqrtFl : Fl → Fl
  | .nan => .nan
  | .inf n => if n then .nan else .fin false 0 0
  | .fin n m e =>
    if m = 0 then .inf n
    else if n then .nan
    else
      let odd := e % 2 = 1
      let m2 := if odd then 2 * m else m
      let e2 := if odd then e - 1 else e
      let N := 2 ^ 160
      let r := isqrt (N / m2)
      sticky false r (r * r * m2 == N) (-(e2 / 2) - 80)

/-- 2^a as a code (R109). -/
def exp2Code (f : FFmt) (rm : Nat) (sat : Bool) : Fl → Nat
  | .nan => canonNan f
  | .inf n => if n then 0 else roundFl f rm sat (.inf false)
  | .fin n m e =>
    if 0 ≤ e ∨ m % 2 ^ (-e).toNat = 0 then
      let v : Nat := if 0 ≤ e then m * 2 ^ (min e 200).toNat else m / 2 ^ (-e).toNat
      roundFl f rm sat (.fin false 1 (if n then -(v : Int) else v))
    else
      let k := (-e).toNat
      let i : Int := if n then -((m / 2 ^ k : Nat) : Int) - 1 else (m / 2 ^ k : Nat)
      let fr := if n then 2 ^ k - m % 2 ^ k else m % 2 ^ k
      let b := expFix (fr * ln2Fix / 2 ^ k)
      encloseFl f rm sat false (max b.1 (2 ^ fixBits)) (min b.2 (2 * 2 ^ fixBits)) (i - fixBits)

/-- log2 a as a code (R109). -/
def log2Code (f : FFmt) (rm : Nat) (sat : Bool) : Fl → Nat
  | .nan => canonNan f
  | .inf n => if n then canonNan f else roundFl f rm sat (.inf false)
  | .fin n m e =>
    if m = 0 then roundFl f rm sat (.inf true)
    else if n then canonNan f
    else
      let k := m.log2
      let L := (k : Int) + e
      if m = 2 ^ k then roundFl f rm sat (intFl L)
      else
        let b := lnFix m (2 ^ k)
        let lo := b.1 * 2 ^ fixBits / (ln2Fix + 1)
        let hi := b.2 * 2 ^ fixBits / ln2Fix + 1
        if 0 ≤ L then
          encloseFl f rm sat false (L.toNat * 2 ^ fixBits + lo) (L.toNat * 2 ^ fixBits + hi) (-(fixBits : Int))
        else
          let w := (-L).toNat * 2 ^ fixBits
          encloseFl f rm sat true (w - hi) (w - lo) (-(fixBits : Int))

/-- tanh a as a code (R109). -/
def tanhCode (f : FFmt) (rm : Nat) (sat : Bool) : Fl → Nat
  | .nan => canonNan f
  | .inf n => roundFl f rm sat (.fin n 1 0)
  | .fin n m e =>
    if m = 0 then roundFl f rm sat (.fin n 0 0)
    else
      let L := (m.log2 : Int) + e
      let one := 2 ^ fixBits
      if L < -30 then encloseFl f rm sat n (m * 2 ^ 60 - m) (m * 2 ^ 60) (e - 60)
      else if 6 < L then encloseFl f rm sat n (one - 1) one (-(fixBits : Int))
      else
        let t := if 0 ≤ e then 2 * m * 2 ^ e.toNat * one else 2 * m * one / 2 ^ (-e).toNat
        let k := t / ln2Fix
        let b := expFix (t - k * ln2Fix)
        let ulo := one * one / (b.2 + 512) / 2 ^ k
        let uhi := one * one / (b.1 - 512) / 2 ^ k + 1
        encloseFl f rm sat n ((one - uhi) * one / (one + uhi)) (min one ((one - ulo) * one / (one + ulo) + 1))
          (-(fixBits : Int))

end Sys2Proof.Machine
end

