-- ==== Sys2Proof/Machine/Integer.lean ====
section
/-! DEFINITION. The integer and address instructions, opcodes 0x030 to 0x062 (R85, R98 to R105). -/

namespace Sys2Proof.Machine

/-! ### Operand forms -/

/-- The b operand of an integer instruction: a register or pair like a, a register marked 32-bit, an immediate, or
none (R85, R99). -/
inductive SrcB where
  | reg (b : BitVec 6)
  | count (b : BitVec 6)
  | imm (i : Int)
  | none
  deriving DecidableEq, Repr

/-- What an integer instruction reads and writes under a mode (R85, R99); its result has latency 2 (R54). -/
def intFoot (d a : BitVec 6) (b : SrcB) (readsD : Bool) (m : BitVec 13) : Foot :=
  let p := etPair (modeEtype m)
  { reads := [rw p a] ++ (match b with | .reg b => [rw p b] | .count b => [r1 b] | _ => [])
      ++ (if readsD then [rw p d] else [])
    writes := [rw p d]
    lat := 2 }

/-- A register's value, or a pair's under the 64-bit etypes. -/
def Issue.val (x : Issue) (l : Nat) (i : BitVec 6) : Nat :=
  if etPair (modeEtype (x.mode l)) then (x.reg64 l i.toNat).toNat else (x.reg l i.toNat).toNat

/-- A result written to a register, or to a pair under the 64-bit etypes. -/
def Issue.wrVal (x : Issue) (l : Nat) (d : BitVec 6) (v : Nat) : Wr :=
  if etPair (modeEtype (x.mode l)) then wr2 d (BitVec.ofNat 64 v) else wr1 d (BitVec.ofNat 32 v)

/-- The bits an operand spans: 32, or 64 under the 64-bit etypes. -/
def etSpan (e : Nat) : Nat := if etPair e then 64 else 32

/-- Element j of a value under an etype (R62). -/
def elemOf (e v j : Nat) : Nat := v / 2 ^ (etWidth e * j) % 2 ^ etWidth e

/-- A value put together from its elements (R62). -/
def ofElems (e : Nat) (g : Nat → Nat) : Nat :=
  (List.range (etSpan e / etWidth e)).foldl (fun v j => v + g j * 2 ^ (etWidth e * j)) 0

/-- Element j of the b operand: of the register or pair, of the count (R99), or the immediate at the element's width
(R98). -/
def Issue.elemB (x : Issue) (l : Nat) (b : SrcB) (j : Nat) : Nat :=
  let e := modeEtype (x.mode l)
  match b with
  | .reg b => elemOf e (x.val l b) j
  | .count b => if etPair e then (x.reg l b.toNat).toNat else elemOf e (x.reg l b.toNat).toNat j
  | .imm i => wrapNat (etWidth e) i
  | .none => 0

/-- An exact element operation: signedness, width, and the bits of the elements of a, b and d. -/
abbrev ElemOp := Bool → Nat → Nat → Nat → Nat → Int

/-- What an integer instruction states of itself; `sat` where the table of R99 gives saturation. -/
def intHead (u : Bool) (st : BitVec 3) (d a : BitVec 6) (b : SrcB) (readsD sat : Bool) : Head :=
  { u := u, st := st, fp := intFoot d a b readsD, cons := if sat then consSat else consEtype }

/-- The element-wise result of R98 in a lane, with saturation where the table of R99 gives it. -/
def Issue.elementResult (x : Issue) (l : Nat) (d a : BitVec 6) (b : SrcB) (sat : Bool) (op : ElemOp) : Wr :=
  let e := modeEtype (x.mode l)
  x.wrVal l d (ofElems e fun j =>
    fitInt (sat && modeSat (x.mode l)) (etSigned e) (etWidth e)
      (op (etSigned e) (etWidth e) (elemOf e (x.val l a) j) (x.elemB l b j) (elemOf e (x.val l d) j)))

/-- The element-wise body of R98. -/
def elementwise (s : State) (u : Bool) (st : BitVec 3) (d a : BitVec 6) (b : SrcB) (readsD sat : Bool) (op : ElemOp) : Res :=
  scalar s (intHead u st d a b readsD sat) fun x l => x.elementResult l d a b sat op

/-- The b operand as a whole: of the register or pair, of the count, or the immediate at the operand's width. -/
def Issue.wholeB (x : Issue) (l : Nat) (b : SrcB) : Nat :=
  match b with
  | .reg b => x.val l b
  | .count b => (x.reg l b.toNat).toNat
  | .imm i => wrapNat (etSpan (modeEtype (x.mode l))) i
  | .none => 0

/-- An operation on whole registers or pairs: the bits they span, the etype, and their values. -/
def wholewise (s : State) (u : Bool) (st : BitVec 3) (d a : BitVec 6) (b : SrcB) (readsD : Bool)
    (op : Nat → Nat → Nat → Nat → Nat → Nat) : Res :=
  scalar s (intHead u st d a b readsD false) fun x l =>
    let e := modeEtype (x.mode l)
    x.wrVal l d (op (etSpan e) e (x.val l a) (x.wholeB l b) (x.val l d))

/-- What a comparison states of itself: ILLEGAL under the packed etypes (R104). -/
def compareHead (u : Bool) (st : BitVec 3) (d a : BitVec 6) (b : SrcB) : Head :=
  { u := u, st := st, cons := consEtype
    fp := fun m => { intFoot d a b false m with writes := [], writesP := [d.toNat] }
    dyn := fun x => x.actors.any fun j => etPacked (modeEtype (x.c.slice j).mode) }

/-- A comparison (R104): the truth of the condition to predicate d. -/
def compare (s : State) (u : Bool) (st : BitVec 3) (d a : BitVec 6) (b : SrcB) (c : Cond) : Res :=
  scalar s (compareHead u st d a b) fun x l =>
    let e := modeEtype (x.mode l)
    let w := etWidth e
    wrP d (condInt c (readInt (etSigned e) w (x.val l a)) (readInt (etSigned e) w (x.elemB l b 0)))

/-- What a selection states of itself (R105). -/
def selectHead (f : FUSDAB) (p : Nat) : Head :=
  { u := f.u, st := f.s, cons := consEtype, checkP := false
    fp := fun m => { intFoot f.d f.a (.reg f.b) false m with readsP := [p] } }

/-- A selection by a predicate (R105). -/
def select (s : State) (f : FUSDAB) (p : Nat) : Res :=
  scalar s (selectHead f p) fun x l =>
    x.wrVal l f.d (if x.pred l p then x.val l f.a else x.val l f.b)

/-- What ADDC and SUBC state of themselves: ILLEGAL under the 64-bit and packed etypes (R103). -/
def carryHead (f : FUSDAB) : Head :=
  { u := f.u, st := f.s, cons := consEtype
    fp := fun _ => { reads := [r1 f.a, r1 f.b], writes := [r1 f.d], readsP := [6], writesP := [6], lat := 2 }
    dyn := fun x => x.actors.any fun j =>
      let e := modeEtype (x.c.slice j).mode
      etPair e || etPacked e }

/-- ADDC and SUBC (R103): 32 bits, carry in p6. -/
def carrying (s : State) (f : FUSDAB) (op : Word → Word → Bool → Word × Bool) : Res :=
  scalar s (carryHead f) fun x l =>
    let r := op (x.reg l f.a.toNat) (x.reg l f.b.toNat) (x.pred l 6)
    { regs := [(f.d.toNat, r.1)], preds := [(6, r.2)] }

/-! ### Element operations (R99) -/

/-- The exact sum. -/
def opAdd : ElemOp := fun sg w a b _ => readInt sg w a + readInt sg w b
/-- The exact difference. -/
def opSub : ElemOp := fun sg w a b _ => readInt sg w a - readInt sg w b
/-- The exact product. -/
def opMul : ElemOp := fun sg w a b _ => readInt sg w a * readInt sg w b
/-- The product, formed at 2w bits, moved right w places. -/
def opMulhi : ElemOp := fun sg w a b _ => readInt sg w a * readInt sg w b / (2 ^ w : Nat)
/-- The exact product plus d. -/
def opMad : ElemOp := fun sg w a b d => readInt sg w a * readInt sg w b + readInt sg w d
/-- The smaller. -/
def opMin : ElemOp := fun sg w a b _ => min (readInt sg w a) (readInt sg w b)
/-- The larger. -/
def opMax : ElemOp := fun sg w a b _ => max (readInt sg w a) (readInt sg w b)
/-- The magnitude when signed, a when unsigned. -/
def opAbs : ElemOp := fun sg w a _ _ => (readInt sg w a).natAbs
/-- The negative. -/
def opNeg : ElemOp := fun sg w a _ _ => - readInt sg w a
/-- a times two to the count. A count of 2w or more acts as 2w: it wraps and clamps alike. -/
def opShl : ElemOp := fun sg w a n _ => readInt sg w a * (2 ^ min n (2 * w) : Nat)
/-- Bits moved right with zeros in; 0 from a count of w. -/
def opShr : ElemOp := fun _ w a n _ => ((a / 2 ^ min n w : Nat) : Int)
/-- The floor of a, read as signed, divided by two to the count. -/
def opSar : ElemOp := fun _ w a n _ => readInt true w a / (2 ^ min n w : Nat)
/-- a rotated left by the count modulo w. -/
def opRot : ElemOp := fun _ w a n _ => ((a * 2 ^ (n % w) + a / 2 ^ (w - n % w) : Nat) : Int)
/-- Leading zero bits; w of 0. -/
def opClz : ElemOp := fun _ w a _ _ => ((if a = 0 then w else w - 1 - Nat.log2 a : Nat) : Int)
/-- Bits that are 1. -/
def opPopc : ElemOp := fun _ w a _ _ => (((List.range w).filter (bit a)).length : Nat)

/-- The field of BFX (R102). -/
def fieldExtract (w e a b : Nat) : Nat :=
  let pos := b % 256
  let len := b / 256 % 256
  if len = 0 ∨ w ≤ pos then 0
  else
    let n := min len (w - pos)
    wrapNat w (readInt (etSigned e) n (a / 2 ^ pos))

/-- The insertion of BFI (R102). -/
def fieldInsert (w a b d : Nat) : Nat :=
  let pos := b % 256
  let n := min (b / 256 % 256) (w - pos)
  d / 2 ^ (pos + n) * 2 ^ (pos + n) + a % 2 ^ n * 2 ^ pos + d % 2 ^ pos

/-! ### Meanings -/
/-- ADD (R98, R99): a + b. -/
def execAdd (f : FUSDAB) (s : State) : Res :=
  elementwise s f.u f.s f.d f.a (.reg f.b) false true opAdd

/-- ADDI (R98, R99): a plus the sign-extended immediate. -/
def execAddi (f : FUSDAI) (s : State) : Res :=
  elementwise s f.u f.s f.d f.a (.imm f.i.toInt) false true opAdd

/-- SUB (R99): a − b. -/
def execSub (f : FUSDAB) (s : State) : Res :=
  elementwise s f.u f.s f.d f.a (.reg f.b) false true opSub

/-- ADDC (R103): sum with the carry of p6. -/
def execAddc (f : FUSDAB) (s : State) : Res :=
  carrying s f addCarry

/-- SUBC (R103): difference with the borrow of p6. -/
def execSubc (f : FUSDAB) (s : State) : Res :=
  carrying s f subBorrow

/-- MUL (R99): a × b. -/
def execMul (f : FUSDAB) (s : State) : Res :=
  elementwise s f.u f.s f.d f.a (.reg f.b) false true opMul

/-- MULHI (R99): the high half of the product. -/
def execMulhi (f : FUSDAB) (s : State) : Res :=
  elementwise s f.u f.s f.d f.a (.reg f.b) false false opMulhi

/-- MAD (R99): a × b + d. -/
def execMad (f : FUSDAB) (s : State) : Res :=
  elementwise s f.u f.s f.d f.a (.reg f.b) true true opMad

/-- MIN (R99). -/
def execMin (f : FUSDAB) (s : State) : Res :=
  elementwise s f.u f.s f.d f.a (.reg f.b) false false opMin

/-- MAX (R99). -/
def execMax (f : FUSDAB) (s : State) : Res :=
  elementwise s f.u f.s f.d f.a (.reg f.b) false false opMax

/-- ABS (R99). -/
def execAbs (f : FUSDA) (s : State) : Res :=
  elementwise s f.u f.s f.d f.a .none false true opAbs

/-- NEG (R99). -/
def execNeg (f : FUSDA) (s : State) : Res :=
  elementwise s f.u f.s f.d f.a .none false true opNeg

/-- AND (R100): bit by bit on the register or pair. -/
def execAnd (f : FUSDAB) (s : State) : Res :=
  wholewise s f.u f.s f.d f.a (.reg f.b) false fun _ _ a b _ => a &&& b

/-- OR (R100): bit by bit on the register or pair. -/
def execOr (f : FUSDAB) (s : State) : Res :=
  wholewise s f.u f.s f.d f.a (.reg f.b) false fun _ _ a b _ => a ||| b

/-- XOR (R100): bit by bit on the register or pair. -/
def execXor (f : FUSDAB) (s : State) : Res :=
  wholewise s f.u f.s f.d f.a (.reg f.b) false fun _ _ a b _ => a ^^^ b

/-- NOT (R100). -/
def execNot (f : FUSDA) (s : State) : Res :=
  wholewise s f.u f.s f.d f.a .none false fun w _ a _ _ => 2 ^ w - 1 - a

/-- ANDI (R100): with the immediate sign-extended to the operand. -/
def execAndi (f : FUSDAI) (s : State) : Res :=
  wholewise s f.u f.s f.d f.a (.imm f.i.toInt) false fun _ _ a b _ => a &&& b

/-- ORI (R100): with the immediate sign-extended to the operand. -/
def execOri (f : FUSDAI) (s : State) : Res :=
  wholewise s f.u f.s f.d f.a (.imm f.i.toInt) false fun _ _ a b _ => a ||| b

/-- SHL (R99). -/
def execShl (f : FUSDAB) (s : State) : Res :=
  elementwise s f.u f.s f.d f.a (.count f.b) false true opShl

/-- SHR (R99). -/
def execShr (f : FUSDAB) (s : State) : Res :=
  elementwise s f.u f.s f.d f.a (.count f.b) false false opShr

/-- SAR (R99). -/
def execSar (f : FUSDAB) (s : State) : Res :=
  elementwise s f.u f.s f.d f.a (.count f.b) false false opSar

/-- SHLI (R99). -/
def execShli (f : FUSDAI) (s : State) : Res :=
  elementwise s f.u f.s f.d f.a (.imm f.i.toNat) false true opShl

/-- SHRI (R99). -/
def execShri (f : FUSDAI) (s : State) : Res :=
  elementwise s f.u f.s f.d f.a (.imm f.i.toNat) false false opShr

/-- SARI (R99). -/
def execSari (f : FUSDAI) (s : State) : Res :=
  elementwise s f.u f.s f.d f.a (.imm f.i.toNat) false false opSar

/-- ROT (R99). -/
def execRot (f : FUSDAB) (s : State) : Res :=
  elementwise s f.u f.s f.d f.a (.count f.b) false false opRot

/-- BFX (R102): extracts a field. -/
def execBfx (f : FUSDAB) (s : State) : Res :=
  wholewise s f.u f.s f.d f.a (.count f.b) false fun w e a b _ => fieldExtract w e a b

/-- BFI (R102): inserts a field, keeping the other bits of d; an empty field leaves every lane's d as it is. -/
def execBfi (f : FUSDAB) (s : State) : Res :=
  scalar s (intHead f.u f.s f.d f.a (.count f.b) true false) fun x l =>
    let w := etSpan (modeEtype (x.mode l))
    let b := x.wholeB l (.count f.b)
    if b / 256 % 256 = 0 ∨ w ≤ b % 256 then {} else x.wrVal l f.d (fieldInsert w (x.val l f.a) b (x.val l f.d))

/-- CLZ (R99). -/
def execClz (f : FUSDA) (s : State) : Res :=
  elementwise s f.u f.s f.d f.a .none false false opClz

/-- POPC (R99). -/
def execPopc (f : FUSDA) (s : State) : Res :=
  elementwise s f.u f.s f.d f.a .none false false opPopc

/-- MOV (R100). -/
def execMov (f : FUSDA) (s : State) : Res :=
  wholewise s f.u f.s f.d f.a .none false fun _ _ a _ _ => a

/-- What MOVI states before its effect (R100). -/
def moviHead (f : FUSDI) : Head :=
  { u := f.u, st := f.s, cons := consEtype
    fp := fun m => { writes := [rw (etPair (modeEtype m)) f.d], lat := 2 } }

/-- MOVI (R100): the sign-extended immediate, into a pair under the 64-bit etypes. -/
def execMovi (f : FUSDI) (s : State) : Res :=
  scalar s (moviHead f) fun x l =>
    x.wrVal l f.d (wrapNat 64 f.i.toInt)

/-- What LEA states before its effect (R101). -/
def leaHead (f : FUSDAB) : Head :=
  { u := f.u, st := f.s
    fp := fun _ => { reads := [r2 f.a, r1 f.b], writes := [r2 f.d], lat := 2 } }

/-- LEA (R101): a 64-bit base plus a sign-extended 32-bit offset, whatever the etype. -/
def execLea (f : FUSDAB) (s : State) : Res :=
  scalar s (leaHead f) fun x l =>
    wr2 f.d (x.reg64 l f.a.toNat + (x.reg l f.b.toNat).signExtend 64)

/-- CMP.eq (R104). -/
def execCmpEq (f : FUSDAB) (s : State) : Res :=
  compare s f.u f.s f.d f.a (.reg f.b) .eq

/-- CMP.ne (R104). -/
def execCmpNe (f : FUSDAB) (s : State) : Res :=
  compare s f.u f.s f.d f.a (.reg f.b) .ne

/-- CMP.lt (R104). -/
def execCmpLt (f : FUSDAB) (s : State) : Res :=
  compare s f.u f.s f.d f.a (.reg f.b) .lt

/-- CMP.le (R104). -/
def execCmpLe (f : FUSDAB) (s : State) : Res :=
  compare s f.u f.s f.d f.a (.reg f.b) .le

/-- CMP.gt (R104). -/
def execCmpGt (f : FUSDAB) (s : State) : Res :=
  compare s f.u f.s f.d f.a (.reg f.b) .gt

/-- CMP.ge (R104). -/
def execCmpGe (f : FUSDAB) (s : State) : Res :=
  compare s f.u f.s f.d f.a (.reg f.b) .ge

/-- CMPI.eq (R104). -/
def execCmpiEq (f : FUSDAI) (s : State) : Res :=
  compare s f.u f.s f.d f.a (.imm f.i.toInt) .eq

/-- CMPI.ne (R104). -/
def execCmpiNe (f : FUSDAI) (s : State) : Res :=
  compare s f.u f.s f.d f.a (.imm f.i.toInt) .ne

/-- CMPI.lt (R104). -/
def execCmpiLt (f : FUSDAI) (s : State) : Res :=
  compare s f.u f.s f.d f.a (.imm f.i.toInt) .lt

/-- CMPI.le (R104). -/
def execCmpiLe (f : FUSDAI) (s : State) : Res :=
  compare s f.u f.s f.d f.a (.imm f.i.toInt) .le

/-- CMPI.gt (R104). -/
def execCmpiGt (f : FUSDAI) (s : State) : Res :=
  compare s f.u f.s f.d f.a (.imm f.i.toInt) .gt

/-- CMPI.ge (R104). -/
def execCmpiGe (f : FUSDAI) (s : State) : Res :=
  compare s f.u f.s f.d f.a (.imm f.i.toInt) .ge

/-- SEL.p1 (R105). -/
def execSelP1 (f : FUSDAB) (s : State) : Res :=
  select s f 1

/-- SEL.p2 (R105). -/
def execSelP2 (f : FUSDAB) (s : State) : Res :=
  select s f 2

/-- SEL.p3 (R105). -/
def execSelP3 (f : FUSDAB) (s : State) : Res :=
  select s f 3

/-- SEL.p4 (R105). -/
def execSelP4 (f : FUSDAB) (s : State) : Res :=
  select s f 4

/-- SEL.p5 (R105). -/
def execSelP5 (f : FUSDAB) (s : State) : Res :=
  select s f 5

/-- SEL.p6 (R105). -/
def execSelP6 (f : FUSDAB) (s : State) : Res :=
  select s f 6

/-- SEL.p7 (R105). -/
def execSelP7 (f : FUSDAB) (s : State) : Res :=
  select s f 7

end Sys2Proof.Machine
end

