-- ==== Sys2Proof/Machine/Float.lean ====
section
/-! DEFINITION. The float and conversion instructions, opcodes 0x0C0 to 0x0E1 (R85, R107 to R115), and VOTE.fadd
(R77, R132). -/

namespace Sys2Proof.Machine

/-- The format a float instruction works in: FP16 and BF16 under their packed etypes, the FP8 formats under theirs, and
FP32 under f32 and every integer etype (R85). -/
def etFmt (e : Nat) : FFmt := if e = 9 then .fp16 else if e = 10 then .bf16 else if e = 11 then .e4m3 else if e = 12 then .e5m2 else .fp32

/-- The FP8 etypes. -/
def etFp8 (e : Nat) : Bool := e == 11 || e == 12

/-- Elements of a format in one register. -/
def perReg (f : FFmt) : Nat := 32 / fmtWidth f

/-- Element j of a register in a format (R62). -/
def elemFl (f : FFmt) (v : Word) (j : Nat) : Nat := v.toNat / 2 ^ (fmtWidth f * j) % 2 ^ fmtWidth f

/-- A register from its elements. -/
def ofElemsFl (f : FFmt) (g : Nat → Nat) : Word :=
  BitVec.ofNat 32 ((List.range (perReg f)).foldl (fun v j => v + g j * 2 ^ (fmtWidth f * j)) 0)

/-- Some acting slice has an etype that p holds of. -/
def Issue.anyEtype (x : Issue) (p : Nat → Bool) : Bool := x.actors.any fun j => p (modeEtype (x.c.slice j).mode)

/-- What the element-wise body of R107 states before its effect; `cons` is the mode fields it consults (R86, R108). -/
def floatOpHead (cons : BitVec 13) (u : Bool) (st : BitVec 3) (d : BitVec 6) (a : BitVec 6) (b : Option (BitVec 6)) (readsD : Bool)
    (lat : Nat) : Head :=
  { u := u, st := st, cons := cons
    fp := fun _ =>
      { reads := [r1 a] ++ (match b with | some b => [r1 b] | none => []) ++ (if readsD then [r1 d] else [])
        writes := [r1 d], lat := lat }
    dyn := fun x => x.anyEtype etFp8 }

/-- The element-wise body of R107: op takes the rounding mode and the exact elements of a, b and d. -/
def floatOp (cons : BitVec 13) (s : State) (u : Bool) (st : BitVec 3) (d a : BitVec 6) (b : Option (BitVec 6)) (readsD : Bool)
    (lat : Nat) (op : FFmt → Nat → Bool → Fl → Fl → Fl → Nat) : Res :=
  scalar s (floatOpHead cons u st d a b readsD lat) fun x l =>
    let m := x.mode l
    let f := etFmt (modeEtype m)
    let bv := match b with | some b => x.reg l b.toNat | none => 0
    wr1 d (ofElemsFl f fun j =>
      op f (modeRmode m) (modeSat m) (decodeFl f (elemFl f (x.reg l a.toNat) j)) (decodeFl f (elemFl f bv j))
        (decodeFl f (elemFl f (x.reg l d.toNat) j)))

/-- FSCAL's exact result: a × 2^n (R108). -/
def scaleFl (a : Fl) (n : Int) : Fl :=
  match a with
  | .fin neg m e => .fin neg m (e + n)
  | x => x

/-- What FCMP states before its effect (R110). -/
def floatCompareHead (f : FUSDAB) : Head :=
  { u := f.u, st := f.s, cons := consEtype
    fp := fun _ => { reads := [r1 f.a, r1 f.b], writesP := [f.d.toNat], lat := 4 }
    dyn := fun x => x.anyEtype fun e => decide (9 ≤ e) }

/-- FCMP (R110): FP32, ILLEGAL under the 16-bit and 8-bit float etypes. -/
def floatCompare (s : State) (f : FUSDAB) (c : Cond) : Res :=
  scalar s (floatCompareHead f) fun x l =>
    wrP f.d (condFl c (decodeFl .fp32 (x.reg l f.a.toNat).toNat) (decodeFl .fp32 (x.reg l f.b.toNat).toNat))

/-- An aligned group of n registers, one register when n is 1 (R83). -/
def rn (n : Nat) (i : BitVec 6) : Grp := ⟨i.toNat, n, n⟩

/-- The source and destination registers of an FCVT to a format under a mode (R113, R114). -/
def convertShape (dst : FFmt) (m : BitVec 13) : Nat × Nat :=
  let es := perReg (etFmt (modeEtype m))
  let ed := perReg dst
  (max es ed / es, max es ed / ed)

/-- What FCVT states before its effect (R113, R114). -/
def floatConvertHead (f : FUSDA) (dst : FFmt) : Head :=
  { u := f.u, st := f.s, cons := consFloat
    fp := fun m =>
      { reads := [rn (convertShape dst m).1 f.a], writes := [rn (convertShape dst m).2 f.d], lat := 4 } }

/-- FCVT (R113, R114): from the etype's format to another. -/
def floatConvert (s : State) (f : FUSDA) (dst : FFmt) : Res :=
  scalar s (floatConvertHead f dst) fun x l =>
    let m := x.mode l
    let src := etFmt (modeEtype m)
    wrN f.d.toNat ((List.range (convertShape dst m).2).map fun r =>
      ofElemsFl dst fun j =>
        let i := r * perReg dst + j
        roundFl dst (modeRmode m) (modeSat m)
          (decodeFl src (elemFl src (x.reg l (f.a.toNat + i / perReg src)) (i % perReg src))))

/-- What ICVT from an integer states before its effect (R115). -/
def convertIntHead (f : FUSDA) : Head :=
  { u := f.u, st := f.s, cons := consRound
    fp := fun m => { reads := [rw (etPair (modeEtype m)) f.a], writes := [r1 f.d], lat := 4 } }

/-- ICVT from an integer (R115). -/
def convertInt (s : State) (f : FUSDA) (signed : Bool) : Res :=
  scalar s (convertIntHead f) fun x l =>
    let m := x.mode l
    wr1 f.d (BitVec.ofNat 32
      (roundFl .fp32 (modeRmode m) false (intFl (readInt signed (etSpan (modeEtype m)) (x.val l f.a)))))

/-- What ICVT to an integer states before its effect (R115). -/
def convertFloatHead (f : FUSDA) : Head :=
  { u := f.u, st := f.s, cons := consFloat
    fp := fun m => { reads := [r1 f.a], writes := [rw (etPair (modeEtype m)) f.d], lat := 4 } }

/-- ICVT to an integer (R115). -/
def convertFloat (s : State) (f : FUSDA) (signed : Bool) : Res :=
  scalar s (convertFloatHead f) fun x l =>
    let m := x.mode l
    x.wrVal l f.d (flToInt (modeRmode m) (modeSat m) signed (etSpan (modeEtype m)) (decodeFl .fp32 (x.reg l f.a.toNat).toNat))

/-- One level of VOTE.fadd's tree: neighbours combined, an empty node passing the other (R77). -/
def faddLevel (rm : Nat) : List (Option Nat) → List (Option Nat)
  | a :: b :: r =>
    (match a, b with
     | some x, some y => some (roundFl .fp32 rm false (addFl rm (decodeFl .fp32 x) (decodeFl .fp32 y)))
     | some x, none => some x
     | none, y => y) :: faddLevel rm r
  | r => r

/-- The tree sum of R77 over 32 leaves. -/
def faddTree (rm : Nat) (leaves : List (Option Nat)) : Nat :=
  match (List.range 5).foldl (fun t _ => faddLevel rm t) leaves with
  | some v :: _ => roundFl .fp32 rm false (decodeFl .fp32 v)
  | _ => 0

/-- What VOTE.fadd states before its effect (R77, R132). -/
def voteFaddHead (f : FSDA) : Head :=
  { st := f.s, cons := consRound, fp := fun _ => { reads := [r1 f.a], writes := [r1 f.d], lat := 4 }
    dyn := fun x => x.anyEtype fun e => decide (9 ≤ e) }

/-- VOTE.fadd (R77, R132): the tree sum over the active lanes; ILLEGAL under the 16-bit and 8-bit float etypes. -/
def execVoteFadd (f : FSDA) (s : State) : Res :=
  issue s (voteFaddHead f) fun x =>
    let v := faddTree (modeRmode (x.mode (lowest x.act)))
      ((List.range 32).map fun l => if x.act.getLsbD l then some (x.reg l f.a.toNat).toNat else none)
    x.done x.s (x.write fun _ => wr1 f.d (BitVec.ofNat 32 v))

/-- FADD (R108): a + b. -/
def execFadd (f : FUSDAB) (s : State) : Res :=
  floatOp consFloat s f.u f.s f.d f.a (some f.b) false 4 fun m rm sat a b _ => roundFl m rm sat (addFl rm a b)

/-- FSUB (R108): a − b. -/
def execFsub (f : FUSDAB) (s : State) : Res :=
  floatOp consFloat s f.u f.s f.d f.a (some f.b) false 4 fun m rm sat a b _ => roundFl m rm sat (addFl rm a (negFl b))

/-- FMUL (R108): a × b. -/
def execFmul (f : FUSDAB) (s : State) : Res :=
  floatOp consFloat s f.u f.s f.d f.a (some f.b) false 4 fun m rm sat a b _ => roundFl m rm sat (mulFl a b)

/-- FMA (R108): a × b + d, rounded once. -/
def execFma (f : FUSDAB) (s : State) : Res :=
  floatOp consFloat s f.u f.s f.d f.a (some f.b) true 4 fun m rm sat a b d => roundFl m rm sat (addFl rm (mulFl a b) d)

/-- FMIN (R108). -/
def execFmin (f : FUSDAB) (s : State) : Res :=
  floatOp consEtype s f.u f.s f.d f.a (some f.b) false 4 fun m rm _ a b _ => roundFl m rm false (minFl a b)

/-- FMAX (R108). -/
def execFmax (f : FUSDAB) (s : State) : Res :=
  floatOp consEtype s f.u f.s f.d f.a (some f.b) false 4 fun m rm _ a b _ => roundFl m rm false (maxFl a b)

/-- FABS (R108). -/
def execFabs (f : FUSDA) (s : State) : Res :=
  floatOp consEtype s f.u f.s f.d f.a none false 4 fun m rm _ a _ _ => roundFl m rm false (absFl a)

/-- FNEG (R108). -/
def execFneg (f : FUSDA) (s : State) : Res :=
  floatOp consEtype s f.u f.s f.d f.a none false 4 fun m rm _ a _ _ => roundFl m rm false (negFl a)

/-- FRND (R108). -/
def execFrnd (f : FUSDA) (s : State) : Res :=
  floatOp consRound s f.u f.s f.d f.a none false 4 fun m rm _ a _ _ => roundFl m rm false (integralFl rm a)

/-- What FSCAL states before its effect (R108). -/
def fscalHead (f : FUSDAB) : Head :=
  { u := f.u, st := f.s, cons := consFloat
    fp := fun _ => { reads := [r1 f.a, r1 f.b], writes := [r1 f.d], lat := 4 }
    dyn := fun x => x.anyEtype etFp8 }

/-- FSCAL (R108): a × 2^n, n the signed 32-bit value of xb for every element. -/
def execFscal (f : FUSDAB) (s : State) : Res :=
  scalar s (fscalHead f) fun x l =>
    let m := x.mode l
    let g := etFmt (modeEtype m)
    wr1 f.d (ofElemsFl g fun j =>
      roundFl g (modeRmode m) (modeSat m)
        (scaleFl (decodeFl g (elemFl g (x.reg l f.a.toNat) j)) (x.reg l f.b.toNat).toInt))

/-- FRCP (R109): 1 ÷ a. -/
def execFrcp (f : FUSDA) (s : State) : Res :=
  floatOp consFloat s f.u f.s f.d f.a none false 8 fun m rm sat a _ _ => roundFl m rm sat (recipFl a)

/-- FRSQ (R109): 1 ÷ √a. -/
def execFrsq (f : FUSDA) (s : State) : Res :=
  floatOp consFloat s f.u f.s f.d f.a none false 8 fun m rm sat a _ _ => roundFl m rm sat (rsqrtFl a)

/-- FSQRT (R109): √a. -/
def execFsqrt (f : FUSDA) (s : State) : Res :=
  floatOp consFloat s f.u f.s f.d f.a none false 8 fun m rm sat a _ _ => roundFl m rm sat (sqrtFl a)

/-- FEXP2 (R109): 2^a. -/
def execFexp2 (f : FUSDA) (s : State) : Res :=
  floatOp consFloat s f.u f.s f.d f.a none false 8 fun m rm sat a _ _ => exp2Code m rm sat a

/-- FLOG2 (R109): log2 a. -/
def execFlog2 (f : FUSDA) (s : State) : Res :=
  floatOp consFloat s f.u f.s f.d f.a none false 8 fun m rm sat a _ _ => log2Code m rm sat a

/-- FTANH (R109): tanh a. -/
def execFtanh (f : FUSDA) (s : State) : Res :=
  floatOp consFloat s f.u f.s f.d f.a none false 8 fun m rm sat a _ _ => tanhCode m rm sat a

/-- FCMP.eq (R110). -/
def execFcmpEq (f : FUSDAB) (s : State) : Res :=
  floatCompare s f .eq

/-- FCMP.ne (R110). -/
def execFcmpNe (f : FUSDAB) (s : State) : Res :=
  floatCompare s f .ne

/-- FCMP.lt (R110). -/
def execFcmpLt (f : FUSDAB) (s : State) : Res :=
  floatCompare s f .lt

/-- FCMP.le (R110). -/
def execFcmpLe (f : FUSDAB) (s : State) : Res :=
  floatCompare s f .le

/-- FCMP.gt (R110). -/
def execFcmpGt (f : FUSDAB) (s : State) : Res :=
  floatCompare s f .gt

/-- FCMP.ge (R110). -/
def execFcmpGe (f : FUSDAB) (s : State) : Res :=
  floatCompare s f .ge

/-- FCMP.un (R110). -/
def execFcmpUn (f : FUSDAB) (s : State) : Res :=
  floatCompare s f .un

/-- What FCLASS states before its effect (R111). -/
def fclassHead (f : FUSDA) : Head :=
  { u := f.u, st := f.s, cons := consEtype
    fp := fun _ => { reads := [r1 f.a], writes := [r1 f.d], lat := 4 }
    dyn := fun x => x.anyEtype etFp8 }

/-- FCLASS (R111): a one-hot class code for each element. -/
def execFclass (f : FUSDA) (s : State) : Res :=
  scalar s (fclassHead f) fun x l =>
    let g := etFmt (modeEtype (x.mode l))
    wr1 f.d (ofElemsFl g fun j => 2 ^ classBit g (elemFl g (x.reg l f.a.toNat) j))

/-- What FDOT2 states before its effect (R78, R112). -/
def fdot2Head (f : FUSDAB) : Head :=
  { u := f.u, st := f.s, cons := consFloat
    fp := fun _ => { reads := [r1 f.a, r1 f.b, r1 f.d], writes := [r1 f.d], lat := 4 }
    dyn := fun x => x.anyEtype fun e => !(e == 9 || e == 10) }

/-- FDOT2 (R78, R112): a0 × b0 + a1 × b1 + d, exact, rounded once to FP32. -/
def execFdot2 (f : FUSDAB) (s : State) : Res :=
  scalar s (fdot2Head f) fun x l =>
    let m := x.mode l
    let g := etFmt (modeEtype m)
    let el := fun i j => decodeFl g (elemFl g (x.reg l i) j)
    let p := fun j => mulFl (el f.a.toNat j) (el f.b.toNat j)
    wr1 f.d (BitVec.ofNat 32
      (roundFl .fp32 (modeRmode m) (modeSat m) (sumFl [p 0, p 1, decodeFl .fp32 (x.reg l f.d.toNat).toNat])))

/-- FCVT.f32 (R113). -/
def execFcvtF32 (f : FUSDA) (s : State) : Res :=
  floatConvert s f .fp32

/-- FCVT.f16x2 (R113). -/
def execFcvtF16x2 (f : FUSDA) (s : State) : Res :=
  floatConvert s f .fp16

/-- FCVT.bf16x2 (R113). -/
def execFcvtBf16x2 (f : FUSDA) (s : State) : Res :=
  floatConvert s f .bf16

/-- FCVT.e4m3x4 (R113). -/
def execFcvtE4m3x4 (f : FUSDA) (s : State) : Res :=
  floatConvert s f .e4m3

/-- FCVT.e5m2x4 (R113). -/
def execFcvtE5m2x4 (f : FUSDA) (s : State) : Res :=
  floatConvert s f .e5m2

/-- ICVT.sf (R115). -/
def execIcvtSf (f : FUSDA) (s : State) : Res :=
  convertInt s f true

/-- ICVT.uf (R115). -/
def execIcvtUf (f : FUSDA) (s : State) : Res :=
  convertInt s f false

/-- ICVT.fs (R115). -/
def execIcvtFs (f : FUSDA) (s : State) : Res :=
  convertFloat s f true

/-- ICVT.fu (R115). -/
def execIcvtFu (f : FUSDA) (s : State) : Res :=
  convertFloat s f false

end Sys2Proof.Machine
end

