-- ==== Sys2Proof/Machine/Reduce.lean ====
section
/-! DEFINITION. Reductions at memory: REDF and REDS, the reorder buffers of the home slices, their refusals and time-outs
(R79 to R81, R191 to R197, R418). -/

namespace Sys2Proof.Machine

/-- The bytes one lane of a contribution updates: an element for a collective, else a word or a 64-bit element. -/
def redWidth (k : RedKind) (coll : Bool) : Nat :=
  match k with
  | .wrap _ e => elemBytes e
  | .sat e => elemBytes e
  | .float _ f => if coll then fmtWidth f / 8 else 4

/-- A float application at one element (R194). -/
def redFloat (op : AtomOp) (f : FFmt) (v c : Nat) : Nat :=
  let a := decodeFl f v
  let b := decodeFl f c
  match op with
  | .min => roundFl f 0 false (minFl a b)
  | .max => roundFl f 0 false (maxFl a b)
  | _ => roundFl f 0 false (addFl 0 a b)

/-- One application to the value at a location (R194); index 0 of a collective replaces it (R418), a NaN's bits as they are
(log entry 99). -/
def redApply (k : RedKind) (coll : Bool) (index v c : Nat) : Nat :=
  if coll && index == 0 then c
  else match k with
    | .wrap op e => atomicNew op e v c 0
    | .sat e =>
      let w := 8 * elemBytes e
      fitInt true (elemSigned e) w (readInt (elemSigned e) w v + readInt (elemSigned e) w c)
    | .float op f =>
      if coll then redFloat op f v c
      else
        let w := fmtWidth f
        (List.range (32 / w)).foldl (fun r j =>
          r + redFloat op f (v / 2 ^ (w * j) % 2 ^ w) (c / 2 ^ (w * j) % 2 ^ w) * 2 ^ (w * j)) 0

/-! ### The parameter block (R410 to R413) -/

/-- Bits of a parameter block. -/
def CollOp.field (c : CollOp) (hi lo : Nat) : Nat := bits (bytesNat c.pb) hi lo
/-- The operation. -/
def CollOp.op (c : CollOp) : Nat := c.field 7 0
/-- The element type. -/
def CollOp.dtype (c : CollOp) : Nat := c.field 15 8
/-- The reduction. -/
def CollOp.redop (c : CollOp) : Nat := c.field 23 16
/-- The algorithm. -/
def CollOp.alg (c : CollOp) : Nat := c.field 31 24
/-- P. -/
def CollOp.size (c : CollOp) : Nat := c.field 95 80
/-- This member's rank. -/
def CollOp.rank (c : CollOp) : Nat := c.field 79 64
/-- The root rank. -/
def CollOp.root (c : CollOp) : Nat := c.field 111 96
/-- n. -/
def CollOp.count (c : CollOp) : Nat := c.field 159 128
/-- The completion kind. -/
def CollOp.ckind (c : CollOp) : Nat := c.field 35 34
/-- The send buffer. -/
def CollOp.sendVa (c : CollOp) : Nat := c.field 319 256
/-- The target. -/
def CollOp.targetVa (c : CollOp) : Nat := c.field 383 320
/-- The element size (R411). -/
def CollOp.es (c : CollOp) : Nat := [4, 2, 2, 4, 4, 1].getD c.dtype 1
/-- The stream id. -/
def CollOp.stream (c : CollOp) : Nat := c.field 63 48
/-- The signature a ready notice carries (R416). -/
def CollOp.sig (c : CollOp) : List Nat :=
  [c.op, c.dtype, c.redop, c.alg, c.field 32 32, c.size, c.root, c.count, c.stream]
/-- The receive bytes of the member (R412). -/
def CollOp.recvBytes (c : CollOp) : Nat :=
  match c.op with
  | 2 => c.size * c.count * c.es
  | 4 => if c.rank = c.root then c.count * c.es else 0
  | _ => c.count * c.es
/-- The receive buffer's virtual address (R413). -/
def CollOp.recvVa (c : CollOp) : Dword := c.gtab.getD c.rank 0

/-- The receive-buffer offset of a physical address of a collective, if it lies in the buffer. -/
def CollOp.offsetOf (c : CollOp) (pa : Nat) : Option Nat :=
  let lo := c.recvVa.toNat % 4096
  c.frames.zipIdx.findSome? fun e =>
    let at_ := e.2 * 4096 + pa % 4096
    if e.1.1 = pa / 4096 ∧ lo ≤ at_ ∧ at_ < lo + c.recvBytes then some (at_ - lo) else none

/-! ### Applications (R193, R194, R418) -/

/-- What a collective's engine learns of bytes of its receive buffer at a home: granules that are now marked for it (R421), and bytes
that have become final (R422). -/
def State.collLearn (s : State) (stream pa n : Nat) (marked : List Nat) (final : Bool) : State :=
  { s with ops := tmap s.ops fun _ o => match o.body with
      | .coll c =>
        if c.started && c.stream == stream then
          match c.offsetOf pa with
          | some off => { o with body := .coll { c with
              finals := if final then c.finals ++ [(off, n)] else c.finals
              marked := marked.foldl (fun m g => sins g m) c.marked
              poisoned := c.poisoned || !marked.isEmpty } }
          | none => o
        else o
      | _ => o }

/-- One lane of a contribution applied at its home (R193, R194): a poisoned location stays poisoned (R180), and a
lane that is poison marks it (R421). A copy in the load cache of the core that issued it is dropped, so that the
slices of its block read the new value (R212, R217). -/
def State.redLane (s : State) (r : Contribution) (l : RedLane) : State :=
  let pa := r.line * 128 + l.off
  let n := redWidth l.kind r.coll
  if l.poison then
    let s := (s.mark pa n).bump pa 1
    if r.coll then s.collLearn r.stream pa n (granules pa n) false else s
  else if s.marked pa n then s
  else
    let loc : Loc := ⟨pa, r.key⟩
    let v := bytesNat (s.bytesAt loc n)
    let s := s.storeAt loc (natBytes (redApply l.kind r.coll r.index v (l.val.toNat % 2 ^ (8 * n))) n)
    if r.issuer.crew = 0 then s else s.lcacheDrop r.issuer.core pa n

/-- A contribution applied, lanes in order (R181, R193); the last of a collective's makes its locations final. -/
def State.redPerform (s : State) (r : Contribution) : State :=
  let s := r.lanes.foldl (fun s l => s.redLane r l) s
  if r.coll && r.last then
    r.lanes.foldl (fun s l =>
      let pa := r.line * 128 + l.off
      let n := redWidth l.kind true
      s.collLearn r.stream pa n [] true) s
  else s

/-- The entry of a stream and line. -/
def Home.entry (h : Home) (stream line : Nat) : Option RobEntry :=
  h.entries.find? fun e => e.stream == stream && e.line == line

/-- A home with the entry of a stream and line set, or taken out. -/
def Home.setEntry (h : Home) (stream line : Nat) (e : Option RobEntry) : Home :=
  { h with entries := (h.entries.filter fun x => !(x.stream == stream && x.line == line)) ++ e.toList }

/-- The entry's waiting contributions at its next index applied one after another (R193), with fuel for as many as wait. -/
def State.redDrain (s : State) (h : Nat) (e : RobEntry) : Nat → State
  | 0 => s.modHome h fun x => x.setEntry e.stream e.line (some e)
  | fuel + 1 =>
    match e.waiting.find? fun r => r.index == e.next with
    | some r =>
      let s := s.redPerform r
      let e := { e with next := e.next + 1, waiting := e.waiting.filter (· != r), since := s.ticks (h / 64) }
      if r.last then s.modHome h fun x => x.setEntry e.stream e.line none else s.redDrain h e fuel
    | none => s.modHome h fun x => x.setEntry e.stream e.line (some e)

/-- The time-out of an entry set (R196). -/
def State.redTimer (s : State) (h stream line : Nat) : State :=
  let hold := (s.home h).hold.toNat
  if hold = 0 then s else s.later ⟨s.ticks (h / 64) + hold, some (h / 64), .reorderTimeout h stream line⟩

/-- The time-outs of a home slice's entries set anew, when L2H_REDHOLD has been written (R196, R197). -/
def State.redRearm (s : State) (h : Nat) : State :=
  (s.home h).entries.foldl (fun (s : State) e =>
    if (s.home h).hold = 0 then s
    else s.later ⟨e.since + (s.home h).hold.toNat, some (h / 64), .reorderTimeout h e.stream e.line⟩) s

/-- A contribution refused (R195): it comes again after 256 clocks; `n` counts its refusals. -/
def State.redRefuse (s : State) (r : Contribution) (n : Nat) : State :=
  let id := s.nextId
  let s := s.modHome r.slice fun x => { x with refused := true }
  let s := { s with retries := tset s.retries id ⟨r, n + 1⟩, nextId := id + 1 }
  s.later ⟨s.clk + 256, none, .reductionRetry id⟩

/-- A contribution that arrives at its home (R193 to R195), after n refusals; after two it carries a reservation and is
accepted. -/
def State.redArrive (s : State) (r : Contribution) (n : Nat) : State :=
  let h := r.slice
  let x := s.home h
  let dup := s.modHome h fun x => { x with dups := min 0xFFFF (x.dups + 1) }
  if r.stream = 0 then s.redPerform r
  else match x.entry r.stream r.line with
    | some e =>
      if r.index < e.next ∨ (e.waiting.any fun w => w.index == r.index) then dup
      else if n < 2 ∧ e.next + 16 ≤ r.index then s.redRefuse r n
      else
        let s := s.redDrain h { e with waiting := e.waiting ++ [r] } (e.waiting.length + 1)
        s.redTimer h r.stream r.line
    | none =>
      if r.index = 0 ∧ r.last then s.redPerform r
      else if n < 2 ∧ (256 ≤ x.entries.length ∨ 16 ≤ r.index) then s.redRefuse r n
      else
        let s := s.redDrain h ⟨r.stream, r.line, 0, [r], s.ticks (h / 64)⟩ 1
        s.redTimer h r.stream r.line

/-- REDUCTION_CONTRIBUTION (R193): a contribution reaches its home slice. -/
def execReductionContribution (s : State) : Res :=
  match s.ev with
  | some (.reductionContribution r) => .next (s.redArrive r 0)
  | _ => .fault .noGang

/-- REDUCTION_RETRY (R195): a refused contribution comes again. -/
def execReductionRetry (s : State) : Res :=
  match s.ev with
  | some (.reductionRetry id) =>
    match tget s.retries id with
    | some q => .next ({ s with retries := tdel s.retries id }.redArrive q.c q.refusals)
    | none => .next s
  | _ => .fault .noGang

/-- REORDER_TIMEOUT (R196): the granules with waiting contributions are marked, the contributions discarded, the entry
freed, and lost and lostline set; an entry with none waiting is freed alone. -/
def State.redExpire (s : State) (h stream line : Nat) : State :=
  match (s.home h).entry stream line with
  | none => s
  | some e =>
    let hold := (s.home h).hold.toNat
    if hold = 0 then s
    else if s.ticks (h / 64) < e.since + hold then s.later ⟨e.since + hold, some (h / 64), .reorderTimeout h stream line⟩
    else
      let s := s.modHome h fun x => x.setEntry stream line none
      if e.waiting.isEmpty then s
      else
        let s := e.waiting.foldl (fun (s : State) r => r.lanes.foldl (fun (s : State) l =>
          let pa := line * 128 + l.off
          let n := redWidth l.kind r.coll
          let s := s.mark pa n
          if r.coll then s.collLearn stream (pa / 32 * 32) 32 (granules pa n) true else s) s) s
        s.modHome h fun x =>
          { x with lost := true, lostline := BitVec.ofNat 31 (s.dieAddr (line * 128) / 128) }

/-- REORDER_TIMEOUT (R196). -/
def execReorderTimeout (s : State) : Res :=
  match s.ev with
  | some (.reorderTimeout h stream line) => .next (s.redExpire h stream line)
  | _ => .fault .noGang

/-! ### REDF and REDS (R191 to R194) -/

/-- What a reduction stream instruction states before its effect (R191, R192). -/
def reduceStreamHead (f : FSDAC) (kind : Nat → RedKind) (bad : Nat → Bool) (needStream : Bool) : Head :=
  { st := f.s
    fp := fun m => { reads := [r4 f.a, match kind (modeEtype m) with | .float .. => r1 f.d | _ => atomGrp m f.d]
                     handles := [⟨f.a.toNat + 2, 1, 1⟩] }
    dyn := fun x => (x.actors.any fun j => bad (modeEtype (x.c.slice j).mode)) ||
      (needStream && (x.reg (lowest x.act) (f.a.toNat + 2)).extractLsb' 0 16 == 0) }

/-- A reduction stream instruction (R191, R192): `kind` gives each lane's reduction from its etype. -/
def reduceStream (s : State) (f : FSDAC) (kind : Nat → RedKind) (bad : Nat → Bool) (needStream : Bool) : Res :=
  issue s (reduceStreamHead f kind bad needStream) fun x =>
    let a := f.a.toNat
    let k := fun l => kind (modeEtype (x.mode l))
    let n := fun l => redWidth (k l) false
    let ea := fun l => x.reg64 l a
    let stream := ((x.reg (lowest x.act) (a + 2)).extractLsb' 0 16).toNat
    x.access (.atomic (f.c == 4)) true n (lanesOf x.act) ea fun ps =>
      if x.ticketed ps then x.stall
      else
        let part := fun (e : Nat × Loc) =>
          let w := x.reg e.1 (a + 3)
          ({ loc := e.2, slice := e.1 / 4, index := w.toNat % 2 ^ 31, last := w.getLsbD 31
             lane := ⟨k e.1, e.2.pa % 128, match k e.1 with
               | .float .. => (x.reg e.1 f.d.toNat).zeroExtend 64
               | _ => (x.atomArg e.1 false f.d).val, false⟩ } : RedPart)
        let s := x.tlbFills (.atomic (f.c == 4)) ps ea
        let own := (ps.filter fun e => !isPeer e.2.pa).map part
        let s := (gather x.issuer stream s.homeOf own).foldl
          (fun (s : State) c => { s with due := s.due ++ [.reductionContribution c] }) s
        x.doneIn (x.askReduce s stream ea ((ps.filter fun e => isPeer e.2.pa).map fun e => (e.1, part e)))

/-- The REDF reduction of an etype: FP16 and BF16 under theirs, else FP32 (R192). -/
def redfKind (op : AtomOp) (e : Nat) : RedKind := .float op (etFmt e)

/-- REDF.add (R192 to R194). -/
def execRedfAdd (f : FSDAC) (s : State) : Res := reduceStream s f (redfKind .add) etFp8 true
/-- REDF.min (R192 to R194). -/
def execRedfMin (f : FSDAC) (s : State) : Res := reduceStream s f (redfKind .min) etFp8 true
/-- REDF.max (R192 to R194). -/
def execRedfMax (f : FSDAC) (s : State) : Res := reduceStream s f (redfKind .max) etFp8 true
/-- REDS (R81, R192 to R194): i32, u32, i64 and u64 alone. -/
def execReds (f : FSDAC) (s : State) : Res :=
  reduceStream s f (fun e => .sat (etElem e)) (fun e => decide (4 ≤ e)) false

end Sys2Proof.Machine
end

