-- ==== Sys2Proof/Machine/Trace.lean ====
section
/-! DEFINITION. Trovy records and the TRACE instruction (R428, R429, R451 to R453). -/

namespace Sys2Proof.Machine

/-- The effective trace bit in force for a crew's block (R136, R138, R428). -/
def State.traced (s : State) (c : Crew) : Bool := ((tget s.blocks c.block).map fun b => b.effs.getD 9 0 == 1).getD false

/-- A record's 32 bytes (R452). -/
def State.trovy (s : State) (die part source kind : Nat) (payload : List Word) : List Byte :=
  natBytes (s.pkg.tai / 9000000) 8 ++ natBytes (s.pkg.tai % 9000000 * 65536 / 9000000) 2 ++ natBytes kind 1 ++
    natBytes (!s.pkg.synced).toNat 1 ++ natBytes source 2 ++ natBytes (s.devOf die + 1024 * part) 2 ++
    (payload.take 4).flatMap fun w => natBytes w.toNat 4

/-- A record written to a partition's ring (R452, R453): a full ring drops its oldest record first. -/
def State.record (s : State) (die part source kind : Nat) (payload : List Word) : State :=
  let p := s.part die part
  let k := p.trcK.toNat
  if !p.trcEn || k < 4 || 24 < k then s
  else
    let slot := memKey s.pkg.split die (32 * (p.trcBase + p.widx.toNat % 2 ^ k))
    let full := (p.widx - p.ridx).toNat == 2 ^ k
    let s := (s.unmark (slot / 32)).poke slot (s.trovy die part source kind payload)
    s.modPart die part fun p =>
      let p := if full then { p with ridx := p.ridx + 1, drop := BitVec.ofNat 32 (min 0xFFFFFFFF (p.drop.toNat + 1)) } else p
      { p with widx := p.widx + 1 }

/-- The source field of a crew's record, or of the collective engine for it. -/
def sourceOf (c : Crew) (engine : Bool) : Nat :=
  (if engine then 2 ^ 15 else 0) + 2 ^ 14 * dieOfCore c.core + 2 ^ 7 * (c.core % 128) + 2 * c.crewIx

/-- A record of a crew. -/
def State.crewRecord (s : State) (c : Crew) (engine : Bool) (kind : Nat) (payload : List Word) : State :=
  s.record (dieOfCore c.core) (s.partOf (s.ctxOf c)) (sourceOf c engine) kind payload

/-- What TRACE states before its effect (R429). -/
def traceHead (f : FSA) : Head :=
  { st := f.s, fp := fun _ => { handles := [r4 f.a] }
    dyn := fun x => (x.reg (lowest x.act) f.a.toNat).extractLsb' 16 16 != 0 }

/-- TRACE (R429). -/
def execTrace (f : FSA) (s : State) : Res :=
  issue s (traceHead f) fun x =>
    let g := (List.range 4).map fun i => x.reg (lowest x.act) (f.a.toNat + i)
    x.doneIn (if x.s.traced x.c then x.s.crewRecord x.c false 0x20 g else x.s)

end Sys2Proof.Machine
end

