-- ==== Sys2Proof/Machine/Collective.lean ====
section
/-! DEFINITION. The collective engine: parameter blocks, ready notices, steps and their data, completion, failure and
time-outs, COLL and COLLQ (R410 to R430). -/

namespace Sys2Proof.Machine

/-! ### The parameter block's checks (R410 to R413) -/

/-- The bytes of the send buffer that the member reads. -/
def CollOp.sendBytes (c : CollOp) : Nat :=
  match c.op with
  | 1 => c.size * c.count * c.es
  | 3 => if c.rank = c.root then c.count * c.es else 0
  | _ => c.count * c.es
/-- Bytes of a tile of ckind 10 (R413). -/
def CollOp.tileBytes (c : CollOp) : Nat := c.field 191 160 * c.es
/-- The number of tiles that have a counter. -/
def CollOp.tiles (c : CollOp) : Nat := if c.ckind = 2 then c.recvBytes / max 1 c.tileBytes else 0

/-- The reduction permitted by dtype and redop (R411). -/
def redPermitted (op dtype redop : Nat) : Bool :=
  if op = 2 ∨ op = 3 then redop == 0
  else decide (dtype < 5) && (decide (redop < 3) || (redop == 3 && decide (3 ≤ dtype)))

/-- The checks of a block's contents (R410, R411, R413). -/
def CollOp.pbOk (c : CollOp) : Bool :=
  c.field 1023 416 == 0 && c.field 127 112 == 0 && c.field 47 36 == 0 && decide (c.op ≤ 4) && decide (c.dtype ≤ 5) &&
    decide (c.alg ≤ 2) && redPermitted c.op c.dtype c.redop && c.ckind != 3 && decide (1 ≤ c.size) && decide (c.size ≤ 1024) &&
    decide (c.rank < c.size) && decide (c.root < c.size) && decide (1 ≤ c.count) && decide (c.count ≤ 2 ^ 28) &&
    c.stream != 0 && (c.field 32 32 == 0 || decide (c.dtype ≤ 1)) && c.recvBytes % 4 == 0 && c.field 255 192 % 16 == 0 &&
    (c.sendBytes == 0 || c.sendVa % 4 == 0) &&
    (match c.ckind with
     | 1 => c.targetVa % 64 == 0 && c.field 191 160 == 0
     | 2 => c.targetVa % 4 == 0 && c.field 191 160 != 0 && c.tileBytes % 128 == 0 && c.recvBytes % c.tileBytes == 0
     | _ => c.targetVa == 0 && c.field 191 160 == 0)

/-- The reduction a contribution applies at its home (R411, R412). -/
def CollOp.kind (c : CollOp) : RedKind :=
  let op : AtomOp := match c.redop with | 1 => .min | 2 => .max | _ => .add
  let e : IElem := if c.dtype = 3 then .i32 else .u32
  match c.dtype with
  | 0 => .float op .fp32
  | 1 => .float op .bf16
  | 2 => .float op .fp16
  | _ => if c.redop = 3 then .sat e else .wrap op e

/-! ### Parts and steps (R417) -/

/-- The algorithm a member works by: ops 1 and 2 under a tree expand as under a ring. -/
def CollOp.how (c : CollOp) : Nat := if c.alg = 1 ∧ (c.op = 1 ∨ c.op = 2) then 0 else c.alg

/-- A part: its first element in the send buffers, in the receive buffer that gets it, and its width. -/
def CollOp.part (c : CollOp) (q : Nat) : Nat × Nat × Nat :=
  let n := c.count
  match c.op with
  | 0 =>
    if c.how = 1 then (0, 0, n)
    else
      let w := (n + c.size - 1) / c.size
      let a := min (q * w) n
      (a, a, min w (n - a))
  | 1 => (q * n, 0, n)
  | 2 => (0, q * n, n)
  | _ => (0, 0, n)

/-- The owner of a part. -/
def CollOp.ownerOf (c : CollOp) (q : Nat) : Nat := if (c.op = 0 ∧ c.how = 1) ∨ c.op = 3 ∨ c.op = 4 then c.root else q

/-- One step: its phase, part, destination rank, and the ranks whose contributions a reduction step carries. -/
structure CStep where
  reduce : Bool
  part : Nat
  dst : Nat
  ranks : List Nat
  deriving DecidableEq, Repr

/-- The position of a rank in a chain or tree, and the rank at a position. -/
def CollOp.posOf (c : CollOp) (r : Nat) : Nat := (r + c.size - c.root) % c.size
/-- The rank at a position. -/
def CollOp.rankAt (c : CollOp) (i : Nat) : Nat := (c.root + i) % c.size

/-- Position i lies on the way from position j to the root of the tree. -/
def above (i : Nat) : Nat → Nat → Bool
  | 0, j => i == j
  | fuel + 1, j => i == j || (j != 0 && above i fuel ((j - 1) / 2))

/-- The ranks of a subtree of the tree. -/
def CollOp.subtree (c : CollOp) (i : Nat) : List Nat := ((List.range c.size).filter fun j => above i 11 j).map c.rankAt

/-- The steps of the reduction phase of a member (R417). -/
def CollOp.reduceSteps (c : CollOp) (r : Nat) : List CStep :=
  let P := c.size
  let i := c.posOf r
  if c.op = 0 ∨ c.op = 1 then
    match c.how with
    | 2 => (List.range P).map fun k => ⟨true, (r + k) % P, (r + k) % P, [r]⟩
    | 0 => ⟨true, r, r, [r]⟩ :: (List.range (P - 1)).map fun k =>
        ⟨true, (r + P - (k + 1)) % P, (r + 1) % P, (List.range (k + 1)).map fun x => (r + P - k + x) % P⟩
    | _ => [⟨true, 0, if i = 0 then r else c.rankAt ((i - 1) / 2), c.subtree i⟩]
  else if c.op = 4 then
    match c.how with
    | 2 => [⟨true, 0, c.root, [r]⟩]
    | 0 => [if i = 0 then ⟨true, 0, r, [r]⟩ else ⟨true, 0, c.rankAt (i - 1), (List.range (P - i)).map fun x => c.rankAt (i + x)⟩]
    | _ => [⟨true, 0, if i = 0 then r else c.rankAt ((i - 1) / 2), c.subtree i⟩]
  else []

/-- The steps of the distribution phase of a member (R417). -/
def CollOp.distSteps (c : CollOp) (r : Nat) : List CStep :=
  let P := c.size
  let i := c.posOf r
  let own := if c.op = 2 then [⟨false, r, r, []⟩] else if c.op = 3 ∧ r = c.root then [⟨false, 0, r, []⟩] else []
  let next : List CStep :=
    if c.op = 1 ∨ c.op = 4 then []
    else match c.how with
      | 2 =>
        if c.op = 3 ∧ r ≠ c.root then []
        else (List.range (P - 1)).map fun k => ⟨false, if c.op = 3 then 0 else r, (r + k + 1) % P, []⟩
      | 0 =>
        if c.op = 3 then (if i + 1 < P then [⟨false, 0, c.rankAt (i + 1), []⟩] else [])
        else (List.range (P - 1)).map fun k => ⟨false, (r + P - k) % P, (r + 1) % P, []⟩
      | _ => ([2 * i + 1, 2 * i + 2].filter (· < P)).map fun j => ⟨false, 0, c.rankAt j, []⟩
  own ++ next

/-- Every step of a member, in the order of their numbers. -/
def CollOp.stepsOf (c : CollOp) (r : Nat) : List CStep := c.reduceSteps r ++ c.distSteps r

/-- This member's steps. -/
def CollOp.steps (c : CollOp) : List CStep := c.stepsOf c.rank

/-- The oldest step that is not complete (R430). -/
def CollOp.oldest (c : CollOp) : Nat := ((List.range c.steps.length).find? fun k => !c.done.contains k).getD c.steps.length

/-- The ranks that send data to this member. -/
def CollOp.senders (c : CollOp) : List Nat :=
  (List.range c.size).filter fun q => q != c.rank && (c.stepsOf q).any fun t => t.dst == c.rank

/-- The chunks of a body of w elements: first element and length (R417). -/
def chunksOf (w : Nat) : List (Nat × Nat) :=
  (List.range ((w + 4095) / 4096)).map fun i => (4096 * i, min 4096 (w - 4096 * i))

/-! ### Finality (R422) -/

/-- The bytes from lo up to hi are among the final ones, with fuel for the intervals. -/
def covered (fs : List (Nat × Nat)) : Nat → Nat → Nat → Bool
  | 0, lo, hi => decide (hi ≤ lo)
  | fuel + 1, lo, hi =>
    if hi ≤ lo then true
    else match fs.find? fun f => decide (f.1 ≤ lo) && decide (lo < f.1 + f.2) with
      | some f => covered fs fuel (f.1 + f.2) hi
      | none => false

/-- A range of the receive buffer is final. -/
def CollOp.isFinal (c : CollOp) (lo hi : Nat) : Bool := covered c.finals (c.finals.length + 1) lo hi

/-- The whole receive buffer is final. -/
def CollOp.allFinal (c : CollOp) : Bool := c.isFinal 0 c.recvBytes

/-- The place of a byte of the receive buffer. -/
def CollOp.placeAt (c : CollOp) (off : Nat) : Loc :=
  let va := c.recvVa.toNat
  let p := c.frames.getD ((va % 4096 + off) / 4096) (0, 0)
  ⟨4096 * p.1 + (va + off) % 4096, p.2⟩

/-- The granules of the receive buffer that are not wholly final, by offset. -/
def CollOp.open_ (c : CollOp) : List Nat :=
  (List.range ((c.recvBytes + 31) / 32)).filter fun i => !c.isFinal (32 * i) (min (32 * i + 32) c.recvBytes)

/-! ### State of a collective -/

/-- The collective an operation holds. -/
def Op.coll? (o : Op) : Option CollOp := match o.body with | .coll c => some c | _ => none

/-- A collective's progress put back. -/
def State.putColl (s : State) (id : Nat) (c : CollOp) : State := s.modOp id fun o => { o with body := .coll c }

/-- A collective's trace record, when its trace bit and its crew's are set (R428). -/
def State.collTrace (s : State) (o : Op) (c : CollOp) (kind : Nat) (payload : List Word) : State :=
  match tget s.crews o.crew with
  | some w => if c.field 33 33 = 1 ∧ s.traced w then s.crewRecord w true kind (BitVec.ofNat 32 (c.field 415 384) :: payload) else s
  | none => s

/-- Granules of the receive buffer, by offset, marked and counted final (R420 to R422), with a bump for each line that the collective
writes for the first time (R393). -/
def State.markGranules (s : State) (c : CollOp) (os : List Nat) : State × CollOp :=
  let r := os.foldl (fun (r : State × List Nat) i => (r.1.mark (c.placeAt (32 * i)).pa 32).noteLines r.2 (c.placeAt (32 * i)).pa 32) (s, c.lines)
  (r.1, { c with
    lines := r.2
    finals := c.finals ++ os.map fun i => (32 * i, 32)
    marked := os.foldl (fun m i => sins ((c.placeAt (32 * i)).pa / 32) m) c.marked
    poisoned := c.poisoned || !os.isEmpty })

/-- The granules not final marked and counted final (R420, R422). -/
def State.markOpen (s : State) (id : Nat) (c : CollOp) : State :=
  let r := s.markGranules c c.open_
  r.1.putColl id r.2

/-- One entry in the issuing crew's engine fault record (R420, R422). -/
def State.collFault (s : State) (o : Op) (cause : Cause) (step : Nat) (va : Dword) : State :=
  s.modCrew o.crew fun x => x.addEfr ⟨cause.code, o.token.getD 0, false, step, va⟩

/-- A collective that fails (R420): it makes no further step, marks what is not final, and completes poisoned. -/
def State.failColl (s : State) (id : Nat) (o : Op) (c : CollOp) (cause : Cause) (step : Nat) : State :=
  ((s.collFault o cause step c.blockVa).markOpen id { c with failed := true, poisoned := true, stopped := true }).push
    (.collComplete id)

/-! ### The start (R415, R416) -/

/-- The pages of a range that the collective uses, local ones alone (R455); none for a cause stands for a mark that a walk
consumed. -/
def State.collPages (s : State) (o : Op) (k : AccKind) (va n : Nat) : Except (Option Cause) (List (Nat × Nat)) :=
  if n = 0 then .ok []
  else (List.range ((va % 4096 + n + 4095) / 4096)).mapM fun i =>
    let lo := if i = 0 then va else va / 4096 * 4096 + 4096 * i
    match s.reach o k i (min (va + n) (va / 4096 * 4096 + 4096 * (i + 1)) - lo) (BitVec.ofNat 64 lo) with
    | .here l => if isLocal l.pa then .ok (l.pa / 4096, l.key) else .error (some .protect)
    | .peer _ => .error (some .protect)
    | .bad c => .error (some c)
    | .mark => .error none

/-- Bytes read through pages, with whether each lies in a marked granule. -/
def State.pageBytes (s : State) (ps : List (Nat × Nat)) (va n : Nat) : List (Byte × Bool) :=
  (List.range n).map fun i =>
    let p := ps.getD ((va % 4096 + i) / 4096) (0, 0)
    let pa := 4096 * p.1 + (va + i) % 4096
    ((s.bytesAt ⟨pa, p.2⟩ 1).headD 0, s.marked pa 1)

/-- Bytes of a descriptor of a collective; a mark is DATAERR. -/
def State.collRead (s : State) (o : Op) (va n : Nat) : Except (Option Cause) (List Byte) := do
  let ps ← s.collPages o .read va n
  let bs := s.pageBytes ps va n
  if bs.any (·.2) then .error (some .dataerr) else pure (bs.map (·.1))

/-- Another started collective of the context on the die has the stream (R415). -/
def State.streamTaken (s : State) (id : Nat) (o : Op) (c : CollOp) : Bool :=
  let ctx := fun (o : Op) => (tget s.blocks o.block).map (·.ctx)
  s.ops.any fun e => e.1 != id && (match e.2.coll? with
    | some x => x.started && x.die == c.die && x.stream == c.stream && ctx e.2 == ctx o
    | none => false)

/-- The block read and checked, with everything it names (R415). -/
def State.collPrepare (s : State) (id : Nat) (o : Op) (c : CollOp) : Except (Option Cause) CollOp := do
  let pb ← s.collRead o c.blockVa.toNat 128
  let c := { c with pb := pb }
  if !c.pbOk then .error (some .illegal)
  else
    let gt ← s.collRead o (c.field 255 192) (16 * c.size)
    let entry := fun (q : Nat) => BitVec.ofNat 64 (bytesNat ((gt.drop (16 * q)).take 8))
    let c := { c with gtab := (List.range c.size).map entry }
    if (List.range c.size).any fun q => (entry q).toNat % 128 != 0 || bytesNat ((gt.drop (16 * q + 8)).take 8) != 0 then
      .error (some .illegal)
    else
      let _ ← s.collPages o .read c.sendVa c.sendBytes
      let fr ← s.collPages o .write c.recvVa.toNat c.recvBytes
      let _ ← (if (s.placeFor o.core c.recvVa).any fun pa => !isLocal pa then .error (some .protect) else .ok () : Except (Option Cause) Unit)
      let _ ← match c.ckind with
        | 1 => s.collPages o .write c.targetVa 64
        | 2 => s.collPages o .write c.targetVa (4 * c.tiles)
        | _ => pure []
      if s.streamTaken id o c then .error (some .illegal) else pure { c with frames := fr }

/-- Where a place in the receive buffer of a rank is. -/
inductive RankPlace where
  | peer (dev pa : Nat)
  | here (pa : Nat)
  | bad (c : Cause)
  deriving DecidableEq, Repr

/-- Where a byte of a rank's receive buffer is, as the member reaches it; a cause when it cannot. -/
def State.rankPlace (s : State) (o : Op) (c : CollOp) (q off n : Nat) : RankPlace :=
  match s.reach o .write (off / 4096) n (c.gtab.getD q 0 + BitVec.ofNat 64 off) with
  | .peer l => .peer (peerDev l.pa) l.pa
  | .here l => .here l.pa
  | .bad e => .bad e
  | .mark => .bad .dataerr

/-- The memory key of a receive buffer that a notice or a chunk names: the frame of the export entry for one that came from a peer
(R371). -/
def State.bufKey (s : State) (die buf : Nat) : Option Nat :=
  if isPeer buf then
    (s.exportEntry die (bits buf 40 37) (bits buf 36 12) 0).map fun e => memKey s.pkg.split die (bits e.1 51 12 * 4096 + buf % 4096)
  else some buf

/-- The memory key of a member's own receive buffer. -/
def State.ownBuf (s : State) (o : Op) (c : CollOp) : Option Nat :=
  if c.frames.isEmpty then s.placeFor o.core c.recvVa else some (c.placeAt 0).pa

/-- A collective is the member that a notice or a chunk is for: its stream and its rank, and its receive buffer, which tells it from one
of the same stream on another die or in another context (R415, R416). -/
def State.isMember (s : State) (o : Op) (c : CollOp) (die stream rank buf : Nat) : Bool :=
  c.started && c.stream == stream && c.rank == rank && (s.ownBuf o c).isSome && s.ownBuf o c == s.bufKey die buf

/-- The started member here that a notice or a chunk is for. -/
def State.memberOf (s : State) (die stream rank buf : Nat) : Option (Nat × Op × CollOp) :=
  s.ops.findSome? fun e => e.2.coll?.bind fun c => if s.isMember e.2 c die stream rank buf then some (e.1, e.2, c) else none

/-- A ready notice handed on: to a peer's engine, or to the one here on whose die the member is. -/
def State.sendReady (s : State) (o : Op) (c : CollOp) (q : Nat) : State :=
  let r := fun (die buf : Nat) => (⟨die, c.stream, q, buf, c.rank, c.sig, s.ticks c.die⟩ : Ready)
  match s.rankPlace o c q 0 1 with
  | .peer dev pa => s.emit (.ready dev (r c.die pa))
  | .bad _ => s
  | .here pa => s.push (.collectiveReady (r (((s.memberOf c.die c.stream q pa).map fun m => m.2.2.die).getD c.die) pa))

/-- A notice taken by a started collective (R416): a signature that differs fails it. -/
def State.takeReady (s : State) (id : Nat) (o : Op) (c : CollOp) (r : Ready) : State :=
  if r.sig = c.sig then s.putColl id { c with ready := sins r.rank c.ready }
  else s.failColl id o c .illegal 0xFFFF

/-- Notices that were held for a collective that has now started. -/
def State.takeHeld (s : State) (id : Nat) (o : Op) (c : CollOp) : State :=
  let mine := fun (r : Ready) => s.isMember o c r.die r.stream r.dst r.buf
  let held := s.dies.flatMap fun e => e.2.notices.filter mine
  let s := { s with dies := tmap s.dies fun _ d => { d with notices := d.notices.filter fun r => !mine r } }
  held.foldl (fun (s : State) r =>
    match tget s.ops id with
    | some o => (match o.coll? with | some c => if c.failed then s else s.takeReady id o c r | none => s)
    | none => s) s

/-- The time-outs of a collective set that are still ahead: of its last data and of its last progress (R422). -/
def State.collTimer (s : State) (id : Nat) (c : CollOp) : State :=
  let rto := (s.die c.die).rto.toNat
  if rto = 0 then s
  else ([c.lastData, c.lastMove].dedup.filter fun t => decide (s.ticks c.die < t + rto)).foldl (fun (s : State) t =>
    s.later ⟨t + rto, some c.die, .collTimeout id⟩) s

/-- A slice that issued the COLL has earlier accesses that have not been performed (R416). -/
def State.collOwes (s : State) (o : Op) : Bool := s.owed o.crew o.slices o.born true || s.owedKnown o.crew o.slices

/-- A collective that fails at its start (R420): what of its receive buffer its own page tables give a place is marked, as far as the
parameter block and the group table could be read. -/
def State.failStart (s : State) (id : Nat) (o : Op) (c : CollOp) (e : Cause) : State :=
  let c := match s.collRead o c.blockVa.toNat 128 with
    | .ok pb => { c with pb := pb }
    | .error _ => c
  let entry := s.collRead o (c.field 255 192 + 16 * c.rank) 8
  let s := s.collFault o e 0xFFFF c.blockVa
  let end_ := fun (s : State) (c : CollOp) =>
    (s.putColl id { c with failed := true, poisoned := true, stopped := true }).push (.collComplete id)
  match entry with
  | .ok g =>
    let va := BitVec.ofNat 64 (bytesNat g)
    let r := Marking.range ⟨s, [], []⟩ o.core va c.recvBytes
    end_ r.s { c with
      gtab := List.replicate c.rank 0 ++ [va], lines := r.lines, marked := r.s.marks.filter fun g => !s.marks.contains g }
  | .error _ => end_ s c

/-- A collective begins (R415, R416, R420). -/
def State.beginColl (s : State) (id : Nat) (o : Op) (c : CollOp) : State :=
  let c := { c with started := true, lastData := s.ticks c.die, lastMove := s.ticks c.die }
  match s.collPrepare id o c with
  | .error none =>
    ((s.contain 10 (some o.block) ((tget s.blocks o.block).map (·.ctx))).putColl id
      { c with failed := true, poisoned := true, stopped := true }).push (.collComplete id)
  | .error (some e) => s.failStart id o c e
  | .ok c =>
    if o.poisonedPre then
      (s.markOpen id { c with failed := true, poisoned := true, stopped := true }).push (.collComplete id)
    else
      let s := (s.putColl id c).collTimer id c
      let s := s.collTrace o c 0x10 [BitVec.ofNat 32 (c.rank + 2 ^ 16 * c.size),
        BitVec.ofNat 32 (c.op + 2 ^ 8 * c.dtype + 2 ^ 16 * c.redop + 2 ^ 24 * c.alg), BitVec.ofNat 32 c.stream]
      let s := c.senders.foldl (fun (s : State) q => s.sendReady o c q) s
      s.takeHeld id o c

/-- A collective of the die that comes before it in start order has not started (R232). -/
def State.collBehind (s : State) (id : Nat) (o : Op) : Bool :=
  s.startBehind id o fun q => dieOfCore q.core == dieOfCore o.core && q.coll?.any fun c => !c.started

/-- A collective can start: its preconditions have completed, those before it have started (R232), and every earlier access of the
issuing slices has been performed (R416). -/
def State.collReady (s : State) (id : Nat) (o : Op) (c : CollOp) : Bool :=
  !c.started && o.mayStart s.clk && !s.collBehind id o && !s.collOwes o

/-- COLL_START (R415, R416). -/
def execCollStart (s : State) : Res :=
  match s.ev with
  | some (.collStart id) =>
    match tget s.ops id with
    | some o =>
      match o.coll? with
      | some c => if s.collReady id o c then .next (s.beginColl id o c) else .next s
      | none => .next s
    | none => .next s
  | _ => .fault .noGang

/-- COLLECTIVE_READY (R416): a notice for a started member is taken, else held in a table of 256; when that is full it is
refused and comes again after 4,096 clocks, until FAB_RTO ends it. -/
def execCollectiveReady (s : State) : Res :=
  match s.ev with
  | some (.collectiveReady r) =>
    match s.memberOf r.die r.stream r.dst r.buf with
    | some (id, o, c) => if c.failed then .next s else .next (s.takeReady id o c r)
    | none =>
      if (s.die r.die).notices.length < 256 then .next (s.modDie r.die fun d => { d with notices := d.notices ++ [r] })
      else if (s.die r.die).rto.toNat ≠ 0 ∧ r.since + (s.die r.die).rto.toNat ≤ s.ticks r.die then .next s
      else .next (s.later ⟨s.clk + 4096, none, .collectiveReady r⟩)
  | _ => .fault .noGang

/-! ### Data (R417, R418, R421) -/

/-- The lanes that staged bodies of one rank give in a line of an owned part; none until they hold all its elements there. -/
def CollOp.lineLanes (c : CollOp) (part ln : Nat) (bodies : List Staged) : Option (List RedLane) :=
  let p := c.part part
  let mine := (List.range (128 / c.es)).filterMap fun i =>
    let e := 128 / c.es * ln + i
    if p.2.1 ≤ e ∧ e < p.2.1 + p.2.2 then some (e - p.2.1, c.es * i) else none
  let lanes := mine.filterMap fun e =>
    (bodies.find? fun x => decide (x.first ≤ e.1) && decide (e.1 < x.first + x.m)).map fun x =>
      (⟨c.kind, e.2, BitVec.ofNat 64 (bytesNat ((x.bytes.drop ((e.1 - x.first) * c.es)).take c.es)), x.poison⟩ : RedLane)
  if lanes.length = mine.length then some lanes else none

/-- The lines of the receive buffer that a body of an owned part meets. -/
def CollOp.linesOf (c : CollOp) (x : Staged) : List Nat :=
  let off0 := ((c.part x.part).2.1 + x.first) * c.es
  (List.range ((off0 + x.m * c.es + 127) / 128 - off0 / 128)).map (off0 / 128 + ·)

/-- A body of an owned part applied at its homes as contributions (R193, R418), one for each line and rank: what of a line lies
in the chunk before or after it waits, staged, for that chunk. -/
def State.collApply (s : State) (id : Nat) (o : Op) (c : CollOp) (x : Staged) : State :=
  let bodies := (c.staged.filter fun y => y.part == x.part && y.rank == x.rank) ++ [x]
  let whole := fun (ln : Nat) => c.lineLanes x.part ln bodies
  let rs := (c.linesOf x).filterMap fun ln =>
    let l := c.placeAt (128 * ln)
    (whole ln).map fun lanes =>
      ({ slice := s.homeOf l.pa, line := l.pa / 128, stream := c.stream, index := x.rank, last := x.rank + 1 == c.size
         coll := true, key := l.key, issuer := { s.opIssuer o with slices := [] }, lanes := lanes } : Contribution)
  let kept := bodies.filter fun y => (c.linesOf y).any fun ln => (whole ln).isNone
  let s := { s with due := s.due ++ rs.map Event.reductionContribution }
  s.putColl id { c with staged := (c.staged.filter fun y => !(y.part == x.part && y.rank == x.rank)) ++ kept }

/-- Final values of a body written to the receive buffer (R418), granule by granule; poison marks (R421). The issuing core's copies of
what is written are dropped first, so that its block's accesses read the new values (R213, R217, R222). -/
def State.collWrite (s : State) (id : Nat) (o : Op) (c : CollOp) (x : Staged) : State :=
  let off0 := ((c.part x.part).2.1 + x.first) * c.es
  let n := x.m * c.es
  let gs := if n = 0 then [] else (List.range ((off0 + n + 31) / 32 - off0 / 32)).map (off0 / 32 + ·)
  let r := gs.foldl (fun (r : State × List Nat × List Nat) g =>
    let lo := max off0 (32 * g)
    let hi := min (off0 + n) (32 * g + 32)
    let l := c.placeAt lo
    let s := r.1.lcacheDrop o.core l.pa (hi - lo)
    let q := if x.poison then (s.mark l.pa (hi - lo), true)
      else s.enginePut l ((x.bytes.drop (lo - off0)).take (hi - lo)) (decide (32 * g + 32 ≤ c.recvBytes)) false
    let w := if q.2 then q.1.noteLines r.2.2 l.pa (hi - lo) else (q.1, r.2.2)
    (w.1, if x.poison || !q.2 then sins (l.pa / 32) r.2.1 else r.2.1, w.2)) (s, c.marked, c.lines)
  r.1.putColl id { c with
    finals := c.finals ++ [(off0, n)], marked := r.2.1, lines := r.2.2
    poisoned := c.poisoned || x.poison || decide (c.marked.length < r.2.1.length) }

/-- Elements that staged bodies of one rank give; poison where one lacks or is poison. -/
def CollOp.stagedData (c : CollOp) (part rank first m : Nat) : List Byte × Bool :=
  let es := (List.range m).map fun i =>
    let e := first + i
    match c.staged.find? fun x => x.part == part && x.rank == rank && decide (x.first ≤ e) && decide (e < x.first + x.m) with
    | some x => ((x.bytes.drop ((e - x.first) * c.es)).take c.es, x.poison)
    | none => (List.replicate c.es 0, true)
  (es.flatMap (·.1), es.any (·.2))

/-- Elements of a body as a step reads them: the member's own, from the send buffer; a contribution received, from the staging
buffers; a part received or final, from the receive buffer. A cause when the source cannot be read (R419). -/
def State.collData (s : State) (o : Op) (c : CollOp) (t : CStep) (rank first m : Nat) :
    Except (Option Cause) (List Byte × Bool) :=
  let p := c.part t.part
  let own := if t.reduce then rank == c.rank else (c.op == 2 && t.part == c.rank) || (c.op == 3 && c.rank == c.root)
  if t.reduce && !own then .ok (c.stagedData t.part rank first m)
  else do
    let va := if own then c.sendVa + (p.1 + first) * c.es else c.recvVa.toNat + (p.2.1 + first) * c.es
    let ps ← s.collPages o .read va (m * c.es)
    let bs := s.pageBytes ps va (m * c.es)
    pure (bs.map (·.1), bs.any (·.2))

/-- Everything a step sends is here: received bundles are whole, and parts to forward are final (R417). -/
def CollOp.hasData (c : CollOp) (t : CStep) : Bool :=
  let p := c.part t.part
  if t.reduce then
    t.ranks.all fun q => q == c.rank ||
      ((c.staged.filter fun x => x.part == t.part && x.rank == q).map (·.m)).sum == p.2.2
  else if (c.op == 2 && t.part == c.rank) || (c.op == 3 && c.rank == c.root) then true
  else c.isFinal (p.2.1 * c.es) ((p.2.1 + p.2.2) * c.es)

/-- The next step that can be sent (R416, R417). -/
def CollOp.nextStep (c : CollOp) : Option (Nat × CStep) :=
  if c.stopped then none
  else (c.steps.zipIdx.find? fun e => !c.done.contains e.2 && (tget c.flying e.2).isNone &&
    (e.1.dst == c.rank || c.ready.contains e.1.dst) && c.hasData e.1).map fun e => (e.2, e.1)

/-- The next tile whose counter is due (R422). -/
def CollOp.nextTile (c : CollOp) : Option Nat :=
  if c.failed then none
  else (List.range c.tiles).find? fun i => !c.counted.contains i && c.isFinal (i * c.tileBytes) ((i + 1) * c.tileBytes)

/-- A step accepted at its destination (R422), with its end record. -/
def State.collAccept (s : State) (id : Nat) (o : Op) (c : CollOp) (k : Nat) (stat : List Nat) : State :=
  let s := s.collTrace o c 0x12 [BitVec.ofNat 32 k, BitVec.ofNat 32 (stat.getD 0 0 % 2 ^ 16 + 2 ^ 16 * stat.getD 1 0),
    BitVec.ofNat 32 (stat.getD 2 0)]
  let c := { c with done := c.done ++ [k], flying := tdel c.flying k, lastMove := s.ticks c.die }
  (s.putColl id c).collTimer id c

/-- The elements of a run of a body that holds w of each of some ranks, one after another: of each rank that it meets, the first and the
number. -/
def bodyParts (w : Nat) (ranks : List Nat) (first m : Nat) : List (Nat × Nat × Nat) :=
  ranks.zipIdx.filterMap fun e =>
    let lo := max first (e.2 * w)
    let hi := min (first + m) (e.2 * w + w)
    if lo < hi then some (e.1, lo - e.2 * w, hi - lo) else none

/-- The ranks whose elements a step's body holds. -/
def CollOp.bodyRanks (c : CollOp) (t : CStep) : List Nat := if t.reduce then t.ranks else [c.rank]

/-- The elements of the chunk of a body at an element: 4,096, but for the last (R417, R427). -/
def chunkLen (body first : Nat) : Nat := if first % 4096 = 0 then min 4096 (body - first) else 0

/-- The chunks of a step as they go on the wire: first element of the body, elements, data, poison (R417, R421). -/
def State.collBodies (s : State) (o : Op) (c : CollOp) (t : CStep) :
    Except (Option Cause) (List (Nat × Nat × List Byte × Bool)) :=
  let w := (c.part t.part).2.2
  let ranks := c.bodyRanks t
  (chunksOf (w * ranks.length)).mapM fun e => do
    let ds ← (bodyParts w ranks e.1 e.2).mapM fun p => s.collData o c t p.1 p.2.1 p.2.2
    pure (e.1, e.2, ds.flatMap (·.1), ds.any (·.2))

/-- Elements taken over by their destination (R417, R418): those of distribution are written; contributions are applied, or staged for
forwarding or, at the root of a tree, until every child's bundle has come. -/
def State.collTake (s : State) (id : Nat) (reduce apply : Bool) (x : Staged) : State :=
  match tget s.ops id with
  | some o =>
    match o.coll? with
    | some c =>
      if !reduce then (if c.failed then s else s.collWrite id o c x)
      else if apply then s.collApply id o c x
      else s.putColl id { c with staged := c.staged ++ [x] }
    | none => s
  | none => s

/-- Elements `sub` to `sub + len` of a chunk taken over, rank by rank. -/
def State.collParts (s : State) (id : Nat) (c : CollOp) (reduce apply : Bool) (part : Nat) (ranks : List Nat) (first sub len : Nat)
    (data : List Byte) (poison : Bool) : State :=
  (bodyParts (c.part part).2.2 ranks (first + sub) len).foldl (fun (r : State × Nat) p =>
    (r.1.collTake id reduce apply ⟨part, p.1, p.2.1, p.2.2, if poison then [] else (data.drop (r.2 * c.es)).take (p.2.2 * c.es), poison⟩,
      r.2 + p.2.2)) (s, sub) |>.1

/-- A step's elements land in the receive buffer of its destination, and not in staging buffers. -/
def CollOp.lands (c : CollOp) (t : CStep) : Bool := !t.reduce || (c.ownerOf t.part == t.dst && c.how != 1)

/-- The writes that a chunk takes (R419): for each of its parts and each page of the destination's receive buffer that it meets, the
first of the chunk's elements, their number, and the byte of the receive buffer. What is staged takes one. -/
def CollOp.writesOf (c : CollOp) (t : CStep) (first m : Nat) : List (Nat × Nat × Nat) :=
  if !c.lands t then [(0, m, 0)]
  else
    let base := (c.gtab.getD t.dst 0).toNat % 4096
    let p := c.part t.part
    ((bodyParts p.2.2 (c.bodyRanks t) first m).foldl (fun (r : List (Nat × Nat × Nat) × Nat) e =>
      let lo := (p.2.1 + e.2.1) * c.es
      let hi := lo + e.2.2 * c.es
      let pages := (List.range ((base + hi + 4095) / 4096 - (base + lo) / 4096)).map ((base + lo) / 4096 + ·)
      (r.1 ++ pages.map (fun g =>
        let a := max lo (4096 * g - base)
        let z := min hi (4096 * g + 4096 - base)
        (r.2 + (a - lo) / c.es, (z - a) / c.es, a)), r.2 + e.2.2)) ([], 0)).1

/-- One step performed (R417, R418, R421): applied or written here when it is the member's own, else sent chunk by chunk, each
page of the destination by a write of its own. -/
def State.collSend (s : State) (id : Nat) (o : Op) (c : CollOp) (k : Nat) (t : CStep) : State :=
  match s.collBodies o c t with
  | .error e => s.failColl id o c (e.getD .dataerr) k
  | .ok bs =>
    let body := (bs.map fun b => b.2.1 * c.es).sum
    let s := s.collTrace o c 0x11 [BitVec.ofNat 32 k, BitVec.ofNat 32 (t.dst + 2 ^ 16 * (if t.reduce then 1 else 2)), BitVec.ofNat 32 body]
    let c := { c with poisoned := c.poisoned || (t.dst != c.rank && bs.any (·.2.2.2)) }
    if t.dst = c.rank then
      let s := bs.foldl (fun (s : State) b => s.collParts id c t.reduce true t.part (c.bodyRanks t) b.1 0 b.2.1 b.2.2.1 b.2.2.2) (s.putColl id c)
      match (tget s.ops id).bind Op.coll? with
      | some c => s.collAccept id o c k [0, 0, 0]
      | none => s
    else
      let wires := bs.map fun b => (b, if b.2.2.2 then poisonChunk b.2.1 else encodeChunk (c.field 32 32 == 1) c.es b.2.1 b.2.2.1)
      let raw := (wires.filter fun e => !e.1.2.2.2 && bit (e.2.headD 0).toNat 7).length
      let coded := (wires.filter fun e => !e.1.2.2.2 && !bit (e.2.headD 0).toNat 7).length
      let stat := [coded, raw, (wires.map fun e => e.2.length).sum]
      let writes := wires.flatMap fun e => (c.writesOf t e.1.1 e.1.2.1).map fun w =>
        ((⟨c.die, c.stream, t.dst, 0, t.reduce, t.part, c.bodyRanks t, e.1.1, w.1, w.2.1, e.2⟩ : CollChunk), w.2.2)
      let places := writes.map fun w => s.rankPlace o c t.dst w.2 (max 1 (w.1.len * c.es))
      let buf := match s.rankPlace o c t.dst 0 1 with | .peer _ pa => pa | .here pa => pa | .bad _ => 0
      match places.findSome? fun p => match p with | .bad e => some e | _ => none with
      | some e => s.failColl id o c e k
      | none =>
        let s := s.putColl id { c with flying := tset c.flying k (writes.length, stat) }
        let s := (writes.zip places).foldl (fun (s : State) e =>
          let w := { e.1.1 with buf := buf }
          match e.2 with
          | .peer _ pa => s.opAsk o (.coll id k) (c.gtab.getD t.dst 0 + BitVec.ofNat 64 e.1.2) pa (w.len * c.es) (.chunk w)
          | _ =>
            let d := ((s.memberOf c.die c.stream t.dst buf).map fun m => m.2.2.die).getD c.die
            { s with due := s.due ++ [.collChunkReceive { w with die := d }] }) s
        let away := (places.filter fun p => match p with | .peer .. => true | _ => false).length
        match (tget s.ops id).bind Op.coll? with
        | some c =>
          if away = 0 then s.collAccept id o c k stat
          else s.putColl id { c with flying := tset c.flying k (away, stat) }
        | none => s

/-- One tile's counter incremented at its home, or the failure of R422. -/
def State.collCount (s : State) (id : Nat) (o : Op) (c : CollOp) (i : Nat) : State :=
  let va := BitVec.ofNat 64 (c.targetVa + 4 * i)
  let c := { c with counted := c.counted ++ [i] }
  match s.reach o .write 0 4 va with
  | .here l =>
    if isLocal l.pa then
      ((s.putColl id c).storeAt l (natBytes (bytesNat (s.bytesAt l 4) + 1) 4)).lcacheDrop o.core l.pa 4
    else (s.collFault o .protect 0xFFFF va).putColl id { c with poisoned := true }
  | .bad e => (s.collFault o e 0xFFFF va).putColl id { c with poisoned := true }
  | .mark => (s.contain 10 (some o.block) ((tget s.blocks o.block).map (·.ctx))).putColl id { c with poisoned := true }
  | .peer _ => (s.collFault o .protect 0xFFFF va).putColl id { c with poisoned := true }

/-- A collective has something to do now. -/
def CollOp.busy (c : CollOp) : Bool := c.started && !c.failed && (c.nextTile.isSome || c.nextStep.isSome)

/-- A collective is complete (R422). -/
def CollOp.over (c : CollOp) : Bool :=
  c.started && (c.failed || (c.allFinal && c.nextTile.isNone &&
    (if c.stopped then c.flying.isEmpty else decide (c.steps.length ≤ c.done.length))))

/-- COLL_STEP (R417, R422): the next tile counter or the next step. -/
def execCollStep (s : State) : Res :=
  match s.ev with
  | some (.collStep id) =>
    match tget s.ops id with
    | some o =>
      match o.coll? with
      | some c =>
        if !c.busy then .next s
        else match c.nextTile, c.nextStep with
          | some i, _ => .next (s.collCount id o c i)
          | none, some (k, t) => .next (s.collSend id o c k t)
          | none, none => .next s
      | none => .next s
    | none => .next s
  | _ => .fault .noGang

/-- COLL_CHUNK_RECEIVE (R417, R418, R421, R427): a chunk for a started member is decoded as one of the length that its place in its
step calls for, and what this write brings of it is taken over. -/
def execCollChunkReceive (s : State) : Res :=
  match s.ev with
  | some (.collChunkReceive k) =>
    match s.memberOf k.die k.stream k.dst k.buf with
    | some (id, _, c) =>
      let d := decodeChunk c.es (chunkLen ((c.part k.part).2.2 * k.ranks.length) k.first) k.wire
      let s := if d.2 && k.sub == 0 then
          s.modDie k.die fun x => { x with badmsg := BitVec.ofNat 16 (min 0xFFFF (x.badmsg.toNat + 1)) }
        else s
      let c := { c with lastData := s.ticks c.die, lastMove := s.ticks c.die }
      let apply := c.ownerOf k.part == c.rank && c.how != 1
      .next (((s.putColl id c).collTimer id c).collParts id c k.reduce apply k.part k.ranks k.first k.sub k.len (d.1.getD []) d.1.isNone)
    | none => .next s
  | _ => .fault .noGang

/-- A step's request has been answered (R419): accepted once every one of its chunks has been. -/
def State.collAnswer (s : State) (id k : Nat) (a : Option Resp) : State :=
  match tget s.ops id with
  | some o =>
    match o.coll? with
    | some c =>
      if c.failed then s
      else match a, tget c.flying k with
        | some .done, some (n, stat) =>
          if n ≤ 1 then s.collAccept id o c k stat
          else s.putColl id { c with flying := tset c.flying k (n - 1, stat) }
        | some .revoked, _ => s.failColl id o c .revoked k
        | _, _ => s.failColl id o c .protect k
    | none => s
  | none => s

/-! ### Completion (R420, R422) -/

/-- The destination bytes of a collective (R410, R412); an open value when its parameter block was not read or is invalid (log entry 97). -/
def State.collBytes (s : State) (id : Nat) (c : CollOp) : Nat :=
  if c.pbOk then c.recvBytes else s.free 22 id % 2 ^ 40

/-- COLL_COMPLETE (R222, R422): the issuing core's load-cache copies of the receive buffer are dropped, the token completes, and
ckind 01 makes its arrival. -/
def execCollComplete (s : State) : Res :=
  match s.ev with
  | some (.collComplete id) =>
    match tget s.ops id with
    | some o =>
      match o.coll? with
      | some c =>
        if !c.over then .next s
        else
          let bytes := s.collBytes id c
          let s := s.collTrace o c 0x13 [BitVec.ofNat 32 c.done.length, if c.poisoned then 1 else 0, BitVec.ofNat 32 c.marked.length]
          let ctx := ((tget s.blocks o.block).map (·.ctx)).getD 0
          let s := match c.pbOk, c.ckind with
            | true, 1 =>
              match s.reach o .write 0 64 (BitVec.ofNat 64 c.targetVa) with
              | .here l => s.send (.barrierUpdate ⟨c.die, l.pa, BitVec.ofNat 64 c.targetVa, true, -(bytes : Int), c.poisoned,
                  o.block, ctx⟩)
              | _ => s
            | _, _ => s
          let s := c.frames.foldl (fun (s : State) f => s.lcacheDrop o.core (4096 * f.1) 4096) s
          let s := s.completeOp id o.tokens bytes c.poisoned
          .next (s.modCrew o.crew fun x =>
            { x with macros := tset x.macros (o.token.getD 0) (true, c.done.length, c.oldest) })
      | none => .next s
    | none => .next s
  | _ => .fault .noGang

/-- COLL_TIMEOUT (R422): data that has not come within FAB_RTO is given up as poison, and steps not accepted within it of
the last progress are dropped. -/
def execCollTimeout (s : State) : Res :=
  match s.ev with
  | some (.collTimeout id) =>
    match tget s.ops id with
    | some o =>
      match o.coll? with
      | some c =>
        let rto := (s.die c.die).rto.toNat
        let now := s.ticks c.die
        if !c.started || c.failed || rto == 0 then .next s
        else
          let drop := !c.stopped && decide (c.oldest < c.steps.length) && decide (c.lastMove + rto ≤ now)
          let s := if drop then s.collFault o .protect c.oldest c.blockVa else s
          let c := if drop then { c with stopped := true, poisoned := true } else c
          let s := s.putColl id c
          if !c.allFinal && decide (c.lastData + rto ≤ now) then .next ((s.markOpen id c).collTimer id c)
          else .next (s.collTimer id c)
      | none => .next s
    | none => .next s
  | _ => .fault .noGang

/-! ### Issue (R414, R415, R430) -/

/-- What COLL states before its effect (R415). -/
def collHead (f : FSDA) : Head :=
  let t := f.d.toNat
  { st := f.s, fp := fun _ => { handles := [r4 f.a] }
    dyn := fun x =>
      let g := x.group f.a 4
      x.c.tokenBad t (g.getD 0 0) || g.getD 1 0 != 0 || (g.getD 2 0).extractLsb' 0 7 != 0 }

/-- COLL (R415). -/
def execColl (f : FSDA) (s : State) : Res :=
  let t := f.d.toNat
  issue s (collHead f) fun x =>
    let g := x.group f.a 4
    let die := dieOfCore x.c.core
    let held := (x.s.ops.filter fun e => dieOfCore e.2.core == die && e.2.coll?.isSome).length
    if 64 ≤ held then x.stall
    else
      let c : CollOp :=
        { die := die, blockVa := g.getD 3 0 ++ g.getD 2 0, started := false, pb := [], gtab := [], frames := [], ready := []
          done := [], flying := [], staged := [], finals := [], counted := [], marked := [], lines := [], poisoned := false, failed := false
          stopped := false, lastData := 0, lastMove := 0 }
      let r := x.s.addOp (x.newOp t (x.c.pre (g.getD 0 0)) (.coll c))
      x.done r.1 (x.c.modTok t fun _ => ⟨.pending r.2, 0, []⟩)

/-- What COLLQ reports of a token (R430). -/
def State.collReport (s : State) (c : Crew) (t : Nat) : Word × Word :=
  let hi := fun (k phase st : Nat) => BitVec.ofNat 32 (k % 2 ^ 16 * 2 ^ 16 + phase * 2 ^ 8 + st)
  match (c.tok t).st with
  | .pending id =>
    match (tget s.ops id).bind Op.coll? with
    | some x =>
      if !x.started then (0, hi 0 0 1)
      else
        let k := x.oldest
        let phase := match x.steps[k]? with
          | some t => if t.dst != x.rank && !x.ready.contains t.dst then 0 else if t.reduce then 1 else 2
          | none => 2
        (BitVec.ofNat 32 x.done.length, hi k phase 2)
    | none => (0, 0)
  | .free => (0, 0)
  | st =>
    match tget c.macros t with
    | some (true, n, k) => (BitVec.ofNat 32 n, hi k 0 (if st = .poisoned then 4 else 3))
    | _ => (0, 0)

/-- What COLLQ states before its effect (R430). -/
def collqHead (f : FSDA) : Head :=
  { st := f.s, fp := fun _ => { handles := [r1 f.a], writes := [r2 f.d] }
    dyn := fun x => decide (32 ≤ (x.reg (lowest x.act) f.a.toNat).toNat) }

/-- COLLQ (R430). -/
def execCollq (f : FSDA) (s : State) : Res :=
  issue s (collqHead f) fun x =>
    let r := x.s.collReport x.c (x.reg (lowest x.act) f.a.toNat).toNat
    x.done x.s (x.write fun _ => wrN f.d.toNat [r.1, r.2])

end Sys2Proof.Machine
end

