-- ==== Sys2Proof/Machine/Copy.lean ====
section
/-! DEFINITION. The copy engine: the operand groups and their checks, the six variants as rows of words, and how a copy
starts, goes on, fails and completes (R259 to R278). -/

namespace Sys2Proof.Machine

/-! ### Operand groups (R263, R264) -/

/-- The registers of a copy group. -/
def CopyKind.groupSize : CopyKind → Nat
  | .cpy => 8 | .cpys => 8 | .cpyx => 8 | .cpyt => 12 | .cpyg => 12 | .cpyw => 12

/-- Word i of a group. -/
def gw (g : List Word) (i : Nat) : Word := g.getD i 0
/-- The pair at words i, i + 1. -/
def gd (g : List Word) (i : Nat) : Dword := gw g (i + 1) ++ gw g i

/-- A word is a multiple of 4. -/
def mul4 (w : Word) : Bool := w.extractLsb' 0 2 == 0
/-- A pair is a multiple of 4. -/
def mul4d (w : Dword) : Bool := w.extractLsb' 0 2 == 0

/-- A tile reference is legal: reserved bits 0, rank below a limit, offset a multiple of 4. -/
def refOk (g : List Word) (i ranks : Nat) : Bool :=
  (gw g i).extractLsb' 11 21 == 0 && decide (((gw g i).extractLsb' 8 3).toNat < ranks) && mul4 (gw g (i + 1))

/-- The element size of a CPYW shape word (R263). -/
def shapeEs (w : Word) : Nat := 2 ^ ((w.extractLsb' 16 2).toNat)
/-- The bytes of one tap: cg × es. -/
def shapeTap (w : Word) : Nat := (w.extractLsb' 0 16).toNat * shapeEs w
/-- The kernel width. -/
def shapeKw (w : Word) : Nat := (w.extractLsb' 18 4).toNat + 1
/-- The stride along width. -/
def shapeSw (w : Word) : Nat := (w.extractLsb' 22 3).toNat + 1
/-- The dilation along width. -/
def shapeDw (w : Word) : Nat := (w.extractLsb' 25 3).toNat + 1

/-- A CPYW shape word and P are legal (R263). -/
def shapeOk (w p : Word) : Bool :=
  w.extractLsb' 28 4 == 0 && w.extractLsb' 16 2 != 3 && w.extractLsb' 0 16 != 0 && shapeTap w % 4 == 0 &&
    decide (shapeKw w * shapeTap w ≤ 16384) && decide (1 ≤ p.toNat) && decide (p.toNat ≤ 256)

/-- A count is legal. -/
def countOk (w : Word) : Bool := mul4 w && decide (w.toNat ≤ 2 ^ 31)

/-- A row length e0 is legal. -/
def rowOk (e : Nat) : Bool := e % 4 == 0 && decide (4 ≤ e) && decide (e ≤ 16384)

/-- A group is legal for its variant, in a cluster of a size (R260, R263). -/
def copyOk (k : CopyKind) (g : List Word) (clsize : Nat) : Bool :=
  let ctl := gw g 1
  ctl.extractLsb' 2 30 == 0 && (k == .cpyt || !ctl.getLsbD 1) && (k == .cpy || !ctl.getLsbD 0) &&
  (match k with
   | .cpy => mul4d (gd g 2) && (if ctl.getLsbD 0 then mul4d (gd g 4) else refOk g 4 1) && countOk (gw g 6) && gw g 7 == 0
   | .cpys => refOk g 2 1 && mul4d (gd g 4) && countOk (gw g 6) && gw g 7 == 0
   | .cpyx => refOk g 2 clsize && refOk g 4 clsize && countOk (gw g 6) && gw g 7 == 0
   | .cpyt =>
     let e1 := ((gw g 6).extractLsb' 16 16).toNat
     let e2 := ((gw g 7).extractLsb' 0 16).toNat
     mul4d (gd g 2) && refOk g 4 1 && rowOk ((gw g 6).extractLsb' 0 16).toNat && (gw g 7).extractLsb' 16 16 == 0 &&
       decide (1 ≤ e1) && decide (e1 ≤ 4096) && decide (1 ≤ e2) && decide (e2 ≤ 4096) && decide (e1 * e2 ≤ 4096) &&
       mul4d (gd g 8) && mul4d (gd g 10)
   | .cpyg =>
     let n := ((gw g 8).extractLsb' 16 16).toNat
     mul4d (gd g 2) && refOk g 4 1 && refOk g 6 1 && rowOk ((gw g 8).extractLsb' 0 16).toNat && decide (1 ≤ n) &&
       decide (n ≤ 4096) && gw g 9 == 0 && mul4d (gd g 10)
   | .cpyw =>
     mul4d (gd g 2) && refOk g 4 1 && shapeOk (gw g 6) (gw g 7) && !(gw g 9).getLsbD 31 && mul4d (gd g 10))

/-- The rows a copy moves, and the bytes of each. -/
def copyShape (k : CopyKind) (g : List Word) : Nat × Nat :=
  match k with
  | .cpyt =>
    (((gw g 6).extractLsb' 16 16).toNat * ((gw g 7).extractLsb' 0 16).toNat, ((gw g 6).extractLsb' 0 16).toNat)
  | .cpyg => (((gw g 8).extractLsb' 16 16).toNat, ((gw g 8).extractLsb' 0 16).toNat)
  | .cpyw => ((gw g 7).toNat * shapeKw (gw g 6), shapeTap (gw g 6))
  | _ => (1, (gw g 6).toNat)

/-- The destination byte count (R264). -/
def copyBytes (k : CopyKind) (g : List Word) : Nat := (copyShape k g).1 * (copyShape k g).2

/-! ### Rows (R265 to R270) -/

/-- Where a row's bytes come from. -/
inductive CSrc where
  | glob (va : Dword)
  | tile (off : Nat)
  | zero
  | bad
  | fail (c : Cause) (tile : Bool) (addr : Dword)

/-- Where a row's bytes go. -/
inductive CDst where
  | glob (va : Dword)
  | tile (off : Nat)

/-- The copy's tile row length. -/
def State.rowBytes (s : State) (b : Bound) : Nat := ((s.bound b).map (·.rowBytes)).getD 0

/-- Row j of a copy; a CPYG row whose index word the engine has not been able to read fails. -/
def State.copyRow (s : State) (c : CopyOp) (j : Nat) : CSrc × CDst :=
  let g := c.g
  match c.kind with
  | .cpy => (.glob (gd g 2), if (gw g 1).getLsbD 0 then .glob (gd g 4) else .tile (gw g 5).toNat)
  | .cpys => (.tile (gw g 3).toNat, .glob (gd g 4))
  | .cpyx => (.tile (gw g 3).toNat, .tile (gw g 5).toNat)
  | .cpyt =>
    let e1 := ((gw g 6).extractLsb' 16 16).toNat
    let a := gd g 2 + BitVec.ofNat 64 (j / e1) * gd g 10 + BitVec.ofNat 64 (j % e1) * gd g 8
    let out := (gw g 1).getLsbD 1
    let t := (gw g 5).toNat + j * s.rowBytes (if out then c.src else c.dst)
    if out then (.tile t, .glob a) else (.glob a, .tile t)
  | .cpyg =>
    let off := (gw g 7).toNat + 4 * j
    let dst := CDst.tile ((gw g 5).toNat + j * s.rowBytes c.dst)
    match tget c.idxs j with
    | some (i, bad) =>
      if bad then (.bad, dst)
      else if i = 0xFFFFFFFF then (.zero, dst)
      else (.glob (gd g 2 + i.zeroExtend 64 * gd g 10), dst)
    | none => (.fail ((tileFail (s.bound c.idx) off 4).getD .tilehandle) true (tileAddr (gw g 6).toNat off), dst)
  | .cpyw =>
    let sh := gw g 6
    let kw := shapeKw sh
    let p := j / kw
    let k := j % kw
    let pos : Int := (gw g 8).toInt + p * shapeSw sh + k * shapeDw sh
    let dst := CDst.tile ((gw g 5).toNat + p * s.rowBytes c.dst + k * shapeTap sh)
    if 0 ≤ pos ∧ pos < (gw g 9).toNat then (.glob (gd g 2 + BitVec.ofInt 64 pos * gd g 10), dst) else (.zero, dst)

/-- Every row of the copy would cross the end of its tile row (R268 to R270). -/
def State.crossesRow (s : State) (c : CopyOp) : Bool :=
  let n := match c.kind with
    | .cpyw => shapeKw (gw c.g 6) * shapeTap (gw c.g 6)
    | k => (copyShape k c.g).2
  let b := if c.kind == .cpyt && (gw c.g 1).getLsbD 1 then c.src else c.dst
  match s.bound b with
  | some t => (c.kind == .cpyt || c.kind == .cpyg || c.kind == .cpyw) &&
      decide (t.rowBytes < (gw c.g 5).toNat % t.rowBytes + n)
  | none => false

/-- A CPYG with the index word of row j read, once for the row (R269). -/
def State.readIndex (s : State) (o : Op) (c : CopyOp) (j : Nat) : CopyOp :=
  let off := (gw c.g 7).toNat + 4 * j
  match c.kind, tget c.idxs j, tileFail (s.bound c.idx) off 4, s.bound c.idx with
  | .cpyg, none, none, some t =>
    let w := s.engineWord t c.shadows o.born (off / 4)
    { c with idxs := tset c.idxs j (BitVec.ofNat 32 (bytesNat w.1), w.2) }
  | _, _, _, _ => c

/-! ### What a copy has still to do -/

/-- A range of a copy's destination bytes by rows of n: row, first byte in it, length. -/
def rowParts (n lo len : Nat) : List (Nat × Nat × Nat) :=
  if n = 0 ∨ len = 0 then []
  else (List.range ((lo + len - 1) / n + 1 - lo / n)).map fun i =>
    let j := lo / n + i
    let a := max lo (j * n)
    (j, a - j * n, min (lo + len) (j * n + n) - a)

/-- Ranges without the m bytes at a place that one of them holds. -/
def cutRange (lo m : Nat) (rs : List (Nat × Nat)) : List (Nat × Nat) :=
  rs.flatMap fun r =>
    if r.1 ≤ lo ∧ lo + m ≤ r.1 + r.2 then [(r.1, lo - r.1), (lo + m, r.1 + r.2 - lo - m)].filter fun q => q.2 != 0 else [r]

/-- The ranges of its destination whose sources a copy has not read. -/
def CopyOp.unread (c : CopyOp) : List (Nat × Nat) := c.todo ++ c.asks.flatMap fun a => if a.2.write then [] else a.2.parts

/-- The ranges of its destination that a copy has not written, but those of writes on their way to a peer. -/
def CopyOp.unwritten (c : CopyOp) : List (Nat × Nat) := c.unread ++ c.held.map fun h => (h.1, 4)

/-- The destination bytes at a global address: the first of the word in each row that covers it. -/
def State.wordsTo (s : State) (c : CopyOp) (va : Dword) : List Nat :=
  let n := (copyShape c.kind c.g).2
  (List.range (copyShape c.kind c.g).1).filterMap fun j =>
    match (s.copyRow c j).2 with
    | .glob a => if (va - a).toNat < n then some (j * n + (va - a).toNat) else none
    | .tile _ => none

/-- The words around a global address that a copy's destination covers without a gap, within an aligned window of w bytes: the
address of each, and its places among the destination bytes. -/
def State.runAt (s : State) (c : CopyOp) (w : Nat) (va : Dword) : List (Dword × List Nat) :=
  let base := BitVec.ofNat 64 (va.toNat / w * w)
  let at_ := fun (i : Nat) => base + BitVec.ofNat 64 (4 * i)
  let k := va.toNat % w / 4
  let ws := (List.range (w / 4)).map fun i => (at_ i, s.wordsTo c (at_ i))
  ((ws.take k).reverse.takeWhile fun e => !e.2.isEmpty).reverse ++ (ws.drop k).takeWhile fun e => !e.2.isEmpty

/-- The bytes of one write (R386, R432): a granule of memory here, or 256 bytes of a peer's. -/
def State.writeWindow (s : State) (core : Nat) (va : Dword) : Nat := if (s.placeFor core va).any isPeer then 256 else 32

/-- The address of a destination byte, where it is global. -/
def State.copyTo (s : State) (c : CopyOp) (pos : Nat) : Option Dword :=
  let n := (copyShape c.kind c.g).2
  match (s.copyRow c (pos / n)).2 with
  | .glob a => some (a + BitVec.ofNat 64 (pos % n))
  | .tile _ => none

/-- A word that a copy holds may be written: for a global destination, once the sources of all the write have been read
(R386). -/
def State.mayWrite (s : State) (core : Nat) (c : CopyOp) (pos : Nat) : Bool :=
  match s.copyTo c pos with
  | none => true
  | some va => (s.runAt c (s.writeWindow core va) va).all fun e =>
      e.2.all fun q => !c.unread.any fun r => decide (r.1 ≤ q) && decide (q < r.1 + r.2)

/-- Everything a copy has not written marked (R272, R273), but what lies in peer memory. -/
def State.markRest (s : State) (core : Nat) (c : CopyOp) : Marking :=
  c.unwritten.foldl (fun (r : Marking) e =>
    (rowParts (copyShape c.kind c.g).2 e.1 e.2).foldl (fun (r : Marking) p =>
      match (r.s.copyRow c p.1).2 with
      | .tile t => { r with s := r.s.modBound c.dst fun x => x.markRange (t + p.2.1) p.2.2 }
      | .glob va => r.range core (va + BitVec.ofNat 64 p.2.1) p.2.2) r) ⟨s, c.lines, []⟩

/-! ### Running (R261, R271 to R274) -/

/-- The state with a copy's progress put back. -/
def State.putCopy (s : State) (id : Nat) (c : CopyOp) : State := s.modOp id fun o => { o with body := .copy c }

/-- The copy's last access has been made (R271): its completion is to come. -/
def State.endCopy (s : State) (id : Nat) (c : CopyOp) : State :=
  (s.putCopy id { c with finished := true, asks := [] }).push (.copyComplete id)

/-- A copy that has made its marks here and has no request on its way completes. -/
def State.endMarked (s : State) (id : Nat) (c : CopyOp) : State :=
  if c.peers.isEmpty && c.asks.isEmpty then s.endCopy id c else s.putCopy id c

/-- A copy that makes no further access but its marks (R272, R273): local ones at once, then those in peer memory. -/
def State.poisonCopy (s : State) (id : Nat) (o : Op) (c : CopyOp) : State :=
  let r := s.markRest o.core c
  let asks := c.asks.map fun a => (a.1, { a.2 with parts := if a.2.write then a.2.parts else [] })
  r.s.endMarked id { c with
    todo := [], held := [], asks := asks, marking := true, peers := c.peers ++ r.peers, lines := r.lines, poisoned := true }

/-- A failed copy (R273): no further access; the destination it has not written is marked; the cause is recorded. -/
def State.failCopy (s : State) (id : Nat) (o : Op) (c : CopyOp) (e : Cause) (tile : Bool) (addr : Dword) : State :=
  let s := if o.parent.isNone then s.recordFault o e 0xFFFF tile addr else s
  s.poisonCopy id o { c with fail := some ⟨e.code, 0, tile, 0xFFFF, addr⟩ }

/-- A copy abandoned because a walk consumed a mark (R345): it completes poisoned. -/
def State.dropCopy (s : State) (id : Nat) (o : Op) (c : CopyOp) : State :=
  let s := s.contain 10 (some o.block) ((tget s.blocks o.block).map (·.ctx))
  s.endCopy id { c with poisoned := true }

/-- A request of a copy to a peer for ranges of destination bytes: it has several on their way. -/
def State.copyAsk (s : State) (id : Nat) (o : Op) (c : CopyOp) (ask : CopyAsk) (va : Dword) (pa n : Nat)
    (kind : PeerKind) : State :=
  if s.pageHeld o pa then s.putCopy id c
  else (s.opAsk o (.copy id) va pa n kind).putCopy id { c with
    todo := ask.parts.foldl (fun t p => cutRange p.1 p.2 t) c.todo
    held := c.held.filter fun h => !ask.parts.any fun p => decide (p.1 ≤ h.1) && decide (h.1 < p.1 + p.2)
    asks := tset c.asks s.nextId ask }

/-- A copy that has read a piece. -/
def CopyOp.got (c : CopyOp) (pos : Nat) (bs : List Byte) (bad : List Bool) : CopyOp :=
  { c with
    todo := cutRange pos bs.length c.todo
    held := (List.range (bs.length / 4)).foldl (fun t i =>
      tset t (pos + 4 * i) (BitVec.ofNat 32 (bytesNat ((bs.drop (4 * i)).take 4)), bad.getD i false)) c.held }

/-- A copy reads a piece of its source, at most len bytes from a destination byte on: within a row, and within a granule or, of a
peer, 256 bytes (R363). -/
def State.copyRead (s : State) (id : Nat) (o : Op) (c : CopyOp) (pos len : Nat) : State :=
  let n := (copyShape c.kind c.g).2
  let j := pos / n
  let off := pos % n
  let c := s.readIndex o c j
  let row := s.copyRow c j
  let room := fun (w : Nat) => min (min len (n - off)) (match row.1 with | .glob a => w - (a.toNat + off) % w | _ => w)
  let len := 4 * (room 32 / 4 - s.pick 20 (id + 2 ^ 20 * pos) (room 32 / 4))
  let got := fun (bs : List Byte) (bad : List Bool) => s.putCopy id (c.got pos bs bad)
  match row.1 with
  | .zero => got (List.replicate len 0) (List.replicate (len / 4) false)
  | .bad => got (List.replicate len 0) (List.replicate (len / 4) true)
  | .fail e t a => s.failCopy id o c e t a
  | .tile t =>
    match tileFail (s.bound c.src) (t + off) 4, s.bound c.src with
    | none, some x =>
      let ws := (wordsIn (t + off) (min len ((x.size - (t + off)) / 4 * 4))).map (s.engineWord x c.shadows o.born)
      got (ws.flatMap (·.1)) (ws.map (·.2))
    | e, _ => s.failCopy id o c (e.getD .tilehandle) true
        (tileAddr (gw c.g (if c.kind == .cpyt then 4 else 2)).toNat (t + off))
  | .glob a =>
    let va := a + BitVec.ofNat 64 off
    match s.reach o .read 0 len va with
    | .bad e => s.failCopy id o c e false va
    | .mark => s.dropCopy id o c
    | .here l => (s.lcacheDrop o.core l.pa len).putCopy id
        (c.got pos (s.wordsRead o.core l len) (List.replicate (len / 4) (s.marked l.pa len)))
    | .peer l => s.copyAsk id o c ⟨false, [(pos, room 256)]⟩ va l.pa (room 256) .read

/-- A word that a copy is to write: its address, its places among the destination bytes that hold one, and one of the words held
there, an open choice where rows overlap; and whether one of them is poisoned. -/
structure CopyWord where
  va : Dword
  parts : List Nat
  word : Word
  bad : Bool
  deriving DecidableEq, Repr

/-- The words of a run that a copy holds. -/
def State.runHeld (s : State) (c : CopyOp) (run : List (Dword × List Nat)) : List CopyWord :=
  run.filterMap fun e =>
    let hs := e.2.filterMap fun q => (tget c.held q).map fun w => (q, w)
    (hs[s.pick 26 e.1.toNat hs.length]?).map fun h => ⟨e.1, hs.map (·.1), h.2.1, hs.any (·.2.2)⟩

/-- Words of one granule written here (R272, R386): the lines written are noted, with a bump for each new one (R393), and the core's
copies of them dropped. -/
def State.copyPut (s : State) (o : Op) (c : CopyOp) (pa key : Nat) (ws : List Word) (whole bad : Bool) : State × CopyOp :=
  let n := 4 * ws.length
  let r := s.enginePut ⟨pa, key⟩ (ws.flatMap fun w => natBytes w.toNat 4) whole bad
  let q := if r.2 then r.1.noteLines c.lines pa n else (r.1, c.lines)
  (q.1.lcacheDrop o.core pa n, { c with lines := q.2, poisoned := c.poisoned || bad || !r.2 })

/-- Words of one granule written here by a copy that covers n bytes of it: at once where it writes all that it covers, else word by
word. -/
def State.copyPuts (s : State) (o : Op) (c : CopyOp) (pa key n : Nat) (ws : List CopyWord) : State × CopyOp :=
  let c := { c with held := c.held.filter fun h => !ws.any fun w => w.parts.contains h.1 }
  if 4 * ws.length = n then s.copyPut o c pa key (ws.map (·.word)) (n == 32) (ws.any (·.bad))
  else ws.foldl (fun (r : State × CopyOp) w =>
    r.1.copyPut o r.2 (pa / 32 * 32 + w.va.toNat % 32) key [w.word] (n == 32) w.bad) (s, c)

/-- The words at the head of a list that lie next to each other. -/
def inRow : List CopyWord → List CopyWord
  | [] => []
  | [w] => [w]
  | w :: v :: r => if v.va = w.va + 4 then w :: inRow (v :: r) else [w]

/-- The bytes of a write to a peer that it indicates as poisoned: those of poisoned words, and the whole of a granule that it covers and
one of them meets (R363, R386). -/
def poisonOf (ws : List CopyWord) : List Nat :=
  let first := ((ws.head?.map CopyWord.va).getD 0).toNat
  let n := 4 * ws.length
  let covers := fun (g : Nat) => decide (first ≤ 32 * g) && decide (32 * g + 32 ≤ first + n)
  (List.range n).filter fun i => ws.any fun w => w.bad &&
    (w.va.toNat / 4 == (first + i) / 4 || (w.va.toNat / 32 == (first + i) / 32 && covers ((first + i) / 32)))

/-- A copy writes words of a global destination around an address. Here it writes those of one granule: all at once where the granule
is marked or one of them is poisoned, and otherwise all or one of them, an open choice (R209, R386). A peer is sent those that
lie in a row, within 256 bytes (R363, R432). -/
def State.copyWriteGlob (s : State) (id : Nat) (o : Op) (c : CopyOp) (va : Dword) : State :=
  let run := s.runAt c 32 va
  let first := (run.head?.map (·.1)).getD va
  let n := 4 * run.length
  match s.reach o .write 1 n first with
  | .bad e => s.failCopy id o c e false first
  | .mark => s.dropCopy id o c
  | .here l =>
    let ws := s.runHeld c run
    let one := if decide (ws.length ≤ 1) || s.marked l.pa n || ws.any (·.bad) then none else ws[s.pick 27 id (ws.length + 1)]?
    let r := s.copyPuts o c l.pa l.key n (one.elim ws ([·]))
    r.1.putCopy id r.2
  | .peer _ =>
    let ws := inRow (s.runHeld c (s.runAt c 256 va))
    let first := (ws.head?.map CopyWord.va).getD va
    let n := 4 * ws.length
    match s.reach o .write 1 n first with
    | .bad e => s.failCopy id o c e false first
    | .peer l => s.copyAsk id o { c with poisoned := c.poisoned || ws.any (·.bad) } ⟨true, ws.flatMap fun w => w.parts.map fun q => (q, 4)⟩
        first l.pa n (.write (ws.flatMap fun w => natBytes w.word.toNat 4) (poisonOf ws))
    | _ => s

/-- A copy writes a word that it holds, with those that its write takes with it. -/
def State.copyWrite (s : State) (id : Nat) (o : Op) (c : CopyOp) (pos : Nat) : State :=
  let n := (copyShape c.kind c.g).2
  match (s.copyRow c (pos / n)).2, tget c.held pos with
  | .tile t, some w =>
    match tileFail (s.bound c.dst) (t + pos % n) 4 with
    | none => (s.tilePut id c.dst (t + pos % n) (natBytes w.1.toNat 4) w.2).putCopy id
        { c with poisoned := c.poisoned || w.2, held := tdel c.held pos }
    | some e => s.failCopy id o c e true (tileAddr (gw c.g 4).toNat (t + pos % n))
  | .glob a, _ => s.copyWriteGlob id o c (a + BitVec.ofNat 64 (pos % n))
  | _, none => s

/-- The words that a copy may write now. -/
def State.writable (s : State) (core : Nat) (c : CopyOp) : List Nat := (c.held.map (·.1)).filter (s.mayWrite core c)

/-- The next access of a running copy (R209, R261): the mark of a piece in peer memory, or one of the writes and reads it has
still to make, in any order. -/
def State.copyStep (s : State) (id : Nat) (o : Op) (c : CopyOp) : State :=
  match c.peers with
  | p :: ps => s.copyAsk id o { c with peers := if s.pageHeld o p.2.1 then c.peers else ps } ⟨true, []⟩ p.1 p.2.1 p.2.2
      (.write (List.replicate p.2.2 0) (List.range p.2.2))
  | [] =>
    let ws := s.writable o.core c
    let k := s.pick 19 id (ws.length + c.todo.length)
    match ws[k]?, c.todo[k - ws.length]? with
    | some pos, _ => s.copyWrite id o c pos
    | none, some r =>
      let i := s.pick 21 id (r.2 / 4)
      s.copyRead id o c (r.1 + 4 * i) (r.2 - 4 * i)
    | none, none => s.endCopy id c

/-- A copy may go on: it runs and has an access to make, or has made its last. -/
def State.copyRuns (s : State) (core : Nat) (c : CopyOp) : Bool :=
  c.started && !c.finished && (!c.peers.isEmpty || !c.todo.isEmpty || !(s.writable core c).isEmpty || (c.held.isEmpty && c.asks.isEmpty))

/-- A copy of the core that comes before it in start order has not started (R232, R261). -/
def State.copyBehind (s : State) (id : Nat) (o : Op) : Bool :=
  s.startBehind id o fun q => q.core == o.core && (match q.body with | .copy c => !c.started | _ => false)

/-- A copy whose preconditions have completed can start: in start order, its slices' earlier accesses performed (R221, R232,
R261). -/
def State.copyReady (s : State) (id : Nat) (o : Op) (c : CopyOp) : Bool :=
  !c.started && o.mayStart s.clk && !s.copyBehind id o && !s.opOwes o

/-- COPY_START (R261, R271 to R273): a copy whose preconditions have completed starts its accesses; from then on each step
makes one. -/
def execCopyStart (s : State) : Res :=
  match s.ev with
  | some (.copyStart id) =>
    match tget s.ops id with
    | some o =>
      match o.body with
      | .copy c =>
        if s.copyRuns o.core c then .next (s.copyStep id o c)
        else if !s.copyReady id o c then .next s
        else
          let n := copyBytes c.kind c.g
          let c := { c with started := true, todo := if n = 0 then [] else [(0, n)] }
          if o.poisonedPre then .next (s.poisonCopy id o c)
          else if s.crossesRow c then
            .next (s.failCopy id o c .tilebound true (tileAddr (gw c.g 4).toNat (gw c.g 5).toNat))
          else .next (s.putCopy id c)
      | _ => .next s
    | none => .next s
  | _ => .fault .noGang

/-- A copy goes on when a peer has answered (R274): a read's bytes, a write done or dropped (R272), or a failure, a time-out's being
PROTECT. What a write that failed was to write is not written. -/
def State.copyAnswer (s : State) (id tag : Nat) (r : PeerReq) (a : Option Resp) : State :=
  match tget s.ops id with
  | some o =>
    match o.body with
    | .copy c =>
      match tget c.asks tag with
      | none => s
      | some k =>
        let c := { c with asks := tdel c.asks tag }
        let fail := fun (e : Cause) =>
          let c := { c with todo := c.todo ++ k.parts }
          if c.marking then s.poisonCopy id o c else s.failCopy id o c e false r.va
        match a with
        | some (.data bs bad) =>
          if c.marking then s.endMarked id c
          else s.putCopy id (({ c with todo := c.todo ++ k.parts } : CopyOp).got ((k.parts.head?.map (·.1)).getD 0) bs
            ((List.range (bs.length / 4)).map fun i => bad.any fun x => x / 4 == i))
        | some .done => if c.marking then s.endMarked id c else s.putCopy id c
        | some .dropped =>
          let c := { c with poisoned := true }
          if c.marking then s.endMarked id c else s.putCopy id c
        | some .revoked => fail .revoked
        | _ => fail .protect
    | _ => s
  | none => s

/-- COPY_COMPLETE (R262, R271): the lines written are out of the core's load cache, and the token completes. -/
def execCopyComplete (s : State) : Res :=
  match s.ev with
  | some (.copyComplete id) =>
    match tget s.ops id with
    | some o =>
      match o.body with
      | .copy c =>
        if c.finished then .next ((s.dropLines o.core c.lines).finishOp id (copyBytes c.kind c.g) c.poisoned c.fail) else .next s
      | _ => .next s
    | none => .next s
  | _ => .fault .noGang

/-! ### Issue (R259 to R261, R279) -/

/-- The block of a rank in a crew's cluster (R117, R267). -/
def State.clusterBlock (s : State) (block rank : Nat) : Nat :=
  match tget s.blocks block with
  | some b => ((s.blocks.find? fun e => e.2.cluster == b.cluster && e.2.rank == rank).map (·.1)).getD 0
  | none => 0

/-- The rank a tile reference names. -/
def refRank (w : Word) : Nat := (w.extractLsb' 8 3).toNat

/-- A copy that slices of a crew issue, with its tiles bound in a block (R260, R267). -/
def State.makeCopy (s : State) (crew : Nat) (js : List Nat) (block : Nat) (k : CopyKind) (g : List Word) : CopyOp :=
  let none_ : Bound := ⟨block, 0, none⟩
  let here := fun i => s.bindData block (gw g i)
  let far := fun i => s.bindData (s.clusterBlock block (refRank (gw g i))) (gw g i)
  let src := match k with
    | .cpys => here 2
    | .cpyx => far 2
    | .cpyt => if (gw g 1).getLsbD 1 then here 4 else none_
    | _ => none_
  let dst := match k with
    | .cpy => if (gw g 1).getLsbD 0 then none_ else here 4
    | .cpyx => far 4
    | .cpyt => if (gw g 1).getLsbD 1 then none_ else here 4
    | .cpys => none_
    | _ => here 4
  let idx := if k == .cpyg then here 6 else none_
  { kind := k, g := g, src := src, dst := dst, idx := idx, shadows := s.shadowsAt [src, idx] crew js 0 [], started := false
    todo := [], held := [], idxs := [], asks := [], marking := false, peers := [], lines := []
    finished := false, poisoned := false, fail := none }

/-- The copies that a core's engine holds (R261), but those saved with their blocks (R275). -/
def State.copiesOn (s : State) (core : Nat) : Nat :=
  (s.ops.filter fun e => e.2.core == core && !s.blockOut e.2.block && (match e.2.body with | .copy _ => true | _ => false)).length

/-- What a copy instruction states before its effect (R259, R260). -/
def copyInstrHead (f : FSDA) (k : CopyKind) : Head :=
  let t := f.d.toNat
  { st := f.s, fp := fun _ => { handles := [⟨f.a.toNat, k.groupSize, 4⟩] }
    dyn := fun x =>
      let g := x.group f.a k.groupSize
      x.c.tokenBad t (gw g 0) || !copyOk k g (((tget x.s.blocks x.c.block).map (·.clsize)).getD 1) }

/-- A copy instruction (R259, R260): the group is checked, the token becomes pending, and the copy joins the open batch of
each slice of the gang. -/
def copyInstr (s : State) (f : FSDA) (k : CopyKind) : Res :=
  let t := f.d.toNat
  issue s (copyInstrHead f k) fun x =>
    let g := x.group f.a k.groupSize
    if 256 ≤ x.s.copiesOn x.c.core then x.stall
    else
      let r := x.s.addOp (x.newOp t (x.c.pre (gw g 0)) (.copy (x.s.makeCopy x.k x.js x.c.block k g)))
      let c := (x.c.modTok t fun _ => ⟨.pending r.2, 0, []⟩).modSlices x.js fun sl =>
        { sl with batch := { sl.batch with opened := sl.batch.opened ++ [r.2] } }
      x.done r.1 c

/-- CPY (R265). -/
def execCpy (f : FSDA) (s : State) : Res := copyInstr s f .cpy
/-- CPYT (R268). -/
def execCpyt (f : FSDA) (s : State) : Res := copyInstr s f .cpyt
/-- CPYG (R269). -/
def execCpyg (f : FSDA) (s : State) : Res := copyInstr s f .cpyg
/-- CPYW (R270). -/
def execCpyw (f : FSDA) (s : State) : Res := copyInstr s f .cpyw
/-- CPYS (R266). -/
def execCpys (f : FSDA) (s : State) : Res := copyInstr s f .cpys
/-- CPYX (R267). -/
def execCpyx (f : FSDA) (s : State) : Res := copyInstr s f .cpyx

end Sys2Proof.Machine
end

