-- ==== Sys2Proof/Machine/Matrix.lean ====
section
/-! DEFINITION. The matrix engine: team and owner issue, operand groups, the format block, products and accumulation in
the order of R75, the accumulator instructions, and how an operation starts, fails and completes (R285 to R309). -/

namespace Sys2Proof.Machine

/-! ### Operand groups (R286, R293, R294, R309) -/

/-- The registers of a group. -/
def MatKind.groupSize : MatKind → Nat
  | .mma => 16 | .mmao => 20 | .mzero => 4 | .mscal => 4 | .mcvt => 8 | .mload => 8

/-- The multiplies. -/
def MatKind.multiply : MatKind → Bool
  | .mma => true | .mmao => true | _ => false

/-- The A source of a control word: 0 registers, 1 tile memory, 2 accumulator. -/
def ctlA (c : Word) : Nat := (c.extractLsb' 9 2).toNat
/-- B is global. -/
def ctlB (c : Word) : Bool := c.getLsbD 11
/-- The promotion interval P. -/
def ctlP (c : Word) : Nat := (c.extractLsb' 5 4).toNat + 1
/-- The format of the W copy. -/
def ctlW (c : Word) : FFmt := if c.getLsbD 3 then .e4m3 else .bf16
/-- A handle word holds nothing but a handle. -/
def handleOk (w : Word) : Bool := w.extractLsb' 8 24 == 0

/-- A multiply's group is legal (R286, R293 to R295); `list` tells MMAO's from MMA's. -/
def mmaOk (list : Bool) (g : List Word) : Bool :=
  let c := gw g 1
  let k := (gw g 2).toNat
  c.extractLsb' 14 18 == 0 && c.extractLsb' 12 2 != 3 && ctlA c != 3 && decide (16 ≤ k) && decide (k ≤ 65536) &&
    k % 16 == 0 && handleOk (gw g 3) && (gw g 4).extractLsb' 0 5 == 0 && (gw g 10).extractLsb' 0 6 == 0 && gw g 15 == 0 &&
    (if ctlB c then mul4 (gw g 9) else gw g 9 == 0 && handleOk (gw g 7)) &&
    (match ctlA c with
     | 0 => (gw g 5).extractLsb' 6 26 == 0 && gw g 6 == 0
     | 1 => handleOk (gw g 5)
     | _ => handleOk (gw g 5) && (gw g 5).extractLsb' 0 8 != (gw g 3).extractLsb' 0 8) &&
    (if c.getLsbD 2 then handleOk (gw g 13) else gw g 13 == 0 && gw g 14 == 0) &&
    (!list || ((gw g 16).extractLsb' 0 3 == 0 && decide (1 ≤ (gw g 18).toNat) && decide ((gw g 18).toNat ≤ 4096) &&
      gw g 19 == 0))

/-- The rows an accumulator instruction names: origin and count (R309). -/
def rowsOf (g : List Word) : Nat × Nat := (((gw g 2).extractLsb' 0 16).toNat, ((gw g 2).extractLsb' 16 16).toNat)

/-- An accumulator instruction's group is legal (R309). -/
def accOk (k : MatKind) (g : List Word) : Bool :=
  handleOk (gw g 1) && decide (1 ≤ (rowsOf g).2) && decide ((rowsOf g).2 ≤ 256) &&
  (match k with
   | .mzero => gw g 3 == 0
   | .mload => decide ((gw g 3).toNat < 3) && handleOk (gw g 4) && gw g 6 == 0 && gw g 7 == 0
   | .mcvt => (gw g 3).extractLsb' 4 28 == 0 && decide (((gw g 3).extractLsb' 0 3).toNat ≤ 4) && handleOk (gw g 4) &&
      gw g 6 == 0 && gw g 7 == 0
   | _ => true)

/-- The words of a multiply that its members share (R293). -/
def mmaShared : List Nat := [1, 2, 3, 4, 7, 8, 9, 10, 11, 12, 15, 16, 17, 18, 19]

/-- The formats of MCVT and MLOAD by code (R309). -/
def accFmt : Nat → FFmt
  | 0 => .fp32 | 1 => .bf16 | 2 => .fp16 | 3 => .e4m3 | _ => .e5m2

/-- Bytes of a floating format. -/
def fmtBytes (f : FFmt) : Nat := fmtWidth f / 8

/-! ### The format block (R296, R297) -/

/-- The fields of a format block. -/
structure MatFmt where
  a : Nat
  ablen : Nat
  asf : Bool
  b : Nat
  bblen : Nat
  bsf : Bool
  ash : Word
  aso : Nat
  bsh : Word
  bso : Nat
  ok : Bool

/-- A format block's fields; `ok` is whether its reserved bits are 0. -/
def parseFmt (bs : List Byte) : MatFmt :=
  let v := bytesNat bs
  { a := bits v 3 0, ablen := bits v 6 4, asf := bit v 7, b := bits v 11 8, bblen := bits v 14 12, bsf := bit v 15
    ash := BitVec.ofNat 32 (bits v 159 128), aso := bits v 191 160, bsh := BitVec.ofNat 32 (bits v 223 192)
    bso := bits v 255 224, ok := bits v 127 16 == 0 && bits v 511 256 == 0 }

/-- The k-step of a pair of element formats; none for a pair that is not permitted (R297). -/
def kStep (a b : Nat) : Option Nat :=
  match a, b with
  | 0, 0 => some 16 | 1, 1 => some 16
  | 2, 2 => some 32 | 2, 3 => some 32 | 3, 2 => some 32 | 3, 3 => some 32 | 4, 4 => some 32
  | 2, 5 => some 64 | 3, 5 => some 64
  | _, _ => none

/-- Bytes of an element format; an invalid code counts as 2 (R295). -/
def elemSize (c : Nat) : Nat := if 2 ≤ c ∧ c ≤ 5 then 1 else 2

/-- A block length by its code (R296). -/
def blockLen (c : Nat) : Nat := if c = 0 then 0 else 8 * 2 ^ c

/-- One term of a DP8 weight in units of 2^−6 (R70). -/
def dp8Term (v : Nat) : Int := if v % 8 = 7 then 0 else if bit v 3 then -(2 ^ (6 - v % 8) : Nat) else (2 ^ (6 - v % 8) : Nat)

/-- The value of an element (R64, R70, R299). -/
def elemVal (c v : Nat) : Fl :=
  match c with
  | 0 => decodeFl .bf16 v
  | 1 => decodeFl .fp16 v
  | 2 => decodeFl .e4m3 v
  | 3 => decodeFl .e5m2 v
  | 4 => intFl (signedOf 8 v)
  | _ =>
    let t := dp8Term (v / 16) + dp8Term (v % 16)
    .fin (decide (t < 0)) t.natAbs (-6)

/-- The value of a scale; an infinite one makes every product a NaN, as a NaN does (R72). -/
def scaleVal (se8 : Bool) (v : Nat) : Fl :=
  if se8 then (if v = 0x80 then .nan else .fin false 1 (signedOf 8 v))
  else match decodeFl .bf16 v with
    | .inf _ => .nan
    | x => x

/-! ### Accumulation (R73 to R76) -/

/-- `trunc(IA24, x)` (R73, R74). -/
def truncIA24 : Fl → Fl
  | .fin neg m e =>
    if m = 0 then .fin neg 0 0
    else
      let q := max ((m.log2 : Int) + e) (-254) - 14
      let u := roundUnits 1 neg m e q
      if u = 0 then .fin neg 0 0
      else if 255 < (u.log2 : Int) + q then .inf neg
      else .fin neg u q
  | x => x

/-- `round(FP32, a + b, RNE)` as a value. -/
def addAcc (a b : Fl) : Fl := decodeFl .fp32 (roundFl .fp32 0 false (addFl 0 a b))

/-- `round(FP32, a × b, RNE)` as a value. -/
def mulAcc (a b : Fl) : Fl := decodeFl .fp32 (roundFl .fp32 0 false (mulFl a b))

/-- An element's computation between two k-steps: the accumulator, the IA24 sum, the interval's first k-step. -/
structure Partial where
  acc : Fl
  ia : Fl
  first : Nat

/-- One k-step of R75, with the promotion and outlier corrections that may follow it. -/
def kStepRun (ks nk p : Nat) (a b : List Fl) (outl : List (Nat × Fl)) (x : Partial) (i : Nat) : Partial :=
  let e := sumFl (((a.drop (i * ks)).take ks).zipWith mulFl ((b.drop (i * ks)).take ks))
  let ia := truncIA24 (sumFl [x.ia, e])
  if (i + 1) % p = 0 ∨ i + 1 = nk then
    let acc := addAcc x.acc ia
    let mine := outl.filter fun o => decide (x.first * ks ≤ o.1) && decide (o.1 < (i + 1) * ks)
    ⟨mine.foldl (fun c o => addAcc c (mulFl (a.getD o.1 .nan) o.2)) acc, .fin false 0 0, i + 1⟩
  else { x with ia := ia }

/-- One element of the product (R75), from its starting value, as an FP32 code. -/
def mmaElem (ks p : Nat) (a b : List Fl) (outl : List (Nat × Fl)) (acc0 : Fl) : Nat :=
  let nk := a.length / ks
  roundFl .fp32 0 false
    ((List.range nk).foldl (fun x i => kStepRun ks nk p a b outl x i) ⟨acc0, .fin false 0 0, 0⟩).acc

/-! ### What the engine reads -/

/-- Why a run of an operation stops. -/
structure MStop where
  cause : Cause
  tile : Bool
  addr : Dword

/-- What part of a run gives. -/
abbrev MRun := Except MStop

/-- Global bytes fetched, by virtual address, with whether each lies in a marked granule (R262, R302). -/
abbrev Got := Table (Byte × Bool)

/-- The parts of a virtual range by granule. -/
def rangeParts (va : Dword) (n : Nat) : List (Dword × Nat) :=
  if n = 0 then []
  else (List.range ((va.toNat % 32 + n + 31) / 32)).map fun i =>
    let a := max (va.toNat % 32) (32 * i)
    (va + BitVec.ofNat 64 (a - va.toNat % 32), min (va.toNat % 32 + n) (32 * i + 32) - a)

/-- The parts of some ranges that have not been fetched. -/
def Got.missing (g : Got) (rs : List (Dword × Nat)) : List (Dword × Nat) :=
  (rs.flatMap fun r => rangeParts r.1 r.2).filter fun p =>
    (List.range p.2).any fun i => (tget g (p.1 + BitVec.ofNat 64 i).toNat).isNone

/-- Bytes fetched. -/
def Got.bytes (g : Got) (va : Dword) (n : Nat) : List (Byte × Bool) :=
  (List.range n).map fun i => (tget g (va + BitVec.ofNat 64 i).toNat).getD (0, false)

/-- Bytes that have come for a virtual address. -/
def Got.add (g : Got) (va : Dword) (bs : List (Byte × Bool)) : Got :=
  bs.zipIdx.foldl (fun g e => tset g (va + BitVec.ofNat 64 e.2).toNat e.1) g

/-- Fetched bytes of a descriptor: a mark fails the operation with DATAERR (R306). -/
def Got.descriptor (g : Got) (va : Dword) (n : Nat) : MRun (List Byte) :=
  let bs := g.bytes va n
  if bs.any (·.2) then .error ⟨.dataerr, false, va⟩ else .ok (bs.map (·.1))

/-- What fetching one part of a range ends in: its bytes, a request to a peer for which the operation waits, a wait for a ticket
of its slices, a cause, or a mark that the walk consumed. -/
inductive Fetch where
  | bytes (bs : List (Byte × Bool))
  | ask (pa : Nat)
  | hold
  | bad (c : Cause)
  | mark

/-- One part of a range fetched, within a granule (R262). -/
def State.fetchPart (s : State) (o : Op) (p : Dword × Nat) : Fetch :=
  match s.reach o .read 0 p.2 p.1 with
  | .bad c => .bad c
  | .mark => .mark
  | .here l => .bytes ((s.bytesAt l p.2).map fun b => (b, s.marked l.pa p.2))
  | .peer l => if s.pageHeld o l.pa then .hold else .ask l.pa

/-- A tile of a level (R161). -/
def State.level (s : State) (b : Bound) (os : Bool) : Option Tile := (s.bound b).filter fun t => t.os == os

/-- A tile that an access names, or the failure of R161. -/
def needTile (t : Option Tile) (h : Word) (off : Nat) : MRun Tile :=
  match t with
  | some t => .ok t
  | none => .error ⟨.tilehandle, true, tileAddr h.toNat off⟩

/-- Bytes of a tile, elements of a size, each with whether its word is marked (R161, R221). -/
def State.tileRead (s : State) (o : Op) (t : Option Tile) (h : Word) (off n size : Nat) : MRun (List (Byte × Bool)) := do
  let x ← needTile t h off
  if x.size < off + n ∨ off % size ≠ 0 then .error ⟨.tilebound, true, tileAddr h.toNat off⟩
  else
    let ws := (wordsIn off n).flatMap fun w =>
      let r := s.engineWord x o.olds o.born w
      r.1.map fun b => (b, r.2)
    pure ((ws.drop (off % 4)).take n)

/-- Consecutive elements of a size out of bytes: each one's number and mark. -/
def elements (size count : Nat) (bs : List (Byte × Bool)) : List (Nat × Bool) :=
  (List.range count).map fun i =>
    let x := (bs.drop (i * size)).take size
    (bytesNat (x.map (·.1)), x.any (·.2))

/-- The rank of a member's crew in its team, 0 in owner mode (R293). -/
def State.rankOf (s : State) (m : MatOp) (x : Member) : Nat := ((tget s.crews x.crew).map fun c => c.crewIx % m.need).getD 0

/-- The row bytes of a tile, 0 when it is not there. -/
def rowLen (t : Option Tile) : Nat := (t.map (·.rowBytes)).getD 0

/-- The group of an operation that its members share. -/
def MatOp.g (m : MatOp) : List Word := (m.members.map (·.g)).headD []

/-- The fields of a multiply's format block. -/
def MatOp.f (m : MatOp) : MatFmt := parseFmt (m.fmt.getD [])

/-- K of a multiply. -/
def MatOp.k (m : MatOp) : Nat := (gw m.g 2).toNat

/-- The k-step of a multiply (R297). -/
def MatOp.ks (m : MatOp) : Nat := (kStep m.f.a m.f.b).getD 16

/-- The elements of K that the present promotion interval takes: its first, and how many (R75). -/
def MatOp.span (m : MatOp) : Nat × Nat :=
  let nk := m.k / m.ks
  (m.step * m.ks, (min nk (m.step + ctlP (gw m.g 1)) - m.step) * m.ks)

/-- Every promotion interval has been computed. -/
def MatOp.summed (m : MatOp) : Bool := decide (m.k / m.ks ≤ m.step)

/-- A part of row i of a member's A, n elements from element lo: the elements, and whether one was marked (R295, R305). -/
def State.rowA (s : State) (o : Op) (m : MatOp) (x : Member) (i lo n : Nat) : MRun (List Fl × Bool) := do
  let g := x.g
  let f := m.f
  let ea := elemSize f.a
  match ctlA (gw g 1) with
  | 0 =>
    let bs := ((x.regsA.getD i []).flatMap fun w => natBytes w.toNat 4).drop (lo * ea)
    pure ((List.range n).map fun j => elemVal f.a (bytesNat ((bs.drop (j * ea)).take ea)), false)
  | 1 =>
    let t := s.level x.aTile false
    let r ← s.tileRead o t (gw g 5) ((gw g 6).toNat + i * rowLen t + lo * ea) (n * ea) ea
    pure ((elements ea n r).map fun e => elemVal f.a e.1, r.any (·.2))
  | _ =>
    let t := s.level x.aTile true
    let ro := ((gw g 6).extractLsb' 0 16).toNat
    let co := ((gw g 6).extractLsb' 16 16).toNat
    let off := (ro + i) * rowLen t + 4 * (co + lo)
    let r ← s.tileRead o t (gw g 5) off (4 * n) 4
    if rowLen t < 4 * (co + lo + n) then .error ⟨.tilebound, true, tileAddr (gw g 5).toNat off⟩
    else
      let fa : FFmt := if f.a = 0 then .bf16 else .e4m3
      pure ((elements 4 n r).map fun e => decodeFl fa (roundFl fa 0 false (decodeFl .fp32 e.1)), r.any (·.2))

/-- Values multiplied by the scales of their blocks: the first is element lo, the first scale that of its block. -/
def scaled (len lo : Nat) (sc : List Fl) (xs : List Fl) : List Fl :=
  xs.zipIdx.map fun e => mulFl e.1 (sc.getD ((lo + e.2) / len - lo / len) .nan)

/-- The blocks of a length that n elements from element lo lie in: the first, and how many. -/
def blockSpan (len lo n : Nat) : Nat × Nat := (lo / len, (lo + n - 1) / len + 1 - lo / len)

/-- The scales of a row of A for some blocks, and whether one was marked (R298). -/
def State.scalesA (s : State) (o : Op) (m : MatOp) (row : Nat) (b : Nat × Nat) : MRun (List (Nat × Bool)) := do
  let f := m.f
  let sz := if f.asf then 1 else 2
  let nb := m.k / blockLen f.ablen
  let t := s.level (s.bindTile o.block f.ash) false
  let r ← s.tileRead o t f.ash (f.aso + (row * nb + b.1) * sz) (b.2 * sz) sz
  pure (elements sz b.2 r)

/-- A part of every row of A, with its scales applied, and whether it is marked. -/
def State.matrixA (s : State) (o : Op) (m : MatOp) (lo n : Nat) : MRun (List (List Fl × Bool)) := do
  let f := m.f
  let len := blockLen f.ablen
  let rows ← (List.range m.need).mapM fun j => do
    match m.members.find? fun x => s.rankOf m x == j with
    | some x => (List.range 32).mapM fun i => s.rowA o m x i lo n
    | none => pure []
  let rows := rows.flatten
  if len = 0 ∨ f.ash = 0 then pure rows
  else rows.zipIdx.mapM fun e => do
    let sc ← s.scalesA o m e.2 (blockSpan len lo n)
    pure (scaled len lo (sc.map fun v => scaleVal f.asf v.1) e.1.1, e.1.2 || sc.any (·.2))

/-- The address of row k of a global B (R295). -/
def MatOp.addrB (m : MatOp) (k : Nat) : Dword := gd m.g 7 + BitVec.ofNat 64 (k * (gw m.g 9).toNat)

/-- Row k of B, its elements with their marks (R295); a global B has been fetched. -/
def State.rowB (s : State) (o : Op) (m : MatOp) (k : Nat) : MRun (List (Nat × Bool)) := do
  let g := m.g
  let n := ctlN (gw g 1)
  let eb := elemSize m.f.b
  if ctlB (gw g 1) then pure (elements eb n (Got.bytes m.got (m.addrB k) (n * eb)))
  else
    let t := s.level m.bTile false
    let r ← s.tileRead o t (gw g 7) ((gw g 8).toNat + k * rowLen t) (n * eb) eb
    pure (elements eb n r)

/-- The scales of block b of B, by column (R298). -/
def State.scalesB (s : State) (o : Op) (m : MatOp) (b : Nat) : MRun (List (Nat × Bool)) :=
  let f := m.f
  let n := ctlN (gw m.g 1)
  let sz := if f.bsf then 1 else 2
  let t := s.level (s.bindTile o.block f.bsh) false
  (s.tileRead o t f.bsh (f.bso + b * n * sz) (n * sz) sz).map (elements sz n)

/-- A part of every column of B, len rows from row lo, with its scales applied, and whether it is marked (R305). -/
def State.matrixB (s : State) (o : Op) (m : MatOp) (lo len : Nat) : MRun (List (List Fl × Bool)) := do
  let f := m.f
  let bl := blockLen f.bblen
  let bs := blockSpan bl lo len
  let rows ← (List.range len).mapM fun i => s.rowB o m (lo + i)
  let scs ← if bl = 0 ∨ f.bsh = 0 then pure [] else (List.range bs.2).mapM fun b => s.scalesB o m (bs.1 + b)
  pure ((List.range (ctlN (gw m.g 1))).map fun c =>
    let col := rows.map fun r => r.getD c (0, false)
    let sc := scs.map fun r => r.getD c (0, false)
    let xs := col.map fun e => elemVal f.b e.1
    (if scs.isEmpty then xs else scaled bl lo (sc.map fun v => scaleVal f.bsf v.1) xs,
      col.any (·.2) || sc.any (·.2)))

/-! ### Starting a multiply (R295 to R297, R300) -/

/-- An entry of the outlier list: its column, row of B and correction; none when a reserved bit is set or it lies outside
(R300). -/
def outlier (n k v : Nat) : Option (Nat × Nat × Fl) :=
  if bits v 63 48 = 0 ∧ bits v 31 24 = 0 ∧ bits v 15 0 < k ∧ bits v 23 16 < n then
    some (bits v 23 16, bits v 15 0, decodeFl .bf16 (bits v 47 32))
  else none

/-- The entries of a list as read. -/
def listEntries (bs : List Byte) : List Nat := (List.range (bs.length / 8)).map fun i => bytesNat ((bs.drop (8 * i)).take 8)

/-- The contents checks of R295 and R297. -/
def fmtUsable (f : MatFmt) (gs : List (List Word)) : Bool :=
  let g := gs.headD []
  let k := (gw g 2).toNat
  let chained := ctlA (gw g 1) == 2
  let fits := fun (len : Nat) (h : Word) => len == 0 || h == 0 || k % len == 0
  match kStep f.a f.b with
  | none => false
  | some ks =>
    f.ok && decide (f.ablen ≤ 4) && decide (f.bblen ≤ 4) && handleOk f.ash && handleOk f.bsh && k % ks == 0 &&
      fits (blockLen f.ablen) f.ash && fits (blockLen f.bblen) f.bsh &&
      (!chained || ((f.a == 0 || f.a == 2) && gs.all fun w => ((gw w 6).extractLsb' 16 16).toNat % ks == 0))

/-- The checks of the accumulator tile's shape, made before any access (R295). -/
def State.accShape (s : State) (m : MatOp) : MRun Unit := do
  let g := m.g
  let t ← needTile (s.level m.acc true) (gw g 3) 0
  if t.rowBytes ≠ 4 * ctlN (gw g 1) then .error ⟨.illegal, true, tileAddr (gw g 3).toNat 0⟩
  else if t.rows < (gw g 4).toNat + 32 * m.need then
    .error ⟨.tilebound, true, tileAddr (gw g 3).toNat ((gw g 4).toNat * t.rowBytes)⟩
  else pure ()

/-- A multiply with its format block as read, its contents checked (R297). -/
def MatOp.withFmt (m : MatOp) (bs : List Byte) : MRun MatOp :=
  if fmtUsable (parseFmt bs) (m.members.map (·.g)) then .ok { m with fmt := some bs, got := [] }
  else .error ⟨.illegal, false, gd m.g 10⟩

/-- A multiply with its outlier list as read, its entries checked (R300). -/
def MatOp.withList (m : MatOp) (ls : List Byte) : MRun MatOp :=
  let n := ctlN (gw m.g 1)
  match (listEntries ls).findIdx? fun v => (outlier n m.k v).isNone with
  | none => .ok { m with list := ls, got := [] }
  | some i => .error ⟨.illegal, false, gd m.g 16 + BitVec.ofNat 64 (8 * i)⟩

/-- The outlier list is still to be read. -/
def MatOp.wantsList (m : MatOp) : Bool := m.kind == .mmao && m.list.isEmpty

/-- The bytes of the outlier list (R293). -/
def MatOp.listBytes (m : MatOp) : Nat := 8 * (gw m.g 18).toNat

/-- The global ranges that the operation needs for what it does next: the format block, the outlier list, the rows of a global
B that the promotion interval takes. -/
def MatOp.wants (m : MatOp) : List (Dword × Nat) :=
  let g := m.g
  if !m.kind.multiply then []
  else if m.fmt.isNone then [(gd g 10, 64)]
  else if m.wantsList then [(gd g 16, m.listBytes)]
  else if ctlB (gw g 1) then
    (List.range m.span.2).map fun i => (m.addrB (m.span.1 + i), ctlN (gw g 1) * elemSize m.f.b)
  else []

/-! ### Running a multiply (R301, R305, R307) -/

/-- One row's results: each element's code and whether it is marked. -/
def mmaRow (ks p : Nat) (z : Bool) (sc : Option Fl) (outl : List (Nat × Nat × Fl)) (a : List Fl × Bool)
    (cols : List (List Fl × Bool)) (old : List (Nat × Bool)) : List (Nat × Bool) :=
  cols.zipIdx.map fun e =>
    let was := old.getD e.2 (0, false)
    if a.2 || e.1.2 || (!z && was.2) then (canonNan .fp32, true)
    else
      let c := if z then .fin false 0 0 else decodeFl .fp32 was.1
      let c := match sc with | some v => mulAcc c v | none => c
      (mmaElem ks p a.1 e.1.1 (outl.filterMap fun x => if x.1 = e.2 then some x.2 else none) c, false)

/-- Results written to a row of a tile: every byte, with the words of marked elements marked (R305, R309). -/
def Tile.putRow (t : Tile) (off : Nat) (f : FFmt) (xs : List (Nat × Bool)) : Tile :=
  let size := fmtBytes f
  let t := t.enginePut off (xs.flatMap fun x => natBytes x.1 size) false
  t.mark (xs.zipIdx.flatMap fun e => if e.1.2 then wordsIn (off + e.2 * size) size else [])

/-- An element as it is written: a marked one as a canonical NaN, 0x7FC0_0000 in FP32, with its mark (R305). -/
def markedAs (f : FFmt) (code : Nat) (bad : Bool) : Nat × Bool := (if bad then canonNan f else code, bad)

/-- The W copy of an accumulator element (R301, R305). -/
def copyElem (f : FFmt) (sat : Bool) (x : Nat × Bool) : Nat × Bool := markedAs f (roundFl f 0 sat (decodeFl .fp32 x.1)) x.2

/-- The M × N results of a multiply's present promotion interval (R75, R301). -/
def State.promote (s : State) (o : Op) (m : MatOp) : MRun (List (List (Nat × Bool))) := do
  let g := m.g
  let c := gw g 1
  let n := ctlN c
  let lo := m.span.1
  let len := m.span.2
  let z := c.getLsbD 0 && m.step == 0
  let rows ← s.matrixA o m lo len
  let cols ← s.matrixB o m lo len
  let acc := s.level m.acc true
  let olds ← (List.range (32 * m.need)).mapM fun i => do
    if z then pure [] else do
      let r ← s.tileRead o acc (gw g 3) (((gw g 4).toNat + i) * (4 * n)) (4 * n) 4
      pure (elements 4 n r)
  let mine := ((listEntries m.list).filterMap (outlier n m.k)).filter fun e => decide (lo ≤ e.2.1) && decide (e.2.1 < lo + len)
  let outl := mine.map fun e => (e.1, e.2.1 - lo, e.2.2)
  let sc := if c.getLsbD 1 && m.step == 0 then some (decodeFl .fp32 (gw g 12).toNat) else none
  pure (rows.zipIdx.map fun e => mmaRow m.ks (ctlP c) z sc outl e.1 cols (olds.getD e.2 []))

/-- A promotion's results written to the accumulator block (R301, R307). -/
def State.putAcc (s : State) (m : MatOp) (rs : List (List (Nat × Bool))) : State :=
  let g := m.g
  s.modBound m.acc fun t =>
    rs.zipIdx.foldl (fun (t : Tile) e => t.putRow (((gw g 4).toNat + e.2) * t.rowBytes) .fp32 e.1) t

/-- A row of elements as parts of words of a tile; a word is poison when an element of it is. -/
def rowOuts (dst : Bound) (h : Word) (off : Nat) (f : FFmt) (xs : List (Nat × Bool)) : List MatOut :=
  let size := fmtBytes f
  let bs := xs.flatMap fun x => (natBytes x.1 size).map fun b => (b, x.2)
  (wordsIn off bs.length).map fun w =>
    let a := max off (4 * w)
    let part := (bs.drop (a - off)).take (4 * w + 4 - a)
    ⟨dst, h, a, size, part.map (·.1), part.any (·.2)⟩

/-- Parts of words in which a word that two rows share is poison when either is. -/
def joinBad (os : List MatOut) : List MatOut :=
  let bad := (os.filter (·.bad)).map fun e => (e.dst, e.off / 4)
  os.map fun e => { e with bad := bad.contains (e.dst, e.off / 4) }

/-- The W copies of a multiply whose last promotion is done, one part of a word after another (R301, R305). -/
def State.copiesW (s : State) (m : MatOp) : List MatOut :=
  let g := m.g
  let c := gw g 1
  let n := ctlN c
  match s.level m.acc true with
  | some t =>
    if c.getLsbD 2 then
      joinBad (m.members.flatMap fun x =>
        (List.range 32).flatMap fun i =>
          let off := ((gw g 4).toNat + 32 * s.rankOf m x + i) * t.rowBytes
          let row := (List.range n).map fun e => (bytesNat (t.read (off + 4 * e) 4), t.marks.contains (off / 4 + e))
          rowOuts x.wTile (gw x.g 13) ((gw x.g 14).toNat + i * rowLen (s.level x.wTile false)) (ctlW c)
            (row.map (copyElem (ctlW c) (c.getLsbD 4))))
    else []
  | none => []

/-! ### The accumulator instructions (R309) -/

/-- The element count of an accumulator row. -/
def Tile.cols (t : Tile) : Nat := t.rowBytes / 4

/-- One row of an accumulator instruction: what it writes, in which format, and where. -/
def State.accRow (s : State) (o : Op) (m : MatOp) (t : Tile) (i : Nat) : MRun (FFmt × Nat × List (Nat × Bool)) := do
  let g := m.g
  let off := ((rowsOf g).1 + i) * t.rowBytes
  let other := s.level m.bTile false
  let old := fun (_ : Unit) => (s.tileRead o (some t) (gw g 1) off t.rowBytes 4).map (elements 4 t.cols)
  match m.kind with
  | .mzero => pure (.fp32, off, List.replicate t.cols (0, false))
  | .mscal =>
    let r ← old ()
    pure (.fp32, off, r.map fun e => markedAs .fp32 (roundFl .fp32 0 false (mulFl (decodeFl .fp32 e.1) (decodeFl .fp32 (gw g 3).toNat))) e.2)
  | .mload =>
    let f := accFmt (gw g 3).toNat
    let r ← s.tileRead o other (gw g 4) ((gw g 5).toNat + i * rowLen other) (t.cols * fmtBytes f) (fmtBytes f)
    pure (.fp32, off, (elements (fmtBytes f) t.cols r).map fun e => markedAs .fp32 (roundFl .fp32 0 false (decodeFl f e.1)) e.2)
  | _ =>
    let f := accFmt ((gw g 3).extractLsb' 0 3).toNat
    let r ← old ()
    let d := (gw g 5).toNat + i * rowLen other
    let x ← needTile other (gw g 4) d
    if x.size < d + t.cols * fmtBytes f ∨ d % fmtBytes f ≠ 0 ∨ x.rowBytes < d % x.rowBytes + t.cols * fmtBytes f then
      .error ⟨.tilebound, true, tileAddr (gw g 4).toNat d⟩
    else pure (f, d, r.map fun e => markedAs f (roundFl f 0 ((gw g 3).getLsbD 3) (decodeFl .fp32 e.1)) e.2)

/-- Every row of an accumulator instruction. -/
def State.accRows (s : State) (o : Op) (m : MatOp) : MRun (List (FFmt × Nat × List (Nat × Bool))) := do
  let g := m.g
  let t ← needTile (s.level m.acc true) (gw g 1) 0
  if t.rows < (rowsOf g).1 + (rowsOf g).2 then
    .error ⟨.tilebound, true, tileAddr (gw g 1).toNat ((rowsOf g).1 * t.rowBytes)⟩
  else (List.range (rowsOf g).2).mapM fun i => s.accRow o m t i

/-- An accumulator instruction's results written to its accumulator; MCVT has its words still to write. -/
def State.putRows (s : State) (m : MatOp) (rs : List (FFmt × Nat × List (Nat × Bool))) : State × List MatOut :=
  if m.kind == .mcvt then (s, joinBad (rs.flatMap fun r => rowOuts m.bTile (gw m.g 4) r.2.1 r.1 r.2.2))
  else (s.modBound m.acc fun t => rs.foldl (fun (t : Tile) r => t.putRow r.2.1 r.1 r.2.2) t, [])

/-! ### Failure, completion (R304 to R306) -/

/-- Rows of a tile marked, each no further than its row's end. -/
def Tile.markRows (t : Tile) (off n rows : Nat) : Tile :=
  (List.range rows).foldl (fun (t : Tile) i =>
    let a := off + i * t.rowBytes
    t.markRange a (min n (t.rowBytes - a % t.rowBytes))) t

/-- A bound tile of a level changed: the accumulators are tiles of the operand store, all else tile memory (R157). -/
def State.modLevel (s : State) (b : Bound) (os : Bool) (f : Tile → Tile) : State := s.modBound b fun t => if t.os == os then f t else t

/-- An operation's destinations marked: the accumulator block and every W target, as far as it is written (log entry 40), or the rows
of R309 (R305, R306). -/
def State.markMat (s : State) (m : MatOp) : State :=
  let g := (m.members.map (·.g)).headD []
  if m.kind.multiply then
    let c := gw g 1
    let s := s.modLevel m.acc true fun t => t.markRows ((gw g 4).toNat * t.rowBytes) (4 * ctlN c) (32 * m.need)
    if c.getLsbD 2 then
      m.members.foldl (fun (s : State) x => s.modLevel x.wTile false fun t =>
        (List.range 32).foldl (fun (t : Tile) i =>
          t.markRange ((gw x.g 14).toNat + i * t.rowBytes) (ctlN c * fmtBytes (ctlW c))) t) s
    else s
  else
    let cols := ((s.level m.acc true).map Tile.cols).getD 0
    let s := s.modLevel m.acc true fun t => t.markRows ((rowsOf g).1 * t.rowBytes) t.rowBytes (rowsOf g).2
    if m.kind == .mcvt then
      s.modLevel m.bTile false fun t =>
        t.markRows (gw g 5).toNat (cols * fmtBytes (accFmt ((gw g 3).extractLsb' 0 3).toNat)) (rowsOf g).2
    else s

/-- The destination bytes of each member's token (R304). -/
def State.matBytes (s : State) (m : MatOp) : Nat :=
  let g := (m.members.map (·.g)).headD []
  let t := s.bound m.acc
  match m.kind with
  | .mma => 128 * ctlN (gw g 1)
  | .mmao => 128 * ctlN (gw g 1)
  | .mcvt => (rowsOf g).2 * (rowLen t / 4) * fmtBytes (accFmt ((gw g 3).extractLsb' 0 3).toNat)
  | _ => (rowsOf g).2 * rowLen t

/-- An operation's progress put back. -/
def State.putMat (s : State) (id : Nat) (m : MatOp) : State := s.modOp id fun o => { o with body := .mat m }

/-- The matrix operation of an entry. -/
def Op.mat? (o : Op) : Option MatOp := match o.body with | .mat m => some m | _ => none

/-- An operation's last access has been made: its completion is to come. -/
def State.overMat (s : State) (id : Nat) (m : MatOp) : State :=
  (s.putMat id { m with ended := true, wait := none, got := [], outs := [] }).push (.matrixOpComplete id)

/-- An operation that has failed: marked and recorded (R306). -/
def State.failMat (s : State) (id : Nat) (o : Op) (m : MatOp) (e : MStop) : State :=
  let s := s.markMat m
  let s := if o.parent.isNone then s.recordFault o e.cause 0xFFFF e.tile e.addr else s
  s.overMat id { m with poisoned := true, fail := some ⟨e.cause.code, 0, e.tile, 0xFFFF, e.addr⟩ }

/-- An operation whose progress a run gives, or that fails. -/
def State.matRun (s : State) (id : Nat) (o : Op) (m : MatOp) (r : MRun MatOp) : State :=
  match r with
  | .ok n => s.putMat id n
  | .error e => s.failMat id o m e

/-- One part of a range fetched for an operation. -/
def State.matFetch (s : State) (id : Nat) (o : Op) (m : MatOp) (p : Dword × Nat) : State :=
  match s.fetchPart o p with
  | .bytes bs => s.putMat id { m with got := Got.add m.got p.1 bs }
  | .ask pa => (s.opAsk o (.mat id) p.1 pa p.2 .read).putMat id { m with wait := some s.nextId }
  | .hold => s
  | .bad c => s.failMat id o m ⟨c, false, p.1⟩
  | .mark => (s.contain 10 (some o.block) ((tget s.blocks o.block).map (·.ctx))).overMat id { m with poisoned := true }

/-- One part of a tile word written (R161, R301, R309). -/
def State.matWrite (s : State) (id : Nat) (o : Op) (m : MatOp) (e : MatOut) : State :=
  let t := s.level e.dst false
  match t with
  | none => s.failMat id o m ⟨.tilehandle, true, tileAddr e.h.toNat e.off⟩
  | some t =>
    if t.size < e.off + e.bs.length ∨ e.off % min e.size 4 ≠ 0 then s.failMat id o m ⟨.tilebound, true, tileAddr e.h.toNat e.off⟩
    else
      let m := { m with outs := m.outs.filter fun x => !(x.dst == e.dst && x.off == e.off) }
      let s := s.tilePut id e.dst e.off e.bs e.bad
      if m.outs.isEmpty then s.overMat id m else s.putMat id m

/-- What a multiply does once all it needs has been fetched: it takes the format block, the outlier list, or computes its next
promotion interval; after the last it has its W copies to write. -/
def State.multiplyStep (s : State) (id : Nat) (o : Op) (m : MatOp) : State :=
  if m.fmt.isNone then s.matRun id o m ((Got.descriptor m.got (gd m.g 10) 64).bind m.withFmt)
  else if m.wantsList then s.matRun id o m ((Got.descriptor m.got (gd m.g 16) m.listBytes).bind m.withList)
  else
    match s.promote o m with
    | .error e => s.failMat id o m e
    | .ok rs =>
      let s := s.putAcc m rs
      let m := { m with
        step := min (m.k / m.ks) (m.step + ctlP (gw m.g 1)), got := [], poisoned := m.poisoned || rs.any fun r => r.any (·.2) }
      let outs := if m.summed then s.copiesW m else []
      if m.summed && outs.isEmpty then s.overMat id m else s.putMat id { m with outs := outs }

/-- An accumulator instruction's effect (R309). -/
def State.accStep (s : State) (id : Nat) (o : Op) (m : MatOp) : State :=
  match s.accRows o m with
  | .error e => s.failMat id o m e
  | .ok rs =>
    let r := s.putRows m rs
    let m := { m with poisoned := rs.any fun r => r.2.2.any (·.2) }
    if r.2.isEmpty then r.1.overMat id m else r.1.putMat id { m with outs := r.2 }

/-- The next step of a running operation (R209, R301, R307): one of the words it has to write, one part of what it has to fetch,
in any order, or the effect for which it has fetched all. -/
def State.matStep (s : State) (id : Nat) (o : Op) (m : MatOp) : State :=
  match m.outs with
  | e :: r => s.matWrite id o m ((e :: r).getD (s.pick 19 id (r.length + 1)) e)
  | [] =>
    match Got.missing m.got m.wants with
    | p :: r => s.matFetch id o m ((p :: r).getD (s.pick 19 id (r.length + 1)) p)
    | [] => if m.kind.multiply then s.multiplyStep id o m else s.accStep id o m

/-- An operation that starts (R292, R295, R297, R305): with a poisoned precondition it only marks; a multiply's accumulator
shape and the contents of a format block read at issue are checked. -/
def State.matBegin (s : State) (id : Nat) (o : Op) (m : MatOp) : State :=
  let m := { m with started := true }
  if o.poisonedPre then (s.markMat m).overMat id { m with poisoned := true }
  else if m.kind.multiply then
    s.matRun id o m ((s.accShape m).bind fun _ => match m.fmt with | some bs => m.withFmt bs | none => .ok m)
  else s.putMat id m

/-- A running operation waits for no answer and has not ended. -/
def MatOp.running (m : MatOp) : Bool := m.started && !m.ended && m.wait.isNone

/-- The matrix operations of a core that wait for the engine, started ones left out, and those held out with their blocks. -/
def State.matQueue (s : State) (core : Nat) : List (Nat × Nat) :=
  s.ops.filterMap fun e => match e.2.mat?, e.2.order with
    | some m, some n => if e.2.core = core ∧ !m.started ∧ !s.blockOut e.2.block then some (n, e.1) else none
    | _, _ => none

/-- The next operation in start order (R232, R302). -/
def State.nextMat (s : State) (core : Nat) : Option Nat :=
  ((s.matQueue core).foldl (fun (r : Option (Nat × Nat)) e => match r with
    | some p => if e.1 < p.1 then some e else r
    | none => some e) none).map (·.2)

/-- An operation of a core's engine is running; one saved with its block is not (R308). -/
def State.matBusy (s : State) (core : Nat) : Bool :=
  s.ops.any fun e => e.2.core == core && !s.blockOut e.2.block && (match e.2.mat? with | some m => m.started | none => false)

/-- An operation can start: it is the next in start order, no other runs on the core, and its slices' earlier accesses have been
performed (R221, R232, R302). -/
def State.matReady (s : State) (id : Nat) (o : Op) (m : MatOp) : Bool :=
  !m.started && o.mayStart s.clk && !s.matBusy o.core && s.nextMat o.core == some id && !s.opOwes o

/-- MATRIX_OP_START (R292, R301, R302): the next operation in start order begins, once no other runs on the core; from then on
each step makes one access or computes one promotion interval. -/
def execMatrixOpStart (s : State) : Res :=
  match s.ev with
  | some (.matrixOpStart id) =>
    match tget s.ops id with
    | some o =>
      match o.mat? with
      | some m =>
        if m.running then .next (s.matStep id o m)
        else if s.matReady id o m then .next (s.matBegin id o m)
        else .next s
      | none => .next s
    | none => .next s
  | _ => .fault .noGang

/-- MATRIX_OP_COMPLETE (R301, R305, R306): the operation's results have been written, and its tokens complete in one clock. -/
def execMatrixOpComplete (s : State) : Res :=
  match s.ev with
  | some (.matrixOpComplete id) =>
    match tget s.ops id with
    | some o =>
      match o.mat? with
      | some m => if m.ended then .next (s.finishOp id (s.matBytes m) m.poisoned m.fail) else .next s
      | none => .next s
    | none => .next s
  | _ => .fault .noGang

/-- An operation goes on when a peer has answered its fetch (R306, R307). -/
def State.matAnswer (s : State) (id : Nat) (r : PeerReq) (a : Option Resp) : State :=
  match tget s.ops id with
  | some o =>
    match o.mat? with
    | some m =>
      let m := { m with wait := none }
      match a with
      | some (.data bs bad) =>
        s.putMat id { m with got := Got.add m.got r.va (bs.zipIdx.map fun e => (e.1, bad.contains e.2)) }
      | some .revoked => s.failMat id o m ⟨.revoked, false, r.va⟩
      | _ => s.failMat id o m ⟨.protect, false, r.va⟩
    | none => s
  | none => s

/-! ### Issue (R285 to R292) -/

/-- The core is in owner mode (R288). -/
def Issue.owned (x : Issue) : Bool := (x.s.core x.c.core).mown

/-- The crew owns the engine. -/
def Issue.owns (x : Issue) : Bool := (x.s.core x.c.core).owner == some x.k

/-- The core whose gang issues is in owner mode. -/
def State.ownerMode (s : State) : Bool :=
  match s.cur with
  | some (k, _) => ((tget s.crews k).map fun c => (s.core c.core).mown).getD false
  | none => false

/-- Operations of R291 that a team collects. -/
def Op.collective (o : Op) : Bool :=
  o.parent.isNone && (match o.body with
    | .mat m => m.kind.multiply
    | .furlong _ => true
    | _ => false)

/-- The open collections of the crew's team, the oldest first (R291). -/
def Issue.openColls (x : Issue) : List (Nat × Op) :=
  x.s.ops.filter fun e => e.2.collective && e.2.order.isNone &&
    ((tget x.s.crews e.2.crew).map fun c => sameTeam x.c c).getD false

/-- The collection that this crew's next collective issue joins (R291). -/
def Issue.joins (x : Issue) : Option (Nat × Op) :=
  x.openColls.find? fun e => e.2.collecting && !(e.2.members.any fun m => m.crew == x.k)

/-- The crew has no team, or a member of its team has exited (R291, R292). -/
def Issue.teamGone (x : Issue) : Bool :=
  x.c.team == 0 ||
    decide ((x.s.crews.filter fun e => sameTeam x.c e.2 && !e.2.present.isEmpty).length < x.c.team)

/-- The instruction's operation is of the kind that a collection collects, its shared words those given (R292). -/
def Op.agrees (o : Op) (f : OpBody → Bool) (shared : List Nat) (g : List Word) : Bool :=
  f o.body && shared.all fun i => gw ((o.members.map (·.g)).headD []) i == gw g i

/-- The tiles whose unfenced words an operation of a block notes at its issue: all that the block holds, since the format
block may name any (R221, R298). -/
def State.blockTiles (s : State) (b : Nat) : List Bound :=
  ((tget s.blocks b).map fun x => x.tiles.map fun t => (⟨b, t.1, some t.2.uid⟩ : Bound)).getD []

/-- A member added to a collection, with the words that its slices leave the operation free to read old. -/
def Issue.join (x : Issue) (s : State) (id : Nat) (m : Member) : State :=
  s.modOp id fun o =>
    let o := { o with
      body := match o.body with
        | .mat y => .mat { y with members := y.members ++ [m] }
        | .furlong y => .furlong { y with members := y.members ++ [m] }
        | b => b }
    { o.mapOlds fun sh => s.shadowsAt (s.blockTiles x.c.block) x.k x.js o.born sh with born := x.s.fresh }

/-- A collective issue, or an owner's alone: it joins the team's collection, opens one, or waits while four are open or the
engine is full (R287, R288, R291). `alone` is the operation that opens. -/
def Issue.collect (x : Issue) (s : State) (m : Member) (full : Bool) (alone : Op) : Res :=
  let pending := fun (id : Nat) => x.c.modTok m.token fun _ => (⟨.pending id, 0, []⟩ : Token)
  match (if x.owned then none else x.joins) with
  | some e => x.done ((x.join s e.1 m).tryStart e.1) (pending e.1)
  | none =>
    if full || (!x.owned && decide (4 ≤ x.openColls.length)) then x.stall
    else
      let r := s.addOp alone
      x.done r.1 (pending r.2)

/-- A collective issue that raises TEAM (R291, R292). -/
def Issue.teamFails (x : Issue) (f : OpBody → Bool) (shared : List Nat) (g : List Word) : Bool :=
  !x.owned && (x.teamGone || (match x.joins with | some e => !e.2.agrees f shared g | none => false))

/-- The format block as the issue can see it, when no cause keeps it from being read (R296). -/
def Issue.fmtSeen (x : Issue) (va : Dword) : Option (List Byte) :=
  match x.check .read 64 (lowest x.act) va with
  | .ok l =>
    if isPeer l.pa then (match x.answer with | some (.data bs _) => some bs | _ => none)
    else if x.s.marked l.pa 64 then none else some (x.s.bytesAt l 64)
  | _ => none

/-- The registers that a register A takes pass the window (R295). -/
def Issue.regsPass (x : Issue) (g : List Word) : Bool :=
  ctlA (gw g 1) == 0 && (match x.fmtSeen (gd g 10) with
    | some bs => decide (x.c.window < (gw g 5).toNat + (gw g 2).toNat * elemSize (parseFmt bs).a / 4)
    | none => false)

/-- The format block read at issue, when A lies in registers: checked and read as a load of 64 bytes (R296). -/
def Issue.readFmt (x : Issue) (g : List Word) (body : State → Option (List Byte) → Res) : Res :=
  let va := gd g 10
  if ctlA (gw g 1) ≠ 0 then body x.s none
  else x.accessOnce .read false 64 va fun l =>
    if isPeer l.pa then
      match x.answer with
      | some (.data _ (_ :: _)) => x.trapAt .dataerr (lanesOf x.act) (fun _ => va) false
      | _ => x.peerBarrier va l.pa .read fun s bs => body s (some bs)
    else if x.s.marked l.pa 64 then x.trapAt .dataerr (lanesOf x.act) (fun _ => va) false
    else body (x.s.tlbFill x.c.core x.c.sup.isSome .read (lowest x.act) va) (some (x.s.bytesAt l 64))

/-- The window registers that hold each lane's row of A (R295). -/
def regsOfA (g : List Word) (fmt : Option (List Byte)) : List Nat :=
  match fmt with
  | some bs => (List.range ((gw g 2).toNat * elemSize (parseFmt bs).a / 4)).map ((gw g 5).toNat + ·)
  | none => []

/-- The rows of A that a member's registers give: each active lane's (R295). -/
def Issue.rowsA (x : Issue) (g : List Word) (fmt : Option (List Byte)) : List (List Word) :=
  (List.range 32).map fun l => if x.act.getLsbD l then (regsOfA g fmt).map (x.reg l) else []

/-- The registers of A that a multiply reads beside its operand group, when its word, tokens and checks let it read any
(R54, R56, R295). -/
def Issue.alsoA (x : Issue) (a : BitVec 6) (n : Nat) : List Nat :=
  let g := x.group a n
  if x.act = 0 || ctlA (gw g 1) != 0 || x.regsPass g then [] else regsOfA g (x.fmtSeen (gd g 10))

/-- The matrix operations that a core's engine holds (R287), but those saved with their blocks (R308). -/
def State.matsOn (s : State) (core : Nat) : Nat :=
  (s.ops.filter fun e => e.2.core == core && !s.blockOut e.2.block && e.2.mat?.isSome).length

/-- No tile. -/
def noTile (block : Nat) : Bound := ⟨block, 0, none⟩

/-- What MMA and MMAO state before their effect (R285 to R297). -/
def multiplyInstrHead (s : State) (f : FSDA) (k : MatKind) : Head :=
  let n := k.groupSize
  let t := f.d.toNat
  { st := f.s, guard := if s.ownerMode then .lane else .gang
    fp := fun _ => { handles := [⟨f.a.toNat, n, 4⟩] }
    also := fun x => x.alsoA f.a n
    word := fun x => !x.owned && !x.holdsCrew
    dyn := fun x =>
      let g := x.group f.a n
      (x.owned && !x.owns) || x.c.tokenBad t (gw g 0) || !mmaOk (k == .mmao) g || x.regsPass g }

/-- MMA and MMAO (R285 to R297). -/
def multiplyInstr (s : State) (f : FSDA) (k : MatKind) : Res :=
  let n := k.groupSize
  let t := f.d.toNat
  issue s (multiplyInstrHead s f k) fun x =>
    let g := x.group f.a n
    let c := gw g 1
    let here := x.s.bindTile x.c.block
    let no := noTile x.c.block
    let same := fun (b : OpBody) => match b with | .mat m => m.kind == k | _ => false
    if x.teamFails same mmaShared g then x.trap .team x.act
    else x.readFmt g fun s fmt =>
      let m : Member :=
        { crew := x.k, token := t, g := g, pre := x.c.pre (gw g 0), regsA := x.rowsA g fmt
          aTile := if ctlA c = 0 then no else here (gw g 5)
          wTile := if c.getLsbD 2 then here (gw g 13) else no }
      let op : MatOp :=
        { kind := k, need := if x.owned then 1 else x.c.team, members := [m], acc := here (gw g 3)
          bTile := if ctlB c then no else here (gw g 7), fmt := fmt, list := []
          shadows := x.s.shadowsAt (x.s.blockTiles x.c.block) x.k x.js 0 [], step := 0, got := [], outs := [], wait := none
          started := false, ended := false, poisoned := false, fail := none }
      x.collect s m (decide (64 ≤ x.s.matsOn x.c.core)) (x.newOp t ⟨[], false⟩ (.mat op))

/-- MMA (R301). -/
def execMma (f : FSDA) (s : State) : Res := multiplyInstr s f .mma
/-- MMAO (R300). -/
def execMmao (f : FSDA) (s : State) : Res := multiplyInstr s f .mmao

/-- What an accumulator instruction states before its effect (R309). -/
def accInstrHead (f : FSDA) (k : MatKind) : Head :=
  let n := k.groupSize
  let t := f.d.toNat
  { st := f.s, fp := fun _ => { handles := [⟨f.a.toNat, n, 4⟩] }
    dyn := fun x =>
      let g := x.group f.a n
      (x.owned && !x.owns) || x.c.tokenBad t (gw g 0) || !accOk k g }

/-- An accumulator instruction (R309). -/
def accInstr (s : State) (f : FSDA) (k : MatKind) : Res :=
  let n := k.groupSize
  let t := f.d.toNat
  issue s (accInstrHead f k) fun x =>
    let g := x.group f.a n
    let no := noTile x.c.block
    if 64 ≤ x.s.matsOn x.c.core then x.stall
    else
      let m : Member := { crew := x.k, token := t, g := g, pre := x.c.pre (gw g 0), regsA := [], aTile := no, wTile := no }
      let op : MatOp :=
        { kind := k, need := 1, members := [m], acc := x.s.bindTile x.c.block (gw g 1)
          bTile := if n = 8 then x.s.bindTile x.c.block (gw g 4) else no, fmt := none, list := []
          shadows := x.s.shadowsAt (x.s.blockTiles x.c.block) x.k x.js 0 [], step := 0, got := [], outs := [], wait := none
          started := false, ended := false, poisoned := false, fail := none }
      let r := x.s.addOp (x.newOp t ⟨[], false⟩ (.mat op))
      x.done r.1 (x.c.modTok t fun _ => ⟨.pending r.2, 0, []⟩)

/-- MZERO (R309). -/
def execMzero (f : FSDA) (s : State) : Res := accInstr s f .mzero
/-- MSCAL (R309). -/
def execMscal (f : FSDA) (s : State) : Res := accInstr s f .mscal
/-- MCVT (R309). -/
def execMcvt (f : FSDA) (s : State) : Res := accInstr s f .mcvt
/-- MLOAD (R309). -/
def execMload (f : FSDA) (s : State) : Res := accInstr s f .mload

/-! ### Ownership (R288 to R290) -/

/-- The crew waits in MACQ. -/
def Issue.waitsOwner (x : Issue) : Bool :=
  (x.s.core x.c.core).ownq.any fun id => ((tget x.s.ops id).map fun o => o.crew == x.k).getD false

/-- What MACQ states before its effect (R290). -/
def macqHead (f : FSD) : Head :=
  let t := f.d.toNat
  { st := f.s, dyn := fun x => !x.owned || x.owns || x.waitsOwner || x.c.tokenBad t 0 }

/-- MACQ (R290). -/
def execMacq (f : FSD) (s : State) : Res :=
  let t := f.d.toNat
  issue s (macqHead f) fun x =>
    let r := x.s.addOp (x.newOp t ⟨[], false⟩ .acquire)
    let s := r.1.modCore x.c.core fun c => { c with ownq := c.ownq ++ [r.2] }
    let s := s.setCrew x.k (x.advanced (x.c.modTok t fun _ => ⟨.pending r.2, 0, []⟩))
    .next (s.grantOwner x.c.core)

/-- What MREL states before its effect (R290). -/
def mrelHead (f : FS) : Head :=
  { st := f.s, dyn := fun x => !x.owned || !x.owns }

/-- MREL (R290). -/
def execMrel (f : FS) (s : State) : Res :=
  issue s (mrelHead f) fun x =>
    let s := x.s.setCrew x.k (x.advanced x.c)
    .next ((s.modCore x.c.core fun c => { c with owner := none }).grantOwner x.c.core)

end Sys2Proof.Machine
end

