-- ==== Sys2Proof/Machine/Furlong.lean ====
section
/-! DEFINITION. The Furlong: MSEQ, the expansion of a macro into copies and matrix operations, and MSEQQ (R310 to
R316). -/

namespace Sys2Proof.Machine

/-! ### The parameter block (R312) -/

/-- A field of a parameter block: n bytes at an offset. -/
def pbNat (pb : List Byte) (off n : Nat) : Nat := bytesNat ((pb.drop off).take n)

/-- The kinds of macro (R310). -/
inductive Macro where
  | gemm | conv | state
  deriving DecidableEq, Repr

/-- The macro of a group's g1. -/
def macroOf (g : List Word) : Macro := if gw g 1 = 1 then .gemm else if gw g 1 = 2 then .conv else .state

/-- A macro in progress, with what it was given. -/
structure Plan where
  f : FurlongOp
  g : List Word
  pb : List Byte

/-- The macro's kind. -/
def Plan.kind (p : Plan) : Macro := macroOf p.g
/-- The address of the parameter block. -/
def Plan.addr (p : Plan) : Dword := gd p.g 2
/-- A field of the parameter block. -/
def Plan.at_ (p : Plan) (off n : Nat) : Nat := pbNat p.pb off n
/-- N. -/
def Plan.n (p : Plan) : Nat := p.at_ 0x0E 2
/-- M = 32 × T. -/
def Plan.m (p : Plan) : Nat := 32 * p.f.need
/-- The flags. -/
def Plan.flag (p : Plan) (i : Nat) : Bool := bit (p.at_ 9 1) i
/-- The element sizes of A and B. -/
def Plan.ea (p : Plan) : Nat := elemSize (parseFmt p.f.fb).a
/-- The element size of B. -/
def Plan.eb (p : Plan) : Nat := elemSize (parseFmt p.f.fb).b
/-- The store's format. -/
def Plan.store (p : Plan) : FFmt := accFmt (p.at_ 0x0B 1 % 8)
/-- The shape word of CONV. -/
def Plan.shape (p : Plan) : Word := BitVec.ofNat 32 (p.at_ 0x50 4)
/-- The chunk count (R313). -/
def Plan.chunks (p : Plan) : Nat :=
  match p.kind with
  | .gemm => p.at_ 0x48 4 / p.at_ 0x4C 4
  | .conv => p.at_ 0x48 4 * p.at_ 0x4C 4
  | .state => p.at_ 0x48 4

/-- The rows of B in a chunk, the K of its MMA (R313). -/
def Plan.depth (p : Plan) : Nat :=
  match p.kind with
  | .conv => shapeKw p.shape * (p.shape.extractLsb' 0 16).toNat
  | _ => p.at_ 0x4C 4

/-- The fields that the macro has no use for are 0, and its chunk count is a positive whole number (R312, R313). -/
def Plan.ok (p : Plan) : Bool :=
  p.at_ 9 1 < 8 && p.at_ 0x15 3 == 0 && p.at_ 0x5C 4 == 0 && p.at_ 0x78 8 == 0 &&
    (p.kind == .conv || (p.at_ 0x50 12 == 0 && p.at_ 0x68 16 == 0)) && (p.kind != .gemm || p.at_ 0x60 8 == 0) &&
    p.chunks != 0 && (p.kind != .gemm || p.at_ 0x48 4 % p.at_ 0x4C 4 == 0)

/-- The byte of the parameter block that holds a handle: 0 the accumulator's, 1 and 2 those of A0 and A1, 3 and 4 those of B0
and B1, 5 the staging tile's. -/
def Plan.handle (p : Plan) (i : Nat) : Word := BitVec.ofNat 32 (p.at_ (if i = 0 then 8 else 0x0F + i) 1)

/-- A tile of the macro, bound as a step that names it is issued (R260, R311). -/
def Plan.tile (p : Plan) (s : State) (block i : Nat) : Bound :=
  if i = 0 then s.bindTile block (p.handle 0) else s.bindData block (p.handle i)

/-- The operation a furlong entry holds. -/
def Op.furlong? (o : Op) : Option FurlongOp := match o.body with | .furlong f => some f | _ => none

/-- The plan of an operation whose parameter block has been read. -/
def Op.plan (o : Op) : Option Plan :=
  match o.furlong? with
  | some f => f.pb.map fun pb => ⟨f, (f.members.map (·.g)).headD [], pb⟩
  | none => none

/-- A macro's progress put back. -/
def State.putFurlong (s : State) (id : Nat) (f : FurlongOp) : State := s.modOp id fun o => { o with body := .furlong f }

/-! ### Steps (R313) -/

/-- The step number of an action: 2c for L(c), 2c + 1 for M(c), then E1 and E2. -/
def Plan.step (p : Plan) (a : Nat) : Nat :=
  match a % 4 with
  | 2 => 2 * (a / 4) + 1
  | 3 => 2 * p.chunks + a / 4
  | _ => 2 * (a / 4)

/-- Steps completed (R316): both copies make one. -/
def FurlongOp.steps (f : FurlongOp) : Nat :=
  (f.doneSteps.filter fun a => a % 4 == 2 || a % 4 == 3 || (a % 4 == 0 && f.doneSteps.contains (a + 1))).length

/-- How many actions of a kind have been issued. -/
def FurlongOp.count (f : FurlongOp) (k : Nat) : Nat := (f.issued.filter fun a => a % 4 == k).length

/-- The current chunk (R316): that of the action issued last; the last chunk once the store is issued. -/
def FurlongOp.chunk (f : FurlongOp) : Nat :=
  let a := f.issued.getLastD 0
  if a % 4 = 3 then f.count 2 - 1 else a / 4

/-- The actions that may be issued now (R313): loads wait for the multiply that read their buffers, a multiply for its
loads and, in chunk order, for the multiply before it to be issued, the store for the last multiply. -/
def Plan.ready (p : Plan) : List Nat :=
  let d := p.f.doneSteps
  let load := fun (k : Nat) =>
    let c := p.f.count k
    if c < p.chunks ∧ (c < 2 ∨ d.contains (4 * (c - 2) + 2)) then [4 * c + k] else []
  let c := p.f.count 2
  let mul := if c < p.chunks ∧ d.contains (4 * c) ∧ d.contains (4 * c + 1) then [4 * c + 2] else []
  let store :=
    if p.flag 1 && d.contains (4 * (p.chunks - 1) + 2) then
      (if !p.f.issued.contains 3 then [3] else if d.contains 3 && !p.f.issued.contains 7 then [7] else [])
    else []
  load 0 ++ load 1 ++ mul ++ store

/-- Every step has been done. -/
def Plan.complete (p : Plan) : Bool :=
  p.f.doneSteps.contains (if p.flag 1 then 7 else 4 * (p.chunks - 1) + 2)

/-- A 64-bit value as two group words. -/
def words2 (v : Nat) : List Word := [BitVec.ofNat 32 v, BitVec.ofNat 32 (v / 2 ^ 32)]

/-- A CPYT group for rows of e0 bytes at a pitch; none when a field cannot hold its value. -/
def boxGroup (out : Bool) (base handle e0 rows pitch : Nat) : Option (List Word) :=
  if e0 < 2 ^ 16 ∧ rows < 2 ^ 16 then
    some ([0, if out then 2 else 0] ++ words2 base ++
      [BitVec.ofNat 32 handle, 0, BitVec.ofNat 32 (e0 + 2 ^ 16 * rows), 1] ++ words2 pitch ++ [0, 0])
  else none

/-- The copy of an action: its variant, group and the tile it names; none when its fields break the copy's limits. -/
def Plan.copyOf (p : Plan) (a : Nat) : Option (CopyKind × List Word × Nat) :=
  let c := a / 4
  let bufA := p.at_ (0x10 + c % 2) 1
  let bufB := p.at_ (0x12 + c % 2) 1
  let pitchB := p.at_ 0x40 8
  let r : Option (CopyKind × List Word × Nat) := match a % 4, p.kind with
    | 3, _ =>
      (boxGroup true (p.at_ 0x18 8) (p.at_ 0x14 1) (p.n * fmtBytes p.store) p.m (p.at_ 0x20 8)).map fun g => (.cpyt, g, 5)
    | 0, .conv =>
      let base := p.at_ 0x28 8 + c / p.at_ 0x4C 4 * p.at_ 0x60 8 + c % p.at_ 0x4C 4 * p.at_ 0x68 8
      some (.cpyw, [0, 0] ++ words2 base ++ [BitVec.ofNat 32 bufA, 0, p.shape, BitVec.ofNat 32 p.m,
        BitVec.ofNat 32 (p.at_ 0x54 4), BitVec.ofNat 32 (p.at_ 0x58 4)] ++ words2 (p.at_ 0x30 8), 1 + c % 2)
    | 0, _ =>
      (boxGroup false (p.at_ 0x28 8 + c * p.depth * p.ea) bufA (p.depth * p.ea) p.m (p.at_ 0x30 8)).map fun g =>
        (.cpyt, g, 1 + c % 2)
    | _, .conv =>
      (boxGroup false (p.at_ 0x38 8 + c * p.at_ 0x70 8) bufB (p.n * p.eb) p.depth pitchB).map fun g => (.cpyt, g, 3 + c % 2)
    | _, _ =>
      (boxGroup false (p.at_ 0x38 8 + c * p.depth * pitchB) bufB (p.n * p.eb) p.depth pitchB).map fun g =>
        (.cpyt, g, 3 + c % 2)
  r.filter fun x => copyOk x.1 x.2.1 1

/-- The group of M(c), for the member of rank j (R311, R313). -/
def Plan.mulGroup (p : Plan) (s : State) (block c j : Nat) (scale : Word) : List Word :=
  let rb := rowLen (s.bound (p.tile s block (1 + c % 2)))
  let ctl := (if p.flag 0 && c == 0 then 1 else 0) + (if p.flag 2 then 2 else 0) + 32 * ((p.at_ 0x0A 1 + 15) % 16) + 512 +
    4096 * (p.n / 128)
  [0, BitVec.ofNat 32 ctl, BitVec.ofNat 32 p.depth, BitVec.ofNat 32 (p.at_ 8 1), BitVec.ofNat 32 (p.at_ 0x0C 2),
    BitVec.ofNat 32 (p.at_ (0x10 + c % 2) 1), BitVec.ofNat 32 (32 * j * rb), BitVec.ofNat 32 (p.at_ (0x12 + c % 2) 1), 0, 0] ++
    words2 (p.at_ 0 8) ++ [scale, 0, 0, 0]

/-- N and P of the parameter block are ones an MMA allows. -/
def Plan.mulOk (p : Plan) : Bool :=
  (p.n == 64 || p.n == 128 || p.n == 256) && decide (1 ≤ p.at_ 0x0A 1) && decide (p.at_ 0x0A 1 ≤ 16)

/-- A step's operation, which works for the macro and has no token of its own. -/
def Op.stepOp (o : Op) (id a : Nat) (body : OpBody) : Op :=
  { o with token := none, parent := some (id, a), pre := ⟨[], false⟩, order := none, body := body }

/-- A member of a step's matrix operation. -/
def stepMember (m : Member) (g : List Word) (a : Bound) : Member :=
  { m with g := g, pre := ⟨[], false⟩, regsA := [], aTile := a, wTile := ⟨0, 0, none⟩ }

/-- A step's matrix operation. -/
def stepMat (k : MatKind) (members : List Member) (acc other : Bound) (olds : Olds) : OpBody :=
  .mat { kind := k, need := members.length, members := members, acc := acc, bTile := other, fmt := none, list := []
         shadows := olds, step := 0, got := [], outs := [], wait := none, started := false, ended := false, poisoned := false
         fail := none }

/-- A step that fails before its operation is issued. -/
def State.stepFails (s : State) (id a : Nat) (c : Cause) (addr : Dword) : State :=
  s.stepDone id a true (some ⟨c.code, 0, false, 0, addr⟩)

/-- A macro whose end is to come: it issues no further step. -/
def State.overMacro (s : State) (id : Nat) (f : FurlongOp) : State :=
  (s.putFurlong id { f with poisoned := true, over_ := true, wait := none }).push (.furlongStep id)

/-- The step that a macro's reads serve: the first that may be issued. -/
def Op.nextStep (o : Op) : Nat := match o.plan with | some p => p.ready.headD 0 | none => 0

/-- Action a of a macro fails at something it reads before its operation is issued. -/
def State.failAction (s : State) (id a : Nat) (f : FurlongOp) (c : Cause) (addr : Dword) : State :=
  (s.putFurlong id { f with issued := if f.pb.isNone || f.fb.isEmpty then f.issued else f.issued ++ [a] }).stepFails id a c addr

/-- One part of a range fetched for a macro; a failure is that of action a. -/
def State.furlongFetch (s : State) (id a : Nat) (o : Op) (f : FurlongOp) (p : Dword × Nat) : State :=
  match s.fetchPart o p with
  | .bytes bs => s.putFurlong id { f with got := Got.add f.got p.1 bs }
  | .ask pa => (s.opAsk o (.mat id) p.1 pa p.2 .read).putFurlong id { f with wait := some s.nextId }
  | .hold => s
  | .bad c => s.failAction id a f c p.1
  | .mark => (s.contain 10 (some o.block) ((tget s.blocks o.block).map (·.ctx))).overMacro id f

/-- What action a of a macro reads for itself: the scale of M(c) in the decay list, for STATE (R313). -/
def Plan.scaleAt (p : Plan) (a : Nat) : List (Dword × Nat) :=
  if a % 4 = 2 ∧ p.kind = .state ∧ p.flag 2 then [(BitVec.ofNat 64 (p.at_ 0x60 8 + 4 * (a / 4)), 4)] else []

/-- The scale of M(c): the FP32 word of the decay list for STATE, else 1.0 (R313). -/
def Plan.scale (p : Plan) (a : Nat) : MRun Word :=
  match p.scaleAt a with
  | [] => .ok 0x3F800000
  | r :: _ => (Got.descriptor p.f.got r.1 4).map fun bs => BitVec.ofNat 32 (bytesNat bs)

/-- The core's engines have room for action a: for a copy, or for a matrix operation (R261, R287). -/
def State.stepRoom (s : State) (core a : Nat) : Bool :=
  if a % 4 = 2 ∨ a = 3 then decide (s.matsOn core < 64) else decide (s.copiesOn core < 256)

/-- One action issued, when what it reads for itself has been fetched (R311, R313). Its tiles are bound now. -/
def State.issueStep (s : State) (id : Nat) (o : Op) (p : Plan) (a : Nat) : State :=
  let tile := p.tile s o.block
  let olds := fun (bs : List Bound) => s.shadowsAt bs o.crew o.slices o.born p.f.shadows
  let f := { p.f with
    issued := p.f.issued ++ [a], got := [], acc := if a % 4 = 2 ∨ a = 3 then some (tile 0) else p.f.acc }
  let s1 := s.putFurlong id f
  if a % 4 = 2 then
    match p.scale a with
    | .error e => s1.stepFails id a e.cause e.addr
    | .ok sc =>
      let ms := p.f.members.map fun m =>
        let j := ((tget s.crews m.crew).map fun c => c.crewIx % p.f.need).getD 0
        stepMember m (p.mulGroup s o.block (a / 4) j sc) (tile (1 + a / 4 % 2))
      if p.mulOk && (ms.all fun m => mmaOk false m.g) then
        (s1.addOp (o.stepOp id a (stepMat .mma ms (tile 0) (tile (3 + a / 4 % 2)) (olds (s.blockTiles o.block))))).1
      else s1.stepFails id a .illegal p.addr
  else if a = 3 then
    let g := [0, p.handle 0, BitVec.ofNat 32 (p.at_ 0x0C 2 + 2 ^ 16 * p.m), BitVec.ofNat 32 (p.at_ 0x0B 1), p.handle 5, 0, 0, 0]
    if accOk .mcvt g then
      (s1.addOp (o.stepOp id a (stepMat .mcvt ((p.f.members.take 1).map fun m => stepMember m g ⟨0, 0, none⟩)
        (tile 0) (tile 5) (olds [tile 0])))).1
    else s1.stepFails id a .illegal p.addr
  else
    match p.copyOf a with
    | some (k, g, i) =>
      let none_ : Bound := ⟨o.block, 0, none⟩
      let b := tile i
      let c : CopyOp :=
        { kind := k, g := g, src := if a = 7 then b else none_, dst := if a = 7 then none_ else b, idx := none_
          shadows := if a = 7 then olds [b] else [], started := false, todo := [], held := [], idxs := [], asks := []
          marking := false, peers := [], lines := [], finished := false, poisoned := false, fail := none }
      (s1.addOp (o.stepOp id a (.copy c))).1
    | none => s1.stepFails id a .illegal p.addr

/-! ### Starting and ending a macro (R310, R311, R314) -/

/-- The bytes of an element of C as it is marked: those of the store's format; 1, 2 or 4, an open value, when the format is
none of R309. -/
def State.storeBytes (s : State) (p : Plan) : Nat :=
  if p.at_ 0x0B 1 % 8 ≤ 4 then fmtBytes p.store else 2 ^ (s.free 0 2 % 3)

/-- What a macro marks when it fails or starts poisoned (R305, R314): its accumulator block, and its C destination when it
stores; what of that lies in peer memory is still to be written. -/
def State.markMacro (s : State) (o : Op) (p : Plan) : Marking :=
  let acc := p.f.acc.getD (p.tile s o.block 0)
  let s := s.modLevel acc true fun t => t.markRows (p.at_ 0x0C 2 * t.rowBytes) (4 * p.n) p.m
  if p.flag 1 then
    (List.range p.m).foldl (fun (r : Marking) i =>
      r.range o.core (BitVec.ofNat 64 (p.at_ 0x18 8 + i * p.at_ 0x20 8)) (p.n * s.storeBytes p)) ⟨s, [], []⟩
  else ⟨s, [], []⟩

/-- The next macro of a core in start order, while none runs there but those saved with their blocks (R311, R315). -/
def State.nextMacro (s : State) (core : Nat) : Option Nat :=
  let here := fun (e : Nat × Op) => e.2.core == core && !s.blockOut e.2.block
  if s.ops.any fun e => here e && (match e.2.furlong? with | some f => f.started | none => false) then none
  else
    (s.ops.foldl (fun (r : Option (Nat × Nat)) e => match e.2.furlong?, e.2.order with
      | some _, some n =>
        if !here e then r
        else match r with
          | some p => if n < p.1 then some (n, e.1) else r
          | none => some (n, e.1)
      | _, _ => r) none).map (·.2)

/-- A macro ends (R311, R314): its tokens complete. -/
def State.endMacro (s : State) (id : Nat) (o : Op) (f : FurlongOp) : State :=
  let s := match f.failed with
    | some (a, e) =>
      let st := match o.plan with | some p => p.step a | none => 0
      o.tokens.foldl (fun (s : State) (t : Nat × Nat) => s.modCrew t.1 fun c => c.addEfr { e with token := t.2, step := st }) s
    | none => s
  let s := s.finishOp id (s.teamBytes id o) (f.poisoned || f.failed.isSome) none
  f.members.foldl (fun (s : State) m => s.modCrew m.crew fun c =>
    { c with macros := tset c.macros m.token (false, f.steps, f.chunk) }) s

/-- A macro that has failed or whose preconditions were poisoned marks what R305 and R314 say, then ends. -/
def State.wreckMacro (s : State) (id : Nat) (o : Op) (f : FurlongOp) : State :=
  match o.plan with
  | some p =>
    let r := s.markMacro o p
    r.s.putFurlong id { f with marking := true, peers := r.peers }
  | none => s.putFurlong id { f with marking := true }

/-- The global ranges that a macro needs before its first step: its parameter block, then the format block (R310, R312). -/
def FurlongOp.wants (f : FurlongOp) : List (Dword × Nat) :=
  match f.pb with
  | none => [(gd ((f.members.map (·.g)).headD []) 2, 128)]
  | some pb => if f.fb.isEmpty then [(BitVec.ofNat 64 (pbNat pb 0 8), 64)] else []

/-- A macro takes the block it has fetched. With a poisoned precondition it makes no step. -/
def State.takeBlock (s : State) (id : Nat) (o : Op) (f : FurlongOp) : State :=
  match f.wants with
  | [] => s
  | r :: _ =>
    match Got.descriptor f.got r.1 r.2 with
    | .error e => s.stepFails id 0 e.cause e.addr
    | .ok bs =>
      if f.pb.isNone then
        let f := { f with pb := some bs, got := [] }
        if o.poisonedPre then s.overMacro id f else s.putFurlong id f
      else
        let f := { f with fb := bs, got := [] }
        let s := s.putFurlong id f
        if (Plan.mk f ((f.members.map (·.g)).headD []) (f.pb.getD [])).ok then s
        else s.stepFails id 0 .illegal (gd ((f.members.map (·.g)).headD []) 2)

/-- A macro can start: it is the next in start order, none runs on its core, and its slices' earlier accesses have been
performed (R221, R232, R311). -/
def State.macroReady (s : State) (id : Nat) (o : Op) (f : FurlongOp) : Bool :=
  !f.started && o.mayStart s.clk && s.nextMacro o.core == some id && !s.opOwes o

/-- The action that a macro goes on with: the first that may be issued and for which there is room. -/
def State.nextAction (s : State) (o : Op) (p : Plan) : Option Nat := p.ready.find? fun a => s.stepRoom o.core a

/-- The next step of a running macro (R311, R313, R314): it fetches its blocks, issues an action, marks what it must, or
ends. -/
def State.macroStep (s : State) (id : Nat) (o : Op) (f : FurlongOp) : State :=
  if f.over_ || f.failed.isSome then
    if !(f.issued.all fun a => f.doneSteps.contains a) then s
    else if !f.marking then s.wreckMacro id o f
    else match f.peers with
      | p :: _ =>
        (s.opAsk o (.mat id) p.1 p.2.1 p.2.2 (.write (List.replicate p.2.2 0) (List.range p.2.2))).putFurlong id
          { f with wait := some s.nextId }
      | [] => s.endMacro id o f
  else
    match f.wants with
    | _ :: _ =>
      match Got.missing f.got f.wants with
      | q :: r => s.furlongFetch id 0 o f ((q :: r).getD (s.pick 19 id (r.length + 1)) q)
      | [] => s.takeBlock id o f
    | [] =>
      match o.plan with
      | some p =>
        if p.complete then s.endMacro id o f
        else match s.nextAction o p with
          | some a =>
            match Got.missing f.got (p.scaleAt a) with
            | q :: _ => s.furlongFetch id a o f q
            | [] => s.issueStep id o p a
          | none => s
      | none => s

/-- A running macro has something to do now. -/
def State.macroGoes (s : State) (o : Op) (f : FurlongOp) : Bool :=
  f.started && f.wait.isNone &&
    (if f.over_ || f.failed.isSome then f.issued.all fun a => f.doneSteps.contains a
     else !f.wants.isEmpty || (match o.plan with
       | some p => p.complete || (s.nextAction o p).isSome
       | none => false))

/-- FURLONG_STEP (R311, R313, R314): a macro starts, goes on, or ends. -/
def execFurlongStep (s : State) : Res :=
  match s.ev with
  | some (.furlongStep id) =>
    match tget s.ops id with
    | some o =>
      match o.furlong? with
      | some f =>
        if s.macroGoes o f then .next (s.macroStep id o f)
        else if s.macroReady id o f then .next (s.putFurlong id { f with started := true })
        else .next s
      | none => .next s
    | none => .next s
  | _ => .fault .noGang

/-- A macro goes on when a peer has answered its fetch, or the write of a mark. -/
def State.furlongAnswer (s : State) (id : Nat) (o : Op) (f : FurlongOp) (r : PeerReq) (a : Option Resp) : State :=
  let f := { f with wait := none }
  if f.marking then s.putFurlong id { f with peers := f.peers.drop 1 }
  else
    let fail := fun (c : Cause) => s.failAction id o.nextStep f c r.va
    match a with
    | some (.data bs bad) =>
      s.putFurlong id { f with got := Got.add f.got r.va (bs.zipIdx.map fun e => (e.1, bad.contains e.2)) }
    | some .revoked => fail .revoked
    | _ => fail .protect

/-- What a peer's answer to a matrix or macro operation does. -/
def State.engineAnswer (s : State) (id : Nat) (r : PeerReq) (a : Option Resp) : State :=
  match tget s.ops id with
  | some o =>
    match o.furlong? with
    | some f => s.furlongAnswer id o f r a
    | none => s.matAnswer id r a
  | none => s

/-! ### Issue (R285, R287, R310, R316) -/

/-- A macro's group is legal (R310). -/
def macroOk (g : List Word) : Bool :=
  decide (1 ≤ (gw g 1).toNat) && decide ((gw g 1).toNat ≤ 3) && (gw g 2).extractLsb' 0 7 == 0

/-- What MSEQ states before its effect (R310). -/
def mseqHead (s : State) (f : FSDA) : Head :=
  let t := f.d.toNat
  { st := f.s, guard := if s.ownerMode then .lane else .gang
    fp := fun _ => { handles := [r4 f.a] }
    word := fun x => !x.owned && !x.holdsCrew
    dyn := fun x =>
      let g := x.group f.a 4
      (x.owned && !x.owns) || x.c.tokenBad t (gw g 0) || !macroOk g }

/-- MSEQ (R310). -/
def execMseq (f : FSDA) (s : State) : Res :=
  let t := f.d.toNat
  issue s (mseqHead s f) fun x =>
    let g := x.group f.a 4
    let same := fun (b : OpBody) => match b with | .furlong _ => true | _ => false
    if x.teamFails same [1, 2, 3] g then x.trap .team x.act
    else
      let no := noTile x.c.block
      let m : Member := { crew := x.k, token := t, g := g, pre := x.c.pre (gw g 0), regsA := [], aTile := no, wTile := no }
      let op : FurlongOp :=
        { need := if x.owned then 1 else x.c.team, members := [m], shadows := x.s.shadowsAt (x.s.blockTiles x.c.block) x.k x.js 0 [], pb := none, fb := [], acc := none, started := false
          doneSteps := [], issued := [], failed := none, poisoned := false, over_ := false, marking := false, peers := []
          got := [], wait := none }
      let held := (x.s.ops.filter fun e => e.2.core == x.c.core && !x.s.blockOut e.2.block && e.2.furlong?.isSome).length
      x.collect x.s m (decide (8 ≤ held)) (x.newOp t ⟨[], false⟩ (.furlong op))

/-- What MSEQQ reports of a token (R316). -/
def State.macroReport (s : State) (c : Crew) (t : Nat) : Word × Word :=
  let hi := fun (chunk step st : Nat) => BitVec.ofNat 32 (chunk % 2 ^ 16 * 2 ^ 16 + step * 2 ^ 8 + st)
  match (c.tok t).st with
  | .pending id =>
    match (tget s.ops id).bind Op.furlong? with
    | some f =>
      let a := f.issued.getLastD 0
      let step := if f.issued.isEmpty then 0 else if a = 3 then 3 else if a = 7 then 4 else if a % 4 = 2 then 2 else 1
      (BitVec.ofNat 32 f.steps, hi f.chunk step (if f.started then 2 else 1))
    | none => (0, 0)
  | .free => (0, 0)
  | st =>
    match tget c.macros t with
    | some (false, n, ch) => (BitVec.ofNat 32 n, hi ch 0 (if st = .poisoned then 4 else 3))
    | _ => (0, 0)

/-- What MSEQQ states before its effect (R316). -/
def mseqqHead (f : FSDA) : Head :=
  { st := f.s, fp := fun _ => { handles := [r1 f.a], writes := [r2 f.d] }
    dyn := fun x => decide (32 ≤ (x.reg (lowest x.act) f.a.toNat).toNat) }

/-- MSEQQ (R316). -/
def execMseqq (f : FSDA) (s : State) : Res :=
  issue s (mseqqHead f) fun x =>
    let r := x.s.macroReport x.c (x.reg (lowest x.act) f.a.toNat).toNat
    x.done x.s (x.write fun _ => wrN f.d.toNat [r.1, r.2])

end Sys2Proof.Machine
end

