-- ==== Sys2Proof/Machine/Launch.lean ====
section
/-! DEFINITION. Bind rounds, slot tables and dispatch (R117, R118, R147 to R154). -/

namespace Sys2Proof.Machine

/-! ### Bind records (R150) -/

/-- A record's fields. -/
structure Rec where
  launch : Nat
  first : Nat
  count : Nat
  mask : Nat
  crews : Nat
  slices : Nat
  team : Nat
  regs : Nat
  tm : Nat
  os : Nat
  prio : Nat
  overlap : Bool
  deriving DecidableEq, Repr

/-- A record's fields from its bits. -/
def Rec.ofNat (v : Nat) : Rec :=
  { launch := bits v 255 192, first := bits v 191 160, count := bits v 159 128, mask := bits v 127 112
    crews := bits v 103 96, slices := bits v 95 88, team := bits v 87 80, regs := bits v 79 64, tm := bits v 63 48
    os := bits v 47 32, prio := bits v 3 1, overlap := bit v 0 }

/-- A record's bits. -/
def Rec.toNat (r : Rec) : Nat :=
  r.launch * 2 ^ 192 + r.first * 2 ^ 160 + r.count * 2 ^ 128 + r.mask * 2 ^ 112 + r.crews * 2 ^ 96 + r.slices * 2 ^ 88 +
    r.team * 2 ^ 80 + r.regs * 2 ^ 64 + r.tm * 2 ^ 48 + r.os * 2 ^ 32 + r.prio * 2 + r.overlap.toNat

/-- The cores of a mask in a group, ascending. -/
def maskCores (group mask : Nat) : List Nat := ((List.range 16).filter fun i => bit mask i).map (16 * group + ·)

/-- Every field of a record is in its range, and its mask has one core for each block of a cluster (R150, R151). -/
def State.recOk (s : State) (core : Nat) (r : Rec) : Bool :=
  match tget s.nodes r.launch with
  | some n =>
    let cl := bits (s.nodeBits r.launch (n.keptFor r.first)) 703 696
    (n.kind == 4 || n.kind == 5) && decide (1 ≤ r.count) && r.count % cl == 0 && (maskCores 0 r.mask).length == cl &&
      (maskCores (core / 16) r.mask).head? == some core && decide (1 ≤ r.crews) && decide (r.crews ≤ 64) &&
      decide (1 ≤ r.slices) && decide (r.slices ≤ 8) && r.team != 1 && decide (r.team ≤ 8) && decide (16 ≤ r.regs) &&
      decide (r.regs ≤ 256) && r.regs % 16 == 0 && decide (r.tm ≤ 1536) && decide (r.os ≤ 2048)
  | none => false

/-! ### Resources (R148, R154) -/

/-- What a block takes: its node, core, context, crews, slices per crew, registers per lane, quotas in 256-byte units. -/
structure Use where
  node : Nat
  core : Nat
  ctx : Nat
  crews : Nat
  slices : Nat
  regs : Nat
  tm : Nat
  os : Nat
  deriving DecidableEq, Repr

/-- Registers of a block. -/
def Use.lanesRegs (u : Use) : Nat := u.crews * u.slices * 4 * u.regs

/-- The resident blocks' use. -/
def State.resident (s : State) : List Use :=
  s.blocks.filterMap fun e =>
    if e.2.out then none
    else some ⟨e.2.node, e.2.core, e.2.ctx, e.2.crews, e.2.slices, e.2.regs, e.2.tmquota, e.2.osquota⟩

/-- The use of one block of a record on a core. -/
def State.useOf (s : State) (r : Rec) (core : Nat) : Use :=
  ⟨r.launch, core, ((tget s.nodes r.launch).map (·.ctx)).getD 0, r.crews, r.slices, r.regs, r.tm, r.os⟩

/-- The words on their way to a core's CORE_SLOTIN. -/
def State.slotWords (s : State) (core : Nat) : List Dword :=
  s.due.filterMap fun e => match e with | .coreSlotin k w => if k = core then some w else none | _ => none

/-- The records that words make, four words each, lowest first. -/
def recsOf : List Dword → List Rec
  | a :: b :: c :: d :: r => Rec.ofNat (a.toNat + b.toNat * 2 ^ 64 + c.toNat * 2 ^ 128 + d.toNat * 2 ^ 192) :: recsOf r
  | _ => []

/-- The records a core holds or will hold, with how many of their blocks exist. -/
def State.pendingRecs (s : State) (core : Nat) : List (Rec × Nat) :=
  (s.core core).slots.map (fun x => (Rec.ofNat x.bits.toNat, x.made)) ++
    (recsOf ((s.core core).slotin ++ s.slotWords core)).map fun r => (r, 0)

/-- What the records of a core will take once dispatched. -/
def State.pendingUse (s : State) (core : Nat) : List Use :=
  (s.pendingRecs core).flatMap fun e =>
    let ks := maskCores (core / 16) e.1.mask
    (List.range (e.1.count - e.2)).map fun i => s.useOf e.1 (ks.getD (i % ks.length) core)

/-- Cores that hold records or words of them. -/
def State.slotCores (s : State) : List Nat :=
  ((s.cores.filterMap fun e => if e.2.slots.isEmpty && e.2.slotin.isEmpty then none else some e.1) ++
    (s.due.filterMap fun e => match e with | .coreSlotin k _ => some k | _ => none)).dedup

/-- What resident and recorded blocks take. -/
def State.uses (s : State) : List Use := s.resident ++ (s.slotCores.flatMap s.pendingUse)

/-- The crews of n that a port takes (R156). -/
def portCrews (n p : Nat) : Nat := (n + 3 - p) / 4

/-- What the tiles of retired blocks that engine operations still name hold of a core's level (R162, R267). -/
def State.orphaned (s : State) (core : Nat) (os : Bool) : Nat :=
  ((s.orphans.filter fun e => e.2.core == core && e.2.tile.os == os).map fun e => tileCharge e.2.tile.rows e.2.tile.rowBytes).sum

/-- A core's free resources cover some blocks (R148, R154, R155): it is not draining or saving, runs no other context, and
has room for the crews of each port, the registers, the tile memory and the operand store. -/
def State.covers (s : State) (us : List Use) (core : Nat) (more : List Use) : Bool :=
  let c := s.core core
  let all := (us.filter fun u => u.core == core) ++ more
  let sum := fun (f : Use → Nat) => (all.map f).sum
  !c.draining && !c.saving && (all.all fun u => some u.ctx == (more.head?.map (·.ctx))) &&
    ((List.range 4).all fun p => decide (sum (fun u => portCrews u.crews p) ≤ 16)) && decide (sum Use.lanesRegs ≤ 262144) &&
    decide (sum (·.tm) + s.orphaned core false ≤ 1536) && decide (sum (·.os) + s.orphaned core true ≤ 2048)

/-- A node's ancestors keep within their budgets when some blocks are added (R136, R148). -/
def State.budgetOk (s : State) (us : List Use) (node : Nat) (more : List Use) : Bool :=
  (s.chain node).all fun a =>
    let mine := (us.filter fun u => (s.chain u.node).contains a) ++ more
    let sum := fun (f : Use → Nat) => (mine.map f).sum
    decide ((mine.map (·.core)).dedup.length ≤ s.eff a 0) && decide (sum (·.crews) ≤ s.eff a 1) &&
      decide (sum (fun u => 4 * u.lanesRegs) ≤ 1024 * s.eff a 2) && decide (sum (fun u => 256 * u.tm) ≤ 1024 * s.eff a 3) &&
      decide (sum (fun u => 256 * u.os) ≤ 1024 * s.eff a 4)

/-! ### Bind rounds (R147, R148) -/

/-- The record of a node's next cluster, its mask still to be given. Its launch field holds the node's physical address (log
entry 93). -/
def State.nextRec (s : State) (pa : Nat) (n : Node) : Rec :=
  let v := s.nodeBits pa n
  { launch := pa, first := n.bound, count := bits v 703 696, mask := 0, crews := bits v 679 672, slices := bits v 687 680
    team := bits v 695 688, regs := bits v 719 704, tm := bits v 767 736 / 256, os := bits v 799 768 / 256
    prio := s.eff pa 6, overlap := bit v 800 }

/-- The cores that a context's blocks may be bound to: its die's in split mode (R147). -/
def State.coresFor (s : State) (ctx : Nat) : List Nat :=
  if s.pkg.split then (List.range 128).map (128 * ((tget s.ctxs ctx).map (·.info.die)).getD 0 + ·) else List.range 256

/-- The cores of a node's next cluster: the lowest core or the lowest 16-core group whose free resources cover it and
whose slot table has room (R148). -/
def State.place (s : State) (us : List Use) (r : Rec) (ctx : Nat) : Option (List Nat) :=
  let room := fun (k : Nat) => decide ((s.pendingRecs k).length < 64)
  let fits := (s.coresFor ctx).filter fun k => s.covers us k [s.useOf r k]
  if r.count = 1 then (fits.find? room).map fun k => [k]
  else
    let groups := ((s.coresFor ctx).map (· / 16)).dedup
    (groups.map fun g => (fits.filter fun k => k / 16 == g).take r.count).find? fun ks =>
      ks.length == r.count && room (ks.headD 0)

/-- A record written to a core: its four words, lowest first (R151). -/
def State.writeRec (s : State) (core : Nat) (r : Rec) : State :=
  { s with due := s.due ++ (List.range 4).map fun i => Event.coreSlotin core (BitVec.ofNat 64 (r.toNat / 2 ^ (64 * i))) }

/-- As many blocks of a node bound as resources and budgets cover, cluster by cluster. -/
def State.bindNode (s : State) (pa : Nat) : Nat → State
  | 0 => s
  | fuel + 1 =>
    match tget s.nodes pa with
    | none => s
    | some n =>
      if s.blocksOf pa n ≤ n.bound then s
      else
        let r := s.nextRec pa n
        let us := s.uses
        match s.place us r n.ctx with
        | none => s
        | some ks =>
          let r := { r with mask := (ks.map fun k => 2 ^ (k % 16)).sum }
          if s.budgetOk us pa (ks.map (s.useOf r)) then
            ((s.writeRec (ks.headD 0) r).modNode pa fun n =>
              { n with bound := n.bound + r.count, binds := n.binds ++ [(n.bound + r.count, n.kept, (List.range 10).map (s.eff pa))] }).bindNode pa fuel
          else s

/-- What a bind round of a queue binds, in this order (R148, log entry 94): its head launch, once its start condition holds,
then its ready task nodes by physical address. -/
def State.bindable (s : State) (q : Nat) : List Nat :=
  let todo := s.nodes.filter fun e => e.2.parent == q && (e.2.kind == 4 || e.2.kind == 5) && decide (e.2.bound < s.blocksOf e.1 e.2)
  let firstLaunch := (todo.filter fun e => e.2.kind == 4).foldl (fun (r : Option (Nat × Node)) e => match r with
    | some p => if e.2.order < p.2.order then some e else r
    | none => some e) none
  (match firstLaunch with
   | some e => if s.startOk e.2 (bit (s.nodeBits e.1 e.2) 800) then [e.1] else []
   | none => []) ++ ((todo.filter fun e => e.2.kind == 5 && e.2.ready).map (·.1))

/-- A queue has something to bind. -/
def State.queueWork (s : State) (q : Nat) : Bool :=
  (s.queues.any fun e => e.node == q) && (match tget s.nodes q with
    | some n => !((tget s.ctxs n.ctx).map (·.stopped)).getD true
    | none => false) && !(s.bindable q).isEmpty

/-- The binder core that serves a queue, 2 × die + core (R147). -/
def State.binderOf (s : State) (e : QueueEnt) : Nat :=
  if s.pkg.split then 2 * e.die + e.num % 2 else 2 * (e.num / 2 % 2) + e.num % 2

/-- A queue has work and its round may come: its monitor has woken the firmware, or 2 µs have passed since its last (R148). -/
def State.roundDue (s : State) (e : QueueEnt) : Bool :=
  s.queueWork e.node && (e.woken || e.turn == 0 || decide (e.lastAt + 3600 ≤ s.clk))

/-- A queue comes before another of its binder core (R148): by effective prio, then the one served longest ago. -/
def State.queueBefore (s : State) (a b : QueueEnt) : Bool :=
  let pa := s.eff a.node 6
  let pb := s.eff b.node 6
  decide (pb < pa) || (pa == pb && (decide (a.turn < b.turn) || (a.turn == b.turn && decide (a.num < b.num))))

/-- The rounds that may come next: the first in turn at each binder core (R147, R148). -/
def State.rounds (s : State) : List Event :=
  let es := s.queues.filter s.roundDue
  (es.filter fun e => es.all fun f => s.binderOf f != s.binderOf e || !s.queueBefore f e).map fun e => .bindRound e.node

/-- A queue whose round has come. -/
def State.served (s : State) (q : Nat) : State :=
  { s with queues := s.queues.map fun e => if e.node = q then { e with turn := s.fresh, lastAt := s.clk, woken := false } else e }

/-- BIND_ROUND (R148): the firmware reads the nodes of one queue again (R138) and writes its records. -/
def execBindRound (s : State) : Res :=
  match s.ev with
  | some (.bindRound q) =>
    if !s.queueWork q then .next s
    else
      let ns := s.bindable q
      let ctx := (tget s.nodes q).map (·.ctx)
      match ns.find? fun pa => s.nodeTainted pa, ns.find? fun pa => (s.chain pa).any fun a => s.marked a 256 with
      | some _, _ => .fault .nodeUndefined
      | none, some pa =>
        let hit := ((s.chain pa).find? fun a => s.marked a 256).getD pa
        .next ((s.served q).contain (nodeRow (((tget s.nodes hit).map (·.kind)).getD 4)) none ctx)
      | none, none => .next (ns.foldl (fun (s : State) pa => (s.reread pa).bindNode pa 65536) (s.served q))
  | _ => .fault .noGang

/-! ### The slot table (R151, R152) -/

/-- CORE_SLOTIN (R151): the fourth word appends the record; one that is malformed sets bad, one that finds the table full sets
ovf, and either is discarded. -/
def execCoreSlotin (s : State) : Res :=
  match s.ev with
  | some (.coreSlotin k w) =>
    let c := s.core k
    let ws := c.slotin ++ [w]
    match recsOf ws with
    | r :: _ =>
      let full := decide (64 ≤ c.slots.length)
      let ok := s.recOk k r
      .next (s.modCore k fun c => { c with
        slotin := []
        ovf := c.ovf || full
        bad := c.bad || !ok
        slots := if ok && !full then c.slots ++ [⟨BitVec.ofNat 256 r.toNat, 0⟩] else c.slots })
    | [] => .next (s.modCore k fun c => { c with slotin := ws })
  | _ => .fault .noGang

/-! ### Dispatch (R117, R118, R153 to R155) -/

/-- The head record of a core, with its blocks already created. -/
def State.headRec (s : State) (core : Nat) : Option (Rec × Nat) :=
  (s.core core).slots.head?.map fun x => (Rec.ofNat x.bits.toNat, x.made)

/-- What the cluster records at the head of other tables still need on a core (R154). -/
def State.reservedOn (s : State) (core : Nat) : List Use :=
  s.cores.filterMap fun e =>
    if e.1 = core then none
    else match s.headRec e.1 with
      | some (r, _) => if (maskCores (e.1 / 16) r.mask).contains core then some (s.useOf r core) else none
      | none => none

/-- The next blocks of a core's head record can be created at this clock (R154). -/
def State.dispatchOk (s : State) (core : Nat) : Bool :=
  match s.headRec core with
  | some (r, _) =>
    match tget s.nodes r.launch with
    | some n =>
      let ks := maskCores (core / 16) r.mask
      let c := s.core core
      ((tget s.ctxs n.ctx).map (·.stopped)).getD true && !c.draining && !c.saving ||
        (s.startOk n r.overlap && ks.all fun k =>
          s.covers s.resident k (s.useOf r k :: (if k = core then s.reservedOn core else [])))
    | none => true
  | none => false

/-- The head record of a table removed (R154). -/
def Core.popSlot (c : Core) : Core := { c with slots := c.slots.drop 1, head := (c.head + 1) % 64 }

/-- What the monitor loads whenever a context's blocks are placed on or restored to a core (R165, R337): reserved bits are 0;
CORE_CTL.check stays as it is while the core holds the context (log entry 86); the cached translations of another go. -/
def State.loadCtx (s : State) (core ctx : Nat) : State :=
  match tget s.ctxs ctx with
  | some x => s.modCore core fun c =>
      { c with
        check := if c.ctx = some ctx then c.check else x.info.check
        ctx := some ctx, ptroot := ctxRoot x.info, tvec := x.info.tvec &&& ~~~0x3F, tmkey := x.info.tmkey
        fpool := bits (x.info.fpool.getD (dieOfCore core) 0) 51 6 * 64
        fpoolv := x.info.fpoolv.getD (dieOfCore core) 0 &&& ~~~0x3F
        peers := if c.ctx = some ctx then c.peers else ⟨[], s.nextId, 0⟩
        tlb := if c.ctx = some ctx then c.tlb else [] }
  | none => s

/-- A block created on a core, with its crews (R117, R118), with the node's values as they stood when it was bound (R138). A task
node's block reads what TASKD's release published: the core's load cache is dropped (R215, R256). -/
def State.createBlock (s : State) (pa : Nat) (n : Node) (r : Rec) (core index cluster rank clsize : Nat) : State :=
  let v := s.nodeBits pa (n.keptFor index)
  let id := s.nextId
  let b : Block :=
    { node := pa, ctx := n.ctx, core := core, index := index, cluster := cluster, rank := rank, clsize := clsize
      crews := r.crews, slices := r.slices, regs := r.regs, tmquota := r.tm, osquota := r.os, effs := n.effsFor index, tiles := []
      stopped := false, out := false }
  let args := bits v 639 576
  let size := bits v 927 896
  let crew := fun (i : Nat) =>
    newCrew id core i r.slices r.team r.regs r.prio (BitVec.ofNat 64 (bits v 575 512 / 4 * 4))
      [BitVec.ofNat 32 args, BitVec.ofNat 32 (args / 2 ^ 32)]
      (spillArea (BitVec.ofNat 64 (bits v 895 832)) size (index * r.crews + i)) size n.dpoison (s.clk + 1)
  let s := s.loadCtx core n.ctx
  let s := if n.kind = 5 then s.lcacheClear core else s
  { s with
    blocks := tset s.blocks id b
    crews := (List.range r.crews).foldl (fun t i => tset t (id + 1 + i) (crew i)) s.crews
    nextId := id + 1 + r.crews }

/-- A node's first block is created (R96, R155, R238): its status becomes 2, its launch begins with the code as memory holds
it, and its poison is decided. -/
def State.beginNode (s : State) (pa : Nat) (n : Node) : State :=
  if n.created = 0 then
    (s.putStatus pa 2).modNode pa fun x => { x with status := 2, code := s.mem, dpoison := bit (s.nodeBits pa n) 960 }
  else s

/-- DISPATCH_BLOCK (R154, R155): the next block of the head record, or its next cluster, is created. -/
def execDispatchBlock (s : State) : Res :=
  match s.ev with
  | some (.dispatchBlock core) =>
    match s.headRec core with
    | none => .next s
    | some (r, made) =>
      if !s.dispatchOk core then .next s
      else match tget s.nodes r.launch with
        | none => .next (s.modCore core Core.popSlot)
        | some n =>
          if ((tget s.ctxs n.ctx).map (·.stopped)).getD true then .next (s.modCore core Core.popSlot)
          else if s.nodeTainted r.launch then .fault .nodeUndefined
          else if s.marked r.launch 256 then .next (s.contain 8 none (some n.ctx))
          else
            let ks := maskCores (core / 16) r.mask
            let s := s.beginNode r.launch n
            let n := (tget s.nodes r.launch).getD n
            let cluster := s.nextId
            let s := ks.zipIdx.foldl (fun (s : State) e =>
              s.createBlock r.launch n r e.1 (r.first + made + e.2) cluster e.2 ks.length) s
            let s := s.modNode r.launch fun n => { n with created := n.created + ks.length }
            .next (s.modCore core fun c =>
              if r.count ≤ made + ks.length then c.popSlot
              else { c with slots := match c.slots with | x :: t => { x with made := made + ks.length } :: t | [] => [] })
  | _ => .fault .noGang

end Sys2Proof.Machine
end

