-- ==== Sys2Proof/Machine/Registers.lean ====
section
/-! DEFINITION. Device registers: their addresses, what reads give, and what writes do under the access codes (R5, R6, R335,
R336, R383, R384, R409, R449, R453, R454). -/

namespace Sys2Proof.Machine

/-- The device registers. -/
inductive DevReg where
  | coreCtl | coreTmkey | coreMxctl | coreWaitivl | coreWaitpoll | coreSlotstat | coreSlotin | coreTvec | corePtroot
  | coreFpool | coreDrain | coreFpoolv | redstat | redhold | ctstat | ctlag | chmap (i : Nat) | chstat | scrubctl
  | scrublog | route (i : Nat) | portstat (p : Nat) | brstat | xdto | rto | tickstat | exproot | xmlog | xcmd | msgq
  | ctlq | pwrBudget | pwrStat | pwrWear (i : Nat) | trcCtl | trcBase | trcWidx | trcRidx | trcDrop | trcTstat | escal
  | keycmd | attctr
  deriving DecidableEq, Repr

/-- A register with its die and instance (R335). -/
structure RegAt where
  reg : DevReg
  die : Nat
  inst : Nat
  deriving DecidableEq, Repr

/-- The register of a block at an index (R336, R383, R409, R454). -/
def regAt (block i : Nat) : Option DevReg :=
  match block with
  | 0 =>
    match i with
    | 0 => some .coreCtl | 1 => some .coreTmkey | 2 => some .coreMxctl | 3 => some .coreWaitivl | 4 => some .coreWaitpoll
    | 5 => some .coreSlotstat | 6 => some .coreSlotin | 8 => some .coreTvec | 9 => some .corePtroot | 10 => some .coreFpool
    | 11 => some .coreDrain | 12 => some .coreFpoolv | _ => none
  | 1 => match i with | 0 => some .redstat | 1 => some .redhold | 2 => some .ctstat | 3 => some .ctlag | _ => none
  | 2 =>
    if i < 256 then some (.chmap i)
    else match i with | 0x100 => some .chstat | 0x101 => some .scrubctl | 0x102 => some .scrublog | _ => none
  | 3 =>
    if i < 1024 then some (.route i)
    else if 0x400 ≤ i ∧ i < 0x418 then some (.portstat (i - 0x400))
    else match i with
      | 0x420 => some .brstat | 0x421 => some .xdto | 0x422 => some .rto | 0x423 => some .tickstat | 0x424 => some .exproot
      | 0x425 => some .xmlog | 0x426 => some .xcmd | 0x427 => some .msgq | 0x428 => some .ctlq | _ => none
  | 4 =>
    match i with
    | 0 => some .pwrBudget
    | 1 => some .pwrStat
    | _ => if 0x100 ≤ i ∧ i < 0x140 then some (.pwrWear (i - 0x100)) else none
  | 5 =>
    match i with
    | 0 => some .trcCtl | 1 => some .trcBase | 2 => some .trcWidx | 3 => some .trcRidx | 4 => some .trcDrop
    | 5 => some .trcTstat | _ => none
  | 6 => match i with | 0 => some .escal | 1 => some .keycmd | 2 => some .attctr | _ => none
  | _ => none

/-- How many instances a register has (R335, R383, R449, R454). -/
def DevReg.instances (r : DevReg) : Nat :=
  match r with
  | .coreCtl | .coreTmkey | .coreMxctl | .coreWaitivl | .coreWaitpoll | .coreSlotstat | .coreSlotin | .coreTvec
  | .corePtroot | .coreFpool | .coreDrain | .coreFpoolv | .pwrStat => 128
  | .redstat | .redhold | .ctstat | .ctlag => 64
  | .route _ | .exproot | .xmlog | .xcmd | .msgq | .ctlq => 16
  | .trcCtl | .trcBase | .trcWidx | .trcRidx | .trcDrop | .trcTstat => 16
  | _ => 1

/-- The register that an address names (R335). -/
def regOf (a : Word) : Option RegAt :=
  let v := a.toNat
  match regAt (bits v 31 28) (bits v 11 0) with
  | some r => if bits v 19 12 = 0 ∧ bits v 26 20 < r.instances then some ⟨r, bits v 27 27, bits v 26 20⟩ else none
  | none => none

/-- A handler may read the register (R336, R383, R409, R454). -/
def DevReg.handlerReads : DevReg → Bool
  | .coreTmkey | .coreSlotin | .exproot | .xmlog | .xcmd | .msgq | .ctlq | .keycmd => false
  | _ => true

/-- A handler may write the register. -/
def DevReg.handlerWrites : DevReg → Bool
  | .coreCtl | .coreMxctl | .coreWaitivl | .coreWaitpoll | .redstat | .redhold | .ctstat | .ctlag | .scrubctl | .trcRidx => true
  | _ => false

/-- A register of the L2H_ or HBM_ block, which a handler writes under the device-control grant alone (R335, R441). -/
def DevReg.granted : DevReg → Bool
  | .redstat | .redhold | .ctstat | .ctlag | .chmap _ | .chstat | .scrubctl | .scrublog => true
  | _ => false

/-- A register of the CORE_ block. -/
def DevReg.ofCore : DevReg → Bool
  | .coreCtl | .coreTmkey | .coreMxctl | .coreWaitivl | .coreWaitpoll | .coreSlotstat | .coreSlotin | .coreTvec
  | .corePtroot | .coreFpool | .coreDrain | .coreFpoolv => true
  | _ => false

/-- The core of a CORE_ or PWR_STAT register. -/
def RegAt.core (r : RegAt) : Nat := 128 * r.die + r.inst
/-- The home slice of an L2H_ register. -/
def RegAt.slice (r : RegAt) : Nat := 64 * r.die + r.inst

/-- The value of a register. -/
def State.readReg (s : State) (r : RegAt) : Nat :=
  let c := s.core r.core
  let h := s.home r.slice
  let d := s.die r.die
  let p := s.part r.die r.inst
  match r.reg with
  | .coreCtl => c.check.toNat
  | .coreTmkey => c.tmkey.toNat
  | .coreMxctl => c.mown.toNat * 2 ^ 15 + c.owner.isSome.toNat * 2 ^ 14 + c.ownq.length * 2 ^ 7
  | .coreWaitivl => c.waitivl.toNat
  | .coreWaitpoll => c.waitpoll.toNat
  | .coreSlotstat => c.bad.toNat * 2 ^ 17 + c.ovf.toNat * 2 ^ 16 + c.head * 2 ^ 7 + c.slots.length
  | .coreSlotin => 0
  | .coreTvec => c.tvec.toNat
  | .corePtroot => c.ptroot
  | .coreFpool => c.fpool
  | .coreDrain => c.saved.toNat * 8 + c.saving.toNat * 4 + c.draining.toNat * 2
  | .coreFpoolv => c.fpoolv.toNat
  | .redstat => h.lostline.toNat * 2 ^ 32 + h.lost.toNat * 2 ^ 31 + h.refused.toNat * 2 ^ 30 + h.pwdrop * 2 ^ 16 + h.dups
  | .redhold => h.hold.toNat
  | .ctstat => d.ctFull.toNat * 2 ^ 31 + d.ctLost.toNat * 2 ^ 30 + (s.enrols.filter (·.die == r.die)).length
  | .ctlag => d.ctlag.toNat
  | .chmap i => d.channel i
  | .chstat => (decide (d.inservice < 256)).toNat * 2 ^ 9 + d.inservice
  | .scrubctl => d.scrubEn.toNat * 2 ^ 16 + d.hours.toNat
  | .scrublog => d.lastgran.toNat * 2 ^ 32 + d.marked.toNat * 2 ^ 16 + d.fixed.toNat
  | .route i => ((tget p.route i).map (·.toNat)).getD 0
  | .portstat i =>
    let q := s.port r.die i
    q.up.toNat * 2 ^ 31 + q.failed.toNat * 2 ^ 30 + q.replays.toNat
  | .brstat => d.crcerr.toNat * 2 ^ 32 + d.stomps.toNat * 2 ^ 16 + d.replays.toNat
  | .xdto => d.xdto.toNat
  | .rto => d.rto.toNat
  | .tickstat => d.tfull.toNat * 2 ^ 48 + d.stale.toNat * 2 ^ 32 + d.badmsg.toNat * 2 ^ 16 + (s.entriesUsed r.die).length
  | .exproot => p.exproot.toNat
  | .xmlog => p.xmlog.toNat
  | .xcmd => p.xbusy.toNat * 2 ^ 63
  | .msgq => p.msgq.toNat
  | .ctlq => p.ctlq.toNat
  | .pwrBudget => s.pkg.budget.toNat
  | .pwrStat => c.grant.toNat * 2 ^ 16 + c.stretch.toNat * 2 ^ 15
  | .pwrWear i => ((tget d.wear i).map (·.toNat)).getD 0xFFFFFFFF
  | .trcCtl => p.trcK.toNat * 2 + p.trcEn.toNat
  | .trcBase => 32 * p.trcBase
  | .trcWidx => p.widx.toNat
  | .trcRidx => p.ridx.toNat
  | .trcDrop => p.drop.toNat
  | .trcTstat => s.pkg.synced.toNat * 2 ^ 63 + s.pkg.offs.toNat
  | .escal => (s.pkg.escal ||| 3).toNat
  | .keycmd => s.pkg.keyBusy.toNat * 2 ^ 31
  | .attctr => s.pkg.attctr

/-- A block is resident on a core. -/
def State.occupied (s : State) (k : Nat) : Bool := s.blocks.any fun e => e.2.core == k && !e.2.out

/-- Bits of a written value as a 16-bit count. -/
def cut16 (v lo : Nat) : BitVec 16 := BitVec.ofNat 16 (v / 2 ^ lo)

/-- The time-outs of a die's requests, messages and collectives set anew, when FAB_RTO has been written (R361, R370, R422). -/
def State.rtoRearm (s : State) (die : Nat) : State :=
  let rto := (s.die die).rto.toNat
  let arm := fun (s : State) (t : Nat) (e : Event) => s.later ⟨t + rto, some die, e⟩
  if rto = 0 then s
  else
    let s := s.reqs.foldl (fun (s : State) e =>
      if e.2.die = die ∧ e.2.entry.isSome then arm s e.2.since (.peerTimeout e.1) else s) s
    let s := s.resend.foldl (fun (s : State) e => if e.2.1.die = die then arm s e.2.2 (.peerTimeout e.1) else s) s
    s.ops.foldl (fun (s : State) e => match e.2.body with
      | .coll c => if c.started ∧ c.die = die then arm (arm s c.lastData (.collTimeout e.1)) c.lastMove (.collTimeout e.1) else s
      | _ => s) s

/-- The time-outs of a die's cross-die requests set anew, when FAB_XDTO has been written (R361). -/
def State.xdtoRearm (s : State) (die : Nat) : State :=
  let xdto := (s.die die).xdto.toNat
  if xdto = 0 then s
  else s.xreqs.foldl (fun (s : State) e =>
    if e.2.die = die then s.later ⟨e.2.since + xdto, some die, .xdieTimeout e.1⟩ else s) s

/-- The flushes of a die's delta entries set anew, when L2H_CTLAG has been written (R394, R409). -/
def State.lagRearm (s : State) (die : Nat) : State :=
  let lag := max 100 (s.die die).ctlag.toNat
  s.homes.foldl (fun (s : State) h =>
    if h.1 / 64 = die then h.2.deltas.foldl (fun (s : State) d => s.later ⟨d.since + lag, some die, .ctDeltaFlush h.1 d.leaf⟩) s
    else s) s

/-- A register written under its access codes (R5, R6): a reserved or read-only field is left alone. -/
def State.writeReg (s : State) (r : RegAt) (v : Nat) : State :=
  let core := s.modCore r.core
  let home := s.modHome r.slice
  let die := s.modDie r.die
  let part := s.modPart r.die r.inst
  match r.reg with
  | .coreCtl => core fun c => { c with check := bit v 0 }
  | .coreTmkey => if s.occupied r.core then s else core fun c => { c with tmkey := BitVec.ofNat 12 v }
  | .coreMxctl => if s.occupied r.core then s else core fun c => { c with mown := bit v 15 }
  | .coreWaitivl => core fun c => { c with waitivl := BitVec.ofNat 16 v }
  | .coreWaitpoll => core fun c => { c with waitpoll := BitVec.ofNat 32 v }
  | .coreSlotstat => core fun c => { c with bad := c.bad && !bit v 17, ovf := c.ovf && !bit v 16 }
  | .coreSlotin => { s with due := s.due ++ [.coreSlotin r.core (BitVec.ofNat 64 v)] }
  | .coreTvec | .corePtroot | .coreFpool | .coreFpoolv => s
  | .coreDrain => if bit v 0 then s.push (.drainRequest r.core) else s
  | .redstat => home fun h =>
      { h with lost := h.lost && !bit v 31, refused := h.refused && !bit v 30, pwdrop := bits v 29 16, dups := bits v 15 0 }
  | .redhold => (home fun h => { h with hold := BitVec.ofNat 32 v }).redRearm r.slice
  | .ctstat => die fun d => { d with ctFull := d.ctFull && !bit v 31, ctLost := d.ctLost && !bit v 30 }
  | .ctlag => (die fun d => { d with ctlag := BitVec.ofNat 32 v }).lagRearm r.die
  | .chmap _ | .chstat => s
  | .scrubctl => die fun d => { d with scrubEn := bit v 16, hours := cut16 v 0 }
  | .scrublog => die fun d => { d with marked := cut16 v 16, fixed := cut16 v 0 }
  | .route i => part fun p => { p with route := tset p.route i (BitVec.ofNat 32 v &&& 0x80FFFFFF) }
  | .portstat i =>
    let q := s.port r.die i
    let q : Port := { q with failed := q.failed && !bit v 30, replays := cut16 v 0 }
    { s with pkg := { s.pkg with ports := tset s.pkg.ports (s.portKey r.die i) q } }
  | .brstat => die fun d => { d with crcerr := cut16 v 32, stomps := cut16 v 16, replays := cut16 v 0 }
  | .xdto => (die fun d => { d with xdto := BitVec.ofNat 32 v }).xdtoRearm r.die
  | .rto => (die fun d => { d with rto := BitVec.ofNat 32 v }).rtoRearm r.die
  | .tickstat => die fun d => { d with tfull := cut16 v 48, stale := cut16 v 32, badmsg := cut16 v 16 }
  | .exproot => part fun p => { p with exproot := BitVec.ofNat 64 (bits v 51 12 * 2 ^ 12 + bits v 0 0) }
  | .xmlog => part fun p => { p with xmlog := BitVec.ofNat 64 (bits v 51 16 * 2 ^ 16 + bits v 0 0) }
  | .xcmd =>
    if (s.part r.die r.inst).xbusy then s
    else match bits v 33 32 with
      | 0 => (part fun p => { p with xbusy := true }).push (.exportInvalidate r.die r.inst (bits v 24 0))
      | 1 => (part fun p => { p with xbusy := true }).push (.exportServiced r.die r.inst (bits v 24 0))
      | _ => s
  | .msgq => part fun p => { p with msgq := BitVec.ofNat 64 (bits v 51 6 * 2 ^ 6 + bits v 0 0) }
  | .ctlq => part fun p => { p with ctlq := BitVec.ofNat 64 (bits v 51 6 * 2 ^ 6 + bits v 0 0) }
  | .pwrBudget => { s with pkg := { s.pkg with budget := BitVec.ofNat 12 v } }
  | .pwrStat | .pwrWear _ => s
  | .trcCtl => part fun p => { p with trcEn := bit v 0, trcK := BitVec.ofNat 5 (v / 2) }
  | .trcBase => part fun p => { p with trcBase := bits v 51 5 }
  | .trcDrop => part fun p => { p with drop := BitVec.ofNat 32 v }
  | .trcWidx | .trcTstat => s
  | .trcRidx => part fun p =>
      let w : Word := BitVec.ofNat 32 v
      if (w - p.ridx).toNat ≤ (p.widx - p.ridx).toNat then { p with ridx := w } else p
  | .escal => { s with pkg := { s.pkg with escal := BitVec.ofNat 12 v ||| 3 } }
  | .keycmd =>
    let k := BitVec.ofNat 13 v
    let begin := fun (e : Event) => ({ s with pkg := { s.pkg with keyBusy := true } } : State).push e
    if s.pkg.keyBusy then s
    else match bits v 14 13 with
      | 1 => begin (.loadGeneratedKey none k)
      | 2 => begin (.loadWrappedKey none k (s.free 28 k.toNat))
      | 3 => begin (.unload none k)
      | _ => s
  | .attctr => s

end Sys2Proof.Machine
end

