-- ==== Sys2Proof/Machine/System.lean ====
section
/-! DEFINITION. The system instructions: ERET, FLTINFO, mapping and unmapping with the free-page pool, TLBINV, SRD and SWR;
and words that do not decode, fetches that fail, and register writes from outside (R317 to R337, R60, R329). -/

namespace Sys2Proof.Machine

/-- A privileged instruction runs in supervisor state and elsewhere raises PROTECT (R59, R318). -/
def Issue.privileged (x : Issue) (body : Res) : Res := if x.c.sup.isNone then x.trap .protect x.act else body

/-! ### ERET (R321, R322) -/

/-- The window depth or the link depth differs from what entry gave (R321). -/
def Issue.unbalanced (x : Issue) : Bool :=
  match x.c.sup with
  | some sv =>
    x.c.depth != sv.depth + x.c.window ||
      (sv.slices.zip sv.links).any fun e => (x.c.slice e.1).links.length != e.2
  | none => false

/-- What ERET states before its effect (R321). -/
def eretHead (f : FSDA) : Head :=
  { st := f.s, fp := fun _ => { handles := if f.d = 2 then [r2 f.a] else [] }
    word := fun _ => !eretFields f.d f.a, dyn := Issue.unbalanced }

/-- ERET (R321): retry, next, jump, or the end of the block. A fill that would read a mark is contained (R345). -/
def execEret (f : FSDA) (s : State) : Res :=
  issue s (eretHead f) fun x =>
    x.privileged <|
      match x.c.sup with
      | none => .next x.s
      | some sv =>
        if f.d = 3 then .next (x.s.endBlock x.c.block)
        else if x.s.fillMarked x.c x.c.window then
          .next (x.s.contain 2 (some x.c.block) (some (x.s.ctxOf x.c)))
        else
          let jump := codeTarget (x.reg64 (lowest x.act) f.a.toNat)
          .next (x.s.leaveTrap x.k (x.advanced x.c) sv fun pc =>
            if f.d = 0 then pc else if f.d = 1 then pc + 4 else jump)

/-! ### FLTINFO (R324, R325) -/

/-- The words of the oldest entry of an engine fault record (R324): all zero when it is empty (R325). -/
def Crew.efrWords (c : Crew) : List Word :=
  match c.efr with
  | [] => [0, 0, 0, 0]
  | e :: r =>
    [BitVec.ofNat 32 (e.cause % 256 + e.token % 32 * 2 ^ 8 + 2 ^ 13 + e.tile.toNat * 2 ^ 14 + c.efrLost.toNat * 2 ^ 15
        + e.step % 65536 * 2 ^ 16), BitVec.ofNat 32 r.length] ++ splitDword e.addr

/-- The words FLTINFO gives lane l for a selector (R324). -/
def Crew.faultWords (c : Crew) (l sel : Nat) : List Word :=
  if sel = 0 then
    [BitVec.ofNat 32 (c.trap.cause + (c.trap.mask.getLsbD l).toNat * 2 ^ 8 + (c.trap.writes.getLsbD l).toNat * 2 ^ 9
        + c.trap.code.toNat * 2 ^ 10), c.trap.mask] ++ splitDword ((tget c.trap.addrs l).getD 0)
  else if sel = 1 then
    let mode : Option (BitVec 13) := match c.sup with
      | some sv => ((sv.slices.zip sv.modes).find? fun (e : Nat × BitVec 13) => e.1 == l / 4).map (·.2)
      | none => none
    let preds := match c.sup with
      | some sv => sv.preds.getD l 0
      | none => 0
    [(mode.getD 0).zeroExtend 32, (preds ||| 1).zeroExtend 32] ++ splitDword c.trap.pc
  else c.efrWords

/-- What FLTINFO states before its effect (R324). -/
def fltinfoHead (f : FSDA) : Head :=
  { st := f.s, fp := fun _ => { reads := [r1 f.a], writes := [r4 f.d] }
    dyn := fun x => (lanesOf x.act).any fun l => decide (2 < (x.reg l f.a.toNat).toNat) }

/-- FLTINFO (R324): selector 2 removes one entry for the instruction, and `lost` has then been returned. -/
def execFltinfo (f : FSDA) (s : State) : Res :=
  issue s (fltinfoHead f) fun x =>
    x.privileged <|
      let c := x.write fun l => wrN f.d.toNat (x.c.faultWords l (x.reg l f.a.toNat).toNat)
      let takes := (lanesOf x.act).any fun l => (x.reg l f.a.toNat).toNat == 2
      x.done x.s (if takes && !c.efr.isEmpty then { c with efr := c.efr.drop 1, efrLost := false } else c)

/-! ### The free-page pool (R330) -/

/-- A pool object's fields. -/
structure Pool where
  pa : Nat
  stack : Nat
  count : Nat
  cap : Nat
  size : Nat
  refill : Bool
  deriving DecidableEq, Repr

/-- The pool of a core's die. -/
def State.pool (s : State) (core : Nat) : Pool :=
  let pa := memKey s.pkg.split (dieOfCore core) (s.core core).fpool
  let v := memNat s.mem pa 64
  ⟨pa, bits v 63 0, bits v 95 64, bits v 127 96, bits v 134 128, bit v 135⟩

/-- The place of entry i of a pool's stack. -/
def State.poolSlot (s : State) (core : Nat) (p : Pool) (i : Nat) : Nat :=
  memKey s.pkg.split (dieOfCore core) (bits (p.stack + 8 * i) 51 0)

/-- A pool's count written at its home. -/
def State.putCount (s : State) (p : Pool) (n : Nat) : State := s.poke (p.pa + 8) (natBytes n 4)

/-- What taking a frame ends in. -/
inductive Popped where
  | frame (pa : Nat)
  | empty
  | mark
  deriving DecidableEq, Repr

/-- The frame on top of the pool's stack taken (R331). -/
def State.pop (s : State) (core : Nat) : State × Popped :=
  let p := s.pool core
  if s.marked p.pa 32 then (s, .mark)
  else if p.count = 0 then (s, .empty)
  else
    let slot := s.poolSlot core p (p.count - 1)
    if s.marked slot 8 then (s, .mark)
    else (s.putCount p (p.count - 1), .frame (bits (memNat s.mem slot 8) 51 12 * 4096))

/-- A frame put back on the pool's stack; none when the stack is full (R333). -/
def State.pushFrame (s : State) (core frame : Nat) : Option State :=
  let p := s.pool core
  if p.cap ≤ p.count then none
  else some ((s.poke (s.poolSlot core p p.count) (natBytes frame 8)).putCount p (p.count + 1))

/-- A frame of memory zeroed by hardware: its marks and the keys of its blocks go with what it held, and a scrub write to it is
cancelled (R346). -/
def State.zero (s : State) (a n : Nat) : State :=
  let t := ((s.taint a n).spillHit a n).cancelScrub a n
  { t with
    mem := t.mem.filter fun c => !(decide (a ≤ c.1) && decide (c.1 < a + n))
    marks := t.marks.filter fun g => !(decide (a / 32 ≤ g) && decide (g < (a + n) / 32))
    gkeys := t.gkeys.filter fun e => !(decide (a / 16 ≤ e.1) && decide (e.1 < (a + n) / 16)) }

/-- The bytes of a frame of a pool (R330). -/
def frameBytes (size : Nat) : Nat := if size = 2 then 2 ^ 21 else if size = 1 then 2 ^ 16 else 4096

/-! ### MAPPG (R331, R332) -/

/-- What finding the leaf table ends in. -/
inductive Tables where
  | table (frame : Nat)
  | exist
  | empty
  | protect
  | walkMark
  | poolMark
  deriving DecidableEq, Repr

/-- The tables from a level down to the leaf level made where they are missing (R331). A larger leaf on the way is an entry
that exists. -/
def State.makeTables (s : State) (core leaf va : Nat) : Nat → Nat → State × Tables
  | 0, frame => (s, .table frame)
  | lv + 1, frame =>
    if lv + 1 ≤ leaf then (s, .table frame)
    else
      let die := dieOfCore core
      let pa := memKey s.pkg.split die (frame + 8 * bits va (12 + 9 * (lv + 1) - 1) (12 + 9 * lv))
      if s.marked pa 8 then (s, .walkMark)
      else
        let e := memNat s.mem pa 8
        if bit e 0 then
          if bit e 11 || bits e 9 7 != 0 then (s, .protect)
          else if bit e 1 then (s, if lv + 1 ≤ 3 then .exist else .protect)
          else if bits e 6 2 != 0 || bits e 63 52 != 0 || bit e 10 then (s, .protect)
          else s.makeTables core leaf va lv (bits e 51 12 * 4096)
        else
          match s.pop core with
          | (s, .mark) => (s, .poolMark)
          | (s, .empty) => (s, .empty)
          | (s, .frame f) =>
            let s := (s.zero (memKey s.pkg.split die f) (frameBytes (s.pool core).size)).poke pa (natBytes (f + 1) 8)
            s.makeTables core leaf va lv f

/-- The places of the leaf entries that map the page of an address in a table: one, or the 16 of a 64 KiB run. -/
def State.leafSlots (s : State) (core size leaf va frame : Nat) : List Nat :=
  let i := bits va (12 + 9 * leaf - 1) (12 + 9 * (leaf - 1))
  let n := if size = 1 then 16 else 1
  (List.range n).map fun j => memKey s.pkg.split (dieOfCore core) (frame + 8 * (i / n * n + j))

/-- A leaf entry as MAPPG installs it (R326, R331): the frame, attributes and key ID, in a run or not. -/
def leafEntry (frame attr : Nat) (run : Bool) : Nat :=
  bits attr 27 16 * 2 ^ 52 + frame + bits attr 28 28 * 2 ^ 10 + bits attr 6 6 * 2 ^ 6 + run.toNat * 2 ^ 5 +
    bits attr 4 2 * 2 ^ 2 + 3

/-- What MAPPG ends in: its status, or a trap, or containment of a mark. -/
inductive Mapped where
  | status (n : Nat)
  | protect
  | walkMark
  | poolMark
  deriving DecidableEq, Repr

/-- An empty pool: a refill message is posted once (R331). -/
def State.poolEmpty (s : State) (core : Nat) : State :=
  let p := s.pool core
  if p.refill then s
  else (s.poke (p.pa + 16) [memGet s.mem (p.pa + 16) ||| 0x80]).emit (.refill ((s.core core).ctx.getD 0))

/-- The page of an address mapped (R331), in one step. -/
def State.mapPage (s : State) (core va attr : Nat) : State × Mapped :=
  let size := (s.pool core).size
  let leaf := if size = 2 then 2 else 1
  match s.makeTables core leaf va 5 (s.core core).ptroot with
  | (s, .walkMark) => (s, .walkMark)
  | (s, .poolMark) => (s, .poolMark)
  | (s, .protect) => (s, .protect)
  | (s, .exist) => (s, .status 1)
  | (s, .empty) => (s.poolEmpty core, .status 2)
  | (s, .table frame) =>
    let slots := s.leafSlots core size leaf va frame
    if slots.any fun a => s.marked a 8 then (s, .walkMark)
    else if slots.any fun a => bit (memNat s.mem a 8) 0 then (s, .status 1)
    else
      match s.pop core with
      | (s, .mark) => (s, .poolMark)
      | (s, .empty) => (s.poolEmpty core, .status 2)
      | (s, .frame f) =>
        let s := s.zero (memKey s.pkg.split (dieOfCore core) f) (frameBytes size)
        let s := slots.zipIdx.foldl (fun (s : State) e =>
          s.poke e.1 (natBytes (leafEntry (f + 4096 * e.2) attr (size == 1)) 8)) s
        (s, .status 0)

/-- What MAPPG states before its effect (R331). -/
def mappgHead (f : FSDA) : Head :=
  let quad := fun (x : Issue) => x.group f.a 4
  { st := f.s, fp := fun _ => { handles := [r4 f.a], writes := [r2 f.d] }
    dyn := fun x =>
      let attr := ((quad x).getD 2 0).toNat
      (quad x).getD 3 0 != 0 || bits attr 31 29 != 0 || bits attr 15 7 != 0 || bit attr 5 || bits attr 1 0 != 0 ||
        (x.c.sup.isSome && !x.s.marked (x.s.pool x.c.core).pa 32 && decide (2 < (x.s.pool x.c.core).size)) }

/-- MAPPG (R331). A malformed entry on the way raises PROTECT as a walk does. -/
def execMappg (f : FSDA) (s : State) : Res :=
  let quad := fun (x : Issue) => x.group f.a 4
  issue s (mappgHead f) fun x =>
    x.privileged <|
      let core := x.c.core
      let va := (x.reg64 (lowest x.act) f.a.toNat)
      if x.s.marked (x.s.pool core).pa 32 then x.trap .dataerr x.act
      else if !canonical va then x.trapAt .protect (lanesOf x.act) (fun _ => va) true
      else
        let r := x.s.mapPage core va.toNat ((quad x).getD 2 0).toNat
        match r.2 with
        | .walkMark => .next (r.1.walkContain x.c)
        | .poolMark => .next (r.1.takeTrap x.k x.js .dataerr x.act 0 [] 0)
        | .protect => .next (r.1.takeTrap x.k x.js .protect x.act 0 ((lanesOf x.act).map fun l => (l, va)) x.act)
        | .status n =>
          let count := BitVec.ofNat 32 (r.1.pool core).count
          let c := ((tget r.1.crews x.k).getD x.c).modLanes x.act fun _ ln =>
            ln.setAll x.c.depth f.d.toNat [BitVec.ofNat 32 n, count]
          x.done r.1 c

/-! ### Invalidation (R333, R334) -/

/-- The 64-bit ranges [base, base + n) and [v, v + m) meet; an n of 0 means every address. -/
def rangesMeet (base n v m : Nat) : Bool := n == 0 || (decide (v < base + n) && decide (base < v + m))

/-- A context's translations of a range dropped from every translation cache of the device (R334). -/
def State.dropTlb (s : State) (ctx base n : Nat) : State :=
  { s with cores := tmap s.cores fun _ c =>
      if c.ctx = some ctx then { c with tlb := c.tlb.filter fun t => !rangesMeet base n t.base t.size } else c }

/-- The frames that a context's cached translations of a range name: memory key and size. -/
def State.framesOf (s : State) (ctx base n : Nat) : List (Nat × Nat) :=
  s.cores.flatMap fun e =>
    if e.2.ctx = some ctx then
      (e.2.tlb.filter fun t => rangesMeet base n t.base t.size).map fun t =>
        (memKey s.pkg.split (dieOfCore e.1) (leafPa t.level t.leaf t.base), t.size)
    else []

/-- The accesses that a context has made through the entries of a range and that are not performed yet: requests to peers, lanes of
results in local memory, and contributions to the frames (R334). -/
def State.accessesOut (s : State) (ctx base n : Nat) (frames : List (Nat × Nat)) (old : Dword) : Inval :=
  { reqs := (s.reqs.filter fun e => e.2.issuer.ctx == ctx && rangesMeet base n e.2.va.toNat e.2.n).map (·.1)
    pends := (s.pends.filter fun e => ((tget s.crews e.2.crew).map s.ctxOf) == some ctx &&
      e.2.locals.any fun l => rangesMeet base n ((tget e.2.addrs l.1).getD 0).toNat (e.2.land.width l.1)).map (·.1)
    reds := s.contributions.filter fun c => c.issuer.ctx == ctx &&
      frames.any fun f => decide (f.1 ≤ c.line * 128) && decide (c.line * 128 < f.1 + f.2)
    old := old
    span := n }

/-- Some of the accesses that an invalidation waits for is not performed. -/
def State.invalOut (s : State) (v : Inval) : Bool :=
  v.reqs.any (fun t => (tget s.reqs t).isSome) || v.pends.any (fun i => (tget s.pends i).isSome) ||
    v.reds.any s.contributions.contains

/-- An invalidation whose entry is gone: its gang is not ready until the accesses made through it have been performed, and then what
follows is done (R333, R334). -/
def Issue.invalidated (x : Issue) (s : State) (v : Inval) (body : State → Res) : Res :=
  let key := 8 * x.k + x.js.headD 0
  if s.invalOut v then .next (({ s with invals := tset s.invals key v } : State).stall x.k x.js)
  else body { s with invals := tdel s.invals key }

/-- What the invalidation that this gang issues again waits for. -/
def Issue.inval (x : Issue) : Option Inval := tget x.s.invals (8 * x.k + x.js.headD 0)

/-- What TLBINV states before its effect (R334). -/
def tlbinvHead (f : FSA) : Head :=
  { st := f.s, fp := fun _ => { handles := [r4 f.a] }
    dyn := fun x => (x.group f.a 4).getD 3 0 != 0 }

/-- TLBINV (R334). -/
def execTlbinv (f : FSA) (s : State) : Res :=
  issue s (tlbinvHead f) fun x =>
    x.privileged <|
      let ctx := x.s.ctxOf x.c
      let base := (x.reg64 (lowest x.act) f.a.toNat).toNat / 4096 * 4096
      let n := 4096 * ((x.group f.a 4).getD 2 0).toNat
      match x.inval with
      | some v => x.invalidated x.s v fun s => x.done s x.c
      | none =>
        x.invalidated (x.s.dropTlb ctx base n) (x.s.accessesOut ctx base n (x.s.framesOf ctx base n) 0) fun s => x.done s x.c

/-- What UNMAPPG states before its effect (R333). -/
def unmappgHead (f : FSDA) : Head :=
  { st := f.s, fp := fun _ => { handles := [r4 f.a], writes := [r2 f.d] }
    dyn := fun x => (x.group f.a 4).getD 3 0 != 0 || ((x.group f.a 4).getD 2 0).toNat / 2 != 0 }

/-- The entry with V = 0 in which a walk by the address's own entries ends. -/
def State.absentEntry (s : State) (die : Nat) : Nat → Nat → Nat → Dword
  | 0, _, _ => 0
  | lv + 1, frame, va =>
    let e := s.entryAt (s.entryPlace die lv frame va)
    match entryKind lv e with
    | .table f => s.absentEntry die lv f va
    | _ => e

/-- UNMAPPG (R333): the leaf of an address, or its whole run, cleared; its translation invalidated, for which the gang waits; its
frame pushed when asked. Where an entry on the way has V = 0 nothing happens but that it is returned (log entry 53). -/
def execUnmappg (f : FSDA) (s : State) : Res :=
  issue s (unmappgHead f) fun x =>
    x.privileged <|
      let core := x.c.core
      let die := dieOfCore core
      let ctx := x.s.ctxOf x.c
      let va := x.reg64 (lowest x.act) f.a.toNat
      let give := fun (s : State) (v : Dword) =>
        x.done s (((tget s.crews x.k).getD x.c).modLanes x.act fun _ ln => ln.setAll x.c.depth f.d.toNat (splitDword v))
      let push := fun (s : State) (e : Dword) (frame : Nat) =>
        if !((x.group f.a 4).getD 2 0).getLsbD 0 then give s e
        else if s.marked (s.pool core).pa 32 then .next (s.takeTrap x.k x.js .dataerr x.act 0 [] 0)
        else match s.pushFrame core frame with
          | some s => give s e
          | none => give s (e ||| 0x800)
      if !canonical va then x.trapAt .protect (lanesOf x.act) (fun _ => va) true
      else match x.inval with
      | some v => x.invalidated x.s v fun s => push s v.old (entryFrame v.old / v.span * v.span)
      | none =>
      match x.s.walk die 5 (x.s.core core).ptroot va.toNat with
        | .mark => .next (x.s.walkContain x.c)
        | .fault => give x.s (x.s.absentEntry die 5 (x.s.core core).ptroot va.toNat)
        | .protect => x.trapAt .protect (lanesOf x.act) (fun _ => va) true
        | .leaf lv pa e =>
          let n := if bit e.toNat 5 then runLength lv else 1
          let span := n * levelSize lv
          let base := va.toNat / span * span
          let frame := entryFrame e / span * span
          let first := pa / (8 * n) * (8 * n)
          let s := (List.range n).foldl (fun (s : State) i => s.poke (first + 8 * i) (natBytes 0 8)) x.s
          let v := x.s.accessesOut ctx base span [(memKey s.pkg.split die frame, span)] e
          x.invalidated (s.dropTlb ctx base span) v fun s => push s e frame

/-! ### Device registers (R335) -/

/-- An access by a handler that R335 and R336 permit: the column of the table, the issuer's own core, the grant. -/
def Issue.mayUse (x : Issue) (r : RegAt) (w : Bool) : Bool :=
  (if w then r.reg.handlerWrites else r.reg.handlerReads) && (!r.reg.ofCore || r.core == x.c.core) &&
    (!(w && r.reg.granted) || (x.s.part r.die (x.s.partOf (x.s.ctxOf x.c))).devctl.getLsbD r.die)

/-- What SRD states before its effect (R335). -/
def srdHead (f : FSDA) : Head :=
  let at_ := fun (x : Issue) => regOf (x.reg (lowest x.act) f.a.toNat)
  { st := f.s, fp := fun _ => { handles := [r1 f.a], writes := [r2 f.d] }
    dyn := fun x => (at_ x).isNone }

/-- SRD (R335). -/
def execSrd (f : FSDA) (s : State) : Res :=
  let at_ := fun (x : Issue) => regOf (x.reg (lowest x.act) f.a.toNat)
  issue s (srdHead f) fun x =>
    x.privileged <|
      match at_ x with
      | some r =>
        if x.mayUse r false then x.done x.s (x.write fun _ => wr2 f.d (BitVec.ofNat 64 (x.s.readReg r)))
        else x.trap .protect x.act
      | none => x.trap .illegal x.live

/-- What SWR states before its effect (R335). -/
def swrHead (f : FSDA) : Head :=
  let at_ := fun (x : Issue) => regOf (x.reg (lowest x.act) f.a.toNat)
  { st := f.s, fp := fun _ => { handles := [r1 f.a, r2 f.d] }
    dyn := fun x => (at_ x).isNone }

/-- SWR (R335). -/
def execSwr (f : FSDA) (s : State) : Res :=
  let at_ := fun (x : Issue) => regOf (x.reg (lowest x.act) f.a.toNat)
  issue s (swrHead f) fun x =>
    x.privileged <|
      match at_ x with
      | some r =>
        if x.mayUse r true then x.doneIn (x.s.writeReg r (x.reg64 (lowest x.act) f.d.toNat).toNat)
        else x.trap .protect x.act
      | none => x.trap .illegal x.live

/-- REGISTER_WRITE (R5, R6): the monitor, the binder firmware or an agent outside writes a device register. -/
def execRegisterWrite (s : State) : Res :=
  match s.ev with
  | some (.registerWrite a v) =>
    match regOf a with
    | some r => .next (s.writeReg r v.toNat)
    | none => .next s
  | _ => .fault .noGang

/-! ### Words and fetches that fail (R60, R329) -/

/-- ILLEGAL_INSTRUCTION_WORD (R6, R20, R58, R60): a word that does not decode raises ILLEGAL with the gang's live lanes. -/
def execIllegalInstructionWord (s : State) : Res :=
  match s.ev, s.cur with
  | some (.illegalInstructionWord _), some (k, js) =>
    match tget s.crews k with
    | some c => .next (s.takeTrap k js .illegal (c.live js) 0 [] 0)
    | none => .fault .noGang
  | _, _ => .fault .noGang

/-- FETCH_FAULT (R329): a fetch that fails raises its cause at the PC of the fetched instruction, the address its own, with
the gang's live lanes; a mark its walk consumes is contained (R345). -/
def execFetchFault (s : State) : Res :=
  match s.ev, s.cur with
  | some .fetchFault, some (k, js) =>
    match tget s.crews k with
    | some c =>
      let pc := (c.slice (js.headD 0)).pc
      match s.fetch c fetchChoice pc with
      | .bad e => .next (s.takeTrap k js e (c.live js) 0 ((lanesOf (c.live js)).map fun l => (l, pc)) 0)
      | .walkMark => .next (s.walkContain c)
      | .word _ => .next s
    | none => .fault .noGang
  | _, _ => .fault .noGang

end Sys2Proof.Machine
end

