-- ==== Sys2Proof/Machine/Fabric.lean ====
section
/-! DEFINITION. The fabric. The requester's side: answers, fault tickets, replay notices, time-outs and failed remote
accesses. The owner's side: export translation, requests performed, the miss log, queues of messages. The bridge, its
trackers, ports, host requests, and the fabric instructions (R351 to R384, R446, R455). -/

namespace Sys2Proof.Machine

/-! ### The requester's side (R361, R362, R375, R376) -/

/-- A saturating 16-bit counter. -/
def sat16 (n : BitVec 16) : BitVec 16 := BitVec.ofNat 16 (min 0xFFFF (n.toNat + 1))

/-- The requests of a result that has not landed which are still out. -/
def State.pendReqs (s : State) (id : Nat) : List (Nat × PeerReq) :=
  s.reqs.filter fun e => match e.2.who with | .pend i _ => i == id | _ => false

/-- The requests of a result that its gang gives up. -/
def State.dropReqs (s : State) (id : Nat) : State := (s.pendReqs id).foldl (fun s e => s.endReq e.1) s

/-- A result with answers come, or tickets held (R376): a cause is raised at once every lane is decided, and no local lane is
then performed (R179); with nothing out it lands; when only tickets are out, the local lanes are performed and the gang goes on. -/
def State.pendGo (s : State) (id : Nat) : State :=
  match tget s.pends id with
  | none => s
  | some p =>
    let out := s.pendReqs id
    if out.any fun e => !e.2.ticket then s
    else if out.isEmpty then s.landPend id
    else if p.complete then s
    else match worst ((s.pendCauses p).map (·.2)), tget s.crews p.crew with
      | some cause, _ => (s.dropReqs id).trapPend id p cause
      | none, none => s
      | none, some c =>
        let q := s.performLocals p c.core
        let s := { q.1 with pends := tset q.1.pends id { q.2 with complete := true } }
        s.modCrew p.crew fun c => c.unpark p.slices s.clk

/-- A pending result with a lane's answer. -/
def State.pendLane (s : State) (id : Nat) (f : Pend → Pend) : State :=
  ({ s with pends := tmod s.pends id f }).pendGo id

/-- A lane of a result that has not landed ends as a failed remote access (R362). -/
def State.pendFail (s : State) (id lane : Nat) (r : PeerReq) (cause : Nat) : State :=
  s.pendLane id fun p => { p with failed := sins lane p.failed, loss := lowerLoss p.loss (some (r.lossAt lane cause)) }

/-- A polling WAITA that ends as a failed remote access: every register it writes receives all ones (R362). -/
def State.waitaFail (s : State) (k j : Nat) (r : PeerReq) (cause : Nat) : State :=
  match tget s.crews k with
  | some c =>
    (match (c.slice j).wait with
     | .waita w =>
       s.setCrew k (((w.result c (List.replicate w.n 0xFF)).failRemote s.clk (r.lossAt (lowest w.act) cause) true).unpark
         (c.gangOf j) s.clk)
     | _ => s)
  | none => s

/-- A barrier instruction of a peer's object that goes on with an answer. -/
def State.barAnswer (s : State) (k j : Nat) (a : Resp) : State :=
  ({ s with answers := tset s.answers (8 * k + j) a }).modCrew k fun c =>
    if (c.slice j).wait = Wait.peerBar then c.reissue (c.gangOf j) s.clk else c

/-- The continuation that a request stands for at a peer's barrier spawns (R255, R455). -/
def State.contAnswer (s : State) (pa tag : Nat) (lp : Bool) : State :=
  match tget s.bars pa with
  | some b =>
    let s := { s with bars := tset s.bars pa { b with conts := b.conts.filter fun t => t.tag != tag } }
    (b.conts.filter fun t => t.tag == tag).foldl (fun s t => s.spawnPeer t lp) s
  | none => s

/-- A request that ends without being performed (R362): `cause` is 0 for a time-out, 1 for REVOKED, 2 for PROTECT. A barrier
instruction raises the cause; a continuation spawns as at a poisoned completion. -/
def State.failReq (s : State) (tag : Nat) (r : PeerReq) (cause : Nat) : State :=
  let s := s.endReq tag
  let a : Option Resp := if cause = 0 then none else some (if cause = 1 then .revoked else .protect)
  match r.who with
  | .pend id l => s.pendFail id l r cause
  | .posted k _ l => s.endPosted k r (some (r.lossAt l cause))
  | .waita k j => s.waitaFail k j r cause
  | .copy id => s.copyAnswer id tag r a
  | .mat id => s.engineAnswer id r a
  | .coll id step => s.collAnswer id step a
  | .barrier k j => s.barAnswer k j (a.getD .protect)
  | .cont pa _ => s.contAnswer pa tag true
  | .update _ => s

/-- A polling WAITA's read has come back (R199, R200, R353): poisoned data raises DATAERR. -/
def State.waitaAnswer (s : State) (k j : Nat) (r : PeerReq) (a : Resp) : State :=
  match tget s.crews k with
  | none => s
  | some c =>
    let js := c.gangOf j
    let s := s.lcacheDrop c.core r.pa r.n
    match (c.slice j).wait with
    | .waita w =>
      let trap := fun (e : Cause) => s.lateTrap k js e w.act ((lanesOf w.act).map fun l => (l, w.va)) 0
      (match a with
       | .data bs bad =>
         if !bad.isEmpty then trap .dataerr
         else if w.holds bs || (w.polled && s.free 8 0 % 2 == 1) then s.setCrew k ((w.result c bs).unpark js s.clk)
         else
           let s := if w.polled then s else
             (s.modCore c.core fun x => { x with waitpoll := x.waitpoll + 1 }).setCrew k
               (c.modSlices js fun sl => { sl with wait := .waita { w with polled := true } })
           s.pollLater c.core k j
       | .revoked => if r.ticket then s.waitaFail k j r 1 else trap .revoked
       | _ => if r.ticket then s.waitaFail k j r 2 else trap .protect)
    | _ => s

/-- A replay's poisoned data raises DATAERR (R227, R363) in a gang that has gone on meanwhile, at an instruction boundary of the
gang that its slice is in then; the registers receive an open value (log entry 60). -/
def State.replayPoison (s : State) (p : Pend) (l : Nat) (r : PeerReq) : State :=
  match tget s.crews p.crew with
  | some c =>
    if (c.slice (l / 4)).exited then s
    else s.takeTrap p.crew (c.gangOf (l / 4)) .dataerr (maskOf [l].contains) 0 [(l, r.va)]
      (if p.land.writes then maskOf [l].contains else 0)
  | none => s

/-- The bytes of an answer that a lane asked for: a load of fewer than 4 bytes has asked for the word that holds them (R363). -/
def Pend.cut (p : Pend) (l : Nat) (r : PeerReq) (bs : List Byte) (bad : List Nat) : List Byte × List Nat :=
  let n := p.land.width l
  let off := r.va.toNat % 4
  if n < 4 then ((bs.drop off).take n, bad.filter fun i => decide (off ≤ i) && decide (i < off + n)) else (bs, bad)

/-- An answer to a lane's access (R180, R363, R371). A result whose gang has gone on ends as a failed remote access when it
is refused at its replay. What a load reads may stay in the load cache (R353). -/
def State.pendAnswer (s : State) (tag id l : Nat) (r : PeerReq) (a : Resp) : State :=
  let s := match a, (tget s.pends id).map (·.land) with
    | .data bs [], some (.load ..) => s.peerFill tag r bs
    | _, _ => s
  let done := ((tget s.pends id).map (·.complete)).getD false
  let cut := fun (bs : List Byte) (bad : List Nat) => ((tget s.pends id).map fun p => p.cut l r bs bad).getD (bs, bad)
  let cause := fun (e : Cause) => s.pendLane id fun p => { p with causes := tset p.causes l e }
  match a with
  | .data bs0 bad0 =>
    let bs := (cut bs0 bad0).1
    if (cut bs0 bad0).2.isEmpty then s.pendLane id fun p => { p with vals := tset p.vals l bs }
    else if done then
      let any := (List.range bs.length).map fun i => BitVec.ofNat 8 (s.free 12 (i + 16 * l))
      let t := s.pendLane id fun p => { p with vals := tset p.vals l any }
      (match tget s.pends id with
       | some p => t.replayPoison p l r
       | none => t)
    else cause .dataerr
  | .revoked => if done then s.pendFail id l r 1 else cause .revoked
  | _ => if done then s.pendFail id l r 2 else cause .protect

/-- An answer to a request (R363, R371). -/
def State.answerReq (s : State) (tag : Nat) (r : PeerReq) (a : Resp) : State :=
  let s := s.endReq tag
  match r.who with
  | .pend id l => s.pendAnswer tag id l r a
  | .posted k _ l =>
    match a with
    | .revoked => s.endPosted k r (some (r.lossAt l 1))
    | .protect => s.endPosted k r (some (r.lossAt l 2))
    | .unsupported => s.endPosted k r (some (r.lossAt l 2))
    | _ => s.endPosted k r none
  | .waita k j => s.waitaAnswer k j r a
  | .copy id => s.copyAnswer id tag r (some a)
  | .mat id => s.engineAnswer id r (some a)
  | .coll id step => s.collAnswer id step (some a)
  | .barrier k j => s.barAnswer k j a
  | .cont pa _ =>
    match a with
    | .data bs _ => s.contAnswer pa tag (bytesNat bs % 2 == 1)
    | _ => s.contAnswer pa tag true
  | .update _ => s

/-- A time-out of a request set anew from now. -/
def State.rearm (s : State) (tag : Nat) : State :=
  match tget s.reqs tag with
  | some r =>
    let rto := (s.die r.die).rto.toNat
    let s := { s with reqs := tset s.reqs tag { r with since := s.ticks r.die } }
    if rto = 0 then s else s.later ⟨s.ticks r.die + rto, some r.die, .peerTimeout tag⟩
  | none => s

/-- A fault ticket arrives (R376): the entry holds the access, and its time counts from now (R361). A WAITA's gang goes on,
its register interlocked. A cross-die request has had its response (R358). -/
def State.takeTicket (s : State) (tag : Nat) (r : PeerReq) : State :=
  let s := ({ s with reqs := tset s.reqs tag { r with ticket := true, took := if r.ticket then r.took else s.fresh } }).rearm tag
  let s := (if s.pkg.split then s.freeTracker tag else s).sendHeld
  let s := if s.ticketOut { r with ticket := true } then s
    else s.modDie r.die fun d => { d with tickets := tset d.tickets tag (r.entry.getD 0) }
  match r.who with
  | .pend id _ => s.pendGo id
  | .waita k j =>
    match tget s.crews k with
    | some c =>
      (match (c.slice j).wait with
       | .waita w =>
         let id := s.nextId
         let l := lowest w.act
         let p : Pend :=
           { crew := k, slices := c.gangOf j, act := w.act, uni := some l, land := .load w.n false
             dst := (List.range (w.n / 4)).map (w.d + ·), dp := false, addrs := [(l, w.va)], locals := [], vals := []
             causes := [], failed := [], loss := none, complete := true }
         let s := { s with
           pends := tset s.pends id p
           nextId := id + 1
           reqs := tmod s.reqs tag fun q => { q with who := .pend id l } }
         s.setCrew k (c.unpark (c.gangOf j) s.clk)
       | _ => s)
    | none => s
  | _ => s

/-- FAULT_TICKET (R376). -/
def execFaultTicket (s : State) : Res :=
  match s.ev with
  | some (.faultTicket tag) =>
    match tget s.reqs tag with
    | some r => .next (s.takeTicket tag r)
    | none => .next s
  | _ => .fault .noGang

/-- A notice matched to its ticket (R375): entry, owner and export frame number. -/
def State.ticketFor (s : State) (die entry dev part efn : Nat) : Option (Nat × PeerReq) :=
  s.reqs.find? fun e => e.2.die == die && e.2.entry == some entry && e.2.ticket && peerDev e.2.pa == dev &&
    bits e.2.pa 40 37 == part && bits e.2.pa 36 12 == efn

/-- A replay notice acted on (R375, R376): a notice that matches no ticket is counted as stale; the replay waits while an older
access of the slice to the page holds a ticket (R225). -/
def State.notice (s : State) (die entry dev part efn status : Nat) : State :=
  match s.ticketFor die entry dev part efn with
  | none => s.modDie die fun d => { d with stale := sat16 d.stale }
  | some (tag, r) =>
    if status = 0 then
      if s.behindTicket tag r then { s with reqs := tset s.reqs tag { r with noticed := true } }
      else ({ s with reqs := tset s.reqs tag { r with since := s.ticks r.die } }).sendReq tag
    else s.failReq tag r (if status = 1 then 1 else 2)

/-- REPLAY_NOTICE (R342, R376): logged while its context is out. -/
def execReplayNotice (s : State) : Res :=
  match s.ev with
  | some (.replayNotice die entry dev part efn status) =>
    match (s.ticketFor die entry dev part efn).bind fun e => s.reqOut e.2 with
    | some key =>
      .next { s with hogs := tmod s.hogs key fun h =>
        if h.notices.length < 256 then { h with notices := h.notices ++ [(die, entry, dev, part, efn, status)] } else h }
    | none => .next (s.notice die entry dev part efn status)
  | _ => .fault .noGang

/-! ### Messages (R368 to R370, R373, R381, R382) -/

/-- A message's 64 bytes (R368). -/
def msgBytes (m : Msg) : List Byte :=
  natBytes (m.fromDev % 1024 + m.fromPart % 16 * 2 ^ 10 + m.typ % 16 * 2 ^ 16) 4 ++ natBytes m.seq.toNat 4 ++ natBytes 0 8 ++
    (List.range 8).flatMap (fun i => natBytes (m.payload.getD i 0).toNat 4) ++ natBytes 0 16

/-- A message from the 64 bytes of a write into a message window (R352, R368). -/
def msgOfBytes (die part tag : Nat) (bs : List Byte) : Msg :=
  let v := bytesNat bs
  { die := die, part := part, typ := bits v 19 16, fromPart := bits v 13 10, fromDev := bits v 9 0
    seq := BitVec.ofNat 32 (v / 2 ^ 32), tag := tag
    reserved := bits v 31 20 + bits v 15 14 + bits v 127 64 + bits v 511 384
    payload := (List.range 8).map fun i => BitVec.ofNat 32 (v / 2 ^ (128 + 32 * i)) }

/-- A queue object's fields (R370): its place, base, size, head and tail. -/
structure Queue where
  pa : Nat
  base : Nat
  size : Nat
  head : Nat
  tail : Nat
  deriving DecidableEq, Repr

/-- The queue that FAB_MSGQ or FAB_CTLQ names; none while v is 0. -/
def State.queueAt (s : State) (die : Nat) (reg : Dword) : Option Queue :=
  if reg.getLsbD 0 then
    let pa := memKey s.pkg.split die (bits reg.toNat 51 6 * 64)
    let v := memNat s.mem pa 64
    some ⟨pa, bits v 63 0, bits v 95 64, bits v 127 96, bits v 159 128⟩
  else none

/-- The place of a queue's slot. -/
def State.slotOf (s : State) (die : Nat) (q : Queue) (i : Nat) : Nat :=
  memKey s.pkg.split die (bits (q.base + 64 * (i % q.size)) 51 0)

/-- The messages a queue holds. -/
def Queue.held (q : Queue) : Nat := (q.tail + 2 ^ 32 - q.head) % 2 ^ 32

/-- A queue takes messages: its size is a power of two from 16 to 65,536 (R370). -/
def Queue.ok (q : Queue) : Bool := decide (16 ≤ q.size) && decide (q.size ≤ 65536) && isPow2 q.size

/-- A message appended to a partition's queue (R370): none when it is refused, as by a queue object that is marked. -/
def State.append (s : State) (die part : Nat) (control : Bool) (m : Msg) : Option State :=
  let p := s.part die part
  match s.queueAt die (if control then p.ctlq else p.msgq) with
  | some q =>
    if !q.ok || q.held == q.size || s.marked q.pa 32 then none
    else
      let slot := s.slotOf die q q.tail
      let s := ((s.unmark (slot / 32)).unmark (slot / 32 + 1)).poke slot (msgBytes m)
      some (s.poke (q.pa + 16) (natBytes ((q.tail + 1) % 2 ^ 32) 4))
  | none => none

/-- A message discarded and counted (R369). -/
def State.badMsg (s : State) (die : Nat) : State := s.modDie die fun d => { d with badmsg := sat16 d.badmsg }

/-- What the receiving fabric unit does with a message. -/
inductive Took where
  | accepted (s : State)
  | refused
  | discarded (s : State)

/-- A message of types 1, 2, 3 or 7 handled by the receiving fabric unit (R369). -/
def State.takeMsg (s : State) (m : Msg) : Took :=
  if m.reserved ≠ 0 then .discarded (s.badMsg m.die)
  else if m.typ = 1 ∨ m.typ = 2 ∨ m.typ = 3 ∨ m.typ = 7 then
    match s.append m.die m.part (m.typ != 7) m with
    | some s => .accepted s
    | none => .refused
  else .discarded (s.badMsg m.die)

/-- A tag that an owner holds with its answer (R365). -/
def State.heldFor (s : State) (die part dev fromPart tag : Nat) : Option Resp :=
  ((s.part die part).held.find? fun h => h.dev == dev && h.part == fromPart && h.tag == tag).map (·.answer)

/-- A performed request's tag held with its answer, for 2 × FAB_RTO (R365). -/
def State.holdTag (s : State) (die part dev fromPart tag : Nat) (a : Resp) : State :=
  let s := s.modPart die part fun p => { p with held := p.held ++ [⟨dev, fromPart, tag, a⟩] }
  let rto := (s.die die).rto.toNat
  if rto = 0 then s else s.later ⟨s.ticks die + 2 * rto, some die, .tagExpiry dev fromPart tag⟩

/-- TAG_EXPIRY (R365). -/
def execTagExpiry (s : State) : Res :=
  match s.ev with
  | some (.tagExpiry dev part tag) =>
    .next { s with parts := tmap s.parts fun _ p =>
      { p with held := p.held.filter fun h => !(h.dev == dev && h.part == part && h.tag == tag) } }
  | _ => .fault .noGang

/-- A message that arrives (R365, R369, R370): a repeat is answered from its tag; a refused one is sent again by its
sender. -/
def State.arriveMsg (s : State) (m : Msg) : State :=
  match s.heldFor m.die m.part m.fromDev m.fromPart m.tag with
  | some a => s.emit (.answer m.fromDev m.fromPart m.tag a)
  | none =>
    match s.takeMsg m with
    | .accepted s => (s.holdTag m.die m.part m.fromDev m.fromPart m.tag .done).emit (.answer m.fromDev m.fromPart m.tag .done)
    | .discarded s => s
    | .refused => s.emit (.refused m.fromDev m.fromPart m.tag)

/-- GRANT (R369, R373). -/
def execGrant (s : State) : Res :=
  match s.ev with
  | some (.grant m) => .next (s.arriveMsg { m with typ := 1 })
  | _ => .fault .noGang

/-- RECALL (R369, R373). -/
def execRecall (s : State) : Res :=
  match s.ev with
  | some (.recall m) => .next (s.arriveMsg { m with typ := 2 })
  | _ => .fault .noGang

/-- ACKNOWLEDGEMENT (R369, R373). -/
def execAcknowledgement (s : State) : Res :=
  match s.ev with
  | some (.acknowledgement m) => .next (s.arriveMsg { m with typ := 3 })
  | _ => .fault .noGang

/-- SOFTWARE_MESSAGE (R369). -/
def execSoftwareMessage (s : State) : Res :=
  match s.ev with
  | some (.softwareMessage m) => .next (s.arriveMsg { m with typ := 7 })
  | _ => .fault .noGang

/-- BAD_MESSAGE (R369). -/
def execBadMessage (s : State) : Res :=
  match s.ev with
  | some (.badMessage die) => .next (s.badMsg die)
  | _ => .fault .noGang

/-- The tick at which a message was first sent; that of now for a new one. -/
def State.sentAt (s : State) (id : Nat) (m : Msg) : Nat := ((tget s.resend id).map (·.2)).getD (s.ticks m.die)

/-- A message has been refused and waits to be sent again (R370). -/
def State.msgWaits (s : State) (id : Nat) : Bool :=
  (s.timers.any fun t => t.ev == .messageResend id) || s.due.contains (.messageResend id)

/-- A message that a full queue refused waits 4,096 clocks (R370). -/
def State.waitMsg (s : State) (id : Nat) (m : Msg) : State :=
  ({ s with resend := tset s.resend id (m, s.sentAt id m) }).later ⟨s.clk + 4096, none, .messageResend id⟩

/-- EXPORT_MISS (R369, R374): the owner's message to its own partition. -/
def execExportMiss (s : State) : Res :=
  match s.ev with
  | some (.exportMiss part m) =>
    match s.append m.die part true m with
    | some s => .next s
    | none =>
      let id := s.nextId
      let s := ({ s with nextId := id + 1 }).waitMsg id m
      let rto := (s.die m.die).rto.toNat
      .next (if rto = 0 then s else s.later ⟨s.ticks m.die + rto, some m.die, .peerTimeout id⟩)
  | _ => .fault .noGang

/-! ### MSGS and its sending (R381) -/

/-- An earlier MSGS to the same destination partition of the same sender has not been accepted yet (R381). -/
def State.msgBehind (s : State) (id : Nat) (o : Op) : Bool :=
  match o.body with
  | .send dev part _ _ _ =>
    s.ops.any fun e => e.1 != id && (match e.2.body, e.2.order, o.order with
      | .send d p _ _ _, some a, some b => d == dev && p == part && decide (a < b) &&
          s.partOf (((tget s.blocks e.2.block).map (·.ctx)).getD 0) == s.partOf (((tget s.blocks o.block).map (·.ctx)).getD 0)
      | _, _, _ => false)
  | _ => false

/-- A MSGS whose preconditions have completed can be sent now: its slices' earlier accesses are performed at pod scope. -/
def State.msgReady (s : State) (id : Nat) (o : Op) : Bool :=
  match o.body with
  | .send _ _ _ _ started =>
    o.mayStart s.clk && !started && (o.poisonedPre || !(s.owed o.crew o.slices o.born true || s.owedKnown o.crew o.slices || s.msgBehind id o))
  | _ => false

/-- A MSGS ends: its token becomes done, or poisoned with an entry of cause PROTECT. -/
def State.endMsg (s : State) (id : Nat) (o : Op) (ok : Bool) : State :=
  let s := { s with resend := tdel s.resend id }
  let s := if ok then s else s.recordFault o .protect 0xFFFF false 0
  s.completeOp id o.tokens 32 (!ok)

/-- The step by which a message reaches a device. -/
def msgStep (m : Msg) : Event :=
  if m.typ = 1 then .grant m else if m.typ = 2 then .recall m else if m.typ = 3 then .acknowledgement m else .softwareMessage m

/-- A message handed to its destination: to this device it is taken or refused at once; to the other die of a split package it
goes over the bridge, and to another device out, and its acceptance comes as an answer. -/
def State.handMsg (s : State) (id : Nat) (o : Op) (dev : Nat) (m : Msg) : State :=
  if dev = s.devOf m.die then
    match s.takeMsg m with
    | .accepted s => s.endMsg id o true
    | .discarded s => s
    | .refused => s.waitMsg id m
  else match s.dieOfDev dev with
    | some d => s.cross d 2 64 (msgStep { m with die := d })
    | none =>
      let part := s.partOf (((tget s.blocks o.block).map (·.ctx)).getD 0)
      s.emit (.message dev (s.portTo m.die part dev 0x1FFFFF0) m)

/-- A MSGS sent for the first time, with what a release at pod scope publishes (R381). -/
def State.firstSend (s : State) (id : Nat) (o : Op) : State :=
  match o.body with
  | .send dev part typ payload _ =>
    let die := dieOfCore o.core
    let mine := s.partOf (((tget s.blocks o.block).map (·.ctx)).getD 0)
    if o.poisonedPre || !s.routed die mine dev then s.endMsg id o false
    else
      let s := s.publishOwn o.crew o.slices o.born
      let key := 16 * dev + part
      let seq := (tget (s.part die mine).seq key).getD 0
      let m : Msg := ⟨die, part, typ, mine, s.devOf die, seq, id, 0, payload⟩
      let s := s.modPart die mine fun p => { p with seq := tset p.seq key (seq + 1) }
      let s := s.modOp id fun o => { o with body := .send dev part typ payload true }
      let s : State := { s with resend := tset s.resend id (m, s.ticks die) }
      let rto := (s.die die).rto.toNat
      let s := if rto = 0 then s else s.later ⟨s.ticks die + rto, some die, .peerTimeout id⟩
      s.handMsg id o dev m
  | _ => s

/-- MESSAGE_RESEND (R370, R381): a MSGS is sent, or a refused message is sent again. -/
def execMessageResend (s : State) : Res :=
  match s.ev with
  | some (.messageResend id) =>
    match tget s.ops id with
    | some o =>
      match o.body, tget s.resend id with
      | .send dev _ _ _ true, some (m, _) => .next (s.handMsg id o dev m)
      | .send .., _ => if s.msgReady id o then .next (s.firstSend id o) else .next s
      | _, _ => .next s
    | none =>
      match tget s.resend id with
      | some (m, _) =>
        match s.append m.die m.part true m with
        | some s => .next { s with resend := tdel s.resend id }
        | none => .next (s.waitMsg id m)
      | none => .next s
  | _ => .fault .noGang

/-! ### The owner's side (R363, R365, R371, R374, R455) -/

/-- What R371 decides. -/
inductive Verdict where
  | protect | revoked | ticket
  | perform (l : Loc)
  deriving DecidableEq, Repr

/-- The conditions of R371, in their order, for an entry and a code. -/
def State.judge (s : State) (die : Nat) (e : Option (Nat × Nat)) (writes : Bool) (off : Nat) : Verdict :=
  match e with
  | none => .protect
  | some (e, code) =>
    if !bit e 0 || bits e 10 3 != 0 || bits e 75 64 != 0 || bits e 127 116 != 0 then .protect
    else if code = 0 ∨ (writes = true ∧ (code = 1 ∨ bit e 2 = false)) then .protect
    else if code = 3 then .revoked
    else if !bit e 1 then .ticket
    else
      let key := bits e 63 52 + 4096 * bits e 11 11
      let pa := bits e 51 12 * 4096 + off
      if placeOf s.pkg.split pa == .local && (tget s.pkg.keys key).isSome && decide (pa < s.capacity die) then .perform ⟨memKey s.pkg.split die pa, key⟩
      else .protect

/-- A request writes or updates. -/
def peerWrites : PeerKind → Bool
  | .read => false
  | _ => true

/-- The entry a request is decided by: the owner's cached copy, or the tables, an open choice while they differ (R372); and
the cache after it. -/
def State.useExport (s : State) (r : PeerIn) : State × Option (Nat × Nat) :=
  let who := 16 * r.dev + r.part
  let now := s.exportEntry r.die r.dstPart r.efn who
  match (s.part r.die r.dstPart).xcache.find? fun x => x.efn == r.efn && x.who == who with
  | some x =>
    if now = some (x.bits, x.code) || s.free 14 0 % 2 == 1 then (s, some (x.bits, x.code)) else (s, now)
  | none =>
    match now with
    | some (e, c) =>
      if bit e 0 then (s.modPart r.die r.dstPart fun p => { p with xcache := ⟨r.efn, who, e, c⟩ :: p.xcache }, now) else (s, now)
    | none => (s, now)

/-- The kind field of a miss-log entry (R374): reductions are writes. -/
def missKind : PeerKind → Nat
  | .read => 0
  | .write _ _ => 1
  | .reduce _ => 1
  | .chunk _ => 1
  | _ => 2

/-- A miss appended to the log (R374), with its message to the owner's control queue, numbered like any other (R368); none when
4,096 are unserviced, or there is no log. The message's payload is not stated: open values. -/
def State.logMiss (s : State) (r : PeerIn) : Option State :=
  let p := s.part r.die r.dstPart
  if 4096 ≤ p.misses.length || !p.xmlog.getLsbD 0 then none
  else
    let slot := memKey s.pkg.split r.die (bits p.xmlog.toNat 51 16 * 65536 + 16 * (p.missTail % 4096))
    let e := r.dev + r.part * 2 ^ 10 + r.ticket * 2 ^ 14 + missKind r.kind * 2 ^ 22 + r.efn * 2 ^ 32
    let s := s.poke slot (natBytes e 16)
    let s := s.modPart r.die r.dstPart fun p => { p with misses := p.misses ++ [r], missTail := p.missTail + 1 }
    let key := 16 * s.devOf r.die + r.dstPart
    let seq := (tget (s.part r.die r.dstPart).seq key).getD 0
    let s := s.modPart r.die r.dstPart fun p => { p with seq := tset p.seq key (seq + 1) }
    let m : Msg := ⟨r.die, r.dstPart, 8, r.dstPart, s.devOf r.die, seq, 0, 0, (List.range 8).map fun i => BitVec.ofNat 32 (s.free 13 i)⟩
    some (s.send (.exportMiss r.dstPart m))

/-- The bytes of a range that lie in marked granules, by offset. -/
def State.badBytes (s : State) (pa n : Nat) : List Nat := (List.range n).filter fun i => s.marked (pa + i) 1

/-- The pieces of a byte string by granule: offset and length. -/
def piecesOf (pa n : Nat) : List (Nat × Nat) :=
  (granules pa n).map fun g => (max pa (32 * g) - pa, min (pa + n) (32 * g + 32) - max pa (32 * g))

/-- A peer's or the host's write performed at its home (R180, R363, R393): granule by granule, a part of a marked one
dropped, poisoned words marking theirs; one bump for each line written. The state, and whether a part was dropped. -/
def State.remoteWrite (s : State) (l : Loc) (bs : List Byte) (poison : List Nat) : State × Bool :=
  let r := (piecesOf l.pa bs.length).foldl (fun (r : State × List Nat × Bool) e =>
    let part := (bs.drop e.1).take e.2
    let bad := poison.any fun i => decide (e.1 ≤ i) && decide (i < e.1 + e.2)
    let q := r.1.enginePut ⟨l.pa + e.1, l.key⟩ part (e.2 == 32) bad
    if q.2 then
      let n := q.1.noteLines r.2.1 (l.pa + e.1) e.2
      (n.1, n.2, r.2.2)
    else (q.1, r.2.1, true)) (s, [], false)
  (r.1, r.2.2)

/-- A wait or continuation of a peer noted at a barrier's level, or answered at once when its phase is complete (R455). -/
def State.remoteWait (s : State) (r : PeerIn) (pa : Nat) (o : BarObj) (n : Word) (rec_ : Option Dword) : State × Option Resp :=
  if phaseDone o.phase n then (s, some (.data [if o.lpoison then 1 else 0] []))
  else
    let q : Remote := ⟨r.dev, r.part, r.tag, n, rec_, s.fresh⟩
    let s := { s with bars := tmod s.bars pa fun b => { b with remotes := b.remotes ++ [q] } }
    (s.barPut pa { o with conthead := s.contHead pa }, none)

/-- A peer's update, wait or test of a barrier here (R246, R455): a scope other than pod is answered PROTECT, an object that
is not valid ILLEGAL. None: undefined (R239). -/
def State.remoteBarrier (s : State) (r : PeerIn) (pa : Nat) : Option (State × Option Resp) :=
  let ctx := ((tget s.bars pa).map (·.ctx))
  match s.barSee pa with
  | .mark => some (s.contain 4 none ctx, none)
  | .undefined => none
  | .ok o =>
    if !o.valid then some (s, some .illegal)
    else if o.scope ≠ 4 then some (s, some .protect)
    else match r.kind with
      | .barrier a bytes poison => (s.barApply pa o a bytes poison).map fun s => (s, some .done)
      | .barWait n => some (s.remoteWait r pa o n none)
      | .barCont n v => some (s.remoteWait r pa o n (some v))
      | .barTest n => some (s, some (.data (natBytes o.phase.toNat 4 ++ natBytes (o.status n).toNat 4) []))
      | _ => some (s, some .unsupported)

/-- A request performed at its home, and its answer (R363, R371). None: undefined. -/
def State.performPeer (s : State) (r : PeerIn) (l : Loc) : Option (State × Option Resp) :=
  match r.kind with
  | .read => some (s, some (.data (s.bytesAt l r.n) (s.badBytes l.pa r.n)))
  | .write bs poison =>
    let q := s.remoteWrite l bs poison
    some (q.1, some (if q.2 then .dropped else .done))
  | .atomic op e v c =>
    let n := elemBytes e
    if s.marked l.pa n then some (s, some (.data (List.replicate n 0) (List.range n)))
    else
      let old := s.bytesAt l n
      let new := atomicNew op e (bytesNat old) (v.toNat % 2 ^ (8 * n)) (c.toNat % 2 ^ (8 * n))
      some (s.storeAt l (natBytes new n), some (.data old []))
  | .reduce c => some (s.redArrive { c with slice := s.homeOf l.pa, line := l.pa / 128, key := l.key } 0, some .done)
  | .chunk c => some (s.send (.collChunkReceive { c with die := r.die }), some .done)
  | _ => s.remoteBarrier r l.pa

/-- Transactions that the port carries (R363): reads and writes of 4 to 256 bytes, multiples of 4, within 256 bytes, and atomics of 4
and 8 bytes. A write of fewer than 4 bytes is one of the word that holds them, the others masked (log entry 114). -/
def portCarries (r : PeerIn) : Bool :=
  let fits := fun (n : Nat) => decide (4 ≤ n) && n % 4 == 0 && r.off % 4 == 0 && decide (r.off % 256 + n ≤ 256)
  match r.kind with
  | .read => fits r.n
  | .write bs _ => fits bs.length || (decide (0 < bs.length) && decide (r.off % 4 + bs.length ≤ 4))
  | .atomic _ e _ _ => r.off % elemBytes e == 0
  | _ => true

/-- A write into a message window (R352, R369): decoded and never stored. Types whose payload the hardware alone writes come
as steps of their own. -/
def State.windowWrite (s : State) (r : PeerIn) : State :=
  match r.kind with
  | .write bs _ =>
    let m := msgOfBytes r.die r.dstPart r.tag bs
    if m.typ = 4 ∨ m.typ = 5 ∨ m.typ = 6 then s.emit (.answer r.dev r.part r.tag .done) else s.arriveMsg m
  | _ => s.emit (.answer r.dev r.part r.tag .protect)

/-- An atomic that is not performed, since another lane of its instruction holds a cause (R179): its answer says what it found. -/
def State.unperformed (s : State) (l : Loc) : PeerKind → Option Resp
  | .atomic _ e _ _ =>
    let n := elemBytes e
    some (.data (s.bytesAt l n) (if s.marked l.pa n then List.range n else []))
  | _ => none

/-- A request served by its owner (R365, R371, R374); with `hold`, an atomic is not performed. None: undefined. -/
def State.servePeer (s : State) (r : PeerIn) (hold : Bool) : Option State :=
  let s := s.modPart r.die r.dstPart fun p =>
    { p with held := p.held.filter fun h => !(h.dev == r.dev && h.part == r.part && r.retires.contains h.tag) }
  if 0x1FFFFF0 ≤ r.efn then some (s.windowWrite r)
  else if !portCarries r then some (s.emit (.answer r.dev r.part r.tag .unsupported))
  else match s.heldFor r.die r.dstPart r.dev r.part r.tag with
    | some a => some (s.emit (.answer r.dev r.part r.tag a))
    | none =>
      let u := s.useExport r
      match u.1.judge r.die u.2 (peerWrites r.kind) r.off with
      | .protect => some (u.1.emit (.answer r.dev r.part r.tag .protect))
      | .revoked => some (u.1.emit (.answer r.dev r.part r.tag .revoked))
      | .ticket =>
        match u.1.logMiss r with
        | some s => some (s.emit (.ticket r.dev r.part r.tag))
        | none => some (u.1.emit (.refused r.dev r.part r.tag))
      | .perform l =>
        match if hold then u.1.unperformed l r.kind else none with
        | some a => some (u.1.emit (.answer r.dev r.part r.tag a))
        | none =>
          (u.1.performPeer r l).map fun q =>
            match q.2 with
            | some a =>
              let s := if peerWrites r.kind then q.1.holdTag r.die r.dstPart r.dev r.part r.tag a else q.1
              s.emit (.answer r.dev r.part r.tag a)
            | none => q.1

/-- A lane holds a cause: it is refused or revoked, or is an atomic at a marked location (R179, R188). -/
def State.laneFails (s : State) (r : PeerIn) : Bool :=
  if 0x1FFFFF0 ≤ r.efn || !portCarries r then true
  else if (s.heldFor r.die r.dstPart r.dev r.part r.tag).isSome then false
  else match s.judge r.die (s.useExport r).2 (peerWrites r.kind) r.off with
    | .protect | .revoked => true
    | .ticket => false
    | .perform l => (match r.kind with | .atomic _ e _ _ => s.marked l.pa (elemBytes e) | _ => false)

/-- The result of this package that a request is a lane of. -/
def State.ownPend (s : State) (r : PeerIn) : Option (Nat × Pend) :=
  match s.dieOfDev r.dev, tget s.reqs r.tag with
  | some _, some q => (match q.who with | .pend id _ => (tget s.pends id).map fun p => (id, p) | _ => none)
  | _, _ => none

/-- The local lanes of an atomic performed with its lanes at the other die (R179, R181). -/
def State.withLocals (s : State) (r : PeerIn) : State :=
  match s.ownPend r with
  | some (id, p) =>
    (match p.complete, p.land, tget s.crews p.crew with
     | false, .atomic .., some c =>
       let q := s.performLocals p c.core
       { q.1 with pends := tset q.1.pends id { q.2 with locals := [] } }
     | _, _, _ => s)
  | none => s

/-- Two requests that come are lanes of one instruction. -/
def mateOf (r q : PeerIn) : Bool :=
  r.die == q.die && r.dev == q.dev && r.part == q.part &&
    (match r.flows, q.flows with
     | a :: _, b :: _ => a / 3 / 2 ^ 52 == b / 3 / 2 ^ 52 && a % 3 == 1 && b % 3 == 1
     | _, _ => false)

/-- The requests on their way that come with one, in the order they were sent (R181). -/
def State.mates (s : State) (r : PeerIn) : List PeerIn :=
  s.due.filterMap fun e => match e with
    | .peerRequest q => if mateOf r q && q.tag != r.tag then some q else none
    | _ => none

/-- The lanes of one instruction that have come, served together, in the order given: atomics are performed only when none of the
lanes holds a cause, those in the requester's own memory among them (R179, R181). -/
def State.serveGroup (s : State) (rs : List PeerIn) : Option State :=
  let hold := rs.any s.laneFails || rs.any fun r => (s.ownPend r).any fun p => !(s.pendCauses p.2).isEmpty
  (rs.foldl (fun t r => t.bind fun s => s.servePeer r hold) (some s)).map fun s =>
    if hold then s else ((rs.head?).map s.withLocals).getD s

/-- PEER_REQUEST (R371): the lanes of one instruction are served together, in ascending order, so that no
other agent's access falls between them (R181). -/
def execPeerRequest (s : State) : Res :=
  match s.ev with
  | some (.peerRequest r) =>
    let more := s.mates r
    let s := { s with due := s.due.filter fun e => !more.any fun q => e == Event.peerRequest q }
    orUndefined (s.serveGroup (r :: more))
  | _ => .fault .noGang

/-- MISS_LOG_RETRY (R374): 4,096 clocks after its refusal a request is sent again, unless it has ended meanwhile. -/
def execMissLogRetry (s : State) : Res :=
  match s.ev with
  | some (.missLogRetry tag) => .next (s.sendReq tag)
  | _ => .fault .noGang

/-- Whose access a contribution is that a message brings: that of an issuer on the other die of this package, or hardware's. -/
def State.redIssuer (s : State) (r : RedMsg) : Issuer :=
  if (s.dieOfDev r.dev).isSome then ((tget s.reqs r.tag).map (·.issuer)).getD (.hardware 0) else .hardware 0

/-- REDUCTION_MESSAGE (R378): the contribution is served like a write once its final part and all before it have come, its
lanes in the order of the parts. -/
def execReductionMessage (s : State) : Res :=
  match s.ev with
  | some (.reductionMessage r) =>
    let same := fun (q : RedMsg) => q.dev == r.dev && q.fromPart == r.fromPart && q.tag == r.tag
    let all := ((s.die r.die).parts.filter fun q => !(same q && q.partNo == r.partNo)) ++ [r]
    let mine := all.filter same
    match mine.find? (·.final) with
    | some f =>
      let ps := (List.range (f.partNo + 1)).filterMap fun i => mine.find? fun q => q.partNo == i
      if ps.length = f.partNo + 1 then
        let s := s.modDie r.die fun d => { d with parts := all.filter fun q => !same q }
        let c := { f.contrib with lanes := ps.flatMap fun q => q.contrib.lanes, issuer := s.redIssuer r }
        orUndefined ((s.servePeer
          { die := r.die, dev := r.dev, part := r.fromPart, tag := r.tag, ticket := r.ticket, retires := [], flows := []
            dstPart := r.part, efn := r.efn, off := r.lineOff, n := 128, kind := .reduce c } false).map State.sendHeld)
      else .next (s.modDie r.die fun d => { d with parts := all })
    | none => .next (s.modDie r.die fun d => { d with parts := all })
  | _ => .fault .noGang

/-- The owner's cached copies of an export entry dropped, and the command complete (R372). -/
def State.dropExport (s : State) (die part efn : Nat) : State :=
  s.modPart die part fun p => { p with xcache := p.xcache.filter fun x => x.efn != efn, xbusy := false }

/-- EXPORT_INVALIDATE (R372): every access admitted under the old entry has been performed, as accesses are. -/
def execExportInvalidate (s : State) : Res :=
  match s.ev with
  | some (.exportInvalidate die part efn) => .next (s.dropExport die part efn)
  | _ => .fault .noGang

/-- EXPORT_SERVICED (R372): each miss with the frame is judged again and its requester told. -/
def execExportServiced (s : State) : Res :=
  match s.ev with
  | some (.exportServiced die part efn) =>
    let s := s.dropExport die part efn
    let mine := (s.part die part).misses.filter fun r => r.efn == efn
    let s := s.modPart die part fun p => { p with misses := p.misses.filter fun r => r.efn != efn }
    .next (mine.foldl (fun (s : State) r =>
      let st := match s.judge die (s.exportEntry die part efn (16 * r.dev + r.part)) (peerWrites r.kind) r.off with
        | .revoked => 1
        | .protect => 2
        | _ => 0
      s.emit (.notice r.dev r.part r.ticket (s.devOf die) part efn st)) s)
  | _ => .fault .noGang

/-! ### Answers and time-outs -/

/-- A request that its owner refused for want of room in its miss log: it is sent again after 4,096 clocks (R374). -/
def State.refusedReq (s : State) (tag : Nat) : State :=
  (if s.pkg.split then s.freeTracker tag else s).later ⟨s.clk + 4096, none, .missLogRetry tag⟩

/-- REQUEST_RESPONSE (R355): an answer to a request or its refusal, the acceptance or refusal of a message, or the end of a
cross-die request, whose tracker frees. -/
def execRequestResponse (s : State) : Res :=
  match s.ev with
  | some (.requestResponse tag a) =>
    match tget s.reqs tag, tget s.ops tag, tget s.xreqs tag with
    | some r, _, _ => .next (if a = .refused then s.refusedReq tag else s.answerReq tag r a)
    | none, some o, _ =>
      (match o.body, a, tget s.resend tag with
       | .send _ _ _ _ true, .refused, some (m, _) => .next (s.waitMsg tag m)
       | .send _ _ _ _ true, a, _ => .next (s.endMsg tag o (a == .done))
       | _, _, _ => .next s)
    | none, none, _ => .next (s.freeTracker tag)
  | _ => .fault .noGang

/-- PEER_TIMEOUT (R361, R370): FAB_RTO has passed since the request's send, or its ticket's arrival; a ticket whose context is out
counts no time. A message that was never accepted ends too. -/
def execPeerTimeout (s : State) : Res :=
  match s.ev with
  | some (.peerTimeout tag) =>
    match tget s.reqs tag, tget s.ops tag with
    | some r, _ =>
      let rto := (s.die r.die).rto.toNat
      if rto = 0 || decide (s.ticks r.die < r.since + rto) || s.ticketOut r then .next s
      else .next (s.failReq tag r 0)
    | none, o =>
      (match tget s.resend tag with
       | some (m, t) =>
         let rto := (s.die m.die).rto.toNat
         if rto = 0 || decide (s.ticks m.die < t + rto) then .next s
         else match o with
           | some o => .next (s.endMsg tag o false)
           | none => .next { s with resend := tdel s.resend tag }
       | none => .next s)
  | _ => .fault .noGang

/-! ### Home trackers across the bridge (R358, R361) -/

/-- A tracker of a home slice is free. -/
def Home.trackerFree (h : Home) : Bool := decide (h.trackers.length + h.reserved.length < 64)

/-- A request of this package that the other die has accepted comes to be served, and those of its flow that waited for that are sent
(R359). -/
def State.xdieAccepted (s : State) (id : Nat) : State :=
  match tget s.reqs id with
  | some r =>
    match s.dieOfDev (peerDev r.pa) with
    | some d => (s.send (.peerRequest (s.arriving d id r))).sendHeld
    | none => s
  | none => s

/-- A cross-die request that reaches its home slice (R358): it takes a tracker, or is refused; the second refusal makes a
reservation, which is released after 1 ms. The third attempt, which is never refused, is accepted though all 64 trackers may
still be busy: the model's choice (log entry 100). -/
def State.xdieArrive (s : State) (id : Nat) (x : XReq) : State :=
  let h := s.home x.slice
  if h.reserved.contains id || h.trackerFree then
    (({ s with xreqs := tset s.xreqs id { x with accepted := true } }).modHome x.slice fun h =>
      { h with trackers := h.trackers ++ [id], reserved := h.reserved.filter (· != id) }).xdieAccepted id
  else
    let n := x.refusals + 1
    let s := ({ s with xreqs := tset s.xreqs id { x with refusals := n } }).later ⟨s.clk + 256, none, .xdieRetry id⟩
    if n = 2 then
      (s.modHome x.slice fun h => { h with reserved := h.reserved ++ [id] }).later
        ⟨s.ticks x.die + 100000, some x.die, .reservationRelease id⟩
    else s

/-- XDIE_REQUEST (R358): a request, known already when it was sent over this package's bridge, reaches its home slice. -/
def execXdieRequest (s : State) : Res :=
  match s.ev with
  | some (.xdieRequest die id slice) =>
    match tget s.xreqs id with
    | some x => .next (if x.accepted then s else s.xdieArrive id x)
    | none =>
      let x : XReq := ⟨die, slice, s.ticks die, 0, false⟩
      let xdto := (s.die die).xdto.toNat
      let s := if xdto = 0 then s else s.later ⟨s.ticks die + xdto, some die, .xdieTimeout id⟩
      .next (s.xdieArrive id x)
  | _ => .fault .noGang

/-- XDIE_RETRY (R358): 256 clocks after a refusal the request is sent again, one of this package over the bridge. -/
def execXdieRetry (s : State) : Res :=
  match s.ev with
  | some (.xdieRetry id) =>
    match tget s.xreqs id with
    | some x =>
      if x.accepted then .next s
      else if s.pkg.split && (tget s.reqs id).isSome then .next (s.cross (1 - x.die) 0 0 (.xdieRequest x.die id x.slice))
      else .next (s.xdieArrive id x)
    | none => .next s
  | _ => .fault .noGang

/-- RESERVATION_RELEASE (R358). -/
def execReservationRelease (s : State) : Res :=
  match s.ev with
  | some (.reservationRelease id) =>
    match tget s.xreqs id with
    | some x => .next (s.modHome x.slice fun h => { h with reserved := h.reserved.filter (· != id) })
    | none => .next s
  | _ => .fault .noGang

/-- XDIE_TIMEOUT (R361): the request ends unanswered; a peer request carried over the bridge under the same number ends as a
failed remote access. -/
def execXdieTimeout (s : State) : Res :=
  match s.ev with
  | some (.xdieTimeout id) =>
    match tget s.xreqs id with
    | some x =>
      if (s.die x.die).xdto.toNat = 0 || decide (s.ticks x.die < x.since + (s.die x.die).xdto.toNat) then .next s
      else
        let s := s.freeTracker id
        (match tget s.reqs id with
         | some r => .next (s.failReq id r 0)
         | none => .next s)
    | none => .next s
  | _ => .fault .noGang

/-! ### The bridge (R355 to R357) -/

/-- The bridge changed. -/
def State.modBridge (s : State) (f : Bridge → Bridge) : State := { s with pkg := { s.pkg with bridge := f s.pkg.bridge } }

/-- The failed attempts in a row at a channel's present packet. -/
def Bridge.failed (b : Bridge) (key : Nat) : Nat := (tget b.attempts key).getD 0

/-- The packet that a channel delivers next, of those this package has sent. -/
def Bridge.head (b : Bridge) (key : Nat) : Option Carried := b.wire.find? fun p => 3 * p.die + p.chan == key

/-- A packet that failed: nothing of it is acted on, and it and every later one of its channel come again from the retry buffer;
the sixteenth failed attempt in a row retrains the link. -/
def State.bridgeFail (s : State) (p : BridgePkt) : State :=
  let key := 3 * p.die + p.chan
  let s := s.modBridge fun b =>
    { b with attempts := tset b.attempts key (b.failed key + 1)
             replaying := if b.replaying.contains (p.die, p.chan) then b.replaying else b.replaying ++ [(p.die, p.chan)] }
  let s := s.push (.bridgeReplay p.die p.chan)
  if 16 ≤ s.pkg.bridge.failed key then s.push .bridgeRetrain else s

/-- A packet delivered: its channel's next, with what it brings where this package sent it. -/
def State.bridgeDeliver (s : State) (key : Nat) : State :=
  let next := (tget s.pkg.bridge.next key).getD 0 + 1
  let s1 := s.modBridge fun b =>
    { b with next := tset b.next key next, sent := tset b.sent key (max next ((tget b.sent key).getD 0))
             attempts := tdel b.attempts key }
  match s.pkg.bridge.head key with
  | some p => (s1.modBridge fun b => { b with wire := b.wire.erase p }).send p.body
  | none => s1

/-- BRIDGE_PACKET (R355, R356): a packet's tail arrives. One out of its channel's order, or that comes while the link
retrains or is down, is not acted on. -/
def execBridgePacket (s : State) : Res :=
  match s.ev with
  | some (.bridgePacket p) =>
    let b := s.pkg.bridge
    let key := 3 * p.die + p.chan
    let next := (tget b.next key).getD 0
    if b.down || b.retraining then .next s
    else if !p.flitOk then
      .next ((s.modDie p.die fun d => { d with crcerr := sat16 d.crcerr }).bridgeFail p)
    else if p.stomped || !p.headerOk then
      .next ((s.modDie p.die fun d => { d with stomps := sat16 d.stomps }).bridgeFail p)
    else if p.seq ≠ next then .next s
    else .next (s.bridgeDeliver key)
  | _ => .fault .noGang

/-- The packets that may arrive next, by channel, each of them whole, with a flit that fails its CRC, or stomped (R355, R356): none
while the link retrains or is down, and of a channel that is to be replayed none before its replay. -/
def State.bridgeSteps (s : State) : List Event :=
  let b := s.pkg.bridge
  if b.down || b.retraining then []
  else (List.range 6).flatMap fun key =>
    match b.head key with
    | some p =>
      if b.replaying.contains (p.die, p.chan) then []
      else
        let k : BridgePkt := ⟨p.die, p.chan, p.seq, p.flits, true, true, false⟩
        [.bridgePacket k, .bridgePacket { k with flitOk := false }, .bridgePacket { k with headerOk := false, stomped := true }]
    | none => []

/-- BRIDGE_REPLAY (R356). -/
def execBridgeReplay (s : State) : Res :=
  match s.ev with
  | some (.bridgeReplay die chan) =>
    if s.pkg.bridge.replaying.contains (die, chan) then
      .next ((s.modBridge fun b => { b with replaying := b.replaying.filter (· != (die, chan)) }).modDie die fun d =>
        { d with replays := sat16 d.replays })
    else .next s
  | _ => .fault .noGang

/-- BRIDGE_RETRAIN (R357): traffic waits until the link has retrained, at most 10 µs, or has failed to; which, and when, is
an open choice. -/
def execBridgeRetrain (s : State) : Res :=
  match s.ev with
  | some .bridgeRetrain =>
    if s.pkg.bridge.down || s.pkg.bridge.retraining then .next s
    else
      let s := s.modBridge fun b => { b with retraining := true }
      .next (s.later ⟨s.clk + 1 + s.free 15 0 % 18000, none, if s.free 15 1 % 2 = 0 then .bridgeRetrained else .bridgeDown⟩)
  | _ => .fault .noGang

/-- BRIDGE_RETRAINED (R357). -/
def execBridgeRetrained (s : State) : Res :=
  match s.ev with
  | some .bridgeRetrained => .next (s.modBridge fun b => { b with retraining := false, attempts := [] })
  | _ => .fault .noGang

/-- BRIDGE_DOWN (R357): in unified mode the package stops; in split mode what crosses it is lost and ends by time-out. -/
def execBridgeDown (s : State) : Res :=
  match s.ev with
  | some .bridgeDown =>
    let s := s.modBridge fun b => { b with down := true, retraining := false, wire := [] }
    .next (if s.pkg.split then s else s.stopDevice 0)
  | _ => .fault .noGang

/-! ### Ports (R365) -/

/-- The partitions whose routing tables are a device's: all, or in split mode those of one die. -/
def State.partsOfDie (s : State) (die key : Nat) : Bool := !s.pkg.split || key / 16 == die

/-- PORT_FAILURE (R365): the port's bit is cleared in every mask, and the requests and messages that went by it and have no answer
are sent again, by the next port of their masks. Port p of die d is 12 × d + p. -/
def execPortFailure (s : State) : Res :=
  match s.ev with
  | some (.portFailure p) =>
    let die := p / 12
    let mine := fun (d : Nat) => !s.pkg.split || d == die
    let again := s.reqs.filter fun e => e.2.sent && !e.2.ticket && !s.retrying e.1 && mine e.2.die &&
      (s.dieOfDev (peerDev e.2.pa)).isNone &&
      s.portTo e.2.die e.2.part (peerDev e.2.pa) (e.2.pa / 4096) == some p
    let msgs := s.ops.filterMap fun e => match e.2.body, tget s.resend e.1 with
      | .send dev _ _ _ true, some (m, _) =>
        if mine m.die && dev != s.devOf m.die && (s.dieOfDev dev).isNone && !s.msgWaits e.1 &&
            s.portTo m.die m.fromPart dev 0x1FFFFF0 == some p then some (e.1, e.2, dev, m) else none
      | _, _ => none
    let s := s.modPort die p fun q => { q with up := false, failed := true }
    let s : State := { s with
      parts := tmap s.parts fun key q =>
        if s.partsOfDie die key then { q with route := tmap q.route fun _ w => w &&& ~~~(1#32 <<< p) } else q }
    let s := again.foldl (fun (s : State) e => s.sendOut e.1 e.2) s
    .next (msgs.foldl (fun (s : State) e => s.handMsg e.1 e.2.1 e.2.2.1 e.2.2.2) s)
  | _ => .fault .noGang

/-! ### The host (R446) -/

/-- The pages a range meets: virtual address, offset in the range, length. -/
def pagesOf (va n : Nat) : List (Nat × Nat × Nat) :=
  if n = 0 then []
  else (List.range ((va % 4096 + n + 4095) / 4096)).map fun i =>
    let lo := max va (va / 4096 * 4096 + 4096 * i)
    let hi := min (va + n) (va / 4096 * 4096 + 4096 * (i + 1))
    (lo, lo - va, hi - lo)

/-- The host's access to places in this device's memory: a read of poisoned data fails with DATAERR. -/
def State.hostAccess (s : State) (ls : List (Loc × Nat × Nat)) (data : Option (List Byte)) : State :=
  match data with
  | some bs => ls.foldl (fun (s : State) e => (s.remoteWrite e.1 ((bs.drop e.2.1).take e.2.2) []).1) s
  | none =>
    if ls.any fun e => s.marked e.1.pa e.2.2 then s.emit (.hostFail (Cause.code .dataerr))
    else s.emit (.hostData (ls.flatMap fun e => s.bytesAt e.1 e.2.2))

/-- The host's access through BAR2: translated by the page tables of a context outside supervisor state, every page before any access.
Pages that name no local memory fail with PROTECT. -/
def State.hostVirtual (s : State) (ctx : Nat) (va : Dword) (n : Nat) (data : Option (List Byte)) : State :=
  let k := if data.isSome then AccKind.write else .read
  let ps := (pagesOf va.toNat n).map fun p => (p, s.ctxTranslate ctx false k p.1 (BitVec.ofNat 64 p.1))
  let cause := worst (ps.filterMap fun e => match e.2 with
    | .bad c => some c
    | .ok l => if isLocal l.pa then none else some .protect
    | .walkMark => none)
  if ps.any fun e => e.2 == .walkMark then s.contain 10 none (some ctx)
  else match cause with
    | some c => s.emit (.hostFail c.code)
    | none => s.hostAccess (ps.filterMap fun e => match e.2 with | .ok l => some (l, e.1.2.1, e.1.2.2) | _ => none) data

/-- The trace registers that BAR0 maps, in the order of R454. -/
def bar0Regs : List DevReg := [.trcCtl, .trcBase, .trcWidx, .trcRidx, .trcDrop, .trcTstat]

/-- The place of n bytes at an offset of a message queue as BAR0 maps it (log entry 122): its 64-byte object, then its slots. -/
def State.queuePlace (s : State) (die : Nat) (q : Queue) (off n : Nat) : Option Nat :=
  if off + n ≤ 64 then some (q.pa + off)
  else if q.ok && decide (64 ≤ off) && decide (off % 64 + n ≤ 64) && decide (off / 64 ≤ q.size) then
    some (s.slotOf die q (off / 64 - 1) + off % 64)
  else none

/-- HOST_REQUEST (R446): an access through a partition's BAR2 window or to what its BAR0 maps, or the base of the window set. One that
lies outside fails with PROTECT. -/
def execHostRequest (s : State) : Res :=
  let fail := s.emit (.hostFail (Cause.code .protect))
  match s.ev with
  | some (.hostRequest (.bar2 part off n data)) =>
    let n := (data.map (·.length)).getD n
    match [0, 1].findSome? fun d => (s.part d part).bar2 with
    | some (ctx, base) => .next (if off + n ≤ 2 ^ 36 then s.hostVirtual ctx (base + BitVec.ofNat 64 off) n data else fail)
    | none => .next fail
  | some (.hostRequest (.queue die part control off n data)) =>
    let n := (data.map (·.length)).getD n
    let p := s.part die part
    .next (match (s.queueAt die (if control then p.ctlq else p.msgq)).bind fun q => s.queuePlace die q off n with
      | some pa => s.hostAccess [(⟨pa, 0⟩, 0, n)] data
      | none => fail)
  | some (.hostRequest (.trace die part i data)) =>
    .next (match bar0Regs[i]?, data with
      | some r, some v => s.writeReg ⟨r, die, part⟩ v.toNat
      | some r, none => s.emit (.hostData (natBytes (s.readReg ⟨r, die, part⟩) 8))
      | none, _ => fail)
  | some (.hostRequest (.window part ctx base)) =>
    .next (if s.partOf ctx = part then
        (if s.pkg.split then [0, 1] else [0]).foldl (fun (s : State) d => s.modPart d part fun p => { p with bar2 := some (ctx, base) }) s
      else s)
  | _ => .fault .noGang

/-! ### Fabric instructions (R379 to R382) -/

/-- What FSTAT states before its effect (R379). -/
def fstatHead (f : FSD) : Head :=
  { st := f.s, fp := fun _ => { writes := [r2 f.d] } }

/-- FSTAT (R379). -/
def execFstat (f : FSD) (s : State) : Res :=
  issue s (fstatHead f) fun x =>
    let b := x.c.fab
    x.done x.s (x.write fun _ => wrN f.d.toNat
      [BitVec.ofNat 32 (b.count * 2 ^ 16 + b.rfail.toNat * 2 + x.c.rtimeout.toNat), BitVec.ofNat 32 (b.cause * 2 ^ 10 + b.dev)])

/-- What FCLR states before its effect (R379). -/
def fclrHead (f : FS) : Head :=
  { st := f.s }

/-- FCLR (R379): an rtimeout that hardware set in its clock stays set. -/
def execFclr (f : FS) (s : State) : Res :=
  issue s (fclrHead f) fun x =>
    x.done x.s { x.c with rtimeout := x.c.rtimeout && x.c.rtimeoutAt == x.s.clk, fab := ⟨0, false, 0, 0⟩ }

/-- The tickets that a crew's engine operations hold. -/
def State.engineTickets (s : State) (k : Nat) : Nat :=
  let own := fun (id : Nat) => ((tget s.ops id).map fun o => o.crew == k).getD false
  (s.reqs.filter fun e => e.2.ticket && (match e.2.who with
    | .copy id => own id
    | .mat id => own id
    | .coll id _ => own id
    | _ => false)).length

/-- The owner device of a slice's oldest ticket, the one that came first, 0 when it holds none (R380). -/
def oldestOwner (ts : List (Nat × PeerReq)) : Nat :=
  ((ts.foldl (fun (r : Option PeerReq) e => match r with
    | some q => if e.2.took < q.took then some e.2 else some q
    | none => some e.2) none).map fun r => peerDev r.pa).getD 0

/-- What TICKQ states before its effect (R380). -/
def tickqHead (f : FSDA) : Head :=
  { st := f.s, fp := fun _ => { handles := [r1 f.a], writes := [r2 f.d] }
    dyn := fun x => decide (1 < (x.reg (lowest x.act) f.a.toNat).toNat) }

/-- TICKQ (R380). -/
def execTickq (f : FSDA) (s : State) : Res :=
  issue s (tickqHead f) fun x =>
    x.done x.s (x.write fun l =>
      let ts := x.s.sliceTickets x.k (l / 4)
      wrN f.d.toNat (if x.reg (lowest x.act) f.a.toNat = 0 then [BitVec.ofNat 32 ts.length, BitVec.ofNat 32 (oldestOwner ts)]
        else [BitVec.ofNat 32 (x.s.engineTickets x.k), BitVec.ofNat 32 (256 - (x.s.entriesUsed (dieOfCore x.c.core)).length)]))

/-- What MSGS states before its effect (R381). -/
def msgsHead (f : FSDA) : Head :=
  let t := f.d.toNat
  { st := f.s, fp := fun _ => { handles := [⟨f.a.toNat, 12, 4⟩] }
    dyn := fun x =>
      let g := x.group f.a 12
      let c := (g.getD 1 0).toNat
      let typ := bits c 19 16
      x.c.tokenBad t (g.getD 0 0) || bits c 31 20 != 0 || bits c 15 14 != 0 ||
        !(typ == 1 || typ == 2 || typ == 3 || typ == 7) || g.getD 10 0 != 0 || g.getD 11 0 != 0 }

/-- MSGS (R381): types 1 to 3 need supervisor state. -/
def execMsgs (f : FSDA) (s : State) : Res :=
  let t := f.d.toNat
  issue s (msgsHead f) fun x =>
    let g := x.group f.a 12
    let c := (g.getD 1 0).toNat
    if bits c 19 16 ≠ 7 && x.c.sup.isNone then x.trap .protect x.act
    else
      let o := x.newOp t (x.c.pre (g.getD 0 0)) (.send (bits c 9 0) (bits c 13 10) (bits c 19 16) ((g.drop 2).take 8) false)
      let r := x.s.addOp o
      let cr := ((tget r.1.crews x.k).getD x.c).modTok t fun _ => ⟨.pending r.2, 0, []⟩
      x.done r.1 { cr with macros := tdel cr.macros t }

/-- What MSGR states before its effect (R382). -/
def msgrHead (f : FSD) : Head :=
  { st := f.s, fp := fun _ => { writes := [⟨f.d.toNat, 12, 4⟩] } }

/-- MSGR (R382): the oldest message of the partition's software queue, or 12 zeros. A queue object or slot that is marked
raises DATAERR. A message read orders what its sender wrote before it: the core's load cache is dropped, and what the sender published is
observed (R215). -/
def execMsgr (f : FSD) (s : State) : Res :=
  issue s (msgrHead f) fun x =>
    let die := dieOfCore x.c.core
    let give := fun (s : State) (ws : List Word) =>
      x.done s (((tget s.crews x.k).getD x.c).modLanes x.act fun _ ln => ln.setAll x.c.depth f.d.toNat ws)
    let none_ := give x.s (List.replicate 12 0)
    match x.s.queueAt die (x.s.part die (x.s.partOf (x.s.ctxOf x.c))).msgq with
    | none => none_
    | some q =>
      if x.s.marked q.pa 32 then x.trap .dataerr x.act
      else if q.head = q.tail then none_
      else
        let slot := x.s.slotOf die q q.head
        if x.s.marked slot 64 then x.trap .dataerr x.act
        else
          let w := fun (i : Nat) => BitVec.ofNat 32 (memNat x.s.mem (slot + 4 * i) 4)
          give (((x.s.poke (q.pa + 12) (natBytes ((q.head + 1) % 2 ^ 32) 4)).lcacheClear x.c.core).observeReleases x.k x.actors)
            ([w 0 ||| 0x80000000, w 1] ++ (List.range 8).map (fun i => w (4 + i)) ++ [BitVec.ofNat 32 (q.held - 1), 0])

end Sys2Proof.Machine
end

