-- ==== Sys2Proof/Machine/Lanes.lean ====
section
/-! DEFINITION. The predicate instructions (R106) and the lane exchanges but VOTE.fadd (R130 to R132). -/

namespace Sys2Proof.Machine

/-- What a predicate from two predicates states before its effect (R106). -/
def predOpHead (f : FSDAB) : Head :=
  { st := f.s
    fp := fun _ => { readsP := [f.a.toNat, f.b.toNat], writesP := [f.d.toNat], lat := 2 } }

/-- A predicate from two predicates (R106). -/
def predOp (s : State) (f : FSDAB) (op : Bool → Bool → Bool) : Res :=
  scalar s (predOpHead f) fun x l =>
    wrP f.d (op (x.pred l f.a.toNat) (x.pred l f.b.toNat))

/-- PAND (R106). -/
def execPand (f : FSDAB) (s : State) : Res := predOp s f (· && ·)

/-- POR (R106). -/
def execPor (f : FSDAB) (s : State) : Res := predOp s f (· || ·)

/-- PXOR (R106). -/
def execPxor (f : FSDAB) (s : State) : Res := predOp s f xor

/-- What PNOT states before its effect (R106). -/
def pnotHead (f : FSDA) : Head :=
  { st := f.s, fp := fun _ => { readsP := [f.a.toNat], writesP := [f.d.toNat], lat := 2 } }

/-- PNOT (R106). -/
def execPnot (f : FSDA) (s : State) : Res :=
  scalar s (pnotHead f) fun x l =>
    wrP f.d (!x.pred l f.a.toNat)

/-- What PSET states before its effect (R106). -/
def psetHead (f : FSDA) : Head :=
  { st := f.s, fp := fun _ => { reads := [r1 f.a], writesP := [f.d.toNat], lat := 2 } }

/-- PSET (R106): whether a 32-bit register is not 0. -/
def execPset (f : FSDA) (s : State) : Res :=
  scalar s (psetHead f) fun x l =>
    wrP f.d (x.reg l f.a.toNat != 0)

/-- What PGET states before its effect (R106). -/
def pgetHead (f : FSD) : Head :=
  { st := f.s, fp := fun _ => { readsP := List.range 8, writes := [r1 f.d], lat := 2 } }

/-- PGET (R106): the eight predicates, bit 0 always 1. -/
def execPget (f : FSD) (s : State) : Res :=
  scalar s (pgetHead f) fun x l =>
    wr1 f.d ((x.v.lane l).preds.zeroExtend 32 ||| 1)

/-- The lane whose register SHFL gives lane l: the source lane where that is a live lane of the gang, else its own
(R130). -/
def Issue.shuffleSource (x : Issue) (f : FSDAB) (src : Nat → Nat → Option Nat) (l : Nat) : Nat :=
  match src l (x.reg l f.b.toNat).toNat with
  | some i => if i < 32 ∧ x.live.getLsbD i then i else l
  | none => l

/-- What SHFL states before its effect (R130). -/
def shuffleHead (f : FSDAB) (src : Nat → Nat → Option Nat) : Head :=
  { st := f.s, fp := fun _ => { reads := [r1 f.a, r1 f.b], writes := [r1 f.d], lat := 4 }
    across := some fun x l => [(l, f.b.toNat), (x.shuffleSource f src l, f.a.toNat)] }

/-- SHFL (R130): the register of a source lane, where that is a live lane of the gang. -/
def shuffle (s : State) (f : FSDAB) (src : Nat → Nat → Option Nat) : Res :=
  scalar s (shuffleHead f src) fun x l => wr1 f.d (x.regFrom l (x.shuffleSource f src l) f.a.toNat)

/-- The source of SHFL.idx (R130). -/
def shflIdx : Nat → Nat → Option Nat := fun _ n => some n
/-- The source of SHFL.up (R130). -/
def shflUp : Nat → Nat → Option Nat := fun l n => if n ≤ l then some (l - n) else none
/-- The source of SHFL.down (R130). -/
def shflDown : Nat → Nat → Option Nat := fun l n => some (l + n)
/-- The source of SHFL.xor (R130). -/
def shflXor : Nat → Nat → Option Nat := fun l n => some (l ^^^ n)

/-- SHFL.idx (R130). -/
def execShflIdx (f : FSDAB) (s : State) : Res := shuffle s f shflIdx

/-- SHFL.up (R130). -/
def execShflUp (f : FSDAB) (s : State) : Res := shuffle s f shflUp

/-- SHFL.down (R130). -/
def execShflDown (f : FSDAB) (s : State) : Res := shuffle s f shflDown

/-- SHFL.xor (R130). -/
def execShflXor (f : FSDAB) (s : State) : Res := shuffle s f shflXor

/-- What BCAST states before its effect (R131). -/
def bcastHead (f : FSDAB) : Head :=
  { st := f.s, fp := fun _ => { reads := [r1 f.a], handles := [r1 f.b], writes := [r1 f.d], lat := 4 }
    across := some fun x l =>
      let i := (x.reg l f.b.toNat).toNat
      (l, f.b.toNat) :: if i < 32 ∧ x.live.getLsbD i then [(i, f.a.toNat)] else [] }

/-- BCAST (R131): one lane's register to every active lane; 0 when it is no live lane of the gang. -/
def execBcast (f : FSDAB) (s : State) : Res :=
  scalar s (bcastHead f) fun x l =>
    let i := (x.reg l f.b.toNat).toNat
    wr1 f.d (if i < 32 ∧ x.live.getLsbD i then x.regFrom l i f.a.toNat else 0)

/-- What a predicate combined over the active lanes states before its effect (R132). -/
def votePredHead (f : FSDA) : Head :=
  { st := f.s, fp := fun _ => { readsP := [f.a.toNat], writesP := [f.d.toNat], lat := 4 } }

/-- A predicate combined over the active lanes (R132). -/
def votePred (s : State) (f : FSDA) (op : Issue → Bool) : Res :=
  scalar s (votePredHead f) fun x _ =>
    wrP f.d (op x)

/-- VOTE.any (R132). -/
def execVoteAny (f : FSDA) (s : State) : Res :=
  votePred s f fun x => (lanesOf x.act).any fun l => x.pred l f.a.toNat

/-- VOTE.all (R132). -/
def execVoteAll (f : FSDA) (s : State) : Res :=
  votePred s f fun x => (lanesOf x.act).all fun l => x.pred l f.a.toNat

/-- What VOTE.ballot states before its effect (R132). -/
def voteBallotHead (f : FSDA) : Head :=
  { st := f.s, fp := fun _ => { readsP := [f.a.toNat], writes := [r1 f.d], lat := 4 } }

/-- VOTE.ballot (R132). -/
def execVoteBallot (f : FSDA) (s : State) : Res :=
  scalar s (voteBallotHead f) fun x _ =>
    wr1 f.d (maskOf fun l => x.act.getLsbD l && x.pred l f.a.toNat)

/-- What VOTE.add states before its effect (R132, R77). -/
def voteAddHead (f : FSDA) : Head :=
  { st := f.s, cons := consEtype
    fp := fun m => { reads := [rw (etPair (modeEtype m)) f.a], writes := [rw (etPair (modeEtype m)) f.d], lat := 4 } }

/-- VOTE.add (R132, R77): the element sums over the active lanes, under one etype for the gang (R119). -/
def execVoteAdd (f : FSDA) (s : State) : Res :=
  issue s (voteAddHead f)
    fun x =>
      let e := modeEtype (x.mode (lowest x.act))
      let v := ofElems e fun j =>
        ((lanesOf x.act).map fun l => elemOf e (x.val l f.a) j).sum % 2 ^ etWidth e
      x.done x.s (x.write fun l => x.wrVal l f.d v)

end Sys2Proof.Machine
end

