-- ==== Sys2Proof/Machine/Signing.lean ====
section
/-! DEFINITION. The hash and the signature scheme that the spec names for boot and attestation: SHAKE256 and the
verification of XMSS-SHAKE256_20_256 (R443). Their computations are those of the public standards of those names
(log entry 15). -/

namespace Sys2Proof.Machine

/-! ### SHAKE256 -/

/-- The rotations of the 25 lanes, by x + 5y. -/
def keccakRot : List Nat :=
  [0, 1, 62, 28, 27, 36, 44, 6, 55, 20, 3, 10, 43, 25, 39, 41, 45, 15, 21, 8, 18, 2, 61, 56, 14]

/-- The round constants. -/
def keccakRounds : List Dword :=
  [0x0000000000000001, 0x0000000000008082, 0x800000000000808A, 0x8000000080008000, 0x000000000000808B, 0x0000000080000001,
   0x8000000080008081, 0x8000000000008009, 0x000000000000008A, 0x0000000000000088, 0x0000000080008009, 0x000000008000000A]
  ++ [0x000000008000808B, 0x800000000000008B, 0x8000000000008089, 0x8000000000008003, 0x8000000000008002, 0x8000000000000080,
   0x000000000000800A, 0x800000008000000A, 0x8000000080008081, 0x8000000000008080, 0x0000000080000001, 0x8000000080008008]

/-- Lane x, y of a state of 25. -/
def lane25 (a : List Dword) (x y : Nat) : Dword := a.getD (x % 5 + 5 * (y % 5)) 0

/-- A lane for each place x + 5y. -/
def lanes25 (f : Nat → Nat → Dword) : List Dword := (List.range 25).map fun i => f (i % 5) (i / 5)

/-- One round of the permutation. -/
def keccakRound (a : List Dword) (rc : Dword) : List Dword :=
  let col := (List.range 5).map fun x => lane25 a x 0 ^^^ lane25 a x 1 ^^^ lane25 a x 2 ^^^ lane25 a x 3 ^^^ lane25 a x 4
  let mix := (List.range 5).map fun x => col.getD ((x + 4) % 5) 0 ^^^ (col.getD ((x + 1) % 5) 0).rotateLeft 1
  let a := lanes25 fun x y => lane25 a x y ^^^ mix.getD x 0
  let b := lanes25 fun x y =>
    let i := (x + 3 * y) % 5 + 5 * x
    (a.getD i 0).rotateLeft (keccakRot.getD i 0)
  let a := lanes25 fun x y => lane25 b x y ^^^ (~~~lane25 b (x + 1) y &&& lane25 b (x + 2) y)
  a.set 0 (a.getD 0 0 ^^^ rc)

/-- The permutation of 1,600 bits. -/
def keccakF (a : List Dword) : List Dword := keccakRounds.foldl keccakRound a

/-- A state with a block of 136 bytes absorbed. -/
def absorb (a : List Dword) (block : List Byte) : List Dword :=
  keccakF (a.zipIdx.map fun e => e.1 ^^^ BitVec.ofNat 64 (bytesNat ((block.drop (8 * e.2)).take 8)))

/-- A message padded for SHAKE256. -/
def shakePad (m : List Byte) : List Byte :=
  let k := 136 - m.length % 136
  if k = 1 then m ++ [0x9F] else m ++ [0x1F] ++ List.replicate (k - 2) 0 ++ [0x80]

/-- The first 32 bytes of SHAKE256 of a message. -/
def shake256 (m : List Byte) : List Byte :=
  let p := shakePad m
  let a := (List.range (p.length / 136)).foldl (fun a i => absorb a ((p.drop (136 * i)).take 136)) (List.replicate 25 0)
  (a.take 4).flatMap fun v => natBytes v.toNat 8

/-! ### XMSS-SHAKE256_20_256: n = 32, w = 16, 67 chains, height 20 -/

/-- A number in n bytes, highest first. -/
def toByte (v n : Nat) : List Byte := (natBytes v n).reverse

/-- A number from bytes, highest first. -/
def ofByte (bs : List Byte) : Nat := bytesNat bs.reverse

/-- The keyed hashes of the scheme: F 0, H 1, the message hash 2, and the key and mask generator 3. -/
def xmssHash (k : Nat) (key m : List Byte) : List Byte := shake256 (toByte k 32 ++ key ++ m)

/-- A hash address: its type and its four words after the type. -/
def hashAddr (typ a b c d : Nat) : List Byte :=
  toByte 0 12 ++ toByte typ 4 ++ toByte a 4 ++ toByte b 4 ++ toByte c 4 ++ toByte d 4

/-- Two byte strings added bit by bit. -/
def xorBytes (a b : List Byte) : List Byte := List.zipWith (· ^^^ ·) a b

/-- Steps from number i on of chain c of one-time key idx. -/
def xmssChain (seed : List Byte) (idx c : Nat) : Nat → Nat → List Byte → List Byte
  | 0, _, x => x
  | n + 1, i, x =>
    let prf := fun k => xmssHash 3 seed (hashAddr 0 idx c i k)
    xmssChain seed idx c n (i + 1) (xmssHash 0 (prf 0) (xorBytes x (prf 1)))

/-- Two nodes hashed into one at an address. -/
def xmssNode (seed : List Byte) (typ a h i : Nat) (l r : List Byte) : List Byte :=
  let prf := fun k => xmssHash 3 seed (hashAddr typ a h i k)
  xmssHash 1 (prf 0) (xorBytes l (prf 1) ++ xorBytes r (prf 2))

/-- One level of the L-tree: neighbours hashed, an odd last one carried. -/
def ltreeLevel (seed : List Byte) (idx h : Nat) : Nat → List (List Byte) → List (List Byte)
  | i, l :: r :: rest => xmssNode seed 1 idx h i l r :: ltreeLevel seed idx h (i + 1) rest
  | _, rest => rest

/-- The L-tree over the ends of the chains. -/
def ltree (seed : List Byte) (idx : Nat) (ends : List (List Byte)) : List Byte :=
  ((List.range 7).foldl (fun ps h => ltreeLevel seed idx h 0 ps) ends).headD []

/-- The 67 digits in base 16 that a one-time signature of a 32-byte value signs: the value's, and their checksum's. -/
def wotsDigits (m : List Byte) : List Nat :=
  let ds := m.flatMap fun b => [b.toNat / 16, b.toNat % 16]
  let sum := (ds.map (15 - ·)).sum
  ds ++ [sum / 256 % 16, sum / 16 % 16, sum % 16]

/-- The i-th 32 bytes of a string. -/
def part32 (bs : List Byte) (i : Nat) : List Byte := (bs.drop (32 * i)).take 32

/-- The root that a signature of a message reaches under a public key's root and seed. -/
def xmssRoot (root seed sig m : List Byte) : List Byte :=
  let idx := ofByte (sig.take 4)
  let body := sig.drop 4
  let digest := xmssHash 2 (body.take 32 ++ root ++ toByte idx 32) m
  let ots := body.drop 32
  let ends := (wotsDigits digest).zipIdx.map fun e => xmssChain seed idx e.2 (15 - e.1) e.1 (part32 ots e.2)
  let auth := ots.drop (32 * 67)
  (List.range 20).foldl (fun node k =>
    let up := idx / 2 ^ (k + 1)
    if idx / 2 ^ k % 2 = 0 then xmssNode seed 2 0 k up node (part32 auth k)
    else xmssNode seed 2 0 k up (part32 auth k) node) (ltree seed idx ends)

/-- A signature verifies (R443): it has its length, its index is one of the 2^20, and it reaches the root. -/
def xmssVerify (root seed sig m : List Byte) : Bool :=
  sig.length == 4 + 32 * 88 && decide (ofByte (sig.take 4) < 2 ^ 20) && xmssRoot root seed sig m == root

end Sys2Proof.Machine
end

