-- ==== Sys2Proof/Machine/Preempt.lean ====
section
/-! DEFINITION. Pre-emption: drains, forced saves into the Hogshead and restores (R338 to R343, R275, R308, R315, R361,
R377, R407, R424). -/

namespace Sys2Proof.Machine

/-! ### Drains (R338, R339) -/

/-- The blocks resident on some cores. -/
def State.blocksOn (s : State) (ks : List Nat) : List (Nat × Block) := s.blocks.filter fun e => !e.2.out && ks.contains e.2.core

/-- The cores that share a cluster with some cores. -/
def State.withClusters (s : State) (ks : List Nat) : List Nat :=
  let cl := (s.blocksOn ks).map fun e => e.2.cluster
  (ks ++ (s.blocks.filter fun e => !e.2.out && cl.contains e.2.cluster).map fun e => e.2.core).dedup

/-- The set of cores that pre-emption of a core acts on: with each core, those of its clusters (R338). A cluster lies in one
16-core group. -/
def State.drainCores (s : State) (core : Nat) : Nat → List Nat
  | 0 => [core]
  | fuel + 1 => s.withClusters (s.drainCores core fuel)

/-- Cores of a list changed. -/
def State.modCores (s : State) (ks : List Nat) (f : Core → Core) : State := ks.foldl (fun s k => s.modCore k f) s

/-- The reference ticks that a drain of some blocks may take: the smallest effective tlimit in force for them, in microseconds
(R138, R339). -/
def drainTicks (bs : List (Nat × Block)) : Nat :=
  100 * ((bs.map fun e => e.2.effs.getD 8 0).foldl (fun (m : Option Nat) t => match m with
    | some u => some (min u t)
    | none => some t) none).getD 0

/-- DRAIN_REQUEST (R338, R339). -/
def execDrainRequest (s : State) : Res :=
  match s.ev with
  | some (.drainRequest core) =>
    if (s.core core).draining || (s.core core).saving then .next s
    else
      let ks := s.drainCores core 16
      let d := dieOfCore core
      let limit := s.ticks d + drainTicks (s.blocksOn ks)
      let s := s.modCores ks fun c => { c with draining := true, limit := some limit, drainSet := ks }
      .next (s.later ⟨limit, some d, .drainLimit core⟩)
  | _ => .fault .noGang

/-- A drain whose blocks have all retired. -/
def State.drainOver (s : State) (core : Nat) : Bool :=
  let c := s.core core
  c.draining && !c.saving && (s.blocksOn c.drainSet).isEmpty

/-- DRAIN_END (R339): nothing is saved. -/
def execDrainEnd (s : State) : Res :=
  match s.ev with
  | some (.drainEnd core) =>
    if s.drainOver core then
      .next (s.modCores (s.core core).drainSet fun c => { c with draining := false, limit := none, drainSet := [] })
    else .next s
  | _ => .fault .noGang

/-- DRAIN_LIMIT (R339): the drain becomes a forced save of every block still resident. -/
def execDrainLimit (s : State) : Res :=
  match s.ev with
  | some (.drainLimit core) =>
    let c := s.core core
    let passed := match c.limit with
      | some t => decide (t ≤ s.ticks (dieOfCore core))
      | none => false
    if c.draining && !c.saving && passed && !(s.blocksOn c.drainSet).isEmpty then
      .next (s.modCores c.drainSet fun c => { c with saving := true })
    else .next s
  | _ => .fault .noGang

/-! ### The forced save (R340) -/

/-- The request that an operation waits for is held by a ticket. -/
def State.onTicket (s : State) (wait : Option Nat) : Bool := (wait.bind (tget s.reqs)).any (·.ticket)

/-- What a running multiply has still to fetch is all held back by tickets of its slices (R225). -/
def State.matHeld (s : State) (o : Op) (m : MatOp) : Bool :=
  match Got.missing m.got m.wants with
  | [] => false
  | ps => ps.all fun p => match s.fetchPart o p with | .hold => true | _ => false

/-- A matrix operation that is not at one of the points of R308: an accumulator operation that has started, or a multiply that
writes its W copies, or is within a promotion interval and waits on no ticket. -/
def State.matMustEnd (s : State) (o : Op) (m : MatOp) : Bool :=
  m.started && (m.ended || !m.kind.multiply || !m.outs.isEmpty ||
    ((!m.got.isEmpty || m.wait.isSome) && !s.onTicket m.wait && !s.matHeld o m))

/-- An operation that a forced save lets go on first: started copies, matrix operations within an interval, the fetches of a
macro, steps of a collective and tree operations (R275, R308, R315, R407, R424). -/
def State.mustEnd (s : State) (o : Op) : Bool :=
  match o.body with
  | .copy c => c.started
  | .mat m => s.matMustEnd o m
  | .furlong f => f.wait.isSome && !s.onTicket f.wait
  | .coll c => !c.flying.isEmpty
  | .tree t => t.started || o.mayStart s.clk
  | _ => false

/-- An operation as the save records it: of the interval that a multiply is in nothing is kept (R307, R308). -/
def Op.recorded (o : Op) : Op :=
  match o.body with
  | .mat m => if m.kind.multiply then { o with body := .mat { m with got := [] } } else o
  | _ => o

/-- The save can be written: results have landed but for tickets, operations have reached clean points, and performable
deferred arrivals have been made. -/
def State.saveReady (s : State) (core : Nat) : Bool :=
  let c := s.core core
  let bs := (s.blocksOn c.drainSet).map (·.1)
  let ks := (s.crews.filter fun e => bs.contains e.2.block).map (·.1)
  c.saving && !(s.pends.any fun e => ks.contains e.2.crew && !e.2.complete) &&
    !(s.ops.any fun e => bs.contains e.2.block && s.mustEnd e.2) &&
    !(s.crews.any fun e => ks.contains e.1 && e.2.deferred.any fun d => s.arrivalDue e.1 d)

/-- A WAITA's monitor released. -/
def Slice.unarm (sl : Slice) : Slice :=
  match sl.wait with
  | .waita w => { sl with wait := .waita { w with armed := false } }
  | _ => sl

/-- The Hogshead of a context on a core's die (R340): its base and its bytes, none where the monitor has reserved none. -/
def State.hogRegion (s : State) (core ctx : Nat) : Option (Nat × Nat) :=
  (tget s.ctxs ctx).bind fun x => x.info.hogs[dieOfCore core]?

/-- The save written to a core's region of the Hogshead: the values are free, since no layout is given (log entry 6). -/
def State.hogWrite (s : State) (core ctx : Nat) : State :=
  match s.hogRegion core ctx with
  | some (a, n) => s.spillWrite ⟨memKey s.pkg.split (dieOfCore core) a, 0⟩ n
  | none => s

/-- What a core's blocks leave in the Hogshead, beside what an earlier save has left there. -/
def State.hogSave (s : State) (ks : List Nat) (k : Nat) : State :=
  let mine := s.blocksOn [k]
  match mine with
  | [] => s
  | (_, b) :: _ =>
    let old := tget s.hogs b.hogKey
    let h : Hog :=
      { set := ((old.map (·.set)).getD [] ++ ks).dedup, tmkey := (s.core k).tmkey, savedAt := s.ticks (dieOfCore k)
        blocks := (old.map (·.blocks)).getD [] ++ mine.map (·.1), notices := (old.map (·.notices)).getD []
        fired := (old.map (·.fired)).getD [] }
    (({ s with hogs := tset s.hogs b.hogKey h } : State).hogWrite k b.ctx).modCore k fun c => { c with saved := true }

/-- The tickets of blocks that are out leave the ticket tables, and requests that waited take their entries (R340, R377). -/
def State.saveTickets (s : State) : State :=
  let s := { s with dies := tmap s.dies fun _ d =>
    { d with tickets := d.tickets.filter fun e => !(tget s.reqs e.1).any s.ticketOut } }
  (s.fillEntries 0).fillEntries 1

/-- FORCED_SAVE_WRITE (R340): barriers are written back, monitors, load-cache lines and translations dropped, and the blocks
held out. -/
def execForcedSaveWrite (s : State) : Res :=
  match s.ev with
  | some (.forcedSaveWrite core) =>
    if !s.saveReady core then .next s
    else
      let ks := (s.core core).drainSet
      let bs := (s.blocksOn ks).map (·.1)
      let s := s.writeBack fun r => ks.contains r.core
      let s := { s with
        crews := tmap s.crews fun _ c => if bs.contains c.block then c.modSlices (List.range 8) Slice.unarm else c
        ops := tmap s.ops fun _ o => if bs.contains o.block then o.recorded else o }
      let s := ks.foldl (fun (s : State) k => s.hogSave ks k) s
      let s := { s with blocks := tmap s.blocks fun id b => if bs.contains id then { b with out := true } else b }
      .next (s.saveTickets.modCores ks fun c =>
        { c.emptied s.nextId with draining := false, saving := false, limit := none, drainSet := [], monitors := [], tlb := [] })
  | _ => .fault .noGang

/-! ### The restore (R342, R343) -/

/-- What a restored slice's wait calls for: it is evaluated again. A WAITA reads its word again, under a monitor where one is
free; one that finds none is counted once (R201). -/
def State.rewait (s : State) (k j : Nat) : State :=
  match tget s.crews k with
  | none => s
  | some c =>
    match (c.slice j).wait with
    | .barrier _ _ _ => if c.gangLead j = j then s.push (.barrierWaitWake k j) else s
    | .waita w =>
      if c.gangLead j ≠ j || isPeer w.loc.pa then s
      else
        let arm := decide ((s.core c.core).monitors.length < 64)
        let s := s.modCore c.core fun x =>
          if arm then { x with monitors := x.monitors ++ [(k, j)] }
          else if w.polled then x else { x with waitpoll := x.waitpoll + 1 }
        let s := s.modCrew k fun c => c.modSlices (c.gangOf j) fun sl =>
          { sl with wait := .waita { w with armed := arm, polled := w.polled || !arm } }
        s.push (.waitaPoll k j)
    | _ => s

/-- A collective's time has not run while it was out (R424). -/
def State.recoll (s : State) (savedAt id : Nat) (o : Op) : State :=
  match o.coll? with
  | some c =>
    if c.started then
      let now := s.ticks c.die
      let shift := fun (t : Nat) => min now (t + (now - savedAt))
      let c := { c with lastData := shift c.lastData, lastMove := shift c.lastMove }
      (s.putColl id c).collTimer id c
    else s
  | none => s

/-- One core's part of the Hogshead reloaded (R343): the tickets of its blocks are entered again (R377) and count their time anew
(R361). -/
def State.reload (s : State) (key : Nat) (h : Hog) : State :=
  let core := key % 256
  let s := { s with blocks := tmap s.blocks fun id b => if h.blocks.contains id then { b with out := false } else b }
  let s := { s with hogs := tdel s.hogs key }
  let more := s.hogs.any fun e => e.1 % 256 == core
  let s := (s.loadCtx core (key / 256)).modCore core fun c => { c with tmkey := h.tmkey, saved := more }
  let mine := fun (b : Nat) => h.blocks.contains b
  let s := s.reqs.foldl (fun (s : State) e =>
    if (s.reqBlock e.2).any mine && e.2.ticket then
      (s.rearm e.1).modDie e.2.die fun d => { d with tickets := tset d.tickets e.1 (e.2.entry.getD 0) }
    else s) s
  let s := s.ops.foldl (fun (s : State) e =>
    if mine e.2.block then s.recoll h.savedAt e.1 e.2 else s) s
  let s := h.notices.foldl (fun (s : State) n => s.notice n.1 n.2.1 n.2.2.1 n.2.2.2.1 n.2.2.2.2.1 n.2.2.2.2.2) s
  let s := h.fired.foldl (fun (s : State) t => s.spawn 0 (BarObj.ofNat 0) t.1 t.2) s
  let ks := (s.crews.filter fun e => mine e.2.block).map (·.1)
  ks.foldl (fun (s : State) k =>
    let s := s.pushAll (s.crewSteps k)
    (List.range 8).foldl (fun s j => s.rewait k j) s) s

/-- The cores whose blocks return with those of some cores: each core's whole set. -/
def State.hogCores (s : State) (ctx : Nat) (ks : List Nat) : Nat → List Nat
  | 0 => ks
  | fuel + 1 =>
    s.hogCores ctx (ks ++ ks.flatMap fun k => ((tget s.hogs (k + 256 * ctx)).map (·.set)).getD []).dedup fuel

/-- The reads of a restore meet a mark (R345). -/
def State.hogMarked (s : State) (ctx : Nat) (ks : List Nat) : Bool :=
  ks.any fun k => (tget s.hogs (k + 256 * ctx)).isSome && (match s.hogRegion k ctx with
    | some (a, n) => s.marked (memKey s.pkg.split (dieOfCore k) a) n
    | none => false)

/-- CONTEXT_RESTORE (R343): the blocks return to the cores they left, when no other block is there. A mark that the restore
reads is contained, and it does not complete (R345). -/
def execContextRestore (s : State) : Res :=
  match s.ev with
  | some (.contextRestore ctx core) =>
    match tget s.hogs (core + 256 * ctx) with
    | some _ =>
      let ks := s.hogCores ctx [core] 16
      if !(s.blocksOn ks).isEmpty then .next s
      else if s.hogMarked ctx ks then .next (s.contain 2 none (some ctx))
      else .next (ks.foldl (fun (s : State) k =>
        match tget s.hogs (k + 256 * ctx) with
        | some g => s.reload (k + 256 * ctx) g
        | none => s) s)
    | none => .next s
  | _ => .fault .noGang

/-! ### Steps that wait while their context is out (R340, R342) -/

/-- A block of an operation is being saved: what has not started waits (R275, R308, R424). -/
def State.opSaving (s : State) (id : Nat) : Bool :=
  ((tget s.ops id).map fun o => (s.core o.core).saving && !s.mustEnd o).getD false

/-- The crew that a step belongs to. -/
def stepCrew (s : State) : Event → Option Nat
  | .tileClearDone id => (tget s.pends id).map (·.crew)
  | .waitaMonitorWake k _ | .waitaPoll k _ | .tokenWaitWake k _ | .deferredArrival k | .barrierWaitWake k _
  | .batchWaitWake k _ | .crewRetire k | .sleepExpiry k _ | .regangComplete k _ | .synccComplete k | .crewDeadlock k
  | .roleswGrant k | .gangAged k _ => some k
  | _ => none

/-- The operation that a step belongs to. -/
def stepOp : Event → Option Nat
  | .copyStart id | .copyComplete id | .matrixOpStart id | .matrixOpComplete id | .furlongStep id | .collStart id
  | .collStep id | .collComplete id | .collTimeout id | .treeOpComplete id => some id
  | _ => none

/-- A step by which an operation goes on, as a forced save in progress may keep it from doing. -/
def stepGoesOn : Event → Bool
  | .copyStart _ | .matrixOpStart _ | .matrixOpComplete _ | .furlongStep _ | .collStart _ | .collStep _
  | .treeOpComplete _ => true
  | _ => false

/-- The die whose hardware makes a step, where one does. -/
def State.stepDie (s : State) (e : Event) : Option Nat :=
  match (stepCrew s e).bind (tget s.crews), (stepOp e).bind (tget s.ops) with
  | some c, _ => some (dieOfCore c.core)
  | none, some o => some (dieOfCore o.core)
  | none, none =>
    match e with
    | .coreSlotin k _ | .dispatchBlock k | .drainRequest k | .drainEnd k | .drainLimit k | .forcedSaveWrite k
    | .contextRestore _ k | .powerGrant (.core k) _ _ => some (dieOfCore k)
    | .powerGrant (.stack d _) _ _ | .powerGrant (.ports d _) _ _ => some d
    | .reductionContribution c => some (c.slice / 64)
    | .reorderTimeout h _ _ | .ctDeltaFlush h _ => some (h / 64)
    | .peerRequest r => some r.die
    | .collChunkReceive c => some c.die
    | .scrubRead d _ _ | .scrubWriteback d => some d
    | _ => none

/-- The answer to a request of a block that is out waits for the restore; poisoned data of a replay whose gang has gone on waits
while its slice sleeps or its crew is in supervisor state, since its trap is taken at an instruction boundary of the gang
(log entry 60). -/
def State.answerWaits (s : State) (r : PeerReq) (a : Resp) : Bool :=
  match r.who with
  | .posted .. | .cont .. | .update _ => false
  | .pend id l => (s.reqOut r).isSome ||
    (match a, tget s.pends id with
     | .data _ (_ :: _), some p => p.complete && ((tget s.crews p.crew).any fun c =>
         c.sup.isSome || !((c.slice (l / 4)).exited || (c.slice (l / 4)).wait == .none))
     | _, _ => false)
  | _ => (s.reqOut r).isSome

/-- An access to a frame that a peer's request brought has not been performed yet: a contribution, or a chunk for a collective
that receives there (R372). -/
def State.frameBusy (s : State) (frame : Nat) : Bool :=
  s.contributions.any (fun c => c.issuer.crew == 0 && c.line / 32 == frame) ||
    s.due.any fun e => match e with
      | .collChunkReceive k => s.ops.any fun o => match o.2.body with
        | .coll c => s.isMember o.2 c k.die k.stream k.dst k.buf && c.frames.any fun f => f.1 == frame
        | _ => false
      | _ => false

/-- Accesses that an owner admitted under a cached export entry have not been performed yet (R372). -/
def State.exportBusy (s : State) (die part efn : Nat) : Bool :=
  (s.part die part).xcache.any fun x => x.efn == efn &&
    s.frameBusy (memKey s.pkg.split die (bits x.bits 51 12 * 4096) / 4096)

/-- Accesses admitted under a key ID have not been performed yet: contributions, and lanes in local memory that wait for others (R445). -/
def State.keyInUse (s : State) (key : Nat) : Bool :=
  s.contributions.any (·.key == key) || s.pends.any fun e => e.2.locals.any fun l => l.2.key == key

/-- A step that cannot come now: one of a block that is held out or of a die that is held, an engine step that a forced save in
progress keeps from starting, an answer that waits, an export command before the accesses admitted under the old entry have
been performed (R372), an unload before those admitted under its key have (R445), or a request to the other die that comes after an older ticket of its
page or with lanes that have not set out (R181, R225). -/
def State.frozen (s : State) (e : Event) : Bool :=
  (stepCrew s e).any s.crewOut || (stepOp e).any s.opOut || (stepGoesOn e && (stepOp e).any s.opSaving) ||
    (s.stepDie e).any (fun d => (s.die d).down) ||
    (match e with
     | .messageResend id => (tget s.ops id).any fun o => s.blockOut o.block &&
         (match o.body with | .send _ _ _ _ started => !started | _ => false)
     | .requestResponse tag a => (tget s.reqs tag).any fun r => s.answerWaits r a
     | .exportInvalidate die part efn => s.exportBusy die part efn
     | .exportServiced die part efn => s.exportBusy die part efn
     | .unload _ key => s.keyInUse key.toNat
     | .peerRequest q =>
       (s.dieOfDev q.dev).isSome && (tget s.reqs q.tag).any fun r =>
         s.behindTicket q.tag r || s.behindRefused q.tag r || s.mateBehind q.tag r
     | .collStep id => (tget s.ops id).any fun o => (s.core o.core).saving
     | .peerTimeout tag => (tget s.reqs tag).any fun r => !r.ticket && s.answerWaits r .done
     | _ => false)

end Sys2Proof.Machine
end

