-- ==== Sys2Proof/Machine/Tree.lean ====
section
/-! DEFINITION. The change tree: node objects, enrolment, delta entries and roll-ups, and the seven instructions that build,
read, settle, re-parent and remove nodes (R390 to R409). -/

namespace Sys2Proof.Machine

/-! ### Node objects (R390, R391) -/

/-- The fields of a tree node (R390). -/
structure TNode where
  count : Nat
  parent : Dword
  valid : Bool
  leaf : Bool
  nchild : Nat
  nent : Nat
  deriving DecidableEq, Repr

/-- A tree node from its bits. -/
def TNode.ofNat (v : Nat) : TNode :=
  ⟨bits v 63 0, BitVec.ofNat 64 (bits v 127 64), bit v 128, bit v 129, bits v 191 160, bits v 223 192⟩

/-- A tree node's bits, its reserved fields 0. -/
def TNode.toNat (n : TNode) : Nat :=
  n.count % 2 ^ 64 + n.parent.toNat * 2 ^ 64 + n.valid.toNat * 2 ^ 128 + n.leaf.toNat * 2 ^ 129 +
    n.nchild % 2 ^ 32 * 2 ^ 160 + n.nent % 2 ^ 32 * 2 ^ 192

/-- The node object at a place. -/
def State.treeNode (s : State) (pa : Nat) : TNode := TNode.ofNat (memNat s.mem pa 64)

/-- A node object written by the tree. -/
def State.putNode (s : State) (pa : Nat) (n : TNode) : State := s.hwPoke pa (natBytes n.toNat 64)

/-- A node object changed by the tree. -/
def State.modTree (s : State) (pa : Nat) (f : TNode → TNode) : State := s.putNode pa (f (s.treeNode pa))

/-- An object that software has written while it was valid (R391: undefined). One whose valid bit software has set while it was
0 is read by its bits, and has no parent (log entry 101). -/
def State.treeLost (s : State) (pa : Nat) : Bool := s.tainted.contains pa

/-- Two memory keys lie on one device. -/
def State.sameDev (s : State) (a b : Nat) : Bool := !s.pkg.split || s.memDie a == s.memDie b

/-! ### Bumps and roll-ups (R394 to R396) -/

/-- A structural bump of 1 at a node, none at no node (R396): it rolls up from the node's home slice. -/
def State.structBump (s : State) (node : Option Nat) : State :=
  match node with
  | some pa => s.bumpAt (s.homeOf pa) pa 1
  | none => s

/-- The tree operations changed. -/
def State.modTrees (s : State) (f : TreeOp → TreeOp) : State :=
  { s with ops := tmap s.ops fun _ o => match o.body with | .tree t => { o with body := .tree (f t) } | _ => o }

/-- A roll-up passes a node: the settles of that node wait for it no more (R403). -/
def TreeOp.passed (t : TreeOp) (id pa : Nat) : TreeOp :=
  if t.node = pa then { t with waits := t.waits.filter (· != id) } else t

/-- A roll-up has stopped at a root, or has been discarded (R403, R408). -/
def TreeOp.stopped (t : TreeOp) (id : Nat) (lost : Bool) : TreeOp :=
  { t with waits := t.waits.filter (· != id), lost := t.lost || (lost && t.waits.contains id) }

/-- CT_ROLLUP (R394, R396, R403, R408): in one step the delta is added to the node's count and forwarded to the parent in
force, which it reaches within 256 clocks more (R395); a root stops it, and a marked node discards it. -/
def execCtRollup (s : State) : Res :=
  match s.ev with
  | some (.ctRollup id) =>
    match tget s.rollups id with
    | none => .next s
    | some r =>
      let pa := r.node
      if s.marked pa 64 then
        let s := { s with rollups := tdel s.rollups id }
        let s := s.modDie (s.memDie pa) fun d => { d with ctLost := true }
        .next (s.modTrees fun t => t.stopped id true)
      else if s.treeLost pa then .fault .treeUndefined
      else
        let s := s.modTree pa fun n => { n with count := (n.count + r.delta) % 2 ^ 64 }
        let s := s.modTrees fun t => t.passed id pa
        match tget s.parents pa with
        | some q =>
          let r := { r with node := q, limit := r.limit + 256, passed := pa :: r.passed }
          .next ({ s with rollups := tset s.rollups id r }.push (.ctRollup id))
        | none => .next ({ s with rollups := tdel s.rollups id }.modTrees fun t => t.stopped id false)
  | _ => .fault .noGang

/-- CT_DELTA_FLUSH (R394): an entry that has been open for L2H_CTLAG ticks is flushed. -/
def execCtDeltaFlush (s : State) : Res :=
  match s.ev with
  | some (.ctDeltaFlush h leaf) =>
    match (s.home h).deltas.find? fun d => d.leaf == leaf with
    | some d =>
      let die := h / 64
      let lag := max 100 (s.die die).ctlag.toNat
      if d.since + lag ≤ s.ticks die then .next (s.flushDelta h leaf)
      else .next (s.later ⟨d.since + lag, some die, .ctDeltaFlush h leaf⟩)
    | none => .next s
  | _ => .fault .noGang

/-- Every delta entry of every home slice of a node's device flushed (R403). -/
def State.flushAll (s : State) (pa : Nat) : State :=
  (s.homes.filter fun e => !s.pkg.split || e.1 / 64 == s.memDie pa).foldl (fun (s : State) e =>
    e.2.deltas.foldl (fun (s : State) d => s.flushDelta e.1 d.leaf) s) s

/-- The roll-ups in flight on a node's device that have not passed the node (R403). -/
def State.rollupsOf (s : State) (pa : Nat) : List Nat :=
  (s.rollups.filter fun e => s.sameDev e.2.node pa && !e.2.passed.contains pa).map (·.1)

/-! ### Enrolment (R392, R401) -/

/-- The physical blocks of a leaf entry that a page of it lies in (R392): the granularity and the base. -/
def enrolBlock (level : Nat) (e : Dword) (pa : Nat) : Nat × Nat :=
  let size := if level = 1 then (if bit e.toNat 5 then 2 ^ 16 else 4096) else 2 ^ 21
  (size, pa / size * size)

/-- Why a leaf's enrolment fails: a cause, or a mark that a page walk consumed. -/
inductive EnrolFail where
  | cause (c : Cause)
  | walkMark
  deriving DecidableEq, Repr

/-- The entries that n pages from an address upward take, each with its die (R392): a 64 KiB or 2 MiB block of a unified
package has granules on both dies (R172). One translation gives a page's block and its rights. -/
def State.enrolments (s : State) (o : Op) (leaf : Nat) : Nat → Nat → Except EnrolFail (List Enrol)
  | 0, _ => .ok []
  | n + 1, va =>
    let w := s.found o.core o.sup .read n va
    let a := s.useWalk (dieOfCore o.core) (s.partOf ((s.core o.core).ctx.getD 0)) o.sup .read va w
    match if canonical (BitVec.ofNat 64 va) then a else .bad .protect, w with
    | .bad c, _ => .error (.cause c)
    | .walkMark, _ => .error .walkMark
    | .ok l, .leaf lv _ e =>
      if !isLocal l.pa then .error (.cause .protect)
      else
        let b := enrolBlock lv e l.pa
        let dies := if s.pkg.split || b.1 == 4096 then [s.memDie b.2] else [0, 1]
        (s.enrolments o leaf n (va + 4096)).map fun es => (dies.map fun d => ⟨d, b.2, b.1, leaf⟩) ++ es
    | .ok _, _ => .error (.cause .pagefault)

/-- Blocks of two enrolment entries meet. -/
def Enrol.meets (a b : Enrol) : Bool := a.die == b.die && decide (a.base < b.base + b.size) && decide (b.base < a.base + a.size)

/-- The enrolment entries a die holds. -/
def State.enrolCount (s : State) (es : List Enrol) (die : Nat) : Nat := ((s.enrols ++ es).filter (·.die == die)).length

/-! ### The operations (R401 to R408) -/

/-- A tree operation's progress put back. -/
def State.putTree (s : State) (id : Nat) (t : TreeOp) : State := s.modOp id fun o => { o with body := .tree t }

/-- A failed tree operation (R406): an entry with the node address, and poison. -/
def State.failTree (s : State) (id : Nat) (o : Op) (t : TreeOp) (c : Cause) : State :=
  (s.recordFault o c 0xFFFF false (t.g.getD 1 0 ++ t.g.getD 0 0)).finishOp id 64 true none

/-- A structural operation of the device that has passed its checks and is not over (R391). -/
def State.structBusy (s : State) (pa : Nat) : Bool :=
  s.ops.any fun e => match e.2.body with
    | .tree t => t.started && t.kind != .settle && s.sameDev t.node pa
    | _ => false

/-- An operation's slices have accesses that a release at device scope waits for (R403). -/
def State.treeOwes (s : State) (o : Op) : Bool := s.owed o.crew o.slices o.born true || s.owedKnown o.crew o.slices

/-- A tree operation of the core that comes before it in start order has not started (R232). -/
def State.treeBehind (s : State) (id : Nat) (o : Op) : Bool :=
  s.startBehind id o fun q => q.core == o.core && (match q.body with | .tree t => !t.started | _ => false)

/-- A tree operation can go on: it starts, after those before it, when the point it is performed at is free and, for a settle or a move, its slices'
earlier accesses are performed; its settle flushes; it ends when the roll-ups it waits for have passed. -/
def State.treeReady (s : State) (id : Nat) (o : Op) (t : TreeOp) : Bool :=
  if !t.started then
    o.mayStart s.clk && !s.treeBehind id o && (o.poisonedPre ||
      ((t.kind == .settle || !s.structBusy t.node) && !((t.kind == .settle || t.kind == .move) && s.treeOwes o)))
  else if !t.flushed then !s.treeOwes o
  else t.waits.isEmpty

/-- The flush of a settle (R403). -/
def State.flushTree (s : State) (id : Nat) (t : TreeOp) : State :=
  let s := s.flushAll t.node
  s.putTree id { t with started := true, flushed := true, waits := s.rollupsOf t.node }

/-- A tree operation abandoned because a walk consumed a mark (R345): it completes poisoned. -/
def State.dropTree (s : State) (id : Nat) (o : Op) : State :=
  (s.contain 10 (some o.block) ((tget s.blocks o.block).map (·.ctx))).finishOp id 64 true none

/-- CTLEAF at the structural point (R401): every page passes, or nothing is enrolled. -/
def State.leafTree (s : State) (id : Nat) (o : Op) (t : TreeOp) : State :=
  let n := s.treeNode t.node
  if !n.valid || n.nchild != 0 then s.failTree id o t .illegal
  else
    match s.enrolments o t.node (t.g.getD 6 0).toNat (t.g.getD 5 0 ++ t.g.getD 4 0).toNat with
    | .error (.cause c) => s.failTree id o t c
    | .error .walkMark => s.dropTree id o
    | .ok es =>
      let es := es.dedup
      let full := [0, 1].filter fun d => decide (65536 < s.enrolCount es d)
      if es.any fun e => s.enrols.any e.meets then s.failTree id o t .illegal
      else if !full.isEmpty then
        (full.foldl (fun (s : State) d => s.modDie d fun x => { x with ctFull := true }) s).failTree id o t .allot
      else
        let s := { s with enrols := s.enrols ++ es }
        let s := s.modTree t.node fun n => { n with leaf := true, nent := n.nent + es.length }
        (s.structBump (some t.node)).finishOp id 64 false none

/-- Node q is node c or lies beneath it, by at most so many steps up (R404). -/
def State.beneath (s : State) (c : Nat) : Nat → Nat → Bool
  | 0, q => q == c
  | fuel + 1, q => q == c || (match tget s.parents q with | some p => s.beneath c fuel p | none => false)

/-- The place of a move's new parent: none for 0; a cause when its address does not reach a node of the device (R404). -/
def State.moveTo (s : State) (o : Op) (t : TreeOp) : Except EnrolFail (Option Nat) :=
  let q := t.g.getD 5 0 ++ t.g.getD 4 0
  if q = 0 then .ok none
  else if q.toNat % 64 ≠ 0 then .error (.cause .illegal)
  else match s.translate o.core o.sup .write 0 q with
    | .ok l => if isLocal l.pa && s.sameDev l.pa t.node then .ok (some l.pa) else .error (.cause .illegal)
    | .bad _ => .error (.cause .illegal)
    | .walkMark => .error .walkMark

/-- CTMOVE at the structural point (R404, step 2): it fails, ends at once, or settles. -/
def State.moveTree (s : State) (id : Nat) (o : Op) (t : TreeOp) : Res :=
  match s.moveTo o t with
  | .error (.cause c) => .next (s.failTree id o t c)
  | .error .walkMark => .next (s.dropTree id o)
  | .ok to_ =>
    match to_ with
    | none =>
      if !(s.treeNode t.node).valid then .next (s.failTree id o t .illegal)
      else if (tget s.parents t.node).isNone then .next (s.finishOp id 64 false none)
      else .next (s.flushTree id { t with newParent := none })
    | some q =>
      if s.marked q 64 then .next (s.failTree id o t .dataerr)
      else if s.treeLost q then .fault .treeUndefined
      else if !(s.treeNode t.node).valid || !(s.treeNode q).valid || (s.treeNode q).leaf ||
          s.beneath t.node s.parents.length q then .next (s.failTree id o t .illegal)
      else if tget s.parents t.node = some q then .next (s.finishOp id 64 false none)
      else .next (s.flushTree id { t with newParent := some q })

/-- A node's number of children raised or lowered. -/
def State.addChild (s : State) (node : Option Nat) (up : Bool) : State :=
  match node with
  | some pa => s.modTree pa fun n => { n with nchild := if up then n.nchild + 1 else n.nchild - 1 }
  | none => s

/-- A settled operation completes: a read of the node's count that follows a wait on its token finds no older copy in the core's
load cache (R226). -/
def State.endSettle (s : State) (id : Nat) (t : TreeOp) : State :=
  let s := match tget s.ops id with
    | some o => s.lcacheDrop o.core t.node 64
    | none => s
  s.finishOp id 64 t.lost none

/-- A move or drop that finds a marked node when it comes to change it fails with DATAERR, and what it has taken out is put back
(R406, R408). -/
def State.undoTree (s : State) (id : Nat) (o : Op) (t : TreeOp) : State :=
  let s := if t.taken.isEmpty || s.marked t.node 64 then s
    else s.modTree t.node fun n => { n with nent := n.nent + t.taken.length }
  ({ s with enrols := s.enrols ++ t.taken } : State).failTree id o t .dataerr

/-- The nodes that a move or drop changes at its end. -/
def State.treeTouches (s : State) (t : TreeOp) : List Nat :=
  t.node :: (tget s.parents t.node).toList ++ t.newParent.toList

/-- A settled move re-parents its node in one step, bumps both parents and completes (R404, steps 4 and 5). -/
def State.endMove (s : State) (id : Nat) (t : TreeOp) : State :=
  let old := tget s.parents t.node
  let s := s.modTree t.node fun n => { n with parent := if t.newParent.isNone then 0 else t.g.getD 5 0 ++ t.g.getD 4 0 }
  let s := { s with parents := match t.newParent with | some q => tset s.parents t.node q | none => tdel s.parents t.node }
  let s := (s.addChild old false).addChild t.newParent true
  ((s.structBump old).structBump t.newParent).endSettle id t

/-- A settled drop removes its node and bumps the parent (R405, step 3). -/
def State.endDrop (s : State) (id : Nat) (t : TreeOp) : State :=
  let old := tget s.parents t.node
  let s := (s.modTree t.node fun n => { n with valid := false }).unguard t.node
  let s := { s with parents := tdel s.parents t.node }
  ((s.addChild old false).structBump old).endSettle id t

/-- A tree operation goes on by one stage. -/
def State.treeStep (s : State) (id : Nat) (o : Op) (t : TreeOp) : Res :=
  if !t.started then
    if o.poisonedPre then .next (s.finishOp id 64 true none)
    else if s.marked t.node 64 then .next (s.failTree id o t .dataerr)
    else if t.kind == .settle then .next (s.flushTree id t)
    else if s.treeLost t.node then .fault .treeUndefined
    else match t.kind with
      | .leaf => .next (s.leafTree id o t)
      | .move => s.moveTree id o t
      | .drop =>
        let n := s.treeNode t.node
        if !n.valid || n.nchild != 0 then .next (s.failTree id o t .illegal)
        else if (tget s.parents t.node).any fun q => s.marked q 64 then .next (s.failTree id o t .dataerr)
        else
          let taken := s.enrols.filter fun e => e.leaf == t.node
          let s := { s with enrols := s.enrols.filter fun e => e.leaf != t.node }
          .next ((s.modTree t.node fun n => { n with nent := 0 }).putTree id { t with started := true, taken := taken })
      | .settle => .next s
  else if !t.flushed then .next (s.flushTree id t)
  else if t.kind == .settle then .next (s.endSettle id t)
  else if (s.treeTouches t).any fun a => s.marked a 64 then .next (s.undoTree id o t)
  else if (s.treeTouches t).any s.treeLost then .fault .treeUndefined
  else match t.kind with
    | .move => .next (s.endMove id t)
    | .drop => .next (s.endDrop id t)
    | _ => .next s

/-- TREE_OP_COMPLETE (R401 to R408): a tree operation whose preconditions have completed goes on. -/
def execTreeOpComplete (s : State) : Res :=
  match s.ev with
  | some (.treeOpComplete id) =>
    match tget s.ops id with
    | some o =>
      match o.body with
      | .tree t => if s.treeReady id o t then s.treeStep id o t else .next s
      | _ => .next s
    | none => .next s
  | _ => .fault .noGang

/-! ### The instructions (R397 to R402) -/

/-- A node address checked for the gang (R399): local memory alone holds nodes. -/
def Issue.nodeAcc (x : Issue) (k : AccKind) (va : Dword) : Acc :=
  match x.check k 64 (lowest x.act) va with
  | .ok l => if isLocal l.pa && isLocal (l.pa + 63) then .ok l else .bad .protect
  | r => r

/-- A node address checked, and what follows when it passes (R399). -/
def Issue.nodeOnce (x : Issue) (k : AccKind) (va : Dword) (body : Nat → Res) : Res :=
  match x.nodeAcc k va with
  | .ok l => body l.pa
  | .bad c => x.trapAt c (lanesOf x.act) (fun _ => va) (k == .write)
  | .walkMark => .next (x.s.walkContain x.c)

/-- What CTENR states before its effect (R400). -/
def ctenrHead (f : FSA) : Head :=
  { st := f.s, fp := fun _ => { handles := [r4 f.a] } }

/-- CTENR (R400). -/
def execCtenr (f : FSA) (s : State) : Res :=
  issue s (ctenrHead f) fun x =>
    let va := x.reg64 (lowest x.act) f.a.toNat
    let up := x.reg64 (lowest x.act) (f.a.toNat + 2)
    let fail := fun (c : Cause) (a : Dword) => x.trapAt c (lanesOf x.act) (fun _ => a) true
    let illegal := x.trap .illegal x.live
    let a := x.nodeAcc .write va
    let b := if up = 0 then none else some (x.nodeAcc .write up)
    if a = .walkMark ∨ b = some .walkMark then .next (x.s.walkContain x.c)
    else match worst (Checked.causes ([(0, a)] ++ b.toList.map fun r => (1, r))) with
    | some c => fail c (if a = .bad c then va else up)
    | none =>
      match a with
      | .ok l =>
        let q : Option Nat := match b with | some (.ok l) => some l.pa | _ => none
        if x.s.structBusy l.pa then x.stall
        else if x.s.marked l.pa 64 || q.any fun p => x.s.marked p 64 then
          if !x.s.marked l.pa 64 && (x.s.treeNode l.pa).valid then illegal
          else fail .dataerr (if x.s.marked l.pa 64 then va else up)
        else if x.s.tainted.contains l.pa || q.any x.s.treeLost then .fault .treeUndefined
        else if (x.s.treeNode l.pa).valid then illegal
        else if q.any fun p => !(x.s.treeNode p).valid || (x.s.treeNode p).leaf then illegal
        else
          let s := (x.s.putNode l.pa ⟨0, up, true, false, 0, 0⟩).guardBytes l.pa l.pa 64
          let s := { s with parents := match q with | some p => tset s.parents l.pa p | none => tdel s.parents l.pa }
          x.doneIn ((s.addChild q true).structBump q)
      | _ => x.nop

/-- A node that a read of its count finds: DATAERR where it is marked (R408), ILLEGAL where it is not valid (R402). A later load
by the core reads no older count: its load-cache line is dropped (R226). -/
def Issue.countOf (x : Issue) (va : Dword) (body : State → Nat → Res) : Res :=
  x.nodeOnce .read va fun pa =>
    if x.s.marked pa 64 then x.trapAt .dataerr (lanesOf x.act) (fun _ => va) false
    else if x.s.treeLost pa then .fault .treeUndefined
    else if !(x.s.treeNode pa).valid then x.trap .illegal x.live
    else body (x.s.lcacheDrop x.c.core pa 64) (x.s.treeNode pa).count

/-- What CTREAD states before its effect (R402). -/
def ctreadHead (f : FSDA) : Head :=
  { st := f.s, fp := fun _ => { handles := [r2 f.a], writes := [r2 f.d] } }

/-- CTREAD (R402). -/
def execCtread (f : FSDA) (s : State) : Res :=
  issue s (ctreadHead f) fun x =>
    x.countOf (x.reg64 (lowest x.act) f.a.toNat) fun s n => x.done s (x.write fun _ => wr2 f.d (BitVec.ofNat 64 n))

/-- What CTCMP states before its effect (R402). -/
def ctcmpHead (f : FSDA) : Head :=
  { st := f.s, fp := fun _ => { handles := [r4 f.a], writesP := [f.d.toNat] } }

/-- CTCMP (R402). -/
def execCtcmp (f : FSDA) (s : State) : Res :=
  issue s (ctcmpHead f) fun x =>
    let known := (x.reg64 (lowest x.act) (f.a.toNat + 2)).toNat
    x.countOf (x.reg64 (lowest x.act) f.a.toNat) fun s n => x.done s (x.write fun _ => wrP f.d (n != known))

/-- What an asynchronous tree instruction states before its effect (R399). -/
def treeInstrHead (f : FSDA) (n : Nat) (zero : List Nat) (bad : List Word → Bool) : Head :=
  let t := f.d.toNat
  { st := f.s, fp := fun _ => { handles := [⟨f.a.toNat, n, 4⟩] }
    dyn := fun x =>
      let g := x.group f.a n
      x.c.tokenBad t (g.getD 2 0) || zero.any (fun i => g.getD i 0 != 0) || bad g }

/-- An address names a place in a peer's or the host's memory (R351, R447). -/
def Issue.elsewhere (x : Issue) (va : Dword) : Bool :=
  match x.s.found x.c.core x.c.sup.isSome .write (lowest x.act) va.toNat with
  | .leaf lv _ e => canonical va && !isLocal (leafPa lv e va.toNat)
  | _ => false

/-- An asynchronous tree instruction (R399): its group of n words, those that must be 0, and what else of it is ILLEGAL. A
move's new parent in a peer's or the host's memory raises PROTECT too (R455). -/
def treeInstr (s : State) (f : FSDA) (kind : TreeKind) (n : Nat) (zero : List Nat) (bad : List Word → Bool) : Res :=
  let t := f.d.toNat
  issue s (treeInstrHead f n zero bad) fun x =>
    let g := x.group f.a n
    let q := g.getD 5 0 ++ g.getD 4 0
    x.nodeOnce .write (x.reg64 (lowest x.act) f.a.toNat) fun pa =>
      if kind == .move && x.elsewhere q then x.trapAt .protect (lanesOf x.act) (fun _ => q) true
      else
      let r := x.s.addOp (x.newOp t (x.c.pre (g.getD 2 0)) (.tree ⟨kind, g, pa, none, false, false, [], false, []⟩))
      let cr := ((tget r.1.crews x.k).getD x.c).modTok t fun _ => ⟨.pending r.2, 0, []⟩
      x.done r.1 { cr with macros := tdel cr.macros t }

/-- CTLEAF (R398, R401). -/
def execCtleaf (f : FSDA) (s : State) : Res :=
  treeInstr s f .leaf 8 [3, 7] fun g =>
    (g.getD 4 0).toNat % 4096 != 0 || (g.getD 6 0).toNat == 0 || decide (2 ^ 20 < (g.getD 6 0).toNat)

/-- CTSET (R403). -/
def execCtset (f : FSDA) (s : State) : Res := treeInstr s f .settle 4 [3] fun _ => false

/-- CTMOVE (R404). -/
def execCtmove (f : FSDA) (s : State) : Res := treeInstr s f .move 8 [3, 6, 7] fun _ => false

/-- CTDROP (R405). -/
def execCtdrop (f : FSDA) (s : State) : Res := treeInstr s f .drop 4 [3] fun _ => false

end Sys2Proof.Machine
end

