-- ==== Sys2Proof/Machine/Platform.lean ====
section
/-! DEFINITION. The platform: the patrol scrubber, power and wear, the time base, trace consumption, key slots,
attestation, boot, debug halts and power loss (R344, R346, R347, R439 to R454). -/

namespace Sys2Proof.Machine

/-! ### The patrol scrubber (R344, R346) -/

/-- SCRUB_READ (R344, R346): a granule of the die is read; what it finds to write back, or to mark, comes as a step of its own,
one at a time. An uncorrectable error that comes while the scrubber is off, or has a write of its own still to make, is one
that a demand read of HBM4E or a dirty L2 line shows: it is marked at once (log entry 98). An error that SECDED shows in a tile marks
the word, and parity makes reads of a register fail (R37, R450; log entry 7). -/
def execScrubRead (s : State) : Res :=
  match s.ev with
  | some (.scrubRead _ (.tile b h w) .uncorrectable) => .next (s.modTile b h fun t => t.mark [w])
  | some (.scrubRead _ (.tile ..) _) => .next s
  | some (.scrubRead _ (.reg _ _ _) .clean) => .next s
  | some (.scrubRead _ (.reg k l r) _) =>
    .next (s.modCrew k fun c => c.modLanes (maskOf (· == l)) fun _ ln => { ln with bad := sins r ln.bad })
  | some (.scrubRead die (.granule g) found) =>
    let d := s.die die
    let mine := isLocal (32 * g) && s.memDie (32 * g) == die
    if !mine || s.marked (32 * g) 32 || found == .clean then .next s
    else if !d.scrubEn || d.scrub.isSome then .next (if found == .uncorrectable then s.errorMark g else s)
    else .next ((s.modDie die fun d => { d with scrub := some (g, found) }).push (.scrubWriteback die))
  | _ => .fault .noGang

/-- SCRUB_WRITEBACK (R344, R346, R347): the corrected data, which changes no byte, or the mark; a demand write has cancelled
it when nothing is left to write. -/
def execScrubWriteback (s : State) : Res :=
  match s.ev with
  | some (.scrubWriteback die) =>
    match (s.die die).scrub with
    | none => .next s
    | some (g, f) =>
      let s := s.modDie die fun d => { d with scrub := none }
      match f with
      | .uncorrectable => .next (s.errorMark g)
      | _ => .next (s.modDie die fun d => { d with fixed := BitVec.ofNat 16 (min 0xFFFF (d.fixed.toNat + 1)) })
  | _ => .fault .noGang

/-! ### Power and wear (R448, R449) -/

/-- The package limit in watts: PWR_BUDGET, values above 2,200 acting as 2,200 (R449). -/
def Pkg.limit (p : Pkg) : Nat := min 2200 p.budget.toNat

/-- The state with a grant made: to a core, with whether its clock was stretched, to a stack or to a port group (R448). -/
def State.granted (s : State) (t : PowerTarget) (g : BitVec 16) (stretch : Bool) : State :=
  let put := fun (i : Nat) => ({ s with pkg := { s.pkg with grants := tset s.pkg.grants i g.toNat } } : State)
  match t with
  | .core k => s.modCore k fun c => { c with grant := g, stretch := stretch }
  | .stack d i => put (2 * (2 * i + d % 2))
  | .ports d i => put (2 * (2 * i + d % 2) + 1)

/-- The sum of the package's grants. -/
def State.grantSum (s : State) : Nat := (s.cores.map fun e => e.2.grant.toNat).sum + (s.pkg.grants.map (·.2)).sum

/-- POWER_GRANT (R448): a grant that keeps the package's sum within the limit; it changes no result. -/
def execPowerGrant (s : State) : Res :=
  match s.ev with
  | some (.powerGrant t g stretch) =>
    .next (if Config.watts (s.granted t g stretch).grantSum ≤ s.pkg.limit then s.granted t g stretch else s)
  | _ => .fault .noGang

/-- WEAR_ESTIMATE (R449): a wear monitor's prediction. -/
def execWearEstimate (s : State) : Res :=
  match s.ev with
  | some (.wearEstimate die i hours) =>
    .next (if i < 64 then s.modDie die fun d => { d with wear := tset d.wear i hours } else s)
  | _ => .fault .noGang

/-! ### The time base (R451) -/

/-- One nanosecond of the time base. -/
def nanosecond : Nat := 9000000

/-- The time base with a measured offset in nanoseconds, positive when it is behind (R451): a forward offset of 1 ms or more
is stepped; a smaller offset is slewed at no more than 100 ppm; a larger backward one at 1,000 ppm until it is removed. -/
def Pkg.discipline (p : Pkg) (offset : Int) : Pkg :=
  if 1000000 ≤ offset then { p with tai := p.tai + offset.toNat * nanosecond, slew := 0, slewFast := false }
  else { p with slew := offset * nanosecond, slewFast := decide (offset ≤ -1000000) || (p.slewFast && decide (offset < 0)) }

/-- PTP_MESSAGE (R451): the offset measured by IEEE 1588, noted in TRC_TSTAT with the lock. -/
def execPtpMessage (s : State) : Res :=
  match s.ev with
  | some (.ptpMessage offset) =>
    .next { s with pkg := { (s.pkg.discipline offset) with synced := true, offs := BitVec.ofInt 32 offset } }
  | _ => .fault .noGang

/-- PPS_INPUT (R451): the offset that a pulse of the 1PPS input shows; until the first lock the time base counts from reset. -/
def execPpsInput (s : State) : Res :=
  match s.ev with
  | some (.ppsInput offset) => .next (if s.pkg.synced then { s with pkg := s.pkg.discipline offset } else s)
  | _ => .fault .noGang

/-- One clock of the time base: 5,000,000 units, and a part of the correction still to be made: 1,000 ppm, or at most
100 ppm, an open choice. -/
def Pkg.tickTai (p : Pkg) (choice : Nat) : Pkg :=
  let left := p.slew.natAbs
  let part := if p.slewFast then min left 5000 else choice % (min left 500 + 1)
  if 0 ≤ p.slew then { p with tai := p.tai + 5000000 + part, slew := p.slew - part }
  else { p with tai := p.tai + 5000000 - part, slew := p.slew + part, slewFast := p.slewFast && decide (part < left) }

/-! ### Trace consumption (R453) -/

/-- TRC_RIDX (R453): software moves the index of the oldest record kept, forward and no further than TRC_WIDX. -/
def execTrcRidx (s : State) : Res :=
  match s.ev with
  | some (.trcRidx die part v) => .next (s.writeReg ⟨.trcRidx, die, part⟩ v.toNat)
  | _ => .fault .noGang

/-! ### Key slots (R171, R445) -/

/-- The monitor's own command, or a partition's call for a key ID of its range, key ID 0 not among them (R440, R445). -/
def State.mayKey (s : State) (part : Option Nat) (k : BitVec 13) : Bool :=
  part.all fun p => k != 0 && [0, 1].any fun d =>
    decide ((s.part d p).keyIds.1 ≤ k.toNat) && decide (k.toNat < (s.part d p).keyIds.1 + (s.part d p).keyIds.2)

/-- The key slots changed by a command that the monitor performs, and SEC_KEYCMD no longer busy. -/
def State.keyCommand (s : State) (part : Option Nat) (k : BitVec 13) (f : Table Nat → Table Nat) : State :=
  if s.mayKey part k then { s with pkg := { s.pkg with keys := f s.pkg.keys, keyBusy := false } } else s

/-- LOAD_GENERATED_KEY (R445): a key that no slot has had. -/
def execLoadGeneratedKey (s : State) : Res :=
  match s.ev with
  | some (.loadGeneratedKey p k) =>
    .next ({ (s.keyCommand p k fun t => tset t k.toNat (2 * s.nextId)) with nextId := s.nextId + 1 })
  | _ => .fault .noGang

/-- LOAD_WRAPPED_KEY (R445): the same key each time that it is loaded. -/
def execLoadWrappedKey (s : State) : Res :=
  match s.ev with
  | some (.loadWrappedKey p k w) => .next (s.keyCommand p k fun t => tset t k.toNat (2 * w + 1))
  | _ => .fault .noGang

/-- UNLOAD (R445): accesses admitted under the key ID have completed, and later ones raise PROTECT. -/
def execUnload (s : State) : Res :=
  match s.ev with
  | some (.unload p k) => .next (s.keyCommand p k fun t => tdel t k.toNat)
  | _ => .fault .noGang

/-! ### Attestation (R443, R444) -/

/-- What an attestation report holds (R444): the nonce, the device serial, the partition number, the measurements and the
index, in that order (log entry 15). -/
def State.report (s : State) (part : Nat) (nonce : List Byte) : List Byte :=
  nonce ++ Config.serial ++ natBytes part 1 ++ s.pkg.measures.flatten ++ natBytes s.pkg.attctr 4

/-- ATTESTATION_REQUEST (R444): the counter advances before the signature leaves; 2^20 signatures are all there are. -/
def execAttestationRequest (s : State) : Res :=
  match s.ev with
  | some (.attestationRequest part nonce) =>
    let i := s.pkg.attctr
    if 2 ^ 20 ≤ i then .next (s.emit .attRefused)
    else
      .next (({ s with pkg := { s.pkg with attctr := i + 1 } } : State).emit
        (.signed (s.report part nonce ++ Config.signature i (s.report part nonce))))
  | _ => .fault .noGang

/-! ### Boot (R174, R442) -/

/-- The channels in service on a die, in ascending order (R174). -/
def bootChannels (b : BootInfo) (d : Nat) : List Nat := (List.range 256).filter (b.channels.getD d []).contains

/-- A die as boot leaves it: the remap table over the channels in service (R174, R175). -/
def Die.booted (d : Die) (chans : List Nat) : Die :=
  { d with
    chmap := (List.range 256).map fun i => BitVec.ofNat 8 (chans.getD (i % chans.length) 0)
    inservice := chans.length }

/-- The dies that come up (R174). -/
def bootUp (b : BootInfo) : List Nat := [0, 1].filter fun d => decide (128 ≤ (bootChannels b d).length)

/-- A partition with its grants of R441. -/
def Part.granted (p : Part) (g : BitVec 4) : Part := { p with devctl := g.extractLsb' 0 2, dbgGrant := g.extractLsb' 2 2 }

/-- Every image that boot verifies, in its order (R442). -/
def bootImages (b : BootInfo) : List Image := [b.firmware, b.binder, b.monitor] ++ b.systems

/-- An image verifies against its public key (R443). -/
def imageOk (i : Image) : Bool := xmssVerify i.root i.seed i.sig i.bytes

/-- Every verification of boot holds (R442, R443): Aeddan's images against the key whose root is in the fuses, a partition's
against the key of its boot descriptor. -/
def bootVerified (fuses : List Byte) (b : BootInfo) : Bool :=
  ([b.firmware, b.binder, b.monitor].all fun i => i.root == fuses) && (bootImages b).all imageOk

/-- The package as boot leaves it, with the measurement of each image (R443). -/
def State.bootWith (s : State) (b : BootInfo) : State :=
  let s := { s with pkg := { s.pkg with
    split := b.split, devs := b.devs, booted := true, measures := (bootImages b).map fun i => shake256 i.bytes } }
  let s := (bootUp b).foldl (fun (s : State) d => s.modDie d fun x => x.booted (bootChannels b d)) s
  let s := b.ports.foldl (fun (s : State) p =>
    let k := s.portKey (p / 12) p
    { s with pkg := { s.pkg with ports := tset s.pkg.ports k { (s.port (p / 12) p) with up := true } } }) s
  let s := b.grants.zipIdx.foldl (fun (s : State) e =>
    (if b.split then [0, 1] else [0]).foldl (fun (s : State) d => s.modPart d e.2 fun p => p.granted e.1) s) s
  let s := b.keyIds.zipIdx.foldl (fun (s : State) e =>
    (if b.split then [0, 1] else [0]).foldl (fun (s : State) d => s.modPart d e.2 fun p => { p with keyIds := e.1 }) s) s
  { s with ctxs := b.ctxs.zipIdx.foldl (fun t e =>
      if b.split && !(bootUp b).contains e.1.die then t else tset t e.2 ⟨e.1, false⟩) s.ctxs }

/-- BOOT (R442): a step that fails stops the package with no partition started. A die with fewer than 128 channels does not
come up (R174), which stops a unified package. -/
def execBoot (s : State) : Res :=
  match s.ev with
  | some (.boot b) =>
    if s.pkg.booted then .next s
    else if !bootVerified s.pkg.fuses b || (bootUp b).isEmpty || (!b.split && (bootUp b).length < 2) then
      .next (({ s with pkg := { s.pkg with held := true } } : State).emit .bootFailed)
    else .next (s.bootWith b)
  | _ => .fault .noGang

/-! ### Debug halts and power loss (R360, R441, R444) -/

/-- A die holds a block of another partition. -/
def State.othersOn (s : State) (die part : Nat) : Bool :=
  s.blocks.any fun e => !e.2.out && dieOfCore e.2.core == die && s.partOf e.2.ctx != part

/-- DEBUG_HALT (R360, R441): under the partition's debug grant, refused while another partition has a context resident on
the die; the reference timer stops with the die's cores. -/
def execDebugHalt (s : State) : Res :=
  match s.ev with
  | some (.debugHalt die part) =>
    if (s.part die part).dbgGrant.getLsbD die && !s.othersOn die part then .next (s.modDie die fun d => { d with halted := true })
    else .next s
  | _ => .fault .noGang

/-- A partition put in a list or taken out of it. -/
def setMember (p : Nat) (on : Bool) (l : List Nat) : List Nat := if on then sins p l else sdel p l

/-- DEBUG_RESUME (R441): the die's cores go on, with a single step or a watch point armed for the partition's contexts or
not. -/
def execDebugResume (s : State) : Res :=
  match s.ev with
  | some (.debugResume die part single watch) =>
    if (s.part die part).dbgGrant.getLsbD die then
      .next (s.modDie die fun d =>
        { d with halted := false, stepping := setMember part single d.stepping, watching := setMember part watch d.watching })
    else .next s
  | _ => .fault .noGang

/-- POWER_LOSS (R444): the package is as after reset, but for the fuses and the signature counter that is backed by them. -/
def execPowerLoss (s : State) : Res :=
  match s.ev with
  | some .powerLoss =>
    .next { State.reset with
      pkg := { Pkg.reset with attctr := s.pkg.attctr, fuses := s.pkg.fuses }
      fresh := s.fresh, nextId := s.nextId, out := s.out }
  | _ => .fault .noGang

end Sys2Proof.Machine
end

