-- ==== Sys2Proof/Machine/Slices.lean ====
section
/-! DEFINITION. Slice control: EXIT, YIELD, SLEEP, REGANG, SYNCC and their waits, deadlock, aging, and role switching
(R121 to R129, R142, R143, R156). -/

namespace Sys2Proof.Machine

/-! ### EXIT, YIELD, SLEEP, REGANG, SYNCC -/

/-- The gang completes; its acting slices change as `f` says, the others go on at PC + 4, and it parts where some of its
slices stop or wait and others do not (R121). The steps that the crew's waits then call for are to come. -/
def Issue.slices (x : Issue) (f : Nat → Slice → Slice) : Res :=
  let c := x.actors.foldl (fun (c : Crew) j => c.modSlice j (f j)) (x.advanced x.c)
  let s := x.s.setCrew x.k (c.regroup x.js sameGang)
  .next (s.afterExit x.k)

/-- What EXIT states before its effect (R123). -/
def exitHead (f : FS) : Head :=
  { st := f.s, guard := .slice }

/-- EXIT (R123): each slice that acts never issues again. -/
def execExit (f : FS) (s : State) : Res :=
  issue s (exitHead f) fun x => x.slices fun _ sl => { sl with exited := true }

/-- What YIELD states before its effect (R127). -/
def yieldHead (f : FS) : Head :=
  { st := f.s, guard := .slice }

/-- YIELD (R127): the gang is not ready for the clock after its issue. -/
def execYield (f : FS) (s : State) : Res :=
  issue s (yieldHead f) fun x =>
    let c := (x.advanced x.c).modSlices x.js fun sl =>
      { sl with readyAt := max sl.readyAt (x.s.clk + 2), since := max sl.since (x.s.clk + 2) }
    .next (x.s.setCrew x.k c)

/-- What SLEEP states before its effect (R126). -/
def sleepHead (f : FSI) : Head :=
  { st := f.s }

/-- SLEEP (R126): the gang is not ready before 16 × n clocks have passed. -/
def execSleep (f : FSI) (s : State) : Res :=
  issue s (sleepHead f) fun x =>
    let wake := x.s.clk + 16 * f.i.toNat
    if f.i = 0 then x.nop
    else
      let c := (x.advanced x.c).modSlices x.js fun sl => { sl with wait := .sleep wake, since := max sl.since wake }
      .next ((x.s.setCrew x.k c).later ⟨wake, none, .sleepExpiry x.k (x.js.headD 0)⟩)

/-- SLEEP_EXPIRY (R126). -/
def execSleepExpiry (s : State) : Res :=
  match s.ev with
  | some (.sleepExpiry k j) =>
    match tget s.crews k with
    | some c =>
      match (c.slice j).wait with
      | .sleep w =>
        if w ≤ s.clk then .next (s.setCrew k (c.modSlices (c.gangOf j) fun sl => { sl with wait := .none })) else .next s
      | _ => .next s
    | none => .next s
  | _ => .fault .noGang

/-- What REGANG states before its effect (R124). -/
def regangHead (f : FSM) : Head :=
  { st := f.s, guard := .slice
    word := fun x => x.js.any (fun j => !f.m.getLsbD j) ||
      (List.range 8).any fun j => f.m.getLsbD j && decide (x.c.nsl ≤ j) }

/-- REGANG (R124): each slice that acts waits at its REGANG with the mask, which must name every slice of the gang and no
slice the crew does not have. -/
def execRegang (f : FSM) (s : State) : Res :=
  issue s (regangHead f) fun x =>
    x.slices fun j sl => { sl with pc := (x.c.slice j).pc, wait := .regang f.m }

/-- REGANG_COMPLETE (R124): the waiting slices go on, those at one PC as one gang. -/
def execRegangComplete (s : State) : Res :=
  match s.ev with
  | some (.regangComplete k m) =>
    match tget s.crews k with
    | some c =>
      let js := c.present.filter fun j => (c.slice j).wait == .regang m
      if js.isEmpty || !c.regangDone m then .next s
      else .next (s.setCrew k ((c.unpark js s.clk).regroup js sameGang))
    | none => .next s
  | _ => .fault .noGang

/-- What SYNCC states before its effect (R125). -/
def synccHead (f : FS) : Head :=
  { st := f.s, guard := .slice }

/-- SYNCC (R125): each slice that acts waits. -/
def execSyncc (f : FS) (s : State) : Res :=
  issue s (synccHead f) fun x =>
    x.slices fun j sl => { sl with pc := (x.c.slice j).pc, wait := .sync }

/-- SYNCC_COMPLETE (R125): every waiting slice goes on; no gang changes. -/
def execSynccComplete (s : State) : Res :=
  match s.ev with
  | some (.synccComplete k) =>
    match tget s.crews k with
    | some c => if c.syncDone then .next (s.setCrew k (c.unpark c.present s.clk)) else .next s
    | none => .next s
  | _ => .fault .noGang

/-- CREW_DEADLOCK (R122): every wait is cancelled, the gang with the lowest slice raises ILLEGAL at its own REGANG or
SYNCC, and the others issue theirs again. -/
def execCrewDeadlock (s : State) : Res :=
  match s.ev with
  | some (.crewDeadlock k) =>
    match tget s.crews k with
    | some c =>
      if c.deadlocked then
        let js := c.gangOf (c.present.headD 0)
        .next ((s.setCrew k (c.reissue c.present s.clk)).takeTrap k js .illegal (c.live js) 0 [] 0)
      else .next s
    | none => .next s
  | _ => .fault .noGang

/-! ### Readiness and aging (R128, R156) -/

/-- The gang of slice j can issue at this clock (R128, R319). -/
def Crew.ready (c : Crew) (clk j : Nat) : Bool :=
  let js := c.gangOf j
  !js.isEmpty && !c.heldFor js && js.all fun i => (c.slice i).wait == .none && decide ((c.slice i).readyAt ≤ clk)

/-- The gang of slice j has been ready for 32,768 clocks without issuing, and is not yet aged (R156). -/
def Crew.agesNow (c : Crew) (clk j : Nat) : Bool :=
  c.ready clk j && !(c.slice j).aged && decide ((c.slice j).since + 32768 ≤ clk)

/-- GANG_AGED (R156). -/
def execGangAged (s : State) : Res :=
  match s.ev with
  | some (.gangAged k j) =>
    match tget s.crews k with
    | some c =>
      if c.agesNow s.clk j then .next (s.setCrew k (c.modSlices (c.gangOf j) fun sl => { sl with aged := true }))
      else .next s
    | none => .next s
  | _ => .fault .noGang

/-! ### Role switching (R142, R143) -/

/-- The reservation of a block, per lane of a crew's shape (R143). -/
def Block.reserved (b : Block) : Nat := b.crews * b.regs

/-- A crew's claim: its allotment, or what it has requested (R143). -/
def Crew.claim (c : Crew) : Nat := match c.role with | some r => r.allot | none => c.allot

/-- The claims of a block's crews but one, and of its registered continuations (R254). -/
def State.otherClaims (s : State) (block k : Nat) : Nat :=
  ((s.crews.filter fun e => e.2.block == block && e.1 != k && !e.2.claimed).map (·.2.claim)).sum +
    ((s.contsOf block).map (·.allot)).sum

/-- The registers of a block's reservation that no allotment holds. -/
def State.freeAllot (s : State) (block : Nat) : Nat :=
  ((tget s.blocks block).map Block.reserved).getD 0 -
    (((s.crews.filter fun e => e.2.block == block && !e.2.claimed).map (·.2.allot)).sum +
      ((s.contsOf block).map (·.allot)).sum)

/-- A role switch takes effect (R143): registers below both allotments keep their values, registers gained read 0, and the
whole crew goes on as one gang at the entry. -/
def Crew.switchRole (c : Crew) (r : RoleReq) (clk : Nat) : Crew :=
  let keep := min c.allot r.allot
  let c := c.modLanes (BitVec.allOnes 32) fun _ ln =>
    { ln with regs := ln.regs.filter fun e => decide (e.1 < keep), bad := ln.bad.filter fun i => decide (i < keep) }
  let js := c.present
  { (c.modSlices js fun sl =>
      { sl with
        pc := r.entry, wait := .none, gang := js.headD 0
        readyAt := max sl.readyAt (clk + 1), since := max sl.readyAt (clk + 1) }) with
    allot := r.allot, prio := r.prio, role := none }

/-- A crew has results that have not landed (R143). -/
def State.unlanded (s : State) (k : Nat) : Bool := s.pends.any fun e => e.2.crew == k

/-- The grow of a block that is first in turn: by the clock of issue, then by %crew. -/
def State.nextGrow (s : State) (block : Nat) : Option (Nat × Crew × RoleReq) :=
  s.crews.foldl (fun (r : Option (Nat × Crew × RoleReq)) e =>
    match e.2.role with
    | some q =>
      if e.2.block ≠ block ∨ q.allot ≤ e.2.allot then r
      else match r with
        | some p => if q.clk < p.2.2.clk ∨ (q.clk = p.2.2.clk ∧ e.2.crewIx < p.2.1.crewIx) then some (e.1, e.2, q) else r
        | none => some (e.1, e.2, q)
    | none => r) none

/-- What a block's role switches call for (R143): a shrink whose crew's results have landed takes effect; so does the first
grow, when the free registers cover it too. -/
def State.roleSteps (s : State) (block : Nat) : List Event :=
  (s.crews.filterMap fun e => match e.2.role with
    | some q => if e.2.block = block ∧ q.allot ≤ e.2.allot ∧ !s.unlanded e.1 then some (Event.roleswGrant e.1) else none
    | none => none) ++
  (match s.nextGrow block with
   | some (k, c, q) => if q.allot ≤ c.allot + s.freeAllot block ∧ !s.unlanded k then [.roleswGrant k] else []
   | none => [])

/-- What ROLESW states before its effect (R142, R143). -/
def roleswHead (f : FSA) : Head :=
  let a := f.a.toNat
  { st := f.s, guard := .gang, fp := fun _ => { handles := [r4 f.a] }, word := fun x => !x.holdsCrew
    dyn := fun x =>
      let n := (x.reg (lowest x.act) a).toNat
      decide (n < 16) || decide (256 < n) || n % 16 != 0 || decide (7 < (x.reg (lowest x.act) (a + 1)).toNat) ||
        x.c.depth != 0 || x.c.linkDepth != 0 }

/-- ROLESW (R142, R143): the request is a claim from its issue on. A prio above the launch's effective prio raises PROTECT; ALLOT ranks before it (R58). -/
def execRolesw (f : FSA) (s : State) : Res :=
  let a := f.a.toNat
  issue s (roleswHead f) fun x =>
    let l := lowest x.act
    let n := (x.reg l a).toNat
    let prio := (x.reg l (a + 1)).toNat
    let b := tget x.s.blocks x.c.block
    if (b.map Block.reserved).getD 0 < x.s.otherClaims x.c.block x.k + n then x.trap .allot x.act
    else if (b.map fun b => b.effs.getD 6 0).getD 7 < prio then x.trap .protect x.act
    else
      let r : RoleReq := ⟨n, prio, codeTarget (x.reg64 l (a + 2)), x.s.clk⟩
      if n ≤ x.c.allot && !x.s.unlanded x.k then
        let s := x.s.setCrew x.k ((x.advanced x.c).switchRole r x.s.clk)
        .next (s.pushAll (s.roleSteps x.c.block))
      else
        let s := x.s.setCrew x.k { (x.park x.c fun _ => .rolesw) with role := some r }
        .next (s.pushAll (s.roleSteps x.c.block))

/-- ROLESW_GRANT (R143): a role switch that waited takes effect. -/
def execRoleswGrant (s : State) : Res :=
  match s.ev with
  | some (.roleswGrant k) =>
    match tget s.crews k with
    | some c =>
      match c.role with
      | some r =>
        if (s.roleSteps c.block).contains (.roleswGrant k) then
          let s := s.setCrew k (c.switchRole r s.clk)
          .next (s.pushAll (s.roleSteps c.block))
        else .next s
      | none => .next s
    | none => .next s
  | _ => .fault .noGang

/-! ### Retirement (R123) -/

/-- CREW_RETIRE (R123): a crew whose block a fault has ended lets its issued accesses complete first (R321). -/
def execCrewRetire (s : State) : Res :=
  match s.ev with
  | some (.crewRetire k) =>
    match tget s.crews k with
    | some c =>
      if c.finished && !(s.pends.any fun e => e.2.crew == k && !e.2.complete) then
        let s := s.retireCrew k
        .next (s.pushAll (s.roleSteps c.block))
      else .next s
    | none => .next s
  | _ => .fault .noGang

end Sys2Proof.Machine
end

