-- ==== Sys2Proof/Machine/Dispatch.lean ====
section
/-! DEFINITION. The meaning of every instruction: one arm per constructor. -/

namespace Sys2Proof.Machine

/-- One instruction or step executed. -/
def exec (i : Instr) (s : State) : Host.Outcome State Fault Refusal :=
  match i with
  | .nop f => Sys2Proof.Machine.execNop f s
  | .mode f => Sys2Proof.Machine.execMode f s
  | .modex f => Sys2Proof.Machine.execModex f s
  | .bra f => Sys2Proof.Machine.execBra f s
  | .brx f => Sys2Proof.Machine.execBrx f s
  | .call f => Sys2Proof.Machine.execCall f s
  | .callx f => Sys2Proof.Machine.execCallx f s
  | .ret f => Sys2Proof.Machine.execRet f s
  | .ldc f => Sys2Proof.Machine.execLdc f s
  | .trap f => Sys2Proof.Machine.execTrap f s
  | .exit f => Sys2Proof.Machine.execExit f s
  | .yield f => Sys2Proof.Machine.execYield f s
  | .sleep f => Sys2Proof.Machine.execSleep f s
  | .regang f => Sys2Proof.Machine.execRegang f s
  | .syncc f => Sys2Proof.Machine.execSyncc f s
  | .rolesw f => Sys2Proof.Machine.execRolesw f s
  | .launch f => Sys2Proof.Machine.execLaunch f s
  | .launchRelease f => Sys2Proof.Machine.execLaunchRelease f s
  | .sreg f => Sys2Proof.Machine.execSreg f s
  | .swreg f => Sys2Proof.Machine.execSwreg f s
  | .add f => Sys2Proof.Machine.execAdd f s
  | .addi f => Sys2Proof.Machine.execAddi f s
  | .sub f => Sys2Proof.Machine.execSub f s
  | .addc f => Sys2Proof.Machine.execAddc f s
  | .subc f => Sys2Proof.Machine.execSubc f s
  | .mul f => Sys2Proof.Machine.execMul f s
  | .mulhi f => Sys2Proof.Machine.execMulhi f s
  | .mad f => Sys2Proof.Machine.execMad f s
  | .min f => Sys2Proof.Machine.execMin f s
  | .max f => Sys2Proof.Machine.execMax f s
  | .abs f => Sys2Proof.Machine.execAbs f s
  | .neg f => Sys2Proof.Machine.execNeg f s
  | .and f => Sys2Proof.Machine.execAnd f s
  | .or f => Sys2Proof.Machine.execOr f s
  | .xor f => Sys2Proof.Machine.execXor f s
  | .not f => Sys2Proof.Machine.execNot f s
  | .andi f => Sys2Proof.Machine.execAndi f s
  | .ori f => Sys2Proof.Machine.execOri f s
  | .shl f => Sys2Proof.Machine.execShl f s
  | .shr f => Sys2Proof.Machine.execShr f s
  | .sar f => Sys2Proof.Machine.execSar f s
  | .shli f => Sys2Proof.Machine.execShli f s
  | .shri f => Sys2Proof.Machine.execShri f s
  | .sari f => Sys2Proof.Machine.execSari f s
  | .rot f => Sys2Proof.Machine.execRot f s
  | .bfx f => Sys2Proof.Machine.execBfx f s
  | .bfi f => Sys2Proof.Machine.execBfi f s
  | .clz f => Sys2Proof.Machine.execClz f s
  | .popc f => Sys2Proof.Machine.execPopc f s
  | .mov f => Sys2Proof.Machine.execMov f s
  | .movi f => Sys2Proof.Machine.execMovi f s
  | .lea f => Sys2Proof.Machine.execLea f s
  | .cmpEq f => Sys2Proof.Machine.execCmpEq f s
  | .cmpNe f => Sys2Proof.Machine.execCmpNe f s
  | .cmpLt f => Sys2Proof.Machine.execCmpLt f s
  | .cmpLe f => Sys2Proof.Machine.execCmpLe f s
  | .cmpGt f => Sys2Proof.Machine.execCmpGt f s
  | .cmpGe f => Sys2Proof.Machine.execCmpGe f s
  | .cmpiEq f => Sys2Proof.Machine.execCmpiEq f s
  | .cmpiNe f => Sys2Proof.Machine.execCmpiNe f s
  | .cmpiLt f => Sys2Proof.Machine.execCmpiLt f s
  | .cmpiLe f => Sys2Proof.Machine.execCmpiLe f s
  | .cmpiGt f => Sys2Proof.Machine.execCmpiGt f s
  | .cmpiGe f => Sys2Proof.Machine.execCmpiGe f s
  | .selP1 f => Sys2Proof.Machine.execSelP1 f s
  | .selP2 f => Sys2Proof.Machine.execSelP2 f s
  | .selP3 f => Sys2Proof.Machine.execSelP3 f s
  | .selP4 f => Sys2Proof.Machine.execSelP4 f s
  | .selP5 f => Sys2Proof.Machine.execSelP5 f s
  | .selP6 f => Sys2Proof.Machine.execSelP6 f s
  | .selP7 f => Sys2Proof.Machine.execSelP7 f s
  | .pand f => Sys2Proof.Machine.execPand f s
  | .por f => Sys2Proof.Machine.execPor f s
  | .pxor f => Sys2Proof.Machine.execPxor f s
  | .pnot f => Sys2Proof.Machine.execPnot f s
  | .pset f => Sys2Proof.Machine.execPset f s
  | .pget f => Sys2Proof.Machine.execPget f s
  | .shflIdx f => Sys2Proof.Machine.execShflIdx f s
  | .shflUp f => Sys2Proof.Machine.execShflUp f s
  | .shflDown f => Sys2Proof.Machine.execShflDown f s
  | .shflXor f => Sys2Proof.Machine.execShflXor f s
  | .bcast f => Sys2Proof.Machine.execBcast f s
  | .voteAny f => Sys2Proof.Machine.execVoteAny f s
  | .voteAll f => Sys2Proof.Machine.execVoteAll f s
  | .voteBallot f => Sys2Proof.Machine.execVoteBallot f s
  | .voteAdd f => Sys2Proof.Machine.execVoteAdd f s
  | .voteFadd f => Sys2Proof.Machine.execVoteFadd f s
  | .fadd f => Sys2Proof.Machine.execFadd f s
  | .fsub f => Sys2Proof.Machine.execFsub f s
  | .fmul f => Sys2Proof.Machine.execFmul f s
  | .fma f => Sys2Proof.Machine.execFma f s
  | .fmin f => Sys2Proof.Machine.execFmin f s
  | .fmax f => Sys2Proof.Machine.execFmax f s
  | .fabs f => Sys2Proof.Machine.execFabs f s
  | .fneg f => Sys2Proof.Machine.execFneg f s
  | .fcmpEq f => Sys2Proof.Machine.execFcmpEq f s
  | .fcmpNe f => Sys2Proof.Machine.execFcmpNe f s
  | .fcmpLt f => Sys2Proof.Machine.execFcmpLt f s
  | .fcmpLe f => Sys2Proof.Machine.execFcmpLe f s
  | .fcmpGt f => Sys2Proof.Machine.execFcmpGt f s
  | .fcmpGe f => Sys2Proof.Machine.execFcmpGe f s
  | .fcmpUn f => Sys2Proof.Machine.execFcmpUn f s
  | .fclass f => Sys2Proof.Machine.execFclass f s
  | .frcp f => Sys2Proof.Machine.execFrcp f s
  | .frsq f => Sys2Proof.Machine.execFrsq f s
  | .fsqrt f => Sys2Proof.Machine.execFsqrt f s
  | .fexp2 f => Sys2Proof.Machine.execFexp2 f s
  | .flog2 f => Sys2Proof.Machine.execFlog2 f s
  | .ftanh f => Sys2Proof.Machine.execFtanh f s
  | .frnd f => Sys2Proof.Machine.execFrnd f s
  | .fdot2 f => Sys2Proof.Machine.execFdot2 f s
  | .fcvtF32 f => Sys2Proof.Machine.execFcvtF32 f s
  | .fcvtF16x2 f => Sys2Proof.Machine.execFcvtF16x2 f s
  | .fcvtBf16x2 f => Sys2Proof.Machine.execFcvtBf16x2 f s
  | .fcvtE4m3x4 f => Sys2Proof.Machine.execFcvtE4m3x4 f s
  | .fcvtE5m2x4 f => Sys2Proof.Machine.execFcvtE5m2x4 f s
  | .icvtSf f => Sys2Proof.Machine.execIcvtSf f s
  | .icvtUf f => Sys2Proof.Machine.execIcvtUf f s
  | .icvtFs f => Sys2Proof.Machine.execIcvtFs f s
  | .icvtFu f => Sys2Proof.Machine.execIcvtFu f s
  | .fscal f => Sys2Proof.Machine.execFscal f s
  | .ldU8 f => Sys2Proof.Machine.execLdU8 f s
  | .ldS8 f => Sys2Proof.Machine.execLdS8 f s
  | .ldU16 f => Sys2Proof.Machine.execLdU16 f s
  | .ldS16 f => Sys2Proof.Machine.execLdS16 f s
  | .ldB32 f => Sys2Proof.Machine.execLdB32 f s
  | .ldB64 f => Sys2Proof.Machine.execLdB64 f s
  | .ldB128 f => Sys2Proof.Machine.execLdB128 f s
  | .stB8 f => Sys2Proof.Machine.execStB8 f s
  | .stB16 f => Sys2Proof.Machine.execStB16 f s
  | .stB32 f => Sys2Proof.Machine.execStB32 f s
  | .stB64 f => Sys2Proof.Machine.execStB64 f s
  | .stB128 f => Sys2Proof.Machine.execStB128 f s
  | .ldtU8 f => Sys2Proof.Machine.execLdtU8 f s
  | .ldtS8 f => Sys2Proof.Machine.execLdtS8 f s
  | .ldtU16 f => Sys2Proof.Machine.execLdtU16 f s
  | .ldtS16 f => Sys2Proof.Machine.execLdtS16 f s
  | .ldtB32 f => Sys2Proof.Machine.execLdtB32 f s
  | .ldtB64 f => Sys2Proof.Machine.execLdtB64 f s
  | .ldtB128 f => Sys2Proof.Machine.execLdtB128 f s
  | .sttB8 f => Sys2Proof.Machine.execSttB8 f s
  | .sttB16 f => Sys2Proof.Machine.execSttB16 f s
  | .sttB32 f => Sys2Proof.Machine.execSttB32 f s
  | .sttB64 f => Sys2Proof.Machine.execSttB64 f s
  | .sttB128 f => Sys2Proof.Machine.execSttB128 f s
  | .tallocTm f => Sys2Proof.Machine.execTallocTm f s
  | .tallocTmz f => Sys2Proof.Machine.execTallocTmz f s
  | .tallocOs f => Sys2Proof.Machine.execTallocOs f s
  | .tallocOsz f => Sys2Proof.Machine.execTallocOsz f s
  | .tfree f => Sys2Proof.Machine.execTfree f s
  | .tquery f => Sys2Proof.Machine.execTquery f s
  | .atomAdd f => Sys2Proof.Machine.execAtomAdd f s
  | .atomMin f => Sys2Proof.Machine.execAtomMin f s
  | .atomMax f => Sys2Proof.Machine.execAtomMax f s
  | .atomAnd f => Sys2Proof.Machine.execAtomAnd f s
  | .atomOr f => Sys2Proof.Machine.execAtomOr f s
  | .atomXor f => Sys2Proof.Machine.execAtomXor f s
  | .atomExch f => Sys2Proof.Machine.execAtomExch f s
  | .atomcas f => Sys2Proof.Machine.execAtomcas f s
  | .tatomAdd f => Sys2Proof.Machine.execTatomAdd f s
  | .tatomMin f => Sys2Proof.Machine.execTatomMin f s
  | .tatomMax f => Sys2Proof.Machine.execTatomMax f s
  | .tatomAnd f => Sys2Proof.Machine.execTatomAnd f s
  | .tatomOr f => Sys2Proof.Machine.execTatomOr f s
  | .tatomXor f => Sys2Proof.Machine.execTatomXor f s
  | .tatomExch f => Sys2Proof.Machine.execTatomExch f s
  | .tatomCas f => Sys2Proof.Machine.execTatomCas f s
  | .redAdd f => Sys2Proof.Machine.execRedAdd f s
  | .redMin f => Sys2Proof.Machine.execRedMin f s
  | .redMax f => Sys2Proof.Machine.execRedMax f s
  | .redAnd f => Sys2Proof.Machine.execRedAnd f s
  | .redOr f => Sys2Proof.Machine.execRedOr f s
  | .redXor f => Sys2Proof.Machine.execRedXor f s
  | .redfAdd f => Sys2Proof.Machine.execRedfAdd f s
  | .redfMin f => Sys2Proof.Machine.execRedfMin f s
  | .redfMax f => Sys2Proof.Machine.execRedfMax f s
  | .reds f => Sys2Proof.Machine.execReds f s
  | .waitaEq f => Sys2Proof.Machine.execWaitaEq f s
  | .waitaNe f => Sys2Proof.Machine.execWaitaNe f s
  | .waitaGe f => Sys2Proof.Machine.execWaitaGe f s
  | .waitaLt f => Sys2Proof.Machine.execWaitaLt f s
  | .fence f => Sys2Proof.Machine.execFence f s
  | .pref f => Sys2Proof.Machine.execPref f s
  | .cctlInv f => Sys2Proof.Machine.execCctlInv f s
  | .cctlClean f => Sys2Proof.Machine.execCctlClean f s
  | .cctlFlush f => Sys2Proof.Machine.execCctlFlush f s
  | .tkwait f => Sys2Proof.Machine.execTkwait f s
  | .tkwaitMask f => Sys2Proof.Machine.execTkwaitMask f s
  | .tkany f => Sys2Proof.Machine.execTkany f s
  | .tktest f => Sys2Proof.Machine.execTktest f s
  | .tkfree f => Sys2Proof.Machine.execTkfree f s
  | .tkfreeMask f => Sys2Proof.Machine.execTkfreeMask f s
  | .tkexpBar f => Sys2Proof.Machine.execTkexpBar f s
  | .tkexpTask f => Sys2Proof.Machine.execTkexpTask f s
  | .binit f => Sys2Proof.Machine.execBinit f s
  | .bbind f => Sys2Proof.Machine.execBbind f s
  | .barr f => Sys2Proof.Machine.execBarr f s
  | .barrd f => Sys2Proof.Machine.execBarrd f s
  | .bexp f => Sys2Proof.Machine.execBexp f s
  | .bwait f => Sys2Proof.Machine.execBwait f s
  | .btest f => Sys2Proof.Machine.execBtest f s
  | .bcont f => Sys2Proof.Machine.execBcont f s
  | .taskd f => Sys2Proof.Machine.execTaskd f s
  | .cpy f => Sys2Proof.Machine.execCpy f s
  | .cpyt f => Sys2Proof.Machine.execCpyt f s
  | .cpyg f => Sys2Proof.Machine.execCpyg f s
  | .cpyw f => Sys2Proof.Machine.execCpyw f s
  | .cpys f => Sys2Proof.Machine.execCpys f s
  | .cpyx f => Sys2Proof.Machine.execCpyx f s
  | .seal f => Sys2Proof.Machine.execSeal f s
  | .waitb f => Sys2Proof.Machine.execWaitb f s
  | .mma f => Sys2Proof.Machine.execMma f s
  | .mmao f => Sys2Proof.Machine.execMmao f s
  | .mzero f => Sys2Proof.Machine.execMzero f s
  | .mscal f => Sys2Proof.Machine.execMscal f s
  | .mcvt f => Sys2Proof.Machine.execMcvt f s
  | .mload f => Sys2Proof.Machine.execMload f s
  | .mseq f => Sys2Proof.Machine.execMseq f s
  | .mseqq f => Sys2Proof.Machine.execMseqq f s
  | .macq f => Sys2Proof.Machine.execMacq f s
  | .mrel f => Sys2Proof.Machine.execMrel f s
  | .coll f => Sys2Proof.Machine.execColl f s
  | .collq f => Sys2Proof.Machine.execCollq f s
  | .trace f => Sys2Proof.Machine.execTrace f s
  | .eret f => Sys2Proof.Machine.execEret f s
  | .mappg f => Sys2Proof.Machine.execMappg f s
  | .unmappg f => Sys2Proof.Machine.execUnmappg f s
  | .tlbinv f => Sys2Proof.Machine.execTlbinv f s
  | .srd f => Sys2Proof.Machine.execSrd f s
  | .swr f => Sys2Proof.Machine.execSwr f s
  | .syscall f => Sys2Proof.Machine.execSyscall f s
  | .fltinfo f => Sys2Proof.Machine.execFltinfo f s
  | .fstat f => Sys2Proof.Machine.execFstat f s
  | .fclr f => Sys2Proof.Machine.execFclr f s
  | .tickq f => Sys2Proof.Machine.execTickq f s
  | .msgs f => Sys2Proof.Machine.execMsgs f s
  | .msgr f => Sys2Proof.Machine.execMsgr f s
  | .ctenr f => Sys2Proof.Machine.execCtenr f s
  | .ctleaf f => Sys2Proof.Machine.execCtleaf f s
  | .ctread f => Sys2Proof.Machine.execCtread f s
  | .ctcmp f => Sys2Proof.Machine.execCtcmp f s
  | .ctset f => Sys2Proof.Machine.execCtset f s
  | .ctmove f => Sys2Proof.Machine.execCtmove f s
  | .ctdrop f => Sys2Proof.Machine.execCtdrop f s
  | .tileClearDone => Sys2Proof.Machine.execTileClearDone s
  | .waitaMonitorWake => Sys2Proof.Machine.execWaitaMonitorWake s
  | .waitaPoll => Sys2Proof.Machine.execWaitaPoll s
  | .tokenWaitWake => Sys2Proof.Machine.execTokenWaitWake s
  | .deferredArrival => Sys2Proof.Machine.execDeferredArrival s
  | .barrierWaitWake => Sys2Proof.Machine.execBarrierWaitWake s
  | .barrierUpdate => Sys2Proof.Machine.execBarrierUpdate s
  | .taskDepcountDecrement => Sys2Proof.Machine.execTaskDepcountDecrement s
  | .copyStart => Sys2Proof.Machine.execCopyStart s
  | .copyComplete => Sys2Proof.Machine.execCopyComplete s
  | .batchWaitWake => Sys2Proof.Machine.execBatchWaitWake s
  | .matrixOpStart => Sys2Proof.Machine.execMatrixOpStart s
  | .matrixOpComplete => Sys2Proof.Machine.execMatrixOpComplete s
  | .furlongStep => Sys2Proof.Machine.execFurlongStep s
  | .collStart => Sys2Proof.Machine.execCollStart s
  | .collStep => Sys2Proof.Machine.execCollStep s
  | .collChunkReceive => Sys2Proof.Machine.execCollChunkReceive s
  | .collComplete => Sys2Proof.Machine.execCollComplete s
  | .collTimeout => Sys2Proof.Machine.execCollTimeout s
  | .treeOpComplete => Sys2Proof.Machine.execTreeOpComplete s
  | .ctDeltaFlush => Sys2Proof.Machine.execCtDeltaFlush s
  | .ctRollup => Sys2Proof.Machine.execCtRollup s
  | .crewRetire => Sys2Proof.Machine.execCrewRetire s
  | .sleepExpiry => Sys2Proof.Machine.execSleepExpiry s
  | .regangComplete => Sys2Proof.Machine.execRegangComplete s
  | .synccComplete => Sys2Proof.Machine.execSynccComplete s
  | .crewDeadlock => Sys2Proof.Machine.execCrewDeadlock s
  | .roleswGrant => Sys2Proof.Machine.execRoleswGrant s
  | .gangAged => Sys2Proof.Machine.execGangAged s
  | .bindRound => Sys2Proof.Machine.execBindRound s
  | .coreSlotin => Sys2Proof.Machine.execCoreSlotin s
  | .dispatchBlock => Sys2Proof.Machine.execDispatchBlock s
  | .launchNodeRetire => Sys2Proof.Machine.execLaunchNodeRetire s
  | .zeroBlockNode => Sys2Proof.Machine.execZeroBlockNode s
  | .linkCall => Sys2Proof.Machine.execLinkCall s
  | .reductionContribution => Sys2Proof.Machine.execReductionContribution s
  | .reductionRetry => Sys2Proof.Machine.execReductionRetry s
  | .reorderTimeout => Sys2Proof.Machine.execReorderTimeout s
  | .xdieRequest => Sys2Proof.Machine.execXdieRequest s
  | .xdieRetry => Sys2Proof.Machine.execXdieRetry s
  | .reservationRelease => Sys2Proof.Machine.execReservationRelease s
  | .xdieTimeout => Sys2Proof.Machine.execXdieTimeout s
  | .peerTimeout => Sys2Proof.Machine.execPeerTimeout s
  | .bridgePacket => Sys2Proof.Machine.execBridgePacket s
  | .bridgeReplay => Sys2Proof.Machine.execBridgeReplay s
  | .bridgeRetrain => Sys2Proof.Machine.execBridgeRetrain s
  | .bridgeDown => Sys2Proof.Machine.execBridgeDown s
  | .portFailure => Sys2Proof.Machine.execPortFailure s
  | .peerRequest => Sys2Proof.Machine.execPeerRequest s
  | .tagExpiry => Sys2Proof.Machine.execTagExpiry s
  | .grant => Sys2Proof.Machine.execGrant s
  | .recall => Sys2Proof.Machine.execRecall s
  | .acknowledgement => Sys2Proof.Machine.execAcknowledgement s
  | .faultTicket => Sys2Proof.Machine.execFaultTicket s
  | .replayNotice => Sys2Proof.Machine.execReplayNotice s
  | .reductionMessage => Sys2Proof.Machine.execReductionMessage s
  | .softwareMessage => Sys2Proof.Machine.execSoftwareMessage s
  | .exportMiss => Sys2Proof.Machine.execExportMiss s
  | .collectiveReady => Sys2Proof.Machine.execCollectiveReady s
  | .badMessage => Sys2Proof.Machine.execBadMessage s
  | .messageResend => Sys2Proof.Machine.execMessageResend s
  | .missLogRetry => Sys2Proof.Machine.execMissLogRetry s
  | .exportInvalidate => Sys2Proof.Machine.execExportInvalidate s
  | .exportServiced => Sys2Proof.Machine.execExportServiced s
  | .hostRequest => Sys2Proof.Machine.execHostRequest s
  | .drainRequest => Sys2Proof.Machine.execDrainRequest s
  | .drainEnd => Sys2Proof.Machine.execDrainEnd s
  | .drainLimit => Sys2Proof.Machine.execDrainLimit s
  | .forcedSaveWrite => Sys2Proof.Machine.execForcedSaveWrite s
  | .contextRestore => Sys2Proof.Machine.execContextRestore s
  | .scrubRead => Sys2Proof.Machine.execScrubRead s
  | .scrubWriteback => Sys2Proof.Machine.execScrubWriteback s
  | .powerGrant => Sys2Proof.Machine.execPowerGrant s
  | .ptpMessage => Sys2Proof.Machine.execPtpMessage s
  | .ppsInput => Sys2Proof.Machine.execPpsInput s
  | .trcRidx => Sys2Proof.Machine.execTrcRidx s
  | .loadGeneratedKey => Sys2Proof.Machine.execLoadGeneratedKey s
  | .loadWrappedKey => Sys2Proof.Machine.execLoadWrappedKey s
  | .unload => Sys2Proof.Machine.execUnload s
  | .attestationRequest => Sys2Proof.Machine.execAttestationRequest s
  | .boot => Sys2Proof.Machine.execBoot s
  | .debugHalt => Sys2Proof.Machine.execDebugHalt s
  | .registerWrite => Sys2Proof.Machine.execRegisterWrite s
  | .illegalInstructionWord => Sys2Proof.Machine.execIllegalInstructionWord s
  | .fetchFault => Sys2Proof.Machine.execFetchFault s
  | .requestResponse => Sys2Proof.Machine.execRequestResponse s
  | .bridgeRetrained => Sys2Proof.Machine.execBridgeRetrained s
  | .debugResume => Sys2Proof.Machine.execDebugResume s
  | .powerLoss => Sys2Proof.Machine.execPowerLoss s
  | .wearEstimate => Sys2Proof.Machine.execWearEstimate s

end Sys2Proof.Machine
end

