-- ==== Sys2Proof/Machine/Schedule.lean ====
section
/-! DEFINITION. What may come next: the gang that each port issues (R128, R156), the steps of hardware and of outside
parties, the passing of a clock, and which of several comes, an open choice (R223; log entry 2). -/

namespace Sys2Proof.Machine

/-! ### Issue (R128, R156) -/

/-- A gang that may issue: crew, lowest slice, slices, and its crew's record. -/
structure Gang where
  k : Nat
  j : Nat
  js : List Nat
  c : Crew
  deriving DecidableEq, Repr

/-- The port of a crew: four a core (R156). -/
def Crew.port (c : Crew) : Nat := 4 * c.core + c.crewIx % 4

/-- A crew's gangs may issue: its block is on the core, no save is in progress, and the die is neither halted nor held. -/
def State.mayIssue (s : State) (c : Crew) : Bool :=
  !s.blockOut c.block && !(s.core c.core).saving && !(s.die (dieOfCore c.core)).halted && !(s.die (dieOfCore c.core)).down

/-- The ready gangs, by lowest slice (R128). -/
def State.readyGangs (s : State) : List Gang :=
  s.crews.flatMap fun e =>
    if s.mayIssue e.2 then
      (List.range e.2.nsl).filterMap fun j =>
        if !(e.2.slice j).exited && e.2.gangLead j == j && e.2.ready s.clk j then some ⟨e.1, j, e.2.gangOf j, e.2⟩ else none
    else []

/-- A port has issued a gang at this clock. -/
def State.portUsed (s : State) (p : Nat) : Bool :=
  s.crews.any fun e => e.2.port == p && (List.range e.2.nsl).any fun j => (e.2.slice j).lastIssue == s.clk + 1

/-- The numbers by which a port ranks a gang, lowest first (R156). -/
def Gang.rank (g : Gang) : List Nat :=
  let sl := g.c.slice g.j
  [if sl.aged then 0 else 1, if sl.aged then 0 else 8 - g.c.prio, sl.lastIssue, sl.since, g.c.crewIx, g.j]

/-- One rank comes before another. -/
def rankBefore : List Nat → List Nat → Bool
  | a :: r, b :: q => decide (a < b) || (a == b && rankBefore r q)
  | _, _ => false

/-- The gangs that the ports may issue at this clock: for each port that has not issued, the one that ranks first. -/
def State.issues (s : State) : List Gang :=
  let gs := s.readyGangs
  gs.filter fun g => !s.portUsed g.c.port && gs.all fun h => h.c.port != g.c.port || !rankBefore h.rank g.rank

/-! ### Steps without a word -/

/-- Steps that come in the order they were sent: words to one slot table (R151), updates of one barrier (R236), decrements
of one counter, a slice's accesses to one peer page (R367), tickets and the notices of their replay, which one channel brings
(R355). -/
def State.lanes (s : State) : Event → List (Nat × Nat)
  | .coreSlotin k _ => [(0, k)]
  | .barrierUpdate u => [(1, u.pa)]
  | .taskDepcountDecrement n _ _ => [(2, n)]
  | .peerRequest r => (r.flows ++ (s.mates r).flatMap fun q => q.flows).map fun f => (3, f)
  | .reductionMessage m =>
    if (s.dieOfDev m.dev).isSome then (((tget s.reqs m.tag).map fun r => r.flows m.tag).getD []).map fun f => (3, f) else []
  | .faultTicket tag => [(4, ((tget s.reqs tag).map (·.die)).getD 0)]
  | .replayNotice die .. => [(4, die)]
  | _ => []

/-- A request to a peer page that waits for an older ticket leaves the page to that ticket's replay (R225). -/
def stepsAside (frozen : Bool) (e : Event) : Bool :=
  frozen && (match e with | .peerRequest _ => true | _ => false)

/-- Those of a list of steps, oldest first, that may come next. -/
def State.heads (s : State) : List (Nat × Nat) → List Event → List Event
  | _, [] => []
  | seen, e :: r =>
    let ls := s.lanes e
    let stuck := s.frozen e
    (if stuck || ls.any seen.contains then [] else [e]) ++ s.heads (if stepsAside stuck e then seen else ls ++ seen) r

/-- The steps that an operation in flight calls for. -/
def State.opPrompts (s : State) (id : Nat) (o : Op) : List Event :=
  match o.body with
  | .copy c => if s.copyRuns o.core c || s.copyReady id o c then [.copyStart id] else []
  | .mat m => if m.running || s.matReady id o m then [.matrixOpStart id] else []
  | .furlong f => if s.macroGoes o f || s.macroReady id o f then [.furlongStep id] else []
  | .coll c =>
    if !c.started then (if s.collReady id o c then [.collStart id] else [])
    else (if c.busy then [.collStep id] else []) ++ (if c.over then [.collComplete id] else [])
  | .tree t => if s.treeReady id o t then [.treeOpComplete id] else []
  | .send .. => if s.msgReady id o then [.messageResend id] else []
  | _ => []

/-- The steps that the state itself calls for: dispatch, binding, the end of nodes, role switches, drains and saves, and
stages of operations, deferred arrivals, and packets on the bridge. -/
def State.prompts (s : State) : List Event :=
  (s.cores.flatMap fun e =>
    (if s.dispatchOk e.1 then [Event.dispatchBlock e.1] else []) ++ (if s.drainOver e.1 then [.drainEnd e.1] else []) ++
      (if s.saveReady e.1 then [.forcedSaveWrite e.1] else [])) ++
  (s.nodes.flatMap fun e =>
    (if s.nodeOver e.1 e.2 then [Event.launchNodeRetire e.1] else []) ++ (if s.nodeEmpty e.1 e.2 then [.zeroBlockNode e.1] else [])) ++
  s.rounds ++
  (s.crews.filterMap fun e => if e.2.deferred.any fun d => s.arrivalDue e.1 d then some (Event.deferredArrival e.1) else none) ++
  (s.blocks.flatMap fun e => s.roleSteps e.1) ++ (s.ops.flatMap fun e => s.opPrompts e.1 e.2) ++
  s.bridgeSteps

/-- The gangs that become aged at this clock (R156), before any gang is ranked. -/
def State.agings (s : State) : List Event :=
  s.crews.flatMap fun e =>
    if s.mayIssue e.2 then
      (List.range e.2.nsl).filterMap fun j =>
        if e.2.gangLead j == j && e.2.agesNow s.clk j then some (Event.gangAged e.1 j) else none
    else []

/-! ### The choice -/

/-- What a step does: a gang issues, or takes the MONITOR of the instruction that it has completed; a step without a word comes;
or a clock passes. -/
inductive Turn where
  | issue (k : Nat) (js : List Nat)
  | monitor (k : Nat) (js : List Nat)
  | event (e : Event)
  | clock
  deriving DecidableEq, Repr

/-- A step that comes at the clock at which what it waits for holds (R122, R124 to R126, R143, R154, R155, R339): no clock passes
before it. -/
def stepAtOnce : Event → Bool
  | .regangComplete .. | .synccComplete _ | .crewDeadlock _ | .sleepExpiry .. | .roleswGrant _ | .dispatchBlock _
  | .zeroBlockNode _ | .drainRequest _ | .drainLimit _ => true
  | _ => false

/-- The round of a queue whose monitor has woken the firmware comes at once (R148). -/
def State.roundAtOnce (s : State) : Event → Bool
  | .bindRound q => s.queues.any fun e => e.node == q && e.woken
  | _ => false

/-- The crew that waits for the answer to a request. -/
def State.waitsFor (s : State) (r : PeerReq) : Option Nat :=
  match r.who with
  | .pend id _ => (tget s.pends id).map (·.crew)
  | .waita k _ => some k
  | _ => none

/-- An answer that may bring a trap. -/
def respTraps : Resp → Bool
  | .data _ bad => !bad.isEmpty
  | .done => false
  | _ => true

/-- A step that comes after the issues of its clock: a grant, before which every request of that clock is known (R143), and a
trap that a crew takes late, after that of a gang which issues (R319). -/
def State.afterIssues (s : State) (gs : List Gang) : Event → Bool
  | .roleswGrant _ => !gs.isEmpty
  | .requestResponse tag a => respTraps a && (tget s.reqs tag).any fun r => gs.any fun g => s.waitsFor r == some g.k
  | _ => false

/-- A step whose time the spec fixes by a count of clocks or ticks, and which a timer has brought (R195, R196, R199, R358, R361,
R365, R370, R374, R394, R422): no clock passes before it. -/
def stepTimed : Event → Bool
  | .reductionRetry _ | .reorderTimeout .. | .waitaPoll .. | .xdieRetry _ | .reservationRelease _ | .xdieTimeout _
  | .peerTimeout _ | .tagExpiry .. | .messageResend _ | .missLogRetry _ | .ctDeltaFlush .. | .collTimeout _ => true
  | _ => false

/-- A settle, move or drop is pending on the chain that starts at a node (R395). -/
def State.chainBusy (s : State) (node : Nat) : Bool :=
  s.ops.any fun e => match e.2.body with
    | .tree t => t.kind != .leaf && (s.beneath t.node s.parents.length node || s.beneath node s.parents.length t.node)
    | _ => false

/-- A roll-up has had its 256 clocks for the node it is to reach, with no settle, move or drop pending on its chain (R395). -/
def State.rollupLate (s : State) : Bool :=
  s.rollups.any fun e => decide (e.2.limit ≤ s.clk) &&
    !((e.2.passed.getLast?).toList ++ [e.2.node]).any s.chainBusy

/-- A step after which a gang may issue at the same clock (R126): it comes before any gang is ranked. -/
def stepBeforeIssue : Event → Bool
  | .sleepExpiry .. => true
  | _ => false

/-- The turn of a gang that may issue: the MONITOR of its last instruction comes before its next (R58, R441). -/
def Gang.turn (g : Gang) : Turn :=
  if g.js.any fun j => (g.c.slice j).stepped then .monitor g.k g.js else .issue g.k g.js

/-- What may come next. A clock passes only when every port has issued what it can, and nothing must come at this clock. -/
def State.turns (s : State) : List Turn :=
  match s.agings with
  | e :: _ => [.event e]
  | [] =>
    let due := s.heads [] s.due
    let gs := s.issues
    let es := (due ++ s.prompts.filter fun e => !s.frozen e).filter fun e => !s.afterIssues gs e
    match es.find? stepBeforeIssue with
    | some e => [.event e]
    | none =>
      es.map Turn.event ++
        (match gs with
         | [] => if es.any (fun e => stepAtOnce e || s.roundAtOnce e) || due.any stepTimed || s.rollupLate then [] else [.clock]
         | gs => gs.map Gang.turn)

/-- What comes next: of several, an open choice. -/
def State.turn (s : State) : Turn :=
  match s.turns with
  | [] => .clock
  | [t] => t
  | t :: r => (t :: r).getD (s.free 0 0 % (t :: r).length) t

/-! ### The turns themselves -/

/-- The debug link has a single step or a watch point armed for a crew's context, and it fires on the instruction that issues:
a single step always, a watch point as an open choice, since what it watches is not given (R441; log entry 26). -/
def State.debugFires (s : State) (c : Crew) : Bool :=
  let d := dieOfCore c.core
  let p := s.partOf (s.ctxOf c)
  ((s.die d).stepping.contains p || ((s.die d).watching.contains p && s.free 24 0 % 2 == 1)) && (s.part d p).dbgGrant.getLsbD d

/-- The state in which a gang issues: the turn is noted, the translation of its fetch cached (R327), and a single step or watch
point noted that fires. -/
def State.issuing (s : State) (k : Nat) (js : List Nat) : State :=
  let s := { s with cur := some (k, js), ev := none, fresh := s.fresh + 1 }
  match tget s.crews k with
  | some c =>
    let s := s.tlbFill c.core c.sup.isSome .fetch fetchChoice (c.slice (js.headD 0)).pc
    if s.debugFires c then s.modCrew k fun c => c.modSlices js fun sl => { sl with stepped := true } else s
  | none => s

/-- The state in which a gang takes the MONITOR of the instruction that it has completed (R58, R317): the PC saved is that of the
next one. It ends the single step. -/
def State.monitorTrap (s : State) (k : Nat) (js : List Nat) : State :=
  let s := { s with cur := some (k, js), ev := none, fresh := s.fresh + 1 }
  match tget s.crews k with
  | some c =>
    let p := s.partOf (s.ctxOf c)
    (s.modDie (dieOfCore c.core) fun d => { d with stepping := sdel p d.stepping }).takeTrap k js .monitor (c.live js) 0 [] 0
  | none => s

/-- What the gang fetches. -/
def State.fetched (s : State) (k : Nat) (js : List Nat) : Fetched :=
  match tget s.crews k with
  | some c => s.fetch c fetchChoice (c.slice (js.headD 0)).pc
  | none => .bad .pagefault

/-- The state in which a step without a word comes. -/
def State.coming (s : State) (e : Event) : State :=
  { s with due := s.due.erase e, cur := none, ev := some e, fresh := s.fresh + 1 }

/-- The state with a step to come in the gang's turn: a word that does not decode, or a failed fetch. -/
def State.instead (s : State) (e : Event) : State := { s with ev := some e }

/-- The timers that have run out. -/
def State.ripe (s : State) (t : Timer) : Bool :=
  match t.die with
  | some d => decide (t.at_ ≤ s.ticks d)
  | none => decide (t.at_ ≤ s.clk)

/-- A gang that a port might have issued, whose instruction would have waited: it has not been ready (R128, R156). -/
def State.wouldWait (s : State) (g : Gang) : Bool :=
  let t := s.issuing g.k g.js
  match t.fetched g.k g.js with
  | .word w =>
    match (decode w).map fun i => exec i t with
    | some (.next u) => (tget u.crews g.k).any fun c => (c.slice g.j).lastIssue != s.clk + 1 && (c.slice g.j).wait == .none
    | _ => false
  | _ => false

/-- The gangs that their port passed over and that were not ready either count as ready from the next clock on at the earliest
(R156). -/
def State.passedOver (s : State) : State :=
  (s.readyGangs.filter fun g => (g.c.slice g.j).lastIssue != s.clk + 1 && s.wouldWait g).foldl (fun s g =>
    s.modCrew g.k fun c => c.modSlices g.js fun sl => { sl with since := s.clk + 1 }) s

/-- One clock passes: the clock count, each die's reference timer unless a debug halt stops it (R360), the time base (R451),
and the steps whose time has come. -/
def State.clock (s : State) : State :=
  let beat := fun (d : Die) => if d.halted then d else { d with refclk := d.refclk + 1 }
  let s := s.passedOver
  let s := { s with clk := s.clk + 1, fresh := s.fresh + 1, pkg := s.pkg.tickTai (s.free 0 1), cur := none, ev := none }
  let s := (s.modDie 0 beat).modDie 1 beat
  let ripe := s.timers.filter s.ripe
  ({ s with timers := s.timers.filter fun t => !s.ripe t } : State).pushAll (ripe.map (·.ev))

/-! ### Placing one word (the host's interface) -/

/-- The page tables that map the first page of the address space to frame 6, readable, writable and executable (R326). -/
def bootTables (m : Table Byte) : Table Byte :=
  let entry := fun (m : Table Byte) (frame v : Nat) => memWrite m (4096 * frame) (natBytes v 8)
  entry (entry (entry (entry (entry m 1 0x2001) 2 0x3001) 3 0x4001) 4 0x5001) 5 0x601F

/-- One crew of one gang of one slice at address 0, its other registers 0, ready from a clock on. -/
def bootCrew (clk : Nat) : Crew := newCrew 1 0 0 1 0 128 0 0 [] 0 0 false clk

/-- The state in which the very next step fetches a word from address 0 of a context whose first page holds it: what
linking, binding and dispatch of a launch of that code would leave (R139, R148, R154), and nothing else due. -/
def State.placeCode (s : State) (bs : List Byte) : State :=
  let mem := memWrite (bootTables s.mem) 0x6000 bs
  let info : CtxInfo := ⟨0, 0, 0x1000, 0, 0, false, [], [], []⟩
  let node : Node :=
    { va := 0, ctx := 0, kind := 4, parent := 0, depth := 3, order := 0, pred := 0, status := 2, kept := [], binds := [], bound := 1
      created := 1, retired := 0, ready := false, released := false, faulted := false, dpoison := false
      code := memWrite [] 0x6000 bs, launchOp := none }
  let block : Block :=
    { node := 0x10000, ctx := 0, core := 0, index := 0, cluster := 0, rank := 0, clsize := 1, crews := 1, slices := 1
      regs := 128, tmquota := 16, osquota := 16, effs := [], tiles := [], stopped := false, out := false }
  { s with
    mem := mem
    marks := []
    ctxs := [(0, ⟨info, false⟩)]
    nodes := [(0x10000, node)]
    blocks := [(1, block)]
    crews := [(2, bootCrew s.clk)]
    cores := [(0, { Core.reset with ptroot := 0x1000, ctx := some 0 })]
    dies := tset s.dies 0 { (s.die 0) with halted := false, down := false, stepping := [], watching := [] }
    pkg := { s.pkg with split := false, held := false, keys := tset s.pkg.keys 0 0 }
    ops := []
    due := []
    queues := []
    gkeys := []
    nextId := max s.nextId 3 }

end Sys2Proof.Machine
end

