-- ==== Sys2Proof/Machine/Step.lean ====
section
/-! DEFINITION. One step of the package: the turn that comes next is taken, and the instruction or step it names is
executed. -/

namespace Sys2Proof.Machine

/-- One step: a gang's next word, the MONITOR of its last, a step without a word, or the passing of a clock. -/
def step (s : State) : Host.Outcome State Fault Refusal :=
  if s.pkg.held then .fault .deviceHeld
  else
    match s.turn with
    | .clock => .next s.clock
    | .event e => exec e.row (s.coming e)
    | .monitor k js => .next (s.monitorTrap k js)
    | .issue k js =>
      let t := s.issuing k js
      match t.fetched k js with
      | .word w =>
        match decode w with
        | some i => exec i t
        | none => exec .illegalInstructionWord (t.instead (.illegalInstructionWord w))
      | _ => exec .fetchFault (t.instead .fetchFault)

/-- The state with a word stored where the next step fetches (the host's interface). -/
def State.withFetchWord (s : State) (nbits w : Nat) : State :=
  s.placeCode (natBytes (w % 2 ^ min nbits 32) 4)

end Sys2Proof.Machine
end

