-- ==== Sys2Proof/Safety.lean ====
section
/-! DEFINITION. What counts as a safe run, and the terms in which statements speak of one: a gang that passes every check of
R58, what completing an instruction changes and leaves, and invariants of states. -/

namespace Sys2Proof.Machine

/-- The machine goes on from a state. -/
def goesOn (s : State) : Prop := ∃ t, step s = .next t

/-- The canonical form of memory (bytes by rising address, none 0), which every step keeps. -/
def State.memOk (s : State) : Prop := Memory.wf s.mem = true

/-- An invariant is kept by every step that answers a next state. -/
def Kept (inv : State → Prop) : Prop := ∀ s t, inv s → step s = .next t → inv t

/-- Slices that form a gang: some, of the eight a crew has, each once. -/
def gangShape (js : List Nat) : Bool := !js.isEmpty && decide js.Nodup && js.all fun j => decide (j < 8)

/-- The slices js of crew k, which is c, issue, and no check of R58 stops an instruction that states h before its effect;
some lane or slice acts. -/
def State.clears (s : State) (h : Head) (k : Nat) (js : List Nat) (c : Crew) : Bool :=
  let x := s.issueOf h k js c
  decide (s.cur = some (k, js)) && decide (tget s.crews k = some c) && gangShape js && !x.misnamed h && !x.waits h &&
    !x.forbidden h && !x.early h && x.badRegs h == 0 && x.nonuniform h == 0 && x.split h == 0 && x.act != 0

/-- The slices of a crew once its gang has completed an instruction that does not branch (R53, R88): PC + 4, ready after the
stall count, nothing else changed but the counts by which ports rank gangs and the distances of R53. -/
structure Moved (x : Issue) (c' : Crew) : Prop where
  pc : ∀ j ∈ x.js, (c'.slice j).pc = (x.c.slice j).pc + 4
  ready : ∀ j ∈ x.js, (c'.slice j).readyAt = x.s.clk + 1 + x.st
  live : ∀ j ∈ x.js, (c'.slice j).live = (x.c.slice j).live ∧ (c'.slice j).exited = (x.c.slice j).exited
  gang : ∀ j ∈ x.js, (c'.slice j).gang = (x.c.slice j).gang ∧ (c'.slice j).mode = (x.c.slice j).mode
  rest : ∀ j ∈ x.js, (c'.slice j).links = (x.c.slice j).links ∧ (c'.slice j).wait = (x.c.slice j).wait ∧
    (c'.slice j).batch = (x.c.slice j).batch
  others : ∀ j, j ∉ x.js → c'.slice j = x.c.slice j

/-- Two crews differ in their lanes and slices at most. -/
def Crew.alike (a b : Crew) : Prop := { a with lanes := b.lanes, slices := b.slices } = b

/-- The lanes of a crew after an instruction that may write some logical registers and some predicates of some lanes: every
other lane, register and predicate is as it was, and no other register's parity changes. -/
structure LanesBut (act : BitVec 32) (dst dstP : Nat → List Nat) (a b : Crew) : Prop where
  idle : ∀ l, act.getLsbD l = false → b.lane l = a.lane l
  regs : ∀ l r, r ∉ dst l → tget (b.lane l).regs r = tget (a.lane l).regs r
  parity : ∀ l r, r ∉ dst l → (r ∈ (b.lane l).bad ↔ r ∈ (a.lane l).bad)
  preds : ∀ l p, p ∉ dstP l → (b.lane l).pred p = (a.lane l).pred p

/-- An instruction that computes registers and predicates has completed: the crew alone is changed, and of it the gang's
progress and the destination registers (by window number) and predicates of the lanes that act. -/
structure Computed (x : Issue) (dst dstP : Nat → List Nat) (t : State) (c' : Crew) : Prop where
  state : t = x.s.setCrew x.k c'
  moved : Moved x c'
  alike : c'.alike x.c
  lanes : LanesBut x.act (fun l => (dst l).map (x.c.depth + ·)) dstP x.c c'

/-- The value of a register, or of a pair under the 64-bit etypes, as an integer instruction reads it (R85). -/
def Crew.val (c : Crew) (e l : Nat) (i : BitVec 6) : Nat :=
  if etPair e then ((c.lane l).get64 c.depth i.toNat).toNat else ((c.lane l).get c.depth i.toNat).toNat

/-- A register, or a pair under the 64-bit etypes. -/
def pairAt (e : Nat) (i : BitVec 6) : List Nat := if etPair e then [i.toNat, i.toNat + 1] else [i.toNat]

/-- The lane whose operands a lane's result comes from: its own, or under U the lowest active one (R51). -/
def Issue.source (x : Issue) (u : Bool) (l : Nat) : Nat := if u then lowest x.act else l

end Sys2Proof.Machine
end

