-- ==== Sys2Proof/Certificates/Slice0/Obligations.lean ====
section
/-! DEFINITION. The statements made of this model, for the provers: each a proposition under `Obligations`, with the tables
that name the instructions a statement is about. -/

open Sys2Proof Sys2Proof.Machine

namespace Sys2Proof.Machine
/-! ### Forms of the instructions that compute registers and predicates -/

/-- What an instruction of R98 computes: its fields, whether d is read too (MAD), whether the table of R99 gives saturation,
and the exact result of one element from signedness, width and the bits of the elements of a, b and d. -/
structure ElementForm where
  u : Bool
  st : BitVec 3
  d : BitVec 6
  a : BitVec 6
  b : SrcB
  readsD : Bool
  sat : Bool
  exact : Bool → Nat → Nat → Nat → Nat → Int

/-- What it states before its effect. -/
def ElementForm.head (F : ElementForm) : Head := (intHead F.u F.st F.d F.a F.b F.readsD F.sat).scalar

/-- The element-wise integer instructions with the exact results of R99. -/
def elementForm : Instr → Option ElementForm
  | .add f => some ⟨f.u, f.s, f.d, f.a, .reg f.b, false, true, fun sg w a b _ => readInt sg w a + readInt sg w b⟩
  | .addi f => some ⟨f.u, f.s, f.d, f.a, .imm f.i.toInt, false, true, fun sg w a b _ => readInt sg w a + readInt sg w b⟩
  | .sub f => some ⟨f.u, f.s, f.d, f.a, .reg f.b, false, true, fun sg w a b _ => readInt sg w a - readInt sg w b⟩
  | .mul f => some ⟨f.u, f.s, f.d, f.a, .reg f.b, false, true, fun sg w a b _ => readInt sg w a * readInt sg w b⟩
  | .mulhi f => some ⟨f.u, f.s, f.d, f.a, .reg f.b, false, false, fun sg w a b _ =>
      readInt sg w a * readInt sg w b / 2 ^ w⟩
  | .mad f => some ⟨f.u, f.s, f.d, f.a, .reg f.b, true, true, fun sg w a b d =>
      readInt sg w a * readInt sg w b + readInt sg w d⟩
  | .min f => some ⟨f.u, f.s, f.d, f.a, .reg f.b, false, false, fun sg w a b _ => min (readInt sg w a) (readInt sg w b)⟩
  | .max f => some ⟨f.u, f.s, f.d, f.a, .reg f.b, false, false, fun sg w a b _ => max (readInt sg w a) (readInt sg w b)⟩
  | .abs f => some ⟨f.u, f.s, f.d, f.a, .none, false, true, fun sg w a _ _ => |readInt sg w a|⟩
  | .neg f => some ⟨f.u, f.s, f.d, f.a, .none, false, true, fun sg w a _ _ => - readInt sg w a⟩
  | .shl f => some ⟨f.u, f.s, f.d, f.a, .count f.b, false, true, fun sg w a n _ => readInt sg w a * 2 ^ n⟩
  | .shli f => some ⟨f.u, f.s, f.d, f.a, .imm f.i.toNat, false, true, fun sg w a n _ => readInt sg w a * 2 ^ n⟩
  | .shr f => some ⟨f.u, f.s, f.d, f.a, .count f.b, false, false, fun _ _ a n _ => ((a / 2 ^ n : Nat) : Int)⟩
  | .shri f => some ⟨f.u, f.s, f.d, f.a, .imm f.i.toNat, false, false, fun _ _ a n _ => ((a / 2 ^ n : Nat) : Int)⟩
  | .sar f => some ⟨f.u, f.s, f.d, f.a, .count f.b, false, false, fun _ w a n _ => readInt true w a / 2 ^ n⟩
  | .sari f => some ⟨f.u, f.s, f.d, f.a, .imm f.i.toNat, false, false, fun _ w a n _ => readInt true w a / 2 ^ n⟩
  | .rot f => some ⟨f.u, f.s, f.d, f.a, .count f.b, false, false, fun _ w a n _ =>
      ((a * 2 ^ (n % w) + a / 2 ^ (w - n % w) : Nat) : Int)⟩
  | .clz f => some ⟨f.u, f.s, f.d, f.a, .none, false, false, fun _ w a _ _ => (w : Int) - a.size⟩
  | .popc f => some ⟨f.u, f.s, f.d, f.a, .none, false, false, fun _ w a _ _ =>
      (((List.range w).filter fun i => a.testBit i).length : Int)⟩
  | _ => none

/-- What an instruction of R100 computes on the whole register or pair, at either width. -/
structure WholeForm where
  u : Bool
  st : BitVec 3
  d : BitVec 6
  a : BitVec 6
  b : SrcB
  op : (w : Nat) → BitVec w → BitVec w → BitVec w

/-- What it states before its effect. -/
def WholeForm.head (F : WholeForm) : Head := (intHead F.u F.st F.d F.a F.b false false).scalar

/-- AND, OR, XOR, NOT, ANDI, ORI and MOV. -/
def wholeForm : Instr → Option WholeForm
  | .and f => some ⟨f.u, f.s, f.d, f.a, .reg f.b, fun _ a b => a &&& b⟩
  | .or f => some ⟨f.u, f.s, f.d, f.a, .reg f.b, fun _ a b => a ||| b⟩
  | .xor f => some ⟨f.u, f.s, f.d, f.a, .reg f.b, fun _ a b => a ^^^ b⟩
  | .not f => some ⟨f.u, f.s, f.d, f.a, .none, fun _ a _ => ~~~a⟩
  | .andi f => some ⟨f.u, f.s, f.d, f.a, .imm f.i.toInt, fun _ a b => a &&& b⟩
  | .ori f => some ⟨f.u, f.s, f.d, f.a, .imm f.i.toInt, fun _ a b => a ||| b⟩
  | .mov f => some ⟨f.u, f.s, f.d, f.a, .none, fun _ a _ => a⟩
  | _ => none

/-- The b operand of a lane as 32 bits. -/
def Issue.b32 (x : Issue) (l : Nat) : SrcB → Word
  | .reg b => x.reg l b.toNat
  | .count b => x.reg l b.toNat
  | .imm i => BitVec.ofInt 32 i
  | .none => 0

/-- The b operand of a lane as 64 bits. -/
def Issue.b64 (x : Issue) (l : Nat) : SrcB → Dword
  | .reg b => x.reg64 l b.toNat
  | .count b => (x.reg l b.toNat).zeroExtend 64
  | .imm i => BitVec.ofInt 64 i
  | .none => 0

/-- A comparison of R104: its fields and condition. -/
structure CompareForm where
  u : Bool
  st : BitVec 3
  d : BitVec 6
  a : BitVec 6
  b : SrcB
  cond : Int → Int → Prop

/-- What it states before its effect. -/
def CompareForm.head (F : CompareForm) : Head := (compareHead F.u F.st F.d F.a F.b).scalar

/-- CMP and CMPI. -/
def compareForm : Instr → Option CompareForm
  | .cmpEq f => some ⟨f.u, f.s, f.d, f.a, .reg f.b, fun a b => a = b⟩
  | .cmpNe f => some ⟨f.u, f.s, f.d, f.a, .reg f.b, fun a b => a ≠ b⟩
  | .cmpLt f => some ⟨f.u, f.s, f.d, f.a, .reg f.b, fun a b => a < b⟩
  | .cmpLe f => some ⟨f.u, f.s, f.d, f.a, .reg f.b, fun a b => a ≤ b⟩
  | .cmpGt f => some ⟨f.u, f.s, f.d, f.a, .reg f.b, fun a b => b < a⟩
  | .cmpGe f => some ⟨f.u, f.s, f.d, f.a, .reg f.b, fun a b => b ≤ a⟩
  | .cmpiEq f => some ⟨f.u, f.s, f.d, f.a, .imm f.i.toInt, fun a b => a = b⟩
  | .cmpiNe f => some ⟨f.u, f.s, f.d, f.a, .imm f.i.toInt, fun a b => a ≠ b⟩
  | .cmpiLt f => some ⟨f.u, f.s, f.d, f.a, .imm f.i.toInt, fun a b => a < b⟩
  | .cmpiLe f => some ⟨f.u, f.s, f.d, f.a, .imm f.i.toInt, fun a b => a ≤ b⟩
  | .cmpiGt f => some ⟨f.u, f.s, f.d, f.a, .imm f.i.toInt, fun a b => b < a⟩
  | .cmpiGe f => some ⟨f.u, f.s, f.d, f.a, .imm f.i.toInt, fun a b => b ≤ a⟩
  | _ => none

/-- SEL with the predicate it selects by (R105). -/
def selectForm : Instr → Option (FUSDAB × Nat)
  | .selP1 f => some (f, 1)
  | .selP2 f => some (f, 2)
  | .selP3 f => some (f, 3)
  | .selP4 f => some (f, 4)
  | .selP5 f => some (f, 5)
  | .selP6 f => some (f, 6)
  | .selP7 f => some (f, 7)
  | _ => none

/-- PAND, POR and PXOR (R106). -/
def predForm : Instr → Option (FSDAB × (Bool → Bool → Bool))
  | .pand f => some (f, fun p q => p && q)
  | .por f => some (f, fun p q => p || q)
  | .pxor f => some (f, fun p q => p != q)
  | _ => none

/-- SHFL with the lane it names from the lane and xb (R130). -/
def shuffleForm : Instr → Option (FSDAB × (Nat → Nat → Option Nat))
  | .shflIdx f => some (f, fun _ n => some n)
  | .shflUp f => some (f, fun l n => if n ≤ l then some (l - n) else none)
  | .shflDown f => some (f, fun l n => some (l + n))
  | .shflXor f => some (f, fun l n => some (l ^^^ n))
  | _ => none

/-- A float instruction of R107: the mode fields it consults, its own fields, and the code of one element from format, rounding mode, saturation and the exact
elements of a, b and d. -/
structure FloatForm where
  cons : BitVec 13
  u : Bool
  st : BitVec 3
  d : BitVec 6
  a : BitVec 6
  b : Option (BitVec 6)
  readsD : Bool
  lat : Nat
  code : FFmt → Nat → Bool → Fl → Fl → Fl → Nat

/-- What it states before its effect. -/
def FloatForm.head (F : FloatForm) : Head := (floatOpHead F.cons F.u F.st F.d F.a F.b F.readsD F.lat).scalar

/-- The element-wise float instructions of R108 and R109. -/
def floatForm : Instr → Option FloatForm
  | .fadd f => some ⟨consFloat, f.u, f.s, f.d, f.a, some f.b, false, 4, fun m rm sat a b _ => roundFl m rm sat (addFl rm a b)⟩
  | .fsub f => some ⟨consFloat, f.u, f.s, f.d, f.a, some f.b, false, 4, fun m rm sat a b _ => roundFl m rm sat (addFl rm a (negFl b))⟩
  | .fmul f => some ⟨consFloat, f.u, f.s, f.d, f.a, some f.b, false, 4, fun m rm sat a b _ => roundFl m rm sat (mulFl a b)⟩
  | .fma f => some ⟨consFloat, f.u, f.s, f.d, f.a, some f.b, true, 4, fun m rm sat a b d => roundFl m rm sat (addFl rm (mulFl a b) d)⟩
  | .fmin f => some ⟨consEtype, f.u, f.s, f.d, f.a, some f.b, false, 4, fun m rm _ a b _ => roundFl m rm false (minFl a b)⟩
  | .fmax f => some ⟨consEtype, f.u, f.s, f.d, f.a, some f.b, false, 4, fun m rm _ a b _ => roundFl m rm false (maxFl a b)⟩
  | .fabs f => some ⟨consEtype, f.u, f.s, f.d, f.a, none, false, 4, fun m rm _ a _ _ => roundFl m rm false (absFl a)⟩
  | .fneg f => some ⟨consEtype, f.u, f.s, f.d, f.a, none, false, 4, fun m rm _ a _ _ => roundFl m rm false (negFl a)⟩
  | .frnd f => some ⟨consRound, f.u, f.s, f.d, f.a, none, false, 4, fun m rm _ a _ _ => roundFl m rm false (integralFl rm a)⟩
  | .frcp f => some ⟨consFloat, f.u, f.s, f.d, f.a, none, false, 8, fun m rm sat a _ _ => roundFl m rm sat (recipFl a)⟩
  | .frsq f => some ⟨consFloat, f.u, f.s, f.d, f.a, none, false, 8, fun m rm sat a _ _ => roundFl m rm sat (rsqrtFl a)⟩
  | .fsqrt f => some ⟨consFloat, f.u, f.s, f.d, f.a, none, false, 8, fun m rm sat a _ _ => roundFl m rm sat (sqrtFl a)⟩
  | .fexp2 f => some ⟨consFloat, f.u, f.s, f.d, f.a, none, false, 8, fun m rm sat a _ _ => exp2Code m rm sat a⟩
  | .flog2 f => some ⟨consFloat, f.u, f.s, f.d, f.a, none, false, 8, fun m rm sat a _ _ => log2Code m rm sat a⟩
  | .ftanh f => some ⟨consFloat, f.u, f.s, f.d, f.a, none, false, 8, fun m rm sat a _ _ => tanhCode m rm sat a⟩
  | _ => none

/-- FCMP with its condition (R110). -/
def floatCompareForm : Instr → Option (FUSDAB × Cond)
  | .fcmpEq f => some (f, .eq)
  | .fcmpNe f => some (f, .ne)
  | .fcmpLt f => some (f, .lt)
  | .fcmpLe f => some (f, .le)
  | .fcmpGt f => some (f, .gt)
  | .fcmpGe f => some (f, .ge)
  | .fcmpUn f => some (f, .un)
  | _ => none

/-- FCVT with its destination format (R113). -/
def convertForm : Instr → Option (FUSDA × FFmt)
  | .fcvtF32 f => some (f, .fp32)
  | .fcvtF16x2 f => some (f, .fp16)
  | .fcvtBf16x2 f => some (f, .bf16)
  | .fcvtE4m3x4 f => some (f, .e4m3)
  | .fcvtE5m2x4 f => some (f, .e5m2)
  | _ => none

/-- What an instruction that computes lane by lane states of itself, and the registers (window numbers, under a mode) and
predicates it writes. -/
structure LaneForm where
  head : Head
  regs : BitVec 13 → List Nat
  preds : List Nat

/-- The forms above as lane forms, and those of the other instructions that compute registers and predicates alone. -/
def laneForm (i : Instr) : Option LaneForm :=
  match elementForm i, wholeForm i, compareForm i, selectForm i, predForm i, shuffleForm i, floatForm i,
    floatCompareForm i, convertForm i with
  | some F, _, _, _, _, _, _, _, _ => some ⟨F.head, fun m => pairAt (modeEtype m) F.d, []⟩
  | _, some F, _, _, _, _, _, _, _ => some ⟨F.head, fun m => pairAt (modeEtype m) F.d, []⟩
  | _, _, some F, _, _, _, _, _, _ => some ⟨F.head, fun _ => [], [F.d.toNat]⟩
  | _, _, _, some F, _, _, _, _, _ => some ⟨(selectHead F.1 F.2).scalar, fun m => pairAt (modeEtype m) F.1.d, []⟩
  | _, _, _, _, some F, _, _, _, _ => some ⟨(predOpHead F.1).scalar, fun _ => [], [F.1.d.toNat]⟩
  | _, _, _, _, _, some F, _, _, _ => some ⟨(shuffleHead F.1 F.2).scalar, fun _ => [F.1.d.toNat], []⟩
  | _, _, _, _, _, _, some F, _, _ => some ⟨F.head, fun _ => [F.d.toNat], []⟩
  | _, _, _, _, _, _, _, some F, _ => some ⟨(floatCompareHead F.1).scalar, fun _ => [], [F.1.d.toNat]⟩
  | _, _, _, _, _, _, _, _, some F => some ⟨(floatConvertHead F.1 F.2).scalar, fun m =>
      (List.range (convertShape F.2 m).2).map (F.1.d.toNat + ·), []⟩
  | none, none, none, none, none, none, none, none, none =>
    match i with
    | .addc f => some ⟨(carryHead f).scalar, fun _ => [f.d.toNat], [6]⟩
    | .subc f => some ⟨(carryHead f).scalar, fun _ => [f.d.toNat], [6]⟩
    | .bfx f => some ⟨(intHead f.u f.s f.d f.a (.count f.b) false false).scalar, fun m => pairAt (modeEtype m) f.d, []⟩
    | .bfi f => some ⟨(intHead f.u f.s f.d f.a (.count f.b) true false).scalar, fun m => pairAt (modeEtype m) f.d, []⟩
    | .movi f => some ⟨(moviHead f).scalar, fun m => pairAt (modeEtype m) f.d, []⟩
    | .lea f => some ⟨(leaHead f).scalar, fun _ => [f.d.toNat, f.d.toNat + 1], []⟩
    | .sreg f => some ⟨(sregHead f).scalar, fun _ => if f.i = 8 ∨ f.i = 9 then [f.d.toNat, f.d.toNat + 1] else [f.d.toNat], []⟩
    | .pnot f => some ⟨(pnotHead f).scalar, fun _ => [], [f.d.toNat]⟩
    | .pset f => some ⟨(psetHead f).scalar, fun _ => [], [f.d.toNat]⟩
    | .pget f => some ⟨(pgetHead f).scalar, fun _ => [f.d.toNat], []⟩
    | .bcast f => some ⟨(bcastHead f).scalar, fun _ => [f.d.toNat], []⟩
    | .voteAny f => some ⟨(votePredHead f).scalar, fun _ => [], [f.d.toNat]⟩
    | .voteAll f => some ⟨(votePredHead f).scalar, fun _ => [], [f.d.toNat]⟩
    | .voteBallot f => some ⟨(voteBallotHead f).scalar, fun _ => [f.d.toNat], []⟩
    | .voteAdd f => some ⟨voteAddHead f, fun m => pairAt (modeEtype m) f.d, []⟩
    | .voteFadd f => some ⟨voteFaddHead f, fun _ => [f.d.toNat], []⟩
    | .fscal f => some ⟨(fscalHead f).scalar, fun _ => [f.d.toNat], []⟩
    | .fclass f => some ⟨(fclassHead f).scalar, fun _ => [f.d.toNat], []⟩
    | .fdot2 f => some ⟨(fdot2Head f).scalar, fun _ => [f.d.toNat], []⟩
    | .icvtSf f => some ⟨(convertIntHead f).scalar, fun _ => [f.d.toNat], []⟩
    | .icvtUf f => some ⟨(convertIntHead f).scalar, fun _ => [f.d.toNat], []⟩
    | .icvtFs f => some ⟨(convertFloatHead f).scalar, fun m => pairAt (modeEtype m) f.d, []⟩
    | .icvtFu f => some ⟨(convertFloatHead f).scalar, fun m => pairAt (modeEtype m) f.d, []⟩
    | .tquery f => some ⟨tqueryHead f, fun _ => [f.d.toNat, f.d.toNat + 1], []⟩
    | .mseqq f => some ⟨mseqqHead f, fun _ => [f.d.toNat, f.d.toNat + 1], []⟩
    | .collq f => some ⟨collqHead f, fun _ => [f.d.toNat, f.d.toNat + 1], []⟩
    | .fstat f => some ⟨fstatHead f, fun _ => [f.d.toNat, f.d.toNat + 1], []⟩
    | .tickq f => some ⟨tickqHead f, fun _ => [f.d.toNat, f.d.toNat + 1], []⟩
    | _ => none
end Sys2Proof.Machine

/-! ### Integers, addresses and predicates -/

/-- R98 and R99, with R51, R62, R63 and R85: an element-wise integer instruction that passes the checks completes, and
in every lane that acts each element of the destination is the exact result of the elements at its place, clamped when
the instruction applies saturation and mode.sat is 1, else cut to the element's width. Under U the result is that of
the lowest active lane. R62 and R63: what an exact result becomes. Without saturation, or when it lies in the
element's range, the element reads as the result's residue modulo 2^w in that range; with it, a result above the range
gives the greatest value and one below it the least. -/
def Obligations.ElementResults : Prop :=
  (∀ (i : Instr) (F : ElementForm) (s : State) (k : Nat) (js : List Nat) (c : Crew),
    elementForm i = some F → s.clears F.head k js c = true →
    let x := s.issueOf F.head k js c
    ∃ c', exec i s = .next (s.setCrew k c') ∧ ∀ l, x.act.getLsbD l = true →
      let o := x.source F.u l
      let e := modeEtype (x.mode o)
      ∀ j < etSpan e / etWidth e,
        elemOf e (c'.val e l F.d) j = fitInt (F.sat && modeSat (x.mode o)) (etSigned e) (etWidth e)
          (F.exact (etSigned e) (etWidth e) (elemOf e (x.v.val e o F.a) j) (x.elemB o F.b j) (elemOf e (x.v.val e o F.d) j))) ∧
  (∀ (sg : Bool) (w : Nat) (v : Int), 0 < w →
    let lo := minInt sg w
    let hi := maxInt sg w
    let r (sat : Bool) := readInt sg w (fitInt sat sg w v)
    (∀ sat, lo ≤ r sat ∧ r sat ≤ hi ∧ fitInt sat sg w v < 2 ^ w) ∧
    (∃ q : Int, r false = v + q * 2 ^ w) ∧
    (lo ≤ v → v ≤ hi → r true = v ∧ r false = v) ∧
    (hi < v → r true = hi) ∧ (v < lo → r true = lo))

/-- R100: AND, OR, XOR, NOT, ANDI, ORI and MOV act on the whole register, or on the pair under i64 and u64, with an immediate
sign-extended to its 32 or 64 bits. MOVI writes its sign-extended immediate at 32 bits, or at 64 bits into a pair. -/
def Obligations.WholeRegisters : Prop :=
  (∀ (i : Instr) (F : WholeForm) (s : State) (k : Nat) (js : List Nat) (c : Crew),
    wholeForm i = some F → s.clears F.head k js c = true →
    let x := s.issueOf F.head k js c
    ∃ c', exec i s = .next (s.setCrew k c') ∧ ∀ l, x.act.getLsbD l = true →
      let o := x.source F.u l
      if etPair (modeEtype (x.mode o)) then
        (c'.lane l).get64 c.depth F.d.toNat = F.op 64 (x.reg64 o F.a.toNat) (x.b64 o F.b)
      else (c'.lane l).get c.depth F.d.toNat = F.op 32 (x.reg o F.a.toNat) (x.b32 o F.b)) ∧
  (∀ (f : FUSDI) (s : State) (k : Nat) (js : List Nat) (c : Crew), s.clears (moviHead f).scalar k js c = true →
    let x := s.issueOf (moviHead f).scalar k js c
    ∃ c', exec (.movi f) s = .next (s.setCrew k c') ∧ ∀ l, x.act.getLsbD l = true →
      if etPair (modeEtype (x.mode (x.source f.u l))) then (c'.lane l).get64 c.depth f.d.toNat = f.i.signExtend 64
      else (c'.lane l).get c.depth f.d.toNat = f.i.signExtend 32)

/-- R101: LEA adds the sign-extended 32-bit register xb to the pair xa modulo 2^64, into the pair xd, whatever the etype, and
makes no check of the address; an odd register where a pair belongs raises ILLEGAL. -/
def Obligations.Addresses : Prop :=
  (∀ (f : FUSDAB) (s : State) (k : Nat) (js : List Nat) (c : Crew), s.clears (leaHead f).scalar k js c = true →
    let x := s.issueOf (leaHead f).scalar k js c
    f.d.toNat % 2 = 0 ∧ f.a.toNat % 2 = 0 ∧
    ∃ c', exec (.lea f) s = .next (s.setCrew k c') ∧ ∀ l, x.act.getLsbD l = true →
      let o := x.source f.u l
      (c'.lane l).get64 c.depth f.d.toNat = x.reg64 o f.a.toNat + (x.reg o f.b.toNat).signExtend 64) ∧
  (∀ (f : FUSDAB) (s : State) (k : Nat) (js : List Nat) (c : Crew), s.cur = some (k, js) → tget s.crews k = some c →
    gangShape js = true → (f.d.toNat % 2 = 1 ∨ f.a.toNat % 2 = 1) →
    exec (.lea f) s = .next (s.takeTrap k js .illegal (s.issueOf (leaHead f).scalar k js c).live 0 [] 0))

/-- R102: BFX writes the field that xb names, sign-extended when the etype is signed, else zero-extended; 0 for an empty
field or one that begins at or above the width. BFI puts the low bits of xa into the field of xd and keeps the other bits
of xd, whose value is the lane's own, or the lowest active lane's under U; an empty field leaves every lane's xd as it is
(log entry 31). -/
def Obligations.Bitfields : Prop :=
  (∀ (f : FUSDAB) (s : State) (k : Nat) (js : List Nat) (c : Crew),
    let h := (intHead f.u f.s f.d f.a (.count f.b) false false).scalar
    s.clears h k js c = true →
    let x := s.issueOf h k js c
    ∃ c', exec (.bfx f) s = .next (s.setCrew k c') ∧ ∀ l, x.act.getLsbD l = true →
      let o := x.source f.u l
      let e := modeEtype (x.mode o)
      let w := etSpan e
      let b := x.reg o f.b.toNat
      let pos := (b.extractLsb' 0 8).toNat
      let len := (b.extractLsb' 8 8).toNat
      let n := min len (w - pos)
      let a := x.v.val e o f.a
      ∀ i < w, (c'.val e l f.d).testBit i =
        (decide (len ≠ 0 ∧ pos < w) && (if i < n then a.testBit (pos + i) else etSigned e && a.testBit (pos + n - 1)))) ∧
  (∀ (f : FUSDAB) (s : State) (k : Nat) (js : List Nat) (c : Crew),
    let h := (intHead f.u f.s f.d f.a (.count f.b) true false).scalar
    s.clears h k js c = true →
    let x := s.issueOf h k js c
    ∃ c', exec (.bfi f) s = .next (s.setCrew k c') ∧ ∀ l, x.act.getLsbD l = true →
      let o := x.source f.u l
      let e := modeEtype (x.mode o)
      let w := etSpan e
      let b := x.reg o f.b.toNat
      let pos := (b.extractLsb' 0 8).toNat
      let len := (b.extractLsb' 8 8).toNat
      let n := min len (w - pos)
      let a := x.v.val e o f.a
      let d := x.v.val e o f.d
      if len = 0 ∨ w ≤ pos then c'.val e l f.d = c.val e l f.d
      else ∀ i < w, (c'.val e l f.d).testBit i = if pos ≤ i ∧ i < pos + n then a.testBit (i - pos) else d.testBit i)

/-- R103: ADDC and SUBC add and subtract at 32 bits with predicate 6 as the carry they read and write; under an etype that
is 64-bit or packed integer they raise ILLEGAL. -/
def Obligations.CarryChain : Prop :=
  ∀ (f : FUSDAB) (s : State) (k : Nat) (js : List Nat) (c : Crew),
    let h := (carryHead f).scalar
    let x := s.issueOf h k js c
    (s.clears h k js c = true → ∀ l, x.act.getLsbD l = true →
      let o := x.source f.u l
      let a := (x.reg o f.a.toNat).toNat
      let b := (x.reg o f.b.toNat).toNat
      let p := (x.pred o 6).toNat
      (∃ c', exec (.addc f) s = .next (s.setCrew k c') ∧
        ((c'.lane l).get c.depth f.d.toNat).toNat = (a + b + p) % 2 ^ 32 ∧ (c'.lane l).pred 6 = decide (2 ^ 32 ≤ a + b + p)) ∧
      (∃ c', exec (.subc f) s = .next (s.setCrew k c') ∧
        (((c'.lane l).get c.depth f.d.toNat).toNat : Int) = ((a : Int) - b - p) % 2 ^ 32 ∧
        (c'.lane l).pred 6 = decide ((a : Int) - b - p < 0))) ∧
    (s.cur = some (k, js) → tget s.crews k = some c → x.misnamed h = false → x.waits h = false → x.split h = 0 → x.act ≠ 0 →
      (∃ j ∈ x.actors, let e := modeEtype (c.slice j).mode; e = 2 ∨ e = 3 ∨ e = 4 ∨ e = 5 ∨ e = 6 ∨ e = 7) →
      exec (.addc f) s = .next (s.takeTrap k js .illegal x.live 0 [] 0) ∧
      exec (.subc f) s = .next (s.takeTrap k js .illegal x.live 0 [] 0))

/-- R104: CMP and CMPI write the truth of their condition between the two values, signed or unsigned as the etype
says, to predicate d of every lane that acts; a result for p0 is discarded. Under the packed integer etypes they raise
ILLEGAL. R105: SEL writes xa where its predicate is 1 and xb where it is 0, for the whole register or pair; under U
the lowest active lane decides. -/
def Obligations.ComparisonsAndSelection : Prop :=
  (∀ (i : Instr) (F : CompareForm) (s : State) (k : Nat) (js : List Nat) (c : Crew), compareForm i = some F → i.wf = true →
    let x := s.issueOf F.head k js c
    (s.clears F.head k js c = true → ∃ c', exec i s = .next (s.setCrew k c') ∧ ∀ l, x.act.getLsbD l = true →
      let o := x.source F.u l
      let e := modeEtype (x.mode o)
      let a := readInt (etSigned e) (etSpan e) (x.v.val e o F.a)
      let b := readInt (etSigned e) (etSpan e) (if etPair e then (x.b64 o F.b).toNat else (x.b32 o F.b).toNat)
      ((c'.lane l).pred F.d.toNat = true ↔ F.d = 0 ∨ F.cond a b)) ∧
    (s.cur = some (k, js) → tget s.crews k = some c → x.misnamed F.head = false → x.waits F.head = false →
      x.split F.head = 0 → x.act ≠ 0 →
      (∃ j ∈ x.actors, let e := modeEtype (c.slice j).mode; e = 4 ∨ e = 5 ∨ e = 6 ∨ e = 7) →
      exec i s = .next (s.takeTrap k js .illegal x.live 0 [] 0))) ∧
  (∀ (i : Instr) (f : FUSDAB) (p : Nat) (s : State) (k : Nat) (js : List Nat) (c : Crew), selectForm i = some (f, p) →
    s.clears (selectHead f p).scalar k js c = true →
    let x := s.issueOf (selectHead f p).scalar k js c
    ∃ c', exec i s = .next (s.setCrew k c') ∧ ∀ l, x.act.getLsbD l = true →
      let o := x.source f.u l
      let e := modeEtype (x.mode o)
      c'.val e l f.d = if x.pred o p then x.v.val e o f.a else x.v.val e o f.b)

/-- R106: PAND, POR and PXOR combine two predicates, PNOT inverts one, PSET says whether a 32-bit register is not 0 and PGET
collects the eight, in every lane that acts; a write to p0 is discarded. -/
def Obligations.Predicates : Prop :=
  (∀ (i : Instr) (f : FSDAB) (op : Bool → Bool → Bool) (s : State) (k : Nat) (js : List Nat) (c : Crew),
    predForm i = some (f, op) → i.wf = true → s.clears (predOpHead f).scalar k js c = true →
    let x := s.issueOf (predOpHead f).scalar k js c
    ∃ c', exec i s = .next (s.setCrew k c') ∧ ∀ l, x.act.getLsbD l = true →
      (c'.lane l).pred f.d.toNat = (f.d == 0 || op (x.pred l f.a.toNat) (x.pred l f.b.toNat))) ∧
  (∀ (f : FSDA) (s : State) (k : Nat) (js : List Nat) (c : Crew), (Instr.pnot f).wf = true →
    s.clears (pnotHead f).scalar k js c = true →
    let x := s.issueOf (pnotHead f).scalar k js c
    ∃ c', exec (.pnot f) s = .next (s.setCrew k c') ∧ ∀ l, x.act.getLsbD l = true →
      (c'.lane l).pred f.d.toNat = (f.d == 0 || !x.pred l f.a.toNat)) ∧
  (∀ (f : FSDA) (s : State) (k : Nat) (js : List Nat) (c : Crew), (Instr.pset f).wf = true →
    s.clears (psetHead f).scalar k js c = true →
    let x := s.issueOf (psetHead f).scalar k js c
    ∃ c', exec (.pset f) s = .next (s.setCrew k c') ∧ ∀ l, x.act.getLsbD l = true →
      (c'.lane l).pred f.d.toNat = (f.d == 0 || x.reg l f.a.toNat != 0)) ∧
  (∀ (f : FSD) (s : State) (k : Nat) (js : List Nat) (c : Crew), s.clears (pgetHead f).scalar k js c = true →
    let x := s.issueOf (pgetHead f).scalar k js c
    ∃ c', exec (.pget f) s = .next (s.setCrew k c') ∧ ∀ l, x.act.getLsbD l = true →
      ∀ i < 32, ((c'.lane l).get c.depth f.d.toNat).getLsbD i = (decide (i < 8) && x.pred l i))

/-! ### Exchanges between lanes -/

/-- R130 and R131: SHFL writes the source lane's xa (its register, where that lane's slice awaits no fixed-latency
result), or the lane's own when that lane is none of 0 to 31 or not a live lane of the gang; BCAST writes to every
active lane the xa of the lane that xb names, or 0. R132: VOTE combines the active lanes and gives every one of them
the result: whether a predicate holds in any or in all of them, the mask of those it holds in, and each element's sum,
which wraps. -/
def Obligations.LaneExchangeAndVotes : Prop :=
  ((∀ (i : Instr) (f : FSDAB) (src : Nat → Nat → Option Nat) (s : State) (k : Nat) (js : List Nat) (c : Crew),
    shuffleForm i = some (f, src) → s.clears (shuffleHead f src).scalar k js c = true →
    let x := s.issueOf (shuffleHead f src).scalar k js c
    ∃ c', exec i s = .next (s.setCrew k c') ∧ ∀ l, x.act.getLsbD l = true →
      (c'.lane l).get c.depth f.d.toNat = match src l (x.reg l f.b.toNat).toNat with
        | some n => if n < 32 ∧ x.live.getLsbD n = true then x.regFrom l n f.a.toNat else x.reg l f.a.toNat
        | none => x.reg l f.a.toNat) ∧
  (∀ (x : Issue) (l n i : Nat), (x.c.slice (n / 4)).shorts = [] → n ≠ l → x.regFrom l n i = (x.c.lane n).get x.c.depth i) ∧
  (∀ (f : FSDAB) (s : State) (k : Nat) (js : List Nat) (c : Crew), s.clears (bcastHead f).scalar k js c = true →
    let x := s.issueOf (bcastHead f).scalar k js c
    ∃ c', exec (.bcast f) s = .next (s.setCrew k c') ∧ ∀ l, x.act.getLsbD l = true →
      let n := (x.reg (lowest x.act) f.b.toNat).toNat
      (c'.lane l).get c.depth f.d.toNat = if n < 32 ∧ x.live.getLsbD n = true then x.reg n f.a.toNat else 0)) ∧
  ((∀ (f : FSDA) (s : State) (k : Nat) (js : List Nat) (c : Crew), (Instr.voteAny f).wf = true →
    s.clears (votePredHead f).scalar k js c = true →
    let x := s.issueOf (votePredHead f).scalar k js c
    (∃ c', exec (.voteAny f) s = .next (s.setCrew k c') ∧ ∀ l, x.act.getLsbD l = true →
      ((c'.lane l).pred f.d.toNat = true ↔ f.d = 0 ∨ ∃ i, x.act.getLsbD i = true ∧ x.pred i f.a.toNat = true)) ∧
    (∃ c', exec (.voteAll f) s = .next (s.setCrew k c') ∧ ∀ l, x.act.getLsbD l = true →
      ((c'.lane l).pred f.d.toNat = true ↔ f.d = 0 ∨ ∀ i, x.act.getLsbD i = true → x.pred i f.a.toNat = true))) ∧
  (∀ (f : FSDA) (s : State) (k : Nat) (js : List Nat) (c : Crew), s.clears (voteBallotHead f).scalar k js c = true →
    let x := s.issueOf (voteBallotHead f).scalar k js c
    ∃ c', exec (.voteBallot f) s = .next (s.setCrew k c') ∧ ∀ l, x.act.getLsbD l = true →
      ∀ i < 32, ((c'.lane l).get c.depth f.d.toNat).getLsbD i = (x.act.getLsbD i && x.pred i f.a.toNat)) ∧
  (∀ (f : FSDA) (s : State) (k : Nat) (js : List Nat) (c : Crew), s.clears (voteAddHead f) k js c = true →
    let x := s.issueOf (voteAddHead f) k js c
    let e := modeEtype (x.mode (lowest x.act))
    ∃ c', exec (.voteAdd f) s = .next (s.setCrew k c') ∧ ∀ l, x.act.getLsbD l = true →
      ∀ j < etSpan e / etWidth e, elemOf e (c'.val e l f.d) j =
        (((List.range 32).filter fun i => x.act.getLsbD i).map fun i => elemOf e (x.v.val e i f.a) j).sum % 2 ^ etWidth e))

/-! ### Floating point -/

/-- R66 to R69 and R113: rounding a value that a format holds gives the code it came from, in every mode and whether
or not saturation applies; rounding a NaN gives the canonical NaN; an infinity stays one without saturation, where the
format has infinities. A value between two neighbours goes to the one that the mode names, on a tie to the even code
or the larger; one above the largest finite value saturates to it, or becomes an infinity, E4M3's NaN, or the largest,
as the mode says. R107 to R109: an element-wise float instruction writes, in every lane that acts, for each element of
the etype's format the result of its function on the exact elements, rounded once under the mode, saturated where the
table says. Under an FP8 etype it raises ILLEGAL. -/
def Obligations.FloatResults : Prop :=
  ((∀ (g : FFmt) (rm v : Nat), v < 2 ^ fmtWidth g →
    match decodeFl g v with
    | .nan => ∀ sat, roundFl g rm sat (decodeFl g v) = canonNan g
    | .inf _ => roundFl g rm false (decodeFl g v) = v
    | .fin .. => ∀ sat, roundFl g rm sat (decodeFl g v) = v) ∧
  (∀ (g : FFmt) (rm m : Nat) (neg sat : Bool) (e : Int), rm < 5 → 0 < m →
    let unit : Int := 1 - (expBias g : Int) - fracBits g
    let q := min e unit
    let X := m * 2 ^ (e - q).toNat
    let V := fun (c : Nat) => 2 ^ (unit - q).toNat * (if c / 2 ^ fracBits g = 0 then c
      else (2 ^ fracBits g + c % 2 ^ fracBits g) * 2 ^ (c / 2 ^ fracBits g - 1))
    let sign := if neg then 2 ^ (fmtWidth g - 1) else 0
    let up := fun (c : Nat) => match rm with
      | 0 => V c + V (c + 1) < 2 * X ∨ (V c + V (c + 1) = 2 * X ∧ c % 2 = 1)
      | 1 => False
      | 2 => neg = true
      | 3 => neg = false
      | _ => V c + V (c + 1) ≤ 2 * X
    let past := if rm = 0 ∨ rm = 4 ∨ (rm = 2 ∧ neg = true) ∨ (rm = 3 ∧ neg = false) then
        (if g = .e4m3 then canonNan g else sign + infCode g) else sign + maxCode g
    let top := maxCode g
    let r := roundFl g rm sat (.fin neg m e)
    (∀ c, c ≤ top → V c = X → r = sign + c) ∧
    (∀ c, c < top → V c < X → X < V (c + 1) → (up c → r = sign + (c + 1)) ∧ (¬ up c → r = sign + c)) ∧
    (V top < X → sat = true → r = sign + top) ∧
    (V top < X → sat = false → X < V (top + 1) → (up top → r = past) ∧ (¬ up top → r = sign + top)) ∧
    (sat = false → V (top + 1) ≤ X → r = past))) ∧
  (∀ (i : Instr) (F : FloatForm) (s : State) (k : Nat) (js : List Nat) (c : Crew), floatForm i = some F →
    let x := s.issueOf F.head k js c
    (s.clears F.head k js c = true → ∃ c', exec i s = .next (s.setCrew k c') ∧ ∀ l, x.act.getLsbD l = true →
      let o := x.source F.u l
      let m := x.mode o
      let g := etFmt (modeEtype m)
      ∀ j < perReg g, elemFl g ((c'.lane l).get c.depth F.d.toNat) j =
        F.code g (modeRmode m) (modeSat m) (decodeFl g (elemFl g (x.reg o F.a.toNat) j))
          (decodeFl g (elemFl g ((F.b.map fun b => x.reg o b.toNat).getD 0) j))
          (decodeFl g (elemFl g (x.reg o F.d.toNat) j))) ∧
    (s.cur = some (k, js) → tget s.crews k = some c → x.misnamed F.head = false → x.waits F.head = false →
      x.act ≠ 0 → (∃ j ∈ x.actors, modeEtype (c.slice j).mode = 11 ∨ modeEtype (c.slice j).mode = 12) →
      exec i s = .next (s.takeTrap k js .illegal x.live 0 [] 0)))

/-- R108, R111 and R112: FSCAL scales each element by two to the signed value of xb; FCLASS gives each element's
one-hot class code; FDOT2 adds both products of a packed pair and the FP32 value of xd and rounds once. R110: FCMP
writes its condition between two FP32 values to predicate d; the ordered conditions are 0 and .ne is 1 when either is
a NaN, .un is 1 exactly then, and −0 equals +0. Under the 16-bit and 8-bit float etypes it raises ILLEGAL. -/
def Obligations.FloatSpecialsAndComparisons : Prop :=
  ((∀ (f : FUSDAB) (s : State) (k : Nat) (js : List Nat) (c : Crew), s.clears (fscalHead f).scalar k js c = true →
    let x := s.issueOf (fscalHead f).scalar k js c
    ∃ c', exec (.fscal f) s = .next (s.setCrew k c') ∧ ∀ l, x.act.getLsbD l = true →
      let o := x.source f.u l
      let m := x.mode o
      let g := etFmt (modeEtype m)
      ∀ j < perReg g, elemFl g ((c'.lane l).get c.depth f.d.toNat) j =
        roundFl g (modeRmode m) (modeSat m)
          (match decodeFl g (elemFl g (x.reg o f.a.toNat) j) with
           | .fin n mant e => .fin n mant (e + (x.reg o f.b.toNat).toInt)
           | y => y)) ∧
  (∀ (f : FUSDA) (s : State) (k : Nat) (js : List Nat) (c : Crew), s.clears (fclassHead f).scalar k js c = true →
    let x := s.issueOf (fclassHead f).scalar k js c
    ∃ c', exec (.fclass f) s = .next (s.setCrew k c') ∧ ∀ l, x.act.getLsbD l = true →
      let o := x.source f.u l
      let g := etFmt (modeEtype (x.mode o))
      ∀ j < perReg g,
        let v := elemFl g (x.reg o f.a.toNat) j
        let E := v / 2 ^ fracBits g % 2 ^ expBits g
        let F := v % 2 ^ fracBits g
        let neg := v.testBit (fmtWidth g - 1)
        elemFl g ((c'.lane l).get c.depth f.d.toNat) j = 2 ^
          (if E = 2 ^ expBits g - 1 then (if F ≠ 0 then 8 else if neg then 0 else 7)
           else if E ≠ 0 then (if neg then 1 else 6)
           else if F ≠ 0 then (if neg then 2 else 5)
           else if neg then 3 else 4)) ∧
  (∀ (f : FUSDAB) (s : State) (k : Nat) (js : List Nat) (c : Crew), s.clears (fdot2Head f).scalar k js c = true →
    let x := s.issueOf (fdot2Head f).scalar k js c
    ∃ c', exec (.fdot2 f) s = .next (s.setCrew k c') ∧ ∀ l, x.act.getLsbD l = true →
      let o := x.source f.u l
      let m := x.mode o
      let g := etFmt (modeEtype m)
      let el (r : BitVec 6) (j : Nat) := decodeFl g (elemFl g (x.reg o r.toNat) j)
      (g = .fp16 ∨ g = .bf16) ∧
      ((c'.lane l).get c.depth f.d.toNat).toNat = roundFl .fp32 (modeRmode m) (modeSat m)
        (sumFl [mulFl (el f.a 0) (el f.b 0), mulFl (el f.a 1) (el f.b 1), decodeFl .fp32 (x.reg o f.d.toNat).toNat]))) ∧
  (∀ (i : Instr) (f : FUSDAB) (q : Cond) (s : State) (k : Nat) (js : List Nat) (c : Crew),
    floatCompareForm i = some (f, q) → i.wf = true →
    let x := s.issueOf (floatCompareHead f).scalar k js c
    (s.clears (floatCompareHead f).scalar k js c = true → ∃ c', exec i s = .next (s.setCrew k c') ∧
      ∀ l, x.act.getLsbD l = true →
      let o := x.source f.u l
      let a := decodeFl .fp32 (x.reg o f.a.toNat).toNat
      let b := decodeFl .fp32 (x.reg o f.b.toNat).toNat
      let un : Prop := a = .nan ∨ b = .nan
      ((c'.lane l).pred f.d.toNat = true ↔ f.d = 0 ∨
        match q with
        | .un => un
        | .ne => un ∨ ltFl a b = true ∨ ltFl b a = true
        | .eq => ¬un ∧ ltFl a b = false ∧ ltFl b a = false
        | .lt => ¬un ∧ ltFl a b = true
        | .le => ¬un ∧ ltFl b a = false
        | .gt => ¬un ∧ ltFl b a = true
        | .ge => ¬un ∧ ltFl a b = false)) ∧
    (s.cur = some (k, js) → tget s.crews k = some c → x.misnamed (floatCompareHead f).scalar = false →
      x.waits (floatCompareHead f).scalar = false → x.act ≠ 0 → (∃ j ∈ x.actors, 9 ≤ modeEtype (c.slice j).mode) →
      exec i s = .next (s.takeTrap k js .illegal x.live 0 [] 0)))

/-- R113 and R114: FCVT converts element i of the source group into element i of the destination group, rounded once and
saturated under the mode. R115: ICVT.sf and ICVT.uf convert a signed or unsigned integer of the etype's width to FP32
under the rounding mode; ICVT.fs and ICVT.fu round an FP32 value to an integer, which out of range or from a NaN clamps,
or gives 0, with saturation, and else gives the one integer R115 names. -/
def Obligations.Conversions : Prop :=
  (∀ (i : Instr) (f : FUSDA) (g : FFmt) (s : State) (k : Nat) (js : List Nat) (c : Crew), convertForm i = some (f, g) →
    s.clears (floatConvertHead f g).scalar k js c = true →
    let x := s.issueOf (floatConvertHead f g).scalar k js c
    ∃ c', exec i s = .next (s.setCrew k c') ∧ ∀ l, x.act.getLsbD l = true →
      let o := x.source f.u l
      let m := x.mode o
      let src := etFmt (modeEtype m)
      ∀ n < max (perReg src) (perReg g),
        elemFl g ((c'.lane l).get c.depth (f.d.toNat + n / perReg g)) (n % perReg g) =
          roundFl g (modeRmode m) (modeSat m)
            (decodeFl src (elemFl src (x.reg o (f.a.toNat + n / perReg src)) (n % perReg src)))) ∧
  ∀ (f : FUSDA) (s : State) (k : Nat) (js : List Nat) (c : Crew),
    (s.clears (convertIntHead f).scalar k js c = true →
      let x := s.issueOf (convertIntHead f).scalar k js c
      ∀ sg : Bool, ∃ c', exec (if sg then .icvtSf f else .icvtUf f) s = .next (s.setCrew k c') ∧
        ∀ l, x.act.getLsbD l = true →
          let o := x.source f.u l
          let e := modeEtype (x.mode o)
          let v := readInt sg (etSpan e) (x.v.val e o f.a)
          ((c'.lane l).get c.depth f.d.toNat).toNat =
            roundFl .fp32 (modeRmode (x.mode o)) false (.fin (decide (v < 0)) v.natAbs 0)) ∧
    (s.clears (convertFloatHead f).scalar k js c = true →
      let x := s.issueOf (convertFloatHead f).scalar k js c
      ∀ sg : Bool, ∃ c', exec (if sg then .icvtFs f else .icvtFu f) s = .next (s.setCrew k c') ∧
        ∀ l, x.act.getLsbD l = true →
          let o := x.source f.u l
          let m := x.mode o
          let e := modeEtype m
          let w := etSpan e
          let r := readInt sg w (c'.val e l f.d)
          let out : Int := if sg then -(2 ^ (w - 1)) else 2 ^ w - 1
          match integralFl (modeRmode m) (decodeFl .fp32 (x.reg o f.a.toNat).toNat) with
          | .nan => r = if modeSat m then 0 else out
          | .inf n => r = if modeSat m then (if n then minInt sg w else maxInt sg w) else out
          | .fin n mant p =>
            let v : Int := unitsFl 0 (.fin n mant p)
            if minInt sg w ≤ v ∧ v ≤ maxInt sg w then r = v
            else r = if modeSat m then (if v < minInt sg w then minInt sg w else maxInt sg w) else out)

/-- R77 and R132: VOTE.fadd gives every active lane the FP32 sum of the tree over the 32 lanes, whose five levels combine
neighbours under the rounding mode; an empty leaf passes its neighbour. -/
def Obligations.TreeVote : Prop :=
  ∀ (f : FSDA) (s : State) (k : Nat) (js : List Nat) (c : Crew), s.clears (voteFaddHead f) k js c = true →
    let x := s.issueOf (voteFaddHead f) k js c
    let rm := modeRmode (x.mode (lowest x.act))
    ∀ node : Nat → Nat → Option Nat,
      (∀ l < 32, node 0 l = if x.act.getLsbD l then some (x.reg l f.a.toNat).toNat else none) →
      (∀ n, ∀ i < 32, node (n + 1) i = match node n (2 * i), node n (2 * i + 1) with
        | some a, some b => some (roundFl .fp32 rm false (addFl rm (decodeFl .fp32 a) (decodeFl .fp32 b)))
        | some a, none => some a
        | none, b => b) →
      ∃ c' v, node 5 0 = some v ∧ exec (.voteFadd f) s = .next (s.setCrew k c') ∧ ∀ l, x.act.getLsbD l = true →
        ((c'.lane l).get c.depth f.d.toNat).toNat =
          if decodeFl .fp32 v = .nan then canonNan .fp32 else v

/-! ### What an instruction that computes leaves alone -/

/-- R39, R41, R53 and R88: every instruction that computes registers and predicates, and passes the checks, completes; the
PC and readiness of the gang's slices apart, it changes nothing but the destination registers and predicates of the lanes
that act. -/
def Obligations.ComputingFrame : Prop :=
  ∀ (i : Instr) (F : LaneForm) (s : State) (k : Nat) (js : List Nat) (c : Crew), laneForm i = some F → i.wf = true →
    s.clears F.head k js c = true →
    let x := s.issueOf F.head k js c
    ∃ t c', exec i s = .next t ∧
      Computed x (fun l => F.regs (x.mode (x.source F.head.u l))) (fun _ => F.preds) t c'

/-! ### Registers and reports read into lanes -/

/-- R186: TQUERY describes the tile whose handle is in bits 7 to 0 of its register, whatever the value: rows and row
bytes, its level, layout and that it is live, or only level and layout with the freeing bit, or zeros when the handle
is not live. R316 and R430: MSEQQ and COLLQ report the state of the macro or collective that owns a token: steps
completed, and a state of 0 for a free token, 1 or 2 while it is pending under such an operation, 3 once it is done
and 4 once it is poisoned, while the crew keeps the operation's record. R379 and R380: FSTAT writes the crew's fabric
status to a pair; TICKQ the tickets of each slice with the owner of its oldest, or those of the crew's engine
operations with the free entries of its die's table; both order nothing and change nothing else. FCLR clears the
fabric status and rtimeout, but keeps an rtimeout that hardware set in that clock, and changes nothing else. -/
def Obligations.Reports : Prop :=
  (∀ (f : FSDA) (s : State) (k : Nat) (js : List Nat) (c : Crew), s.clears (tqueryHead f) k js c = true →
    let x := s.issueOf (tqueryHead f) k js c
    ∃ c', exec (.tquery f) s = .next (s.setCrew k c') ∧ ∀ l, x.act.getLsbD l = true →
      let rows := (c'.lane l).get c.depth f.d.toNat
      let desc := (c'.lane l).get c.depth (f.d.toNat + 1)
      match (tget s.blocks c.block).bind fun b => tget b.tiles ((x.reg (lowest x.act) f.a.toNat).toNat % 256) with
      | none => rows = 0 ∧ desc = 0
      | some t => desc.getLsbD 31 = !t.freeing ∧ desc.getLsbD 30 = t.os ∧ desc.getLsbD 29 = t.morton ∧
          desc.getLsbD 28 = t.freeing ∧
          (t.freeing = true → rows = 0 ∧ desc.extractLsb' 0 28 = 0) ∧
          (t.freeing = false → t.rows < 2 ^ 13 → t.rowBytes < 2 ^ 15 →
            rows.toNat = t.rows ∧ (desc.extractLsb' 0 28).toNat = t.rowBytes)) ∧
  (∀ (f : FSDA) (s : State) (k : Nat) (js : List Nat) (c : Crew) (coll : Bool),
    let h := if coll then collqHead f else mseqqHead f
    s.clears h k js c = true →
    let x := s.issueOf h k js c
    let n := (x.reg (lowest x.act) f.a.toNat).toNat
    n < 32 ∧ ∃ c', exec (if coll then .collq f else .mseqq f) s = .next (s.setCrew k c') ∧ ∀ l, x.act.getLsbD l = true →
      let steps := (c'.lane l).get c.depth f.d.toNat
      let word := (c'.lane l).get c.depth (f.d.toNat + 1)
      word.extractLsb' 3 5 = 0 ∧
      match (c.tok n).st with
      | .free => steps = 0 ∧ word = 0
      | .pending id =>
        (match (tget s.ops id).map (·.body) with
         | some (OpBody.furlong m) => coll = false →
            steps = BitVec.ofNat 32 m.steps ∧ word.extractLsb' 16 16 = BitVec.ofNat 16 m.chunk ∧
              word.extractLsb' 0 3 = if m.started then 2 else 1
         | some (OpBody.coll m) => coll = true →
            word.extractLsb' 0 3 = (if m.started then 2 else 1) ∧
              (m.started = true → steps = BitVec.ofNat 32 m.done.length ∧
                ∀ i, i < m.steps.length → i ∉ m.done → (∀ j < i, j ∈ m.done) → word.extractLsb' 16 16 = BitVec.ofNat 16 i)
         | _ => steps = 0 ∧ word = 0)
      | st =>
        match tget c.macros n with
        | some (b, done, at_) =>
          if b = coll then steps = BitVec.ofNat 32 done ∧ word.extractLsb' 16 16 = BitVec.ofNat 16 at_ ∧
            word.extractLsb' 0 3 = if st = .poisoned then 4 else 3
          else steps = 0 ∧ word = 0
        | none => steps = 0 ∧ word = 0) ∧
  ((∀ (f : FSD) (s : State) (k : Nat) (js : List Nat) (c : Crew), s.clears (fstatHead f) k js c = true →
    let x := s.issueOf (fstatHead f) k js c
    ∃ c', exec (.fstat f) s = .next (s.setCrew k c') ∧ (c.fab.count < 2 ^ 16 → c.fab.cause < 4 → c.fab.dev < 1024 →
      ∀ l, x.act.getLsbD l = true →
      let a := (c'.lane l).get c.depth f.d.toNat
      let b := (c'.lane l).get c.depth (f.d.toNat + 1)
      (a.extractLsb' 16 16).toNat = c.fab.count ∧ a.extractLsb' 2 14 = 0 ∧ a.getLsbD 1 = c.fab.rfail ∧
        a.getLsbD 0 = c.rtimeout ∧ b.extractLsb' 12 20 = 0 ∧ (b.extractLsb' 10 2).toNat = c.fab.cause ∧
        (b.extractLsb' 0 10).toNat = c.fab.dev)) ∧
  (∀ (f : FS) (s : State) (k : Nat) (js : List Nat) (c : Crew), s.clears (fclrHead f) k js c = true →
    let x := s.issueOf (fclrHead f) k js c
    ∃ c', exec (.fclr f) s = .next (s.setCrew k c') ∧ Moved x c' ∧ c'.lanes = c.lanes ∧
      c'.alike { c with rtimeout := c.rtimeout && c.rtimeoutAt == s.clk, fab := ⟨0, false, 0, 0⟩ }) ∧
  (∀ (f : FSDA) (s : State) (k : Nat) (js : List Nat) (c : Crew), s.clears (tickqHead f) k js c = true →
    let x := s.issueOf (tickqHead f) k js c
    let n := (x.reg (lowest x.act) f.a.toNat).toNat
    n ≤ 1 ∧ ∃ c', exec (.tickq f) s = .next (s.setCrew k c') ∧ ∀ l, x.act.getLsbD l = true →
      let a := (c'.lane l).get c.depth f.d.toNat
      let b := (c'.lane l).get c.depth (f.d.toNat + 1)
      let own := s.sliceTickets k (l / 4)
      if n = 0 then a = BitVec.ofNat 32 own.length ∧ (own = [] → b = 0) ∧
        (own ≠ [] → ∃ q ∈ own, (∀ r ∈ own, q.2.since ≤ r.2.since) ∧ b = BitVec.ofNat 32 (peerDev q.2.pa))
      else a = BitVec.ofNat 32 (s.engineTickets k) ∧
        b = BitVec.ofNat 32 (256 - (s.entriesUsed (c.core / 128)).length)))

namespace Sys2Proof.Machine

/-- The slices of a gang issue: none has exited or waits. -/
def Crew.awake (c : Crew) (js : List Nat) : Prop := ∀ j ∈ js, (c.slice j).exited = false ∧ (c.slice j).wait = .none

/-- The slices of a crew once its gang has completed a control instruction that sends slice j to `f j` (R53, R88, R120): the
gang parts into one gang for each PC, and of its slices only PC, gang and links differ. -/
structure Went (x : Issue) (c' : Crew) (f : Nat → Dword) (links : Nat → List Link) : Prop where
  pc : ∀ j ∈ x.js, (c'.slice j).pc = f j
  gang : ∀ i ∈ x.js, ∀ j ∈ x.js, (c'.slice i).gang = (c'.slice j).gang ↔ f i = f j
  links : ∀ j ∈ x.js, (c'.slice j).links = links j
  ready : ∀ j ∈ x.js, (c'.slice j).readyAt = x.s.clk + 1 + x.st
  live : ∀ j ∈ x.js, (c'.slice j).live = (x.c.slice j).live ∧ (c'.slice j).exited = (x.c.slice j).exited
  rest : ∀ j ∈ x.js, (c'.slice j).mode = (x.c.slice j).mode ∧ (c'.slice j).wait = (x.c.slice j).wait ∧
    (c'.slice j).batch = (x.c.slice j).batch
  others : ∀ j, j ∉ x.js → c'.slice j = x.c.slice j

/-- Two crews agree in everything but slices, the window's place, the registers of lanes and the notes of what is spilled. -/
def Crew.sameButWindow (a b : Crew) : Prop :=
  { a with lanes := b.lanes, slices := b.slices, depth := b.depth, spillSegs := b.spillSegs, spillLost := b.spillLost } = b

end Sys2Proof.Machine

/-! ### Control -/

/-- R90, R91 and R120: the slices whose guard holds in every live lane go to the target, the others to PC + 4, and the
gang parts into one gang for each PC; the crew is otherwise as it was. A target in a register pair ignores its lowest
two bits. R93 and R94, with R34 and R35: CALL and CALLX, issued by a gang that holds the whole crew, push the return
address and the slide on every slice's link stack, raise the window by 8 × k and go to the target, when what then
spills fits the spill area, which hardware writes; registers that stay in the allotment keep their values, and so do
all predicates. Else they raise SPILL. R93 and R95: RET pops the top link of every slice, lowers the window by its
slide and goes to its return address; when nothing has overwritten what was spilled, every register below the lowered
window's end keeps its value, and every link that is left. With an empty link stack it raises ILLEGAL; a fill that
would read a marked granule is contained as row 2 of R345. -/
def Obligations.ControlTransfers : Prop :=
  ((∀ (f : FSO) (s : State) (k : Nat) (js : List Nat) (c : Crew), s.clears (braHead f) k js c = true → c.awake js →
    let x := s.issueOf (braHead f) k js c
    ∃ c', exec (.bra f) s = .next (s.setCrew k c') ∧ c'.alike c ∧ c'.lanes = c.lanes ∧
      Went x c' (fun j => if x.acts j then x.pc + (f.o.signExtend 64 <<< 2) else x.pc + 4) fun j => (c.slice j).links) ∧
  (∀ (f : FSA) (s : State) (k : Nat) (js : List Nat) (c : Crew), s.clears (brxHead f) k js c = true → c.awake js →
    let x := s.issueOf (brxHead f) k js c
    let target := x.reg64 (lowest x.act) f.a.toNat
    ∃ c', exec (.brx f) s = .next (s.setCrew k c') ∧ c'.alike c ∧ c'.lanes = c.lanes ∧
      Went x c' (fun j => if x.acts j then target - (target % 4) else x.pc + 4) fun j => (c.slice j).links)) ∧
  (∀ (i : Instr) (h : Head) (s : State) (k : Nat) (js : List Nat) (c : Crew) (slide : Nat) (target : Dword),
    s.clears h k js c = true → c.awake js →
    let x := s.issueOf h k js c
    ((∃ f, i = .call f ∧ h = callHead f ∧ slide = 8 * f.d.toNat ∧ target = x.pc + (f.i.signExtend 64 <<< 2)) ∨
      (∃ f, i = .callx f ∧ h = callxHead f ∧ slide = 8 * f.d.toNat ∧
        target = x.reg64 (lowest x.act) f.a.toNat - x.reg64 (lowest x.act) f.a.toNat % 4)) →
    js = c.present ∧
    (c.fits (c.depth + slide) (c.linkDepth + 1) = true →
      ∃ c', exec i s = .next ((s.spillOut c c').setCrew k c') ∧ c'.sameButWindow c ∧ c'.depth = c.depth + slide ∧
        Went x c' (fun _ => target) (fun j => ⟨x.pc + 4, slide⟩ :: (c.slice j).links) ∧
        ∀ l, (c'.lane l).preds = (c.lane l).preds ∧ (c'.lane l).bad = (c.lane l).bad ∧
          ∀ r, r < max (c.depth + c.window) c.allot → tget (c'.lane l).regs r = tget (c.lane l).regs r) ∧
    (c.fits (c.depth + slide) (c.linkDepth + 1) = false → exec i s = .next (s.takeTrap k js .spill x.act 0 [] 0))) ∧
  (∀ (f : FS) (s : State) (k : Nat) (js : List Nat) (c : Crew),
    let x := s.issueOf (retHead f) k js c
    let slide := ((c.slice (js.headD 0)).links.headD ⟨0, 0⟩).slide
    (s.clears (retHead f) k js c = true → c.awake js → s.fillMarked c slide = false →
      ∃ c', exec (.ret f) s = .next (s.setCrew k c') ∧ c'.sameButWindow c ∧ c'.depth = c.depth - slide ∧
        Went x c' (fun j => ((c.slice j).links.headD ⟨0, 0⟩).pc) (fun j => if c.spillLost then (c'.slice j).links else (c.slice j).links.tail) ∧
        ∀ l, (c'.lane l).preds = (c.lane l).preds ∧
          (c.spillLost = false → x.live.getLsbD l = true → ∀ r, r < c.depth - slide + c.window →
            tget (c'.lane l).regs r = tget (c.lane l).regs r)) ∧
    (s.clears (retHead f) k js c = true → s.fillMarked c slide = true →
      exec (.ret f) s = .next (s.contain 2 (some c.block) ((tget s.blocks c.block).map (·.ctx)))) ∧
    (s.cur = some (k, js) → tget s.crews k = some c → x.misnamed (retHead f) = false → x.waits (retHead f) = false →
      x.split (retHead f) = 0 → x.act ≠ 0 → (∃ j ∈ js, (c.slice j).links = []) →
      exec (.ret f) s = .next (s.takeTrap k js .illegal x.live 0 [] 0)))

/-- R42, R43 and R133: SREG writes the special register it names to every lane that acts, zero-extended; %clock and
%time fill a pair. Under U every lane receives the lowest active lane's value. R96: LDC reads the 32-bit word at its
label through the instruction path and writes it to the register of every lane that acts; where the fetch is refused
it raises the cause with the word's address, and a mark that the walk consumes is contained. -/
def Obligations.SpecialReadsAndLiterals : Prop :=
  (∀ (f : FUSDI) (s : State) (k : Nat) (js : List Nat) (c : Crew), s.clears (sregHead f).scalar k js c = true →
    (Instr.sreg f).wf = true →
    let x := s.issueOf (sregHead f).scalar k js c
    ∃ c', exec (.sreg f) s = .next (s.setCrew k c') ∧ ∀ l, x.act.getLsbD l = true →
      let o := x.source f.u l
      let r := (c'.lane l).get c.depth f.d.toNat
      let p := (c'.lane l).get64 c.depth f.d.toNat
      match f.i.toNat with
      | 0 => r.toNat = o
      | 1 => r.toNat = o / 4
      | 2 => r = BitVec.ofNat 32 c.crewIx
      | 3 => r = BitVec.ofNat 32 (((tget s.blocks c.block).map (·.index)).getD 0)
      | 4 => r = if c.team = 0 then 0xFFFFFFFF else BitVec.ofNat 32 (c.crewIx / c.team)
      | 5 => r.toNat = c.core % 128
      | 6 => r = BitVec.ofNat 32 (c.core / 128)
      | 7 => r = BitVec.ofNat 32 (s.pkg.devs.getD (if s.pkg.split then c.core / 128 else 0) 0)
      | 8 => p = BitVec.ofNat 64 s.clk
      | 9 => p = BitVec.ofNat 64 (s.pkg.tai / 9000000)
      | 10 => r.getLsbD 31 = c.poison ∧ r.getLsbD 30 = c.rtimeout ∧ r.extractLsb' 19 11 = 0 ∧
          r.extractLsb' 16 3 = BitVec.ofNat 3 c.prio ∧ r.extractLsb' 12 4 = BitVec.ofNat 4 (c.allot / 16 - 1) ∧
          r.extractLsb' 2 10 = 0 ∧ r.getLsbD 1 = c.ucheck ∧ r.getLsbD 0 = c.stcheck
      | _ => r = BitVec.ofNat 32 c.depth) ∧
  (∀ (f : FUSDI) (s : State) (k : Nat) (js : List Nat) (c : Crew), s.clears (ldcHead f) k js c = true →
    let x := s.issueOf (ldcHead f) k js c
    match s.fetch c 0 (x.pc + (f.i.signExtend 64 <<< 2)) with
    | .word w => ∃ c', exec (.ldc f) s = .next (s.setCrew k c') ∧
        Computed x (fun _ => [f.d.toNat]) (fun _ => []) (s.setCrew k c') c' ∧
        ∀ l, x.act.getLsbD l = true → (c'.lane l).get c.depth f.d.toNat = w
    | .bad e => exec (.ldc f) s = .next (s.takeTrap k js e x.act 0
        ((lanesOf x.act).map fun l => (l, x.pc + (f.i.signExtend 64 <<< 2))) 0)
    | .walkMark => exec (.ldc f) s = .next (s.walkContain c))

/-- R317 and R320: taking a trap outside supervisor state, when the window's rise fits the spill area, writes the trap
record, saves PC, mode, predicates and the depths, raises the window by W, sets the modes to 0x0008 and the PCs to the
vector of the cause, keeps every predicate and every register of the allotment, and leaves the rest of the machine
alone but the spill area. In supervisor state, or when the rise does not fit, the block ends and the escalation
carries the cause or SPILL. BREAK and MONITOR under the debug link are taken in supervisor state too, what the
handler's own trap saved being kept (log entry 26). R97, R317 and R323: TRAP raises BREAK and SYSCALL raises SYSCALL,
with the active lanes as the mask and the code of the word; nothing else of the instruction takes effect. -/
def Obligations.TrapEntry : Prop :=
  (∀ (s : State) (k : Nat) (js : List Nat) (c : Crew) (cause : Cause) (mask : BitVec 32) (code : BitVec 13)
    (addrs : Table Dword) (writes : BitVec 32), tget s.crews k = some c → gangShape js = true →
    let pc := (c.slice (js.headD 0)).pc
    let t := s.takeTrap k js cause mask code addrs writes
    ((c.sup = none ∨ s.underDebug c cause = true) → c.fits (c.depth + c.window) c.linkDepth = true →
      ∃ c', t = (s.spillOut c c').setCrew k c' ∧ c'.nested = c.sup.toList ++ c.nested ∧ c'.trap = ⟨cause.code, mask, code, pc, addrs, writes⟩ ∧ c'.depth = c.depth + c.window ∧
        (∃ sv, c'.sup = some sv ∧ sv.slices = js ∧ sv.pcs = js.map (fun j => (c.slice j).pc) ∧
          sv.modes = js.map (fun j => (c.slice j).mode) ∧ sv.preds = c.lanes.toList.map (·.preds) ∧ sv.depth = c.depth ∧
          sv.links = js.map fun j => (c.slice j).links.length) ∧
        (∀ j ∈ js, (c'.slice j).mode = 8 ∧ (c'.slice j).pc = (s.core c.core).tvec + BitVec.ofNat 64 (64 * cause.code) ∧
          (c'.slice j).wait = .none ∧ (c'.slice j).live = (c.slice j).live ∧ (c'.slice j).links = (c.slice j).links) ∧
        (∀ j, j ∉ js → c'.slice j = c.slice j) ∧
        ∀ l, (c'.lane l).preds = (c.lane l).preds ∧
          ∀ r, r < max (c.depth + c.window) c.allot → tget (c'.lane l).regs r = tget (c.lane l).regs r) ∧
    (c.sup ≠ none → s.underDebug c cause = false → t = (s.endBlock c.block).emit (.escalate (s.ctxOf c) cause.code pc)) ∧
    ((c.sup = none ∨ s.underDebug c cause = true) → c.fits (c.depth + c.window) c.linkDepth = false →
      t = (s.endBlock c.block).emit (.escalate (s.ctxOf c) (Cause.code .spill) pc))) ∧
  (∀ (f : FSI) (s : State) (k : Nat) (js : List Nat) (c : Crew),
    (s.clears (trapHead f) k js c = true →
      exec (.trap f) s = .next (s.takeTrap k js .brk (s.issueOf (trapHead f) k js c).act f.i [] 0)) ∧
    (s.clears (syscallHead f) k js c = true →
      exec (.syscall f) s = .next (s.takeTrap k js .syscall (s.issueOf (syscallHead f) k js c).act f.i [] 0)))

/-- R318 and R321: ERET 0, 1 and 2 in supervisor state restore each slice's mode and each lane's predicates, lower the window
by W with its fill, set the PC to the trap PC, to it plus 4, or to the pair xa without its lowest two bits, and leave
supervisor state, or go back to the handler that the trap was taken in (log entry 26); ERET 3 ends the block. Outside supervisor state ERET raises PROTECT, and with unbalanced depths ILLEGAL. -/
def Obligations.TrapReturn : Prop :=
  ∀ (f : FSDA) (s : State) (k : Nat) (js : List Nat) (c : Crew), (Instr.eret f).wf = true →
    let x := s.issueOf (eretHead f) k js c
    (s.clears (eretHead f) k js c = true →
      (c.sup = none → exec (.eret f) s = .next (s.takeTrap k js .protect x.act 0 [] 0)) ∧
      (∀ sv, c.sup = some sv → f.d = 3 → exec (.eret f) s = .next (s.endBlock c.block)) ∧
      (∀ sv, c.sup = some sv → f.d ≠ 3 → s.fillMarked c c.window = false → gangShape sv.slices = true →
        sv.pcs.length = sv.slices.length → sv.modes.length = sv.slices.length →
        ∃ c', exec (.eret f) s = .next (s.setCrew k c') ∧ c'.sup = c.nested.head? ∧ c'.nested = c.nested.drop 1 ∧
          c'.depth = c.depth - c.window ∧ (∀ i (hi : i < sv.slices.length),
            (c'.slice sv.slices[i]).mode = sv.modes.getD i 0 ∧ (c'.slice sv.slices[i]).pc =
              if f.d = 0 then sv.pcs.getD i 0 else if f.d = 1 then sv.pcs.getD i 0 + 4
              else x.reg64 (lowest x.act) f.a.toNat - x.reg64 (lowest x.act) f.a.toNat % 4) ∧
          ∀ l, (c.live sv.slices).getLsbD l = true → (c'.lane l).preds = sv.preds.getD l 0)) ∧
    (s.cur = some (k, js) → tget s.crews k = some c → x.misnamed (eretHead f) = false → x.waits (eretHead f) = false →
      x.act ≠ 0 → x.unbalanced = true → exec (.eret f) s = .next (s.takeTrap k js .illegal x.live 0 [] 0))

/-- R38, R39, R88 and R89: NOP changes nothing but the PC; MODE and MODEX put the immediate, or bits 12 to 0 of the
lowest live lane's register, into the mode register of every slice of the gang, whatever the guard, and change nothing
else. R43 and R134: SWREG writes ucheck and stcheck of the crew's status from bits 1 and 0 of its register and clears
poison where bit 31 is 1 and hardware has not set it at that clock; every other field of the crew stays. -/
def Obligations.ModeAndStatusWrites : Prop :=
  ((∀ (f : FS) (s : State) (k : Nat) (js : List Nat) (c : Crew), s.clears (nopHead f) k js c = true →
    let x := s.issueOf (nopHead f) k js c
    ∃ c', exec (.nop f) s = .next (s.setCrew k c') ∧ Moved x c' ∧ c'.alike c ∧ c'.lanes = c.lanes) ∧
  (∀ (f : FSI) (s : State) (k : Nat) (js : List Nat) (c : Crew), s.clears (modeHead f) k js c = true →
    let x := s.issueOf (modeHead f) k js c
    ∃ c', exec (.mode f) s = .next (s.setCrew k c') ∧ c'.alike c ∧ c'.lanes = c.lanes ∧
      ∀ j, c'.slice j = if j ∈ js then { x.advance j (c.slice j) with mode := f.i } else c.slice j) ∧
  (∀ (f : FSA) (s : State) (k : Nat) (js : List Nat) (c : Crew), s.clears (modexHead f) k js c = true →
    let x := s.issueOf (modexHead f) k js c
    let m := (x.reg (lowest x.live) f.a.toNat).extractLsb' 0 13
    modeLegal m = true ∧ ∃ c', exec (.modex f) s = .next (s.setCrew k c') ∧ c'.alike c ∧ c'.lanes = c.lanes ∧
      ∀ j, c'.slice j = if j ∈ js then { x.advance j (c.slice j) with mode := m } else c.slice j)) ∧
  (∀ (f : FSDI) (s : State) (k : Nat) (js : List Nat) (c : Crew), s.clears (swregHead f) k js c = true →
    let x := s.issueOf (swregHead f) k js c
    let v := x.reg (lowest x.act) f.d.toNat
    ∃ c', exec (.swreg f) s = .next (s.setCrew k c') ∧ Moved x c' ∧ c'.lanes = c.lanes ∧
      c'.poison = (c.poison && (!v.getLsbD 31 || c.poisonAt == s.clk)) ∧ c'.ucheck = v.getLsbD 1 ∧ c'.stcheck = v.getLsbD 0 ∧
      c'.alike { c with poison := c'.poison, ucheck := c'.ucheck, stcheck := c'.stcheck })

/-- R121, R123 to R127: slices that act at EXIT never issue again, at REGANG and SYNCC wait at their own instruction,
the others go on at PC + 4 and part from them; the steps that the crew then calls for are to come. YIELD moves the
whole gang on and makes it not ready for one clock; SLEEP until 16 × n clocks have passed. Lanes and all else are
untouched. R142 and R143: ROLESW of a crew whose window and link stack are at 0 and whose results have landed checks
the request against the block's reservation (ALLOT) and its priority against the effective one of its launch at the
block's binding (PROTECT). A request that fits the crew's allotment takes effect at once: the allotment and priority
change, registers below both allotments keep their values, registers above read 0, and the whole crew goes on as one
gang at the entry. A larger one waits for its grant. -/
def Obligations.SliceControl : Prop :=
  (∀ (s : State) (k : Nat) (js : List Nat) (c : Crew),
    (∀ (i : Instr) (h : Head) (g : Nat → Slice → Slice),
      ((∃ f, i = .exit f ∧ h = exitHead f ∧ g = fun _ sl => { sl with exited := true }) ∨
        (∃ f, i = .regang f ∧ h = regangHead f ∧ g = fun j sl => { sl with pc := (c.slice j).pc, wait := .regang f.m }) ∨
        (∃ f, i = .syncc f ∧ h = synccHead f ∧ g = fun j sl => { sl with pc := (c.slice j).pc, wait := .sync })) →
      s.clears h k js c = true → c.awake js →
      let x := s.issueOf h k js c
      ∃ c', exec i s = .next ((s.setCrew k c').afterExit k) ∧ c'.alike c ∧ c'.lanes = c.lanes ∧
        (∀ j ∈ js, ∃ n, c'.slice j = { (if x.acts j then g j (x.advance j (c.slice j)) else x.advance j (c.slice j)) with gang := n }) ∧
        (∀ p ∈ js, ∀ q ∈ js, (c'.slice p).gang = (c'.slice q).gang ↔
          ((c'.slice p).pc = (c'.slice q).pc ∧ x.acts p = x.acts q)) ∧
        ∀ j, j ∉ js → c'.slice j = c.slice j) ∧
    (∀ f, s.clears (yieldHead f) k js c = true →
      let x := s.issueOf (yieldHead f) k js c
      ∃ c', exec (.yield f) s = .next (s.setCrew k c') ∧ c'.alike c ∧ c'.lanes = c.lanes ∧
        ∀ j, c'.slice j = if j ∈ js then
          { x.advance j (c.slice j) with readyAt := s.clk + 1 + max 1 f.s.toNat, since := s.clk + 1 + max 1 f.s.toNat }
          else c.slice j) ∧
    (∀ f, s.clears (sleepHead f) k js c = true → f.i ≠ 0 →
      let x := s.issueOf (sleepHead f) k js c
      let wake := s.clk + 16 * f.i.toNat
      ∃ c', exec (.sleep f) s = .next ((s.setCrew k c').later ⟨wake, none, .sleepExpiry k (js.headD 0)⟩) ∧
        c'.alike c ∧ c'.lanes = c.lanes ∧
        ∀ j, c'.slice j = if j ∈ js then
          { x.advance j (c.slice j) with wait := .sleep wake, since := max (s.clk + 1 + f.s.toNat) wake } else c.slice j) ∧
    (∀ f, s.clears (sleepHead f) k js c = true → f.i = 0 →
      exec (.sleep f) s = .next (s.setCrew k ((s.issueOf (sleepHead f) k js c).advanced c)))) ∧
  (∀ (f : FSA) (s : State) (k : Nat) (js : List Nat) (c : Crew), s.clears (roleswHead f) k js c = true →
    let x := s.issueOf (roleswHead f) k js c
    let l := lowest x.act
    let n := (x.reg l f.a.toNat).toNat
    let prio := (x.reg l (f.a.toNat + 1)).toNat
    let room := ((tget s.blocks c.block).map fun b => b.crews * b.regs).getD 0
    let top := ((tget s.blocks c.block).map fun b => b.effs.getD 6 0).getD 7
    js = c.present ∧ c.depth = 0 ∧ n % 16 = 0 ∧ 16 ≤ n ∧ n ≤ 256 ∧ prio ≤ 7 ∧
    (room < s.otherClaims c.block k + n → exec (.rolesw f) s = .next (s.takeTrap k js .allot x.act 0 [] 0)) ∧
    (s.otherClaims c.block k + n ≤ room → top < prio → exec (.rolesw f) s = .next (s.takeTrap k js .protect x.act 0 [] 0)) ∧
    (s.otherClaims c.block k + n ≤ room → prio ≤ top → (∀ e ∈ s.pends, e.2.crew ≠ k) →
      ∃ c' t, exec (.rolesw f) s = .next (t.pushAll (t.roleSteps c.block)) ∧ tget t.crews k = some c' ∧
        (c.allot < n → c'.allot = c.allot ∧ c'.lanes = c.lanes ∧ (∀ j ∈ js, (c'.slice j).wait = .rolesw) ∧
          ∃ r, c'.role = some r ∧ r.allot = n ∧ r.prio = prio) ∧
        (n ≤ c.allot → t = s.setCrew k c' ∧ c'.allot = n ∧ c'.prio = prio ∧
          (∀ j ∈ js, (c'.slice j).gang = js.headD 0 ∧ (c'.slice j).wait = .none ∧
            (c'.slice j).pc = x.reg64 l (f.a.toNat + 2) - x.reg64 l (f.a.toNat + 2) % 4) ∧
          ∀ i < 32, (∀ r < n, tget (c'.lane i).regs r = tget (c.lane i).regs r) ∧
            ∀ r, n ≤ r → tget (c'.lane i).regs r = none)))

namespace Sys2Proof.Machine

/-- How an instruction whose lanes access global memory does so (R179): what it states, the access, whether it counts as a
write, the width and address of each lane, and the lanes that access. -/
structure AccessForm where
  head : Head
  kind : AccKind
  write : Bool
  width : Issue → Nat → Nat
  addr : Issue → Nat → Dword
  lanes : Issue → List Nat

/-- LD of n bytes. -/
def loadAccess (f : FUSDAI) (n : Nat) : AccessForm :=
  ⟨loadHead f n, .read, false, fun _ _ => n, fun x l => x.reg64 l f.a.toNat + BitVec.ofInt 64 (f.i.toInt * n),
    fun x => if f.u then [lowest x.act] else lanesOf x.act⟩

/-- ST of n bytes. -/
def storeAccess (f : FSDAI) (n : Nat) : AccessForm :=
  ⟨storeHead f n, .write, true, fun _ _ => n, fun x l => x.reg64 l f.a.toNat + BitVec.ofInt 64 (f.i.toInt * n),
    fun x => lanesOf x.act⟩

/-- The atomics and RED: 8 bytes under the 64-bit etypes, else 4. -/
def atomicAccess (h : Head) (f : FSDAC) : AccessForm :=
  ⟨h, .atomic (f.c == 4), true, fun x l => if etPair (modeEtype (x.mode l)) then 8 else 4, fun x l => x.reg64 l f.a.toNat,
    fun x => lanesOf x.act⟩

/-- The loads: fields, bytes, and whether a narrow value is sign-extended. -/
def loadForm : Instr → Option (FUSDAI × Nat × Bool)
  | .ldU8 f => some (f, 1, false)
  | .ldS8 f => some (f, 1, true)
  | .ldU16 f => some (f, 2, false)
  | .ldS16 f => some (f, 2, true)
  | .ldB32 f => some (f, 4, false)
  | .ldB64 f => some (f, 8, false)
  | .ldB128 f => some (f, 16, false)
  | _ => none

/-- The stores with their bytes. -/
def storeForm : Instr → Option (FSDAI × Nat)
  | .stB8 f => some (f, 1)
  | .stB16 f => some (f, 2)
  | .stB32 f => some (f, 4)
  | .stB64 f => some (f, 8)
  | .stB128 f => some (f, 16)
  | _ => none

/-- ATOM and ATOMCAS with their operation. -/
def atomForm : Instr → Option (FSDAC × AtomOp)
  | .atomAdd f => some (f, .add)
  | .atomMin f => some (f, .min)
  | .atomMax f => some (f, .max)
  | .atomAnd f => some (f, .and)
  | .atomOr f => some (f, .or)
  | .atomXor f => some (f, .xor)
  | .atomExch f => some (f, .exch)
  | .atomcas f => some (f, .cas)
  | _ => none

/-- RED with its operation. -/
def redForm : Instr → Option (FSDAC × AtomOp)
  | .redAdd f => some (f, .add)
  | .redMin f => some (f, .min)
  | .redMax f => some (f, .max)
  | .redAnd f => some (f, .and)
  | .redOr f => some (f, .or)
  | .redXor f => some (f, .xor)
  | _ => none

/-- REDF and REDS: the reduction an etype selects, the etypes that are ILLEGAL, and whether a stream is needed. -/
def streamForm : Instr → Option (FSDAC × (Nat → RedKind) × (Nat → Bool) × Bool)
  | .redfAdd f => some (f, redfKind .add, etFp8, true)
  | .redfMin f => some (f, redfKind .min, etFp8, true)
  | .redfMax f => some (f, redfKind .max, etFp8, true)
  | .reds f => some (f, fun e => .sat (etElem e), fun e => decide (4 ≤ e), false)
  | _ => none

/-- Every instruction whose lanes access global memory. -/
def accessForm (i : Instr) : Option AccessForm :=
  match loadForm i, storeForm i, atomForm i, redForm i, streamForm i with
  | some (f, n, _), _, _, _, _ => some (loadAccess f n)
  | _, some (f, n), _, _, _ => some (storeAccess f n)
  | _, _, some (f, op), _, _ => some (atomicAccess (atomicHead f op) f)
  | _, _, _, some (f, _), _ => some (atomicAccess (reduceHead f) f)
  | _, _, _, _, some (f, kind, bad, need) =>
    some { atomicAccess (reduceStreamHead f kind bad need) f with
      width := fun x l => redWidth (kind (modeEtype (x.mode l))) false }
  | _, _, _, _, _ => none

/-- Every lane of an access passes steps 1 to 4 of R179, at the place given. -/
def AccessForm.passes (F : AccessForm) (x : Issue) (at_ : Nat → Loc) : Prop :=
  ∀ l ∈ F.lanes x, x.check F.kind (F.width x l) l (F.addr x l) = .ok (at_ l)

/-- No lane's place is a peer's. -/
def AccessForm.near (F : AccessForm) (x : Issue) (at_ : Nat → Loc) : Prop := ∀ l ∈ F.lanes x, isPeer (at_ l).pa = false

/-- No lane's bytes meet a marked granule. -/
def AccessForm.clean (F : AccessForm) (x : Issue) (at_ : Nat → Loc) : Prop :=
  ∀ l ∈ F.lanes x, x.s.marked (at_ l).pa (F.width x l) = false

/-- The lanes' places carry one key, and the 16-byte blocks they meet are held under it, or under none. -/
def AccessForm.oneKey (F : AccessForm) (x : Issue) (at_ : Nat → Loc) : Prop :=
  (∀ l ∈ F.lanes x, ∀ m ∈ F.lanes x, (at_ l).key = (at_ m).key) ∧
  ∀ l ∈ F.lanes x, ∀ b ∈ cipherBlocks (at_ l).pa (F.width x l), ∀ w, tget x.s.gkeys b = some w → w = x.s.keyOf (at_ l).key

/-- The load cache of a core holds, of the lines that the lanes' places meet, under their key none or memory's own bytes. -/
def AccessForm.coherent (F : AccessForm) (x : Issue) (at_ : Nat → Loc) : Prop :=
  ∀ l ∈ F.lanes x, ∀ line, tget (x.s.core x.c.core).lcache ((at_ l).pa / 128) = some line → line.key = (at_ l).key →
    lineBytes line.bytes ((at_ l).pa % 128) (F.width x l) = memBytes x.s.mem (at_ l).pa (F.width x l)

/-- No error found by a scrub read waits to be written in a granule that the lanes' places meet. -/
def AccessForm.unscrubbed (F : AccessForm) (x : Issue) (at_ : Nat → Loc) : Prop :=
  ∀ l ∈ F.lanes x, x.s.scrubbed (at_ l).pa (F.width x l) (fun _ => true) = false

/-- A byte lies in a lane's bytes. -/
def AccessForm.covers (F : AccessForm) (x : Issue) (at_ : Nat → Loc) (l a : Nat) : Prop :=
  (at_ l).pa ≤ a ∧ a < (at_ l).pa + F.width x l

/-- The low n bytes that consecutive window registers of a lane hold, lowest first. -/
def regBytes (get : Nat → Word) (d n : Nat) : List Byte :=
  (List.range n).map fun i => (get (d + i / 4)).extractLsb' (8 * (i % 4)) 8

end Sys2Proof.Machine

/-! ### Global memory -/

/-- R51, R58, R179 and R345: where the walk of some lane's access consumes a mark, the mark is contained; else, when some lanes
do not pass steps 1 to 4, the cause that ranks first is raised with every lane that holds it, each with its address, and
nothing is accessed. A misaligned address is MISALIGN and an access that meets the crew's spill area PROTECT before any
translation. That an atomic's lanes count as writes is the model's reading (log entry 28). -/
def Obligations.AccessTraps : Prop :=
  ∀ (i : Instr) (F : AccessForm) (s : State) (k : Nat) (js : List Nat) (c : Crew), accessForm i = some F →
    s.clears F.head k js c = true →
    let x := s.issueOf F.head k js c
    let r (l : Nat) := x.check F.kind (F.width x l) l (F.addr x l)
    (∀ l, (F.addr x l).toNat % F.width x l ≠ 0 → r l = .bad .misalign) ∧
    (∀ l, (F.addr x l).toNat % F.width x l = 0 → c.inSpill (F.addr x l) (F.width x l) = true → r l = .bad .protect) ∧
    ((∃ l ∈ F.lanes x, r l = .walkMark) → exec i s = .next (s.walkContain c)) ∧
    ∀ e, (∀ l ∈ F.lanes x, r l ≠ .walkMark) → (∃ l ∈ F.lanes x, r l = .bad e) →
      (∀ l ∈ F.lanes x, ∀ d, r l = .bad d → d.before e = false) →
      let lanes := (F.lanes x).filter fun l => r l == .bad e
      let m := maskOf lanes.contains
      exec i s = .next (s.takeTrap k js e m 0 (lanes.map fun l => (l, F.addr x l)) (if F.write then m else 0))

/-- R51, R54, R168, R180, R182, R215, R353 and R363: LD whose lanes all pass their checks, at places of the own package that
hold no mark, completes: each lane that acts receives its bytes, little-endian, an 8- or 16-bit value extended to 32 bits.
They are the bytes of memory where the core's load cache holds no other copy. Memory, its marks, all other registers and
every other crew stay. A marked granule raises DATAERR for the lanes that meet one. Where lanes' places are a peer's, of
which the core returns no copy and whose page no ticket of the slice holds, each of them sends its owner a read of its bytes
and the gang waits at the LD with its registers as they were. -/
def Obligations.Loads : Prop :=
  ∀ (i : Instr) (f : FUSDAI) (n : Nat) (sg : Bool) (s : State) (k : Nat) (js : List Nat) (c : Crew) (at_ : Nat → Loc),
    loadForm i = some (f, n, sg) → s.clears (loadHead f n) k js c = true →
    let F := loadAccess f n
    let x := s.issueOf (loadHead f n) k js c
    F.passes x at_ →
    (F.near x at_ → F.clean x at_ → ∃ t c', exec i s = .next t ∧ t.mem = s.mem ∧ t.marks = s.marks ∧ t.gkeys = s.gkeys ∧
      t.crews = (s.setCrew k c').crews ∧ Moved x c' ∧ c'.alike c ∧
      LanesBut x.act (fun _ => (dataGrp n f.d).list.map (c.depth + ·)) (fun _ => []) c c' ∧
      ∀ l, x.act.getLsbD l = true → ∃ bs : List Byte, bs.length = n ∧
        (F.oneKey x at_ → F.coherent x at_ → bs = memBytes s.mem (at_ (x.source f.u l)).pa n) ∧
        (4 ≤ n → regBytes ((c'.lane l).get c.depth) f.d.toNat n = bs) ∧
        (n < 4 → ((c'.lane l).get c.depth f.d.toNat).toInt =
          (if sg then (BitVec.ofNat (8 * n) (bytesNat bs)).toInt else (bytesNat bs : Int)))) ∧
    (F.near x at_ → ∀ bad, bad = (F.lanes x).filter (fun l => s.marked (at_ l).pa n) → bad ≠ [] →
      exec i s = .next (s.takeTrap k js .dataerr (maskOf bad.contains) 0 (bad.map fun l => (l, F.addr x l)) 0)) ∧
    (¬ F.near x at_ → x.ticketed ((F.lanes x).map fun l => (l, at_ l)) = false →
      (∀ l ∈ F.lanes x, isPeer (at_ l).pa = true → x.s.peerCopy c.core (at_ l).pa n l = none) →
      ∃ t c' id, exec i s = .next t ∧ t.mem = s.mem ∧ t.marks = s.marks ∧ tget t.crews k = some c' ∧ c'.lanes = c.lanes ∧
        (∀ j ∈ js, (c'.slice j).wait = .peer id ∧ (c'.slice j).pc = (c.slice j).pc) ∧
        ∀ l ∈ F.lanes x, isPeer (at_ l).pa = true → ∃ tag r, tget t.reqs tag = some r ∧ r.who = .pend id l ∧ r.kind = .read ∧
          r.pa = (at_ l).pa ∧ r.n = n ∧ r.va = F.addr x l)

/-- R178, R180 to R182, R168 and R393: ST whose lanes all pass their checks, at places of the own package, completes, lanes
in ascending order: each stored byte of a clean granule holds the byte of the highest lane that stores there, and every
byte outside the lanes' bytes reads as before, where the 16-byte blocks they meet are held under their own keys. A block held
under another key changes as a whole, and no byte outside those blocks changes. A store that meets a mark is dropped.
Registers, predicates and marks that no scrub read set stay. -/
def Obligations.Stores : Prop :=
  ∀ (i : Instr) (f : FSDAI) (n : Nat) (s : State) (k : Nat) (js : List Nat) (c : Crew) (at_ : Nat → Loc),
    storeForm i = some (f, n) → s.clears (storeHead f n) k js c = true →
    let F := storeAccess f n
    let x := s.issueOf (storeHead f n) k js c
    F.passes x at_ → F.near x at_ →
    ∃ t c', exec i s = .next t ∧ tget t.crews k = some c' ∧ Moved x c' ∧ c'.lanes = c.lanes ∧
      (∀ a, (∀ l ∈ lanesOf x.act, ∀ b ∈ cipherBlocks (at_ l).pa n, a / 16 ≠ b) → memGet t.mem a = memGet s.mem a) ∧
      (F.oneKey x at_ → ∀ a, (∀ l ∈ lanesOf x.act, ¬ F.covers x at_ l a) → memGet t.mem a = memGet s.mem a) ∧
      (F.unscrubbed x at_ → t.marks = s.marks ∧
        ∀ l ∈ lanesOf x.act, ∀ b < n, s.marked (at_ l).pa n = false →
          (∀ m ∈ lanesOf x.act, l < m → s.marked (at_ m).pa n = false →
            (∀ g ∈ cipherBlocks (at_ m).pa n, g ≠ ((at_ l).pa + b) / 16) ∨
              ((at_ m).key = (at_ l).key ∧ ¬ F.covers x at_ m ((at_ l).pa + b))) →
          memGet t.mem ((at_ l).pa + b) = (regBytes (x.reg l) f.d.toNat n).getD b 0)

/-- R176, R180, R187, R188 and R190: an atomic or RED whose lanes all pass their checks, at places of the own package
that are clean, completes: its lanes act one after another in ascending order, each reading its location and writing
the new value of its operation there; ATOM returns what the lane read, RED returns nothing. R176 and R187: one atomic.
It reads the location's bytes, and writes there, and nowhere else, the value its operation gives: the wrapped sum, the
smaller or larger as the etype reads them, the bitwise results, the operand, or for a compare-and-swap the operand
when the value read equals the comparand. -/
def Obligations.Atomics : Prop :=
  (∀ (i : Instr) (f : FSDAC) (op : AtomOp) (red : Bool) (s : State) (k : Nat) (js : List Nat) (c : Crew) (at_ : Nat → Loc),
    (if red then redForm i else atomForm i) = some (f, op) →
    let h := if red then reduceHead f else atomicHead f op
    let F := atomicAccess h f
    let x := s.issueOf h k js c
    s.clears h k js c = true → F.passes x at_ → F.near x at_ → F.clean x at_ → F.unscrubbed x at_ →
    let arg (l : Nat) := x.atomArg l (op == .cas) f.d
    ∃ (u : Nat → State) (old : Nat → List Byte) (c' : Crew),
      u 0 = x.tlbFills F.kind ((lanesOf x.act).map fun l => (l, at_ l)) (fun l => x.reg64 l f.a.toNat) ∧
      (∀ p (hp : p < (lanesOf x.act).length), let l := (lanesOf x.act)[p]
        (u (p + 1), old l) = (u p).atomicAt c.core (at_ l) op (arg l).e (f.c == 0) (arg l).val.toNat (arg l).cmp.toNat l) ∧
      exec i s = .next ((u (lanesOf x.act).length).setCrew k c') ∧ Moved x c' ∧
      (red = true → c'.lanes = c.lanes) ∧
      (red = false →
        LanesBut x.act (fun l => (List.range (F.width x l / 4)).map fun p => c.depth + f.d.toNat + p) (fun _ => []) c c' ∧
        ∀ l, x.act.getLsbD l = true → regBytes ((c'.lane l).get c.depth) f.d.toNat (F.width x l) = old l)) ∧
  (∀ (s : State) (core : Nat) (loc : Loc) (op : AtomOp) (e : IElem) (block : Bool) (val cmp ch : Nat),
    let n := elemBytes e
    let w := 8 * n
    s.marked loc.pa n = false → s.scrubbed loc.pa n (fun _ => true) = false →
    (∀ b ∈ cipherBlocks loc.pa n, ∀ key, tget s.gkeys b = some key → key = s.keyOf loc.key) →
    (block = true → ∀ line, tget (s.core core).lcache (loc.pa / 128) = some line → line.key = loc.key →
      lineBytes line.bytes (loc.pa % 128) n = memBytes s.mem loc.pa n) →
    let r := s.atomicAt core loc op e block val cmp ch
    let old := memNat s.mem loc.pa n
    let sg := elemSigned e
    r.2 = memBytes s.mem loc.pa n ∧
    (∀ a, a < loc.pa ∨ loc.pa + n ≤ a → memGet r.1.mem a = memGet s.mem a) ∧
    memNat r.1.mem loc.pa n =
      match op with
      | .add => (old + val) % 2 ^ w
      | .min => if readInt sg w val < readInt sg w old then val % 2 ^ w else old
      | .max => if readInt sg w old < readInt sg w val then val % 2 ^ w else old
      | .and => old &&& (val % 2 ^ w)
      | .or => old ||| (val % 2 ^ w)
      | .xor => old ^^^ (val % 2 ^ w)
      | .exch => val % 2 ^ w
      | .cas => if old = cmp % 2 ^ w then val % 2 ^ w else old)

/-- R79, R81 and R191 to R194: REDF and REDS whose lanes all pass their checks, at places of the own package, complete and
change no register and no memory: they send contributions to the home slices, one for each line and index, which hold between
them each lane's operand once, under its line, index and stream, and is the last when an operand of it is. Unless the element format or its stream is refused: ILLEGAL. -/
def Obligations.ReductionStreams : Prop :=
  ∀ (i : Instr) (f : FSDAC) (kind : Nat → RedKind) (bad : Nat → Bool) (need : Bool) (s : State) (k : Nat) (js : List Nat)
    (c : Crew) (at_ : Nat → Loc), streamForm i = some (f, kind, bad, need) →
    let h := reduceStreamHead f kind bad need
    let F := { atomicAccess h f with width := fun x l => redWidth (kind (modeEtype (x.mode l))) false }
    let x := s.issueOf h k js c
    (s.cur = some (k, js) → tget s.crews k = some c → x.misnamed h = false → x.waits h = false → x.act ≠ 0 →
      ((∃ j ∈ x.actors, bad (modeEtype (c.slice j).mode) = true) ∨
        (need = true ∧ (x.reg (lowest x.act) (f.a.toNat + 2)).extractLsb' 0 16 = 0)) →
      exec i s = .next (s.takeTrap k js .illegal x.live 0 [] 0)) ∧
    (s.clears h k js c = true → F.passes x at_ → F.near x at_ →
    ∃ (t : State) (c' : Crew) (cs : List Contribution), exec i s = .next t ∧ tget t.crews k = some c' ∧ Moved x c' ∧ c'.alike c ∧ c'.lanes = c.lanes ∧
      t.mem = s.mem ∧ t.marks = s.marks ∧ t.due = s.due ++ cs.map Event.reductionContribution ∧
      (cs.Pairwise fun p q => p.line ≠ q.line ∨ p.index ≠ q.index) ∧
      (∀ q ∈ cs, q.slice = s.homeOf (q.line * 128) ∧ q.coll = false ∧ (∀ e ∈ q.lanes, e.poison = false) ∧
        q.stream = ((x.reg (lowest x.act) (f.a.toNat + 2)).extractLsb' 0 16).toNat) ∧
      (∀ l ∈ lanesOf x.act, ∃ q ∈ cs, q.line = (at_ l).pa / 128 ∧
        q.index = (x.reg l (f.a.toNat + 3)).toNat % 2 ^ 31 ∧ ⟨kind (modeEtype (x.mode l)), (at_ l).pa % 128, match kind (modeEtype (x.mode l)) with
          | .float .. => (x.reg l f.d.toNat).zeroExtend 64
          | _ => (x.atomArg l false f.d).val, false⟩ ∈ q.lanes) ∧
      (∀ q ∈ cs, q.last = true ↔ ∃ l ∈ lanesOf x.act, q.line = (at_ l).pa / 128 ∧
        q.index = (x.reg l (f.a.toNat + 3)).toNat % 2 ^ 31 ∧ (x.reg l (f.a.toNat + 3)).getLsbD 31 = true) ∧
      (cs.map fun q => q.lanes.length).sum = (lanesOf x.act).length)

namespace Sys2Proof.Machine

/-- WAITA with its condition (R198). -/
def waitForm : Instr → Option (FSDAC × (Int → Int → Bool))
  | .waitaEq f => some (f, fun a b => decide (a = b))
  | .waitaNe f => some (f, fun a b => decide (a ≠ b))
  | .waitaGe f => some (f, fun a b => decide (b ≤ a))
  | .waitaLt f => some (f, fun a b => decide (a < b))
  | _ => none

/-- LDT: fields, bytes, and whether a narrow value is sign-extended. -/
def loadTileForm : Instr → Option (FUSDAB × Nat × Bool)
  | .ldtU8 f => some (f, 1, false)
  | .ldtS8 f => some (f, 1, true)
  | .ldtU16 f => some (f, 2, false)
  | .ldtS16 f => some (f, 2, true)
  | .ldtB32 f => some (f, 4, false)
  | .ldtB64 f => some (f, 8, false)
  | .ldtB128 f => some (f, 16, false)
  | _ => none

/-- STT with its bytes. -/
def storeTileForm : Instr → Option (FSDAB × Nat)
  | .sttB8 f => some (f, 1)
  | .sttB16 f => some (f, 2)
  | .sttB32 f => some (f, 4)
  | .sttB64 f => some (f, 8)
  | .sttB128 f => some (f, 16)
  | _ => none

/-- TATOM with its operation. -/
def tileAtomForm : Instr → Option (FSDAB × AtomOp)
  | .tatomAdd f => some (f, .add)
  | .tatomMin f => some (f, .min)
  | .tatomMax f => some (f, .max)
  | .tatomAnd f => some (f, .and)
  | .tatomOr f => some (f, .or)
  | .tatomXor f => some (f, .xor)
  | .tatomExch f => some (f, .exch)
  | .tatomCas f => some (f, .cas)
  | _ => none

/-- TALLOC: fields, operand store or tile memory, and Morton layout. -/
def allocForm : Instr → Option (FSDAB × Bool × Bool)
  | .tallocTm f => some (f, false, false)
  | .tallocTmz f => some (f, false, true)
  | .tallocOs f => some (f, true, false)
  | .tallocOsz f => some (f, true, true)
  | _ => none

/-- How an instruction whose lanes access a tile does so: what it states, the handle and offset registers, the width of each
lane, the lanes that access, and whether it reads. -/
structure TileForm where
  head : Head
  handle : BitVec 6
  offset : BitVec 6
  width : Issue → Nat → Nat
  lanes : Issue → List Nat
  reads : Bool

/-- Every instruction whose lanes access a tile. -/
def tileForm (i : Instr) : Option TileForm :=
  match loadTileForm i, storeTileForm i, tileAtomForm i with
  | some (f, n, _), _, _ =>
    some ⟨loadTileHead f n, f.a, f.b, fun _ _ => n, fun x => if f.u then [lowest x.act] else lanesOf x.act, true⟩
  | _, some (f, n), _ => some ⟨storeTileHead f n, f.a, f.b, fun _ _ => n, fun x => lanesOf x.act, false⟩
  | _, _, some (f, op) =>
    some ⟨tileAtomicHead f op, f.a, f.b, fun x l => if etPair (modeEtype (x.mode l)) then 8 else 4, fun x => lanesOf x.act, true⟩
  | _, _, _ => none

/-- The handle an access names: its register in the lowest active lane. -/
def TileForm.named (F : TileForm) (x : Issue) : Nat := (x.reg (lowest x.act) F.handle.toNat).toNat

/-- The live tile-memory tile of a block under a number (R161, R162). -/
def Block.tileMem (b : Block) (h : Nat) (t : Tile) : Prop :=
  0 < h ∧ h < 256 ∧ tget b.tiles h = some t ∧ t.freeing = false ∧ t.os = false

/-- A lane's access lies in the tile at a multiple of its width (R161). -/
def TileForm.inside (F : TileForm) (x : Issue) (t : Tile) (l : Nat) : Prop :=
  (x.reg l F.offset.toNat).toNat + F.width x l ≤ t.rows * t.rowBytes ∧
    (x.reg l F.offset.toNat).toNat % F.width x l = 0

/-- The n bytes that a tile holds from a logical offset on (R159). -/
def Tile.bytes (t : Tile) (off n : Nat) : List Byte := (List.range n).map fun i => memGet t.data (t.place (off + i))

end Sys2Proof.Machine

/-! ### Waits, fences and caches -/

/-- R198 and R199: WAITA of a word of the own package that passes the checks of a read, and is clean, completes at
once when its condition holds, and writes the observed value to the result registers of every lane that acts. Else the
gang sleeps at it, with a monitor armed when one of the core's 64 is free, and memory and lanes stay. A marked word
raises DATAERR. R202 to R206: FENCE completes once a release owes nothing, and else its gang waits; an acquire at
cluster scope or wider leaves no line in the core's load cache, and with the engines bit no unfenced tile write of the
slices that act is left. PREF completes whatever its address. CCTL whose lines all translate completes, and .inv and
.flush leave no load-cache copy of a named line. None of them changes memory, a register or a predicate. -/
def Obligations.WaitsAndFences : Prop :=
  (∀ (i : Instr) (f : FSDAC) (cond : Int → Int → Bool) (s : State) (k : Nat) (js : List Nat) (c : Crew) (loc : Loc),
    waitForm i = some (f, cond) → s.clears (waitAHead f) k js c = true →
    let x := s.issueOf (waitAHead f) k js c
    let e := modeEtype (x.mode (lowest x.act))
    let n := if etPair e then 8 else 4
    let va := x.reg64 (lowest x.act) f.a.toNat
    let seen := if f.c = 0 then s.loadBytes c.core loc n 0 else s.bytesAt loc n
    let against := if etPair e then (x.reg64 (lowest x.act) f.d.toNat).toNat else (x.reg (lowest x.act) f.d.toNat).toNat
    let holds := cond (readInt (etSigned e) (8 * n) (bytesNat seen)) (readInt (etSigned e) (8 * n) against)
    let seenAt := if f.c ≠ 0 then s.lcacheDrop c.core loc.pa n
      else if (tget (s.core c.core).lcache (loc.pa / 128)).isSome then s.lcacheFill c.core loc seen
      else s.modCore c.core fun k => { k with olds := dropOlds k.olds loc.pa n }
    x.check (.watch (f.c == 4)) n (lowest x.act) va = .ok loc → isPeer loc.pa = false →
    (s.marked loc.pa n = true →
      exec i s = .next (s.takeTrap k js .dataerr (maskOf (lanesOf x.act).contains) 0 ((lanesOf x.act).map fun l => (l, va)) 0)) ∧
    (s.marked loc.pa n = false → holds = true → ∃ c', exec i s = .next (seenAt.setCrew k c') ∧
      Computed x (fun _ => (List.range (n / 4)).map (f.d.toNat + n / 4 + ·)) (fun _ => []) (s.setCrew k c') c' ∧
      ∀ l, x.act.getLsbD l = true → regBytes ((c'.lane l).get c.depth) (f.d.toNat + n / 4) n = seen) ∧
    (s.marked loc.pa n = false → holds = false → ∃ t c', exec i s = .next t ∧ tget t.crews k = some c' ∧ t.mem = s.mem ∧
      c'.lanes = c.lanes ∧ ∀ j ∈ js, (c'.slice j).pc = (c.slice j).pc ∧
        ∃ w, (c'.slice j).wait = .waita w ∧ w.armed = decide ((s.core c.core).monitors.length < 64) ∧ w.loc = loc)) ∧
  ((∀ (f : FSCOE) (s : State) (k : Nat) (js : List Nat) (c : Crew), s.clears (fenceHead f) k js c = true →
    let x := s.issueOf (fenceHead f) k js c
    let wide := decide (3 ≤ f.c.toNat)
    let owes := f.o ≠ 0 ∧ (s.owed k x.actors s.fresh wide = true ∨ (wide = true ∧ s.owedKnown k x.actors = true))
    (owes → exec (.fence f) s = .next (s.stall k js)) ∧
    (¬owes → ∃ t c', exec (.fence f) s = .next t ∧ tget t.crews k = some c' ∧ Moved x c' ∧ c'.alike c ∧ c'.lanes = c.lanes ∧
      t.mem = s.mem ∧ (f.o ≠ 1 → f.c ≠ 0 → (t.core c.core).lcache = [] ∧ (t.core c.core).peers.held = []) ∧
      (f.e = true → ∀ b t', tget t.blocks c.block = some b → ∀ h, tget b.tiles h = some t' →
        ∀ w ∈ t'.shadows, ¬(w.crew = k ∧ w.slice ∈ x.actors)))) ∧
  (∀ (f : FSDAI) (s : State) (k : Nat) (js : List Nat) (c : Crew), s.clears (prefHead f) k js c = true →
    let x := s.issueOf (prefHead f) k js c
    ∃ t c', exec (.pref f) s = .next t ∧ t.crews = (s.setCrew k c').crews ∧ Moved x c' ∧ c'.alike c ∧ c'.lanes = c.lanes ∧
      t.mem = s.mem ∧ t.marks = s.marks ∧ t.gkeys = s.gkeys) ∧
  (∀ (i : Instr) (f : FSAB) (drop : Bool) (s : State) (k : Nat) (js : List Nat) (c : Crew),
    ((i = .cctlInv f ∧ drop = true) ∨ (i = .cctlClean f ∧ drop = false) ∨ (i = .cctlFlush f ∧ drop = true)) →
    s.clears (cacheControlHead f) k js c = true →
    let x := s.issueOf (cacheControlHead f) k js c
    let lines (l : Nat) := lineAddrs (x.reg64 l f.a.toNat) (x.reg l f.b.toNat).toNat
    ∀ at_ : Nat → Dword → Loc,
      (∀ l ∈ lanesOf x.act, ∀ va ∈ lines l, s.translate c.core c.sup.isSome .read l va = .ok (at_ l va)) →
      ∃ t c', exec i s = .next t ∧ t.crews = (s.setCrew k c').crews ∧ Moved x c' ∧ c'.alike c ∧ c'.lanes = c.lanes ∧
        t.mem = s.mem ∧ t.marks = s.marks ∧
        (drop = true → ∀ l ∈ lanesOf x.act, ∀ va ∈ lines l, (at_ l va).pa % 128 = 0 →
          ∀ e ∈ (t.core c.core).lcache, e.1 ≠ (at_ l va).pa / 128)))

/-! ### Tiles -/

/-- R161 to R163, R183 and R189: LDT, STT and TATOM raise TILEHANDLE for every lane that accesses when the handle
names no live tile-memory tile of the block; TILEBOUND for the lanes whose access ends outside the tile or is no
multiple of its width; and, when they read, DATAERR for the lanes that meet a marked word. R159, R163, R182 and R183:
an LDT whose lanes pass the checks gives each lane that acts its bytes of the tile, and changes nothing of the tile
but what the slice's later engine reads may find older (R212). An STT writes each lane's bytes at their places in the
tile's layout, the highest lane's remaining where several write one, clears the mark of every word that one lane
writes whole and leaves every other byte and mark of the tile; the block's other tiles, memory and the lanes stay.
R187 and R189: TATOM whose lanes pass the checks performs each lane's read-modify-write on the tile in ascending order
and gives each lane the value it read; memory and the block's other tiles stay. -/
def Obligations.TileAccesses : Prop :=
  (∀ (i : Instr) (F : TileForm) (s : State) (k : Nat) (js : List Nat) (c : Crew), tileForm i = some F →
    s.clears F.head k js c = true →
    let x := s.issueOf F.head k js c
    ((∀ b t, tget s.blocks c.block = some b → ¬ b.tileMem (F.named x) t) →
      exec i s = .next (s.takeTrap k js .tilehandle (maskOf (F.lanes x).contains) 0 [] 0)) ∧
    ∀ b t, tget s.blocks c.block = some b → b.tileMem (F.named x) t →
      (∀ out : List Nat, (∀ l, l ∈ out ↔ l ∈ F.lanes x ∧ ¬ F.inside x t l) → out ≠ [] →
        exec i s = .next (s.takeTrap k js .tilebound (maskOf out.contains) 0 [] 0)) ∧
      ((∀ l ∈ F.lanes x, F.inside x t l) → F.reads = true →
        ∀ bad : List Nat, (∀ l, l ∈ bad ↔ l ∈ F.lanes x ∧
          ∃ w ∈ t.marks, (x.reg l F.offset.toNat).toNat < 4 * w + 4 ∧ 4 * w < (x.reg l F.offset.toNat).toNat + F.width x l) →
          bad ≠ [] → exec i s = .next (s.takeTrap k js .dataerr (maskOf bad.contains) 0 [] 0))) ∧
  ((∀ (i : Instr) (f : FUSDAB) (n : Nat) (sg : Bool) (F : TileForm) (s : State) (k : Nat) (js : List Nat) (c : Crew)
      (b : Block) (t : Tile), loadTileForm i = some (f, n, sg) → tileForm i = some F → s.clears F.head k js c = true →
    let x := s.issueOf F.head k js c
    tget s.blocks c.block = some b → b.tileMem (F.named x) t → (∀ l ∈ F.lanes x, F.inside x t l) →
    (∀ l ∈ F.lanes x, t.badAt (x.reg l f.b.toNat).toNat n = false) →
    ∃ c' sh, exec i s = .next ((s.modTile c.block (F.named x) fun _ => { t with shadows := sh }).setCrew k c') ∧
      Moved x c' ∧ c'.alike c ∧ LanesBut x.act (fun _ => (dataGrp n f.d).list.map (c.depth + ·)) (fun _ => []) c c' ∧
      ∀ l, x.act.getLsbD l = true →
        let bs := t.bytes (x.reg (x.source f.u l) f.b.toNat).toNat n
        (4 ≤ n → regBytes ((c'.lane l).get c.depth) f.d.toNat n = bs) ∧
        (n < 4 → ((c'.lane l).get c.depth f.d.toNat).toInt =
          (if sg then (BitVec.ofNat (8 * n) (bytesNat bs)).toInt else (bytesNat bs : Int)))) ∧
  (∀ (i : Instr) (f : FSDAB) (n : Nat) (F : TileForm) (s : State) (k : Nat) (js : List Nat) (c : Crew)
      (b : Block) (t : Tile), storeTileForm i = some (f, n) → tileForm i = some F → s.clears F.head k js c = true →
    let x := s.issueOf F.head k js c
    let off (l : Nat) := (x.reg l f.b.toNat).toNat
    tget s.blocks c.block = some b → b.tileMem (F.named x) t → Memory.wf t.data = true →
    (∀ l ∈ F.lanes x, F.inside x t l) →
    ∃ c' t', exec i s = .next ((s.modTile c.block (F.named x) fun _ => t').setCrew k c') ∧
      Moved x c' ∧ c'.alike c ∧ c'.lanes = c.lanes ∧
      t'.uid = t.uid ∧ t'.rows = t.rows ∧ t'.rowBytes = t.rowBytes ∧ t'.os = t.os ∧ t'.morton = t.morton ∧
      (∀ l ∈ lanesOf x.act, ∀ p < n, (∀ m ∈ lanesOf x.act, ∀ q < n, (l < m ∨ (m = l ∧ p < q)) →
          t.place (off m + q) ≠ t.place (off l + p)) →
        memGet t'.data (t.place (off l + p)) = (regBytes (x.reg l) f.d.toNat n).getD p 0) ∧
      (∀ a, (∀ l ∈ lanesOf x.act, ∀ p < n, a ≠ t.place (off l + p)) → memGet t'.data a = memGet t.data a) ∧
      ∀ w, w ∈ t'.marks ↔ w ∈ t.marks ∧ ∀ l ∈ lanesOf x.act, ¬(off l ≤ 4 * w ∧ 4 * w + 4 ≤ off l + n))) ∧
  (∀ (i : Instr) (f : FSDAB) (op : AtomOp) (F : TileForm) (s : State) (k : Nat) (js : List Nat) (c : Crew) (b : Block)
    (t : Tile), tileAtomForm i = some (f, op) → tileForm i = some F → s.clears F.head k js c = true →
    let x := s.issueOf F.head k js c
    let off (l : Nat) := (x.reg l f.b.toNat).toNat
    let arg (l : Nat) := x.atomArg l (op == .cas) f.d
    tget s.blocks c.block = some b → b.tileMem (F.named x) t → (∀ l ∈ F.lanes x, F.inside x t l) →
    (∀ l ∈ F.lanes x, t.badAt (off l) (F.width x l) = false) →
    ∃ (u : Nat → Tile) (old : Nat → List Byte) (c' : Crew), u 0 = t ∧
      (∀ p (hp : p < (lanesOf x.act).length), let l := (lanesOf x.act)[p]
        old l = (u p).bytes (off l) (F.width x l) ∧
        (u (p + 1)).data = (u p).store (off l) (natBytes (atomicNew op (arg l).e (bytesNat (old l))
          ((arg l).val.toNat % 2 ^ (8 * F.width x l)) ((arg l).cmp.toNat % 2 ^ (8 * F.width x l))) (F.width x l))) ∧
      exec i s = .next ((s.modTile c.block (F.named x) fun _ => u (lanesOf x.act).length).setCrew k c') ∧
      Moved x c' ∧ c'.alike c ∧
      LanesBut x.act (fun l => (List.range (F.width x l / 4)).map fun p => c.depth + f.d.toNat + p) (fun _ => []) c c' ∧
      ∀ l, x.act.getLsbD l = true → regBytes ((c'.lane l).get c.depth) f.d.toNat (F.width x l) = old l)

/-- R159: the layout of a tile gives every byte a place of its own: below its size, distinct for distinct offsets, the offset
itself in a row-major tile, and in a Morton tile 16 bytes of a row staying together, with 16 × morton(row, c) giving the
element at row 2r + i and column 2c + j the place 2i + j among the four that (r, c) has. -/
def Obligations.TileLayout : Prop :=
  ∀ t : Tile, (t.morton = true → isPow2 t.rows = true ∧ isPow2 t.rowBytes = true ∧ 16 ≤ t.rowBytes) →
    (∀ a < t.size, t.place a < t.size ∧ ∀ b < t.size, t.place a = t.place b → a = b) ∧
    (t.morton = false → ∀ a, t.place a = a) ∧
    (t.morton = true → t.os = false → ∀ a < t.size, t.place a / 16 = mortonIndex t.rows.log2 (t.rowBytes / 16).log2
      (a / t.rowBytes) (a % t.rowBytes / 16) ∧ t.place a % 16 = a % 16) ∧
    ∀ m n r c i j, i < 2 → j < 2 → mortonIndex (m + 1) (n + 1) (2 * r + i) (2 * c + j) = 4 * mortonIndex m n r c + 2 * i + j

/-- R158, R160, R162, R184 and R185: TALLOC within the limits of its level opens a tile of zeros, unmarked, under the lowest
free number of the block, or under none when quota, numbers or the core's table are exhausted, and its result is to land
in xd of every lane that acts: the number, or 0. TFREE of a live tile makes its handle dead to threads at once, and takes
it out when no engine operation names it; of any other handle it raises TILEHANDLE. Memory and all lanes stay. That the tile is live at TALLOC's issue and that a
freed tile counts among the core's entries until it is out are the model's readings (log entries 83 and 102). -/
def Obligations.TileLife : Prop :=
  (∀ (i : Instr) (f : FSDAB) (os morton : Bool) (s : State) (k : Nat) (js : List Nat) (c : Crew) (b : Block),
    allocForm i = some (f, os, morton) → s.clears (allocateHead f os morton) k js c = true →
    let x := s.issueOf (allocateHead f os morton) k js c
    let rows := (x.reg (lowest x.act) f.a.toNat).toNat
    let rb := (x.reg (lowest x.act) f.b.toNat).toNat
    tget s.blocks c.block = some b →
    tileShapeOk os morton rows rb = true ∧
    ∃ t c' p h, exec i s = .next t ∧ tget t.crews k = some c' ∧ Moved x c' ∧ c'.alike c ∧ c'.lanes = c.lanes ∧
      t.mem = s.mem ∧ tget t.pends s.nextId = some p ∧ p.crew = k ∧ p.act = x.act ∧ p.land = .handle (BitVec.ofNat 32 h) ∧
      p.dst = [c.depth + f.d.toNat] ∧ Event.tileClearDone s.nextId ∈ t.due ∧
      (h = 0 ↔ (if os then b.osquota else b.tmquota) < b.charged os + (rows * rb + 255) / 256 ∨
        1024 ≤ ((s.blocks.filter fun e => e.2.core == b.core && !e.2.out).map fun e => e.2.tiles.length).sum ∨
        ∀ n, 1 ≤ n → n ≤ 255 → (tget b.tiles n).isSome) ∧
      (h ≠ 0 → h ≤ 255 ∧ tget b.tiles h = none ∧ (∀ n, 1 ≤ n → n < h → (tget b.tiles n).isSome) ∧
        t.blocks = tset s.blocks c.block { b with tiles := tset b.tiles h ⟨s.nextId, os, morton, rows, rb, [], [], false, []⟩ }) ∧
      (h = 0 → t.blocks = s.blocks)) ∧
  (∀ (f : FSA) (s : State) (k : Nat) (js : List Nat) (c : Crew) (b : Block), s.clears (tfreeHead f) k js c = true →
    let x := s.issueOf (tfreeHead f) k js c
    let h := (x.reg (lowest x.act) f.a.toNat).toNat % 256
    tget s.blocks c.block = some b →
    (∀ t, h ≠ 0 → tget b.tiles h = some t → t.freeing = false →
      ∃ c', Moved x c' ∧ c'.alike c ∧ c'.lanes = c.lanes ∧ exec (.tfree f) s =
        .next (({ s with blocks := tset s.blocks c.block { b with
          tiles := if s.tileNamed t.uid then tset b.tiles h { t with freeing := true } else tdel b.tiles h } } : State).setCrew k c')) ∧
    ((h = 0 ∨ tget b.tiles h = none ∨ ∃ t, tget b.tiles h = some t ∧ t.freeing = true) →
      exec (.tfree f) s = .next (s.takeTrap k js .tilehandle x.act 0 [] 0)))

namespace Sys2Proof.Machine

/-- Token n of a crew is pending. -/
def Crew.isPending (c : Crew) (n : Nat) : Prop := ∃ id, (c.tok n).st = .pending id

/-- An instruction that waits for tokens: what it states, the mask, whether one token is enough, and the pair of registers
that receives the masks, if any (R233, R234). -/
def tokenWaitForm (x : Issue) : Instr → Option (Head × Word × Bool × Option Nat)
  | .tkwait f => some (tkwaitHead f, 1#32 <<< f.d.toNat, false, none)
  | .tkwaitMask f => some (tkwaitMaskHead f, x.reg (lowest x.act) f.a.toNat, false, none)
  | .tkany f => some (tkanyHead f, x.reg (lowest x.act) f.a.toNat, true, some f.d.toNat)
  | _ => none

/-- A crew that a token wait or test of a mask has told (R234, R257): p7 of the lanes that act, the crew's poison, and the
masks of settled and of poisoned tokens in a pair. -/
structure TokenTold (x : Issue) (m : Word) (dst : Option Nat) (c' : Crew) : Prop where
  moved : Moved x c'
  toks : c'.toks = x.c.toks
  alike : c'.alike { x.c with poison := c'.poison, poisonAt := c'.poisonAt }
  poison : c'.poison = true ↔ x.c.poison = true ∨ ∃ n < 32, m.getLsbD n = true ∧ (x.c.tok n).st = .poisoned
  lanes : LanesBut x.act (fun _ => match dst with | some d => [x.c.depth + d, x.c.depth + d + 1] | none => []) (fun _ => [7]) x.c c'
  told : ∀ l, x.act.getLsbD l = true →
    ((c'.lane l).pred 7 = true ↔ ∃ n < 32, m.getLsbD n = true ∧ (x.c.tok n).st = .poisoned)
  masks : ∀ d, dst = some d → ∀ l, x.act.getLsbD l = true → ∀ n < 32,
    (((c'.lane l).get x.c.depth d).getLsbD n = true ↔ m.getLsbD n = true ∧ ¬ x.c.isPending n) ∧
    (((c'.lane l).get x.c.depth (d + 1)).getLsbD n = true ↔ m.getLsbD n = true ∧ (x.c.tok n).st = .poisoned)

/-- A task node's address passes the checks of R238 in an issue: aligned, own local memory, writable, clean, of kind 5. -/
def Issue.taskAt (x : Issue) (va : Dword) (loc : Loc) : Prop :=
  va.toNat % 256 = 0 ∧ x.check .write 256 (lowest x.act) va = .ok loc ∧ isLocal loc.pa = true ∧
    x.s.marked loc.pa 256 = false ∧ memGet x.s.mem loc.pa = 5

/-- A barrier object's address passes the checks of R246 in an issue, as a read, at an object in own local memory whose
level gives o, within its scope; that of an object which no BINIT made valid is the model's open choice (log entry 96). -/
def Issue.barrierAt (x : Issue) (k : AccKind) (va : Dword) (loc : Loc) (o : BarObj) : Prop :=
  x.check k 64 (lowest x.act) va = .ok loc ∧ isLocal loc.pa = true ∧ x.s.barSee loc.pa = .ok o ∧
    (o.valid = true → (∃ b, tget x.s.bars loc.pa = some b ∧ x.s.inScope x.c b o.scope = true) ∨
      (tget x.s.bars loc.pa = none ∧ x.s.free 19 0 % 2 = 1))

/-- The phase of an object has gone past n (R251). -/
def BarObj.past (o : BarObj) (n : Word) : Prop := 1 ≤ (o.phase - n).toNat ∧ (o.phase - n).toNat ≤ 2 ^ 31

end Sys2Proof.Machine

/-! ### Tokens -/

/-- R234: TKWAIT returns when no token of its mask is pending and TKANY when one is not, or the mask is 0; else the
gang sleeps at the instruction with the crew unchanged. TKTEST returns at once. A return tells p7 and the crew's
status whether a token of the mask is poisoned, and TKANY and TKTEST write the masks of settled and poisoned tokens.
R235: TKFREE sets every token of its mask free, and no other; when one of them is pending it raises ILLEGAL and frees
none. -/
def Obligations.TokenWaitsAndFrees : Prop :=
  ((∀ (i : Instr) (h : Head) (m : Word) (any : Bool) (dst : Option Nat) (s : State) (k : Nat) (js : List Nat) (c : Crew),
    let x := s.issueOf h k js c
    tokenWaitForm x i = some (h, m, any, dst) → i.wf = true → s.clears h k js c = true →
    let met : Prop := if any then m = 0 ∨ ∃ n < 32, m.getLsbD n = true ∧ ¬ c.isPending n
      else ∀ n < 32, m.getLsbD n = true → ¬ c.isPending n
    (met → ∃ c', exec i s = .next (s.setCrew k c') ∧ TokenTold x m dst c') ∧
    (¬ met → ∃ c', exec i s = .next (s.setCrew k c') ∧ c'.alike c ∧ c'.lanes = c.lanes ∧ ∀ j ∈ js,
      (c'.slice j).pc = (c.slice j).pc ∧ (c'.slice j).wait = .tokens m any (c.depth + dst.getD 0) x.act)) ∧
  (∀ (f : FSDA) (s : State) (k : Nat) (js : List Nat) (c : Crew), s.clears (tktestHead f) k js c = true →
    let x := s.issueOf (tktestHead f) k js c
    ∃ c', exec (.tktest f) s = .next (s.setCrew k c') ∧
      TokenTold x (x.reg (lowest x.act) f.a.toNat) (some f.d.toNat) c')) ∧
  (∀ (i : Instr) (h : Head) (m : Word) (s : State) (k : Nat) (js : List Nat) (c : Crew), i.wf = true →
    let x := s.issueOf h k js c
    ((∃ f, i = .tkfree f ∧ h = tkfreeHead f ∧ m = 1#32 <<< f.d.toNat) ∨
      (∃ f, i = .tkfreeMask f ∧ h = tkfreeMaskHead f ∧ m = x.reg (lowest x.act) f.a.toNat)) →
    (s.clears h k js c = true → (∀ n < 32, m.getLsbD n = true → ¬ c.isPending n) ∧
      ∃ c', exec i s = .next (s.setCrew k c') ∧ Moved x c' ∧ c'.lanes = c.lanes ∧ c'.alike { c with toks := c'.toks } ∧
        ∀ n < 32, c'.tok n = if m.getLsbD n then ⟨.free, 0, []⟩ else c.tok n) ∧
    (s.cur = some (k, js) → tget s.crews k = some c → x.misnamed h = false → x.waits h = false → x.act ≠ 0 →
      (∃ n < 32, m.getLsbD n = true ∧ c.isPending n) → exec i s = .next (s.takeTrap k js .illegal x.live 0 [] 0)))

/-- R236, R238 and R256 with R146: TKEXP.task attaches its export to a pending token, and fires it at once, as a decrement by
1 still to come, when the token is done or poisoned. TASKD, once its slices owe nothing, lowers the node's signed counter
by its count, modulo 2^32, in memory where no scrub read has found an error, changing no other byte. A free token, or one with four unfired exports, is ILLEGAL,
and so is a node of another kind. -/
def Obligations.TaskNodes : Prop :=
  (∀ (f : FSDA) (s : State) (k : Nat) (js : List Nat) (c : Crew) (loc : Loc), (Instr.tkexpTask f).wf = true →
    let x := s.issueOf (tkexpTaskHead f) k js c
    let t := c.tok f.d.toNat
    s.clears (tkexpTaskHead f) k js c = true → x.taskAt (x.reg64 (lowest x.act) f.a.toNat) loc →
    t.st ≠ .free ∧ t.exports.length < 4 ∧
    (c.isPending f.d.toNat → ∃ c', exec (.tkexpTask f) s = .next (s.setCrew k c') ∧ Moved x c' ∧ c'.lanes = c.lanes ∧
      ∀ n < 32, c'.tok n = if n = f.d.toNat then { t with exports := t.exports ++ [.task loc.pa] } else c.tok n) ∧
    (¬ c.isPending f.d.toNat → ∃ c', Moved x c' ∧ c'.alike c ∧ c'.lanes = c.lanes ∧ exec (.tkexpTask f) s =
      .next (({ s with due := s.due ++ [.taskDepcountDecrement loc.pa 1 (t.st == .poisoned)] } : State).setCrew k c'))) ∧
  (∀ (f : FSAB) (s : State) (k : Nat) (js : List Nat) (c : Crew) (loc : Loc), s.clears (taskdHead f) k js c = true →
    let x := s.issueOf (taskdHead f) k js c
    let n := (x.reg (lowest x.act) f.b.toNat).toNat
    x.taskAt (x.reg64 (lowest x.act) f.a.toNat) loc → 1 ≤ n ∧ n < 2 ^ 31 ∧
    (x.owes = true → exec (.taskd f) s = .next (s.stall k js)) ∧
    (x.owes = false → s.scrubbed (loc.pa + 116) 4 (fun _ => true) = false → ∃ t, exec (.taskd f) s = .next t ∧
      (BitVec.ofNat 32 (memNat t.mem (loc.pa + 116) 4)) = BitVec.ofNat 32 (memNat s.mem (loc.pa + 116) 4) - BitVec.ofNat 32 n ∧
      (∀ a, a < loc.pa + 116 ∨ loc.pa + 120 ≤ a → memGet t.mem a = memGet s.mem a) ∧
      ∃ c', tget t.crews k = some c' ∧ Moved x c' ∧ c'.lanes = c.lanes)) ∧
  (∀ (i : Instr) (h : Head) (s : State) (k : Nat) (js : List Nat) (c : Crew) (a : BitVec 6) (loc : Loc),
    ((∃ f, i = .tkexpTask f ∧ h = tkexpTaskHead f ∧ a = f.a) ∨ (∃ f, i = .taskd f ∧ h = taskdHead f ∧ a = f.a)) →
    s.clears h k js c = true →
    let x := s.issueOf h k js c
    let va := x.reg64 (lowest x.act) a.toNat
    va.toNat % 256 = 0 → x.check .write 256 (lowest x.act) va = .ok loc → isLocal loc.pa = true →
    s.marked loc.pa 256 = false → memGet s.mem loc.pa ≠ 5 → exec i s = .next (s.takeTrap k js .illegal x.live 0 [] 0))

/-- R279 to R281: SEAL gives each slice that acts its next batch number, never 0, moves the slice's open batch under it, and
writes the number to its active lanes. WAITB returns when every copy its slices' numbers cover has completed, tells p7 of
each slice's lanes whether one of them completed poisoned, and retires the records it reports; else the gang sleeps. -/
def Obligations.Batches : Prop :=
  (∀ (f : FSD) (s : State) (k : Nat) (js : List Nat) (c : Crew), s.clears (sealHead f) k js c = true →
    let x := s.issueOf (sealHead f) k js c
    ((∃ j ∈ x.actors, 32 ≤ (c.slice j).batch.recs.length) → exec (.seal f) s = .next (s.stall k js)) ∧
    ((∀ j ∈ x.actors, (c.slice j).batch.recs.length < 32) →
      ∃ c', exec (.seal f) s = .next (s.setCrew k c') ∧ c'.alike c ∧
        LanesBut x.act (fun _ => [c.depth + f.d.toNat]) (fun _ => []) c c' ∧
        (∀ j ∈ x.actors, let b := (c.slice j).batch
          let n := if b.last + 1 = 0 then 1 else b.last + 1
          (c'.slice j).batch = { last := n, opened := [], openPoison := false
                                 recs := if b.opened = [] ∧ b.openPoison = false then b.recs
                                   else b.recs ++ [⟨n, b.opened, b.openPoison⟩] } ∧
          ∀ l, l / 4 = j → x.act.getLsbD l = true → (c'.lane l).get c.depth f.d.toNat = n) ∧
        ∀ j ∈ js, j ∉ x.actors → (c'.slice j).batch = (c.slice j).batch)) ∧
  (∀ (f : FSA) (s : State) (k : Nat) (js : List Nat) (c : Crew), s.clears (waitbHead f) k js c = true →
    let x := s.issueOf (waitbHead f) k js c
    (∀ j ∈ x.actors, ∀ l, l / 4 = j → x.act.getLsbD l = true → x.reg l f.a.toNat = x.batchNum f j) →
    let ended : Prop := ∀ j ∈ x.actors, ∀ r ∈ (c.slice j).batch.recs, covers (x.batchNum f j) r.num = true → r.copies = []
    (ended → ∃ c', exec (.waitb f) s = .next (s.setCrew k c') ∧ LanesBut x.act (fun _ => []) (fun _ => [7]) c c' ∧
      (∀ j ∈ x.actors, (c'.slice j).batch.recs = (c.slice j).batch.recs.filter (fun r => !covers (x.batchNum f j) r.num) ∧
        ∀ l, l / 4 = j → x.act.getLsbD l = true → ((c'.lane l).pred 7 = true ↔
          ∃ r ∈ (c.slice j).batch.recs, covers (x.batchNum f j) r.num = true ∧ r.poisoned = true)) ∧
      (c'.poison = true ↔ c.poison = true ∨ ∃ j ∈ x.actors, ∃ r ∈ (c.slice j).batch.recs,
        covers (x.batchNum f j) r.num = true ∧ r.poisoned = true)) ∧
    (¬ ended → ∃ c', exec (.waitb f) s = .next (s.setCrew k c') ∧ c'.lanes = c.lanes ∧ ∀ j ∈ js,
      (c'.slice j).pc = (c.slice j).pc ∧ (c'.slice j).batch = (c.slice j).batch ∧
        (c'.slice j).wait = .batch (if j ∈ x.actors then x.batchNum f j else 0) x.act))

/-! ### Barriers -/

/-- R243 and R244: an update of a barrier. An arrival lowers the pending arrivals, or sets cpoison where none is pending; a
byte change adds to the pending bytes, or sets cpoison where the sum leaves the signed 32-bit range; poison sets cpoison.
A phase completes exactly when an arrival or byte change leaves both counts 0: lpoison takes cpoison, cpoison clears, the
phase advances by 1 and the counts start again; nothing else of the object but its continuation list changes. -/
def Obligations.BarrierUpdates : Prop :=
  (∀ (o : BarObj) (arrive poison : Bool) (bytes : Int),
    let q := o.update arrive bytes poison
    let n := o.pbytes.toInt + bytes
    let fits : Prop := -(2 ^ 31 : Int) ≤ n ∧ n < 2 ^ 31
    q.parr = (if arrive = true then o.parr - 1 else o.parr) ∧
    (fits → q.pbytes.toInt = n) ∧ (¬ fits → q.pbytes = o.pbytes) ∧
    (q.cpoison = true ↔ o.cpoison = true ∨ poison = true ∨ (arrive = true ∧ o.parr = 0) ∨ ¬ fits) ∧
    q = { o with parr := q.parr, pbytes := q.pbytes, cpoison := q.cpoison }) ∧
  (∀ (s : State) (pa : Nat) (o : BarObj) (b : Bar) (arrive poison : Bool) (bytes : Int),
    tget s.bars pa = some b → b.cached.isSome = true → b.conts = [] → b.remotes = [] →
    let q := o.update arrive bytes poison
    let ended := (arrive = true ∨ bytes ≠ 0) ∧ q.parr = 0 ∧ q.pbytes = 0
    ∃ t, s.barApply pa o arrive bytes poison = some t ∧ t.mem = s.mem ∧ t.crews = s.crews ∧
      (¬ ended → t.barObj pa = q ∧ t.due = s.due) ∧
      (ended → t.barObj pa = { q with
        lpoison := q.cpoison, cpoison := false, phase := q.phase + 1, parr := q.expected, pbytes := 0, conthead := 0 } ∧
        ∀ e ∈ s.barWakes pa (q.phase + 1), e ∈ t.due))

/-- R239 and R247: BINIT of an invalid object, with an expected count of at least 1 and no region table, makes it a
valid barrier in its first phase with all arrivals pending and no poison; of a valid one it is ILLEGAL; with a count
of 0 it does nothing to an invalid object, and invalidates a valid one. R237 and R246 to R250: of a valid barrier in
scope, BARR makes one arrival with its byte change, once it owes no write to a bound region; BEXP makes the byte
change alone; BARRD records a deferred arrival over the batches it covers, unless sixteen are held; TKEXP.bar attaches
its export, or fires it; BBIND appends its region, or takes out those with its base. The gang then goes on. Of an
object that is not valid each is ILLEGAL. -/
def Obligations.BarrierOperations : Prop :=
  (∀ (f : FSA) (s : State) (k : Nat) (js : List Nat) (c : Crew) (loc : Loc) (o : BarObj),
    s.clears (binitHead f) k js c = true →
    let x := s.issueOf (binitHead f) k js c
    let w := x.reg (lowest x.act) (f.a.toNat + 2)
    let expected := (w.extractLsb' 0 16).toNat
    x.barrierAt .write (x.reg64 (lowest x.act) f.a.toNat) loc o → x.reg64 (lowest x.act) (f.a.toNat + 4) = 0 →
    (expected ≠ 0 → o.valid = false → ∃ t c', exec (.binit f) s = .next t ∧ tget t.crews k = some c' ∧ Moved x c' ∧
      c'.lanes = c.lanes ∧ t.barObj loc.pa =
        { phase := 0, expected := expected, parr := expected, pbytes := 0, valid := true, cpoison := false, lpoison := false
          scope := (w.extractLsb' 16 3).toNat, nbound := 0, regions := 0, conthead := 0 } ∧
      (∃ b, tget t.bars loc.pa = some b ∧ b.core = c.core ∧ b.block = c.block ∧ b.conts = []) ∧
      ∀ a, a < loc.pa ∨ loc.pa + 64 ≤ a → memGet t.mem a = memGet s.mem a) ∧
    (expected ≠ 0 → o.valid = true → exec (.binit f) s = .next ((x.reached loc.pa o).s.takeTrap k js .illegal x.live 0 [] 0)) ∧
    (expected = 0 → o.valid = false → exec (.binit f) s = .next (s.setCrew k (x.advanced c))) ∧
    (expected = 0 → o.valid = true → ∀ t, (x.reached loc.pa o).s.invalidate loc.pa o = some t →
      exec (.binit f) s = .next (t.setCrew k (x.advanced ((tget t.crews k).getD c))))) ∧
  (∀ (s : State) (k : Nat) (js : List Nat) (c : Crew) (loc : Loc) (o : BarObj),
    (∀ (f : FSA), s.clears (barrHead f) k js c = true →
      let x := s.issueOf (barrHead f) k js c
      x.barrierAt .read (x.reg64 (lowest x.act) f.a.toNat) loc o → o.valid = true → (o.nbound = 0 ∨ x.owes = false) →
      ∀ t, (x.reached loc.pa o).s.barApply loc.pa o true (x.reg (lowest x.act) (f.a.toNat + 2)).toInt false = some t →
        exec (.barr f) s = .next (t.setCrew k (x.advanced ((tget t.crews k).getD c)))) ∧
    (∀ (f : FSA), s.clears (bexpHead f) k js c = true →
      let x := s.issueOf (bexpHead f) k js c
      x.barrierAt .read (x.reg64 (lowest x.act) f.a.toNat) loc o → o.valid = true →
      x.reg (lowest x.act) (f.a.toNat + 2) ≠ 0 ∧
      ∀ t, (x.reached loc.pa o).s.barApply loc.pa o false (x.reg (lowest x.act) (f.a.toNat + 2)).toInt false = some t →
        exec (.bexp f) s = .next (t.setCrew k (x.advanced ((tget t.crews k).getD c)))) ∧
    (∀ (f : FSA), s.clears (barrdHead f) k js c = true →
      let x := s.issueOf (barrdHead f) k js c
      (16 ≤ c.deferred.length → exec (.barrd f) s = .next (s.stall k js)) ∧
      (c.deferred.length < 16 → x.barrierAt .read (x.reg64 (lowest x.act) f.a.toNat) loc o → o.valid = true →
        ∃ t c' d, exec (.barrd f) s = .next t ∧ tget t.crews k = some c' ∧ t.mem = s.mem ∧ Moved x c' ∧ c'.lanes = c.lanes ∧
          c'.deferred = c.deferred ++ [d] ∧ d.pa = loc.pa ∧ d.bytes = x.reg (lowest x.act) (f.a.toNat + 2) ∧
          d.covers = x.actors.map (fun j => (j, x.reg (lowest x.act) (f.a.toNat + 3))) ∧
          (∀ id, id ∈ d.copies ↔ ∃ j ∈ x.actors, ∃ r ∈ (c.slice j).batch.recs,
            covers (x.reg (lowest x.act) (f.a.toNat + 3)) r.num = true ∧ id ∈ r.copies))) ∧
    (∀ (f : FSDA), s.clears (tkexpBarHead f) k js c = true → (Instr.tkexpBar f).wf = true →
      let x := s.issueOf (tkexpBarHead f) k js c
      let va := x.reg64 (lowest x.act) f.a.toNat
      let t := c.tok f.d.toNat
      x.barrierAt .read va loc o → o.valid = true →
      let y := (x.reached loc.pa o).s
      (c.isPending f.d.toNat → ∃ c', exec (.tkexpBar f) s = .next (y.setCrew k c') ∧ Moved x c' ∧ c'.lanes = c.lanes ∧
        c'.tok f.d.toNat = { t with exports := t.exports ++ [.bar loc.pa va] }) ∧
      (¬ c.isPending f.d.toNat → ∃ c', Moved x c' ∧ c'.alike c ∧ c'.lanes = c.lanes ∧ exec (.tkexpBar f) s =
        .next (({ y with due := y.due ++ [.barrierUpdate ⟨c.core / 128, loc.pa, va, true, - (t.bytes : Int),
          t.st == .poisoned, c.block, s.ctxOf c⟩] } : State).setCrew k c'))) ∧
    (∀ (f : FSAB), s.clears (bbindHead f) k js c = true →
      let x := s.issueOf (bbindHead f) k js c
      let base := x.reg64 (lowest x.act) f.b.toNat
      let len := (x.reg (lowest x.act) (f.b.toNat + 2)).toNat
      x.barrierAt .read (x.reg64 (lowest x.act) f.a.toNat) loc o → o.valid = true →
      (len ≠ 0 → o.nbound = 16 ∨ o.regions = 0 →
        exec (.bbind f) s = .next ((x.reached loc.pa o).s.takeTrap k js .illegal x.live 0 [] 0)) ∧
      (∀ b, tget s.bars loc.pa = some b → b.cached.isSome = true → len ≠ 0 → o.nbound < 16 → o.regions ≠ 0 →
        s.scrubbed (b.regionsPa + 16 * o.nbound) 16 (fun _ => true) = false →
        ∃ t c', exec (.bbind f) s = .next t ∧ tget t.crews k = some c' ∧ Moved x c' ∧ c'.lanes = c.lanes ∧
          t.barObj loc.pa = { o with nbound := o.nbound + 1 } ∧
          memNat t.mem (b.regionsPa + 16 * o.nbound) 8 = base.toNat ∧
          memNat t.mem (b.regionsPa + 16 * o.nbound + 8) 4 = len) ∧
      (∀ b, tget s.bars loc.pa = some b → b.cached.isSome = true → len = 0 → o.regions ≠ 0 →
        ∃ t c', exec (.bbind f) s = .next t ∧ tget t.crews k = some c' ∧ Moved x c' ∧ c'.lanes = c.lanes ∧
          t.barObj loc.pa = { o with nbound :=
            ((s.regionTable b.regionsPa o.nbound).filter fun r => r.1 != base.toNat).length })) ∧
    (∀ (i : Instr) (h : Head) (a : BitVec 6),
      ((∃ f, i = .barr f ∧ h = barrHead f ∧ a = f.a) ∨ (∃ f, i = .bexp f ∧ h = bexpHead f ∧ a = f.a) ∨
        (∃ f, i = .barrd f ∧ h = barrdHead f ∧ a = f.a ∧ c.deferred.length < 16) ∨
        (∃ f, i = .bbind f ∧ h = bbindHead f ∧ a = f.a) ∨ (∃ f, i = .tkexpBar f ∧ h = tkexpBarHead f ∧ a = f.a) ∨
        (∃ f, i = .bwait f ∧ h = bwaitHead f ∧ a = f.a) ∨ (∃ f, i = .btest f ∧ h = btestHead f ∧ a = f.a)) →
      s.clears h k js c = true →
      let x := s.issueOf h k js c
      x.barrierAt .read (x.reg64 (lowest x.act) a.toNat) loc o → o.valid = false →
      exec i s = .next (s.takeTrap k js .illegal x.live 0 [] 0)))

/-- R251 and R252: BWAIT of a phase that is past returns at once and tells p7 of every active lane, and the crew's status, the
object's lpoison; else the gang sleeps at it. BTEST writes the phase and the status word and never sleeps. Memory and the
object's fields stay (R241: its core caches it again). -/
def Obligations.BarrierWaits : Prop :=
  ∀ (s : State) (k : Nat) (js : List Nat) (c : Crew) (loc : Loc) (o : BarObj),
    (∀ (f : FSA), s.clears (bwaitHead f) k js c = true →
      let x := s.issueOf (bwaitHead f) k js c
      let n := x.reg (lowest x.act) (f.a.toNat + 2)
      x.barrierAt .read (x.reg64 (lowest x.act) f.a.toNat) loc o → o.valid = true →
      (o.past n → ∃ t c', exec (.bwait f) s = .next t ∧ t.crews = (s.setCrew k c').crews ∧ t.mem = s.mem ∧
        t.bars = (x.reached loc.pa o).s.bars ∧ Moved x c' ∧ LanesBut x.act (fun _ => []) (fun _ => [7]) c c' ∧
        c'.poison = (c.poison || o.lpoison) ∧ ∀ l, x.act.getLsbD l = true → (c'.lane l).pred 7 = o.lpoison) ∧
      (¬ o.past n → ∃ c', exec (.bwait f) s = .next ((x.reached loc.pa o).s.setCrew k c') ∧ c'.alike c ∧ c'.lanes = c.lanes ∧ ∀ j ∈ js,
        (c'.slice j).pc = (c.slice j).pc ∧ (c'.slice j).wait = .barrier loc.pa n x.act)) ∧
    (∀ (f : FSDA), s.clears (btestHead f) k js c = true →
      let x := s.issueOf (btestHead f) k js c
      let n := x.reg (lowest x.act) (f.a.toNat + 2)
      x.barrierAt .read (x.reg64 (lowest x.act) f.a.toNat) loc o → o.valid = true → o.parr < 2 ^ 16 →
      ∃ t c', exec (.btest f) s = .next t ∧ t.crews = (s.setCrew k c').crews ∧ t.mem = s.mem ∧
        t.bars = (x.reached loc.pa o).s.bars ∧ Moved x c' ∧ LanesBut x.act (fun _ => [c.depth + f.d.toNat, c.depth + f.d.toNat + 1]) (fun _ => [7]) c c' ∧
        ∀ l, x.act.getLsbD l = true →
          let st := (c'.lane l).get c.depth (f.d.toNat + 1)
          (c'.lane l).get c.depth f.d.toNat = o.phase ∧ (st.getLsbD 0 = true ↔ o.past n) ∧ st.getLsbD 1 = o.lpoison ∧
            st.getLsbD 2 = o.cpoison ∧ st.extractLsb' 3 13 = 0 ∧ (st.extractLsb' 16 16).toNat = o.parr ∧
            ((c'.lane l).pred 7 = true ↔ o.past n ∧ o.lpoison = true))

/-- R253 to R255: BCONT, issued by a gang that holds the whole crew, with a spill area of at least 64 bytes and a record that
may be written, ends the crew and registers its continuation at the end of the object's list, or spawns it when its phase
is past already. A smaller spill area raises SPILL. -/
def Obligations.ContinuationsRegistered : Prop :=
  ∀ (f : FSDAB) (s : State) (k : Nat) (js : List Nat) (c : Crew) (loc rec_ : Loc) (o : BarObj),
    s.clears (bcontHead f) k js c = true →
    let x := s.issueOf (bcontHead f) k js c
    let n := x.reg (lowest x.act) (f.a.toNat + 2)
    let t := x.cont f rec_.pa 0
    js = c.present ∧ t.phase = n ∧ t.entry = x.reg64 (lowest x.act) f.b.toNat - x.reg64 (lowest x.act) f.b.toNat % 4 ∧
    t.args = (List.range 4).map (fun p => x.reg (lowest x.act) (f.d.toNat + p)) ∧ t.block = c.block ∧ t.allot = c.allot ∧
    (c.spillSize < 64 → exec (.bcont f) s = .next (s.takeTrap k js .spill x.act 0 [] 0)) ∧
    (64 ≤ c.spillSize → s.translate c.core c.sup.isSome .write 1 c.spillBase = .ok rec_ →
      x.barrierAt .read (x.reg64 (lowest x.act) f.a.toNat) loc o → o.valid = true →
      let y := (x.reached loc.pa o).s
      (o.past n → exec (.bcont f) s = .next ((x.endCrew (y.writeRecord rec_.pa)).spawn loc.pa o t o.lpoison)) ∧
      (¬ o.past n → ∀ b, tget (y.writeRecord rec_.pa).bars loc.pa = some b →
        let u := x.endCrew (y.writeRecord rec_.pa)
        exec (.bcont f) s = .next (({ u with bars := tmod u.bars loc.pa fun q => { q with conts := b.conts ++ [t] } } :
          State).barPut loc.pa { o with conthead := headOf (b.conts ++ [t]) b.remotes })))

namespace Sys2Proof.Machine

/-- An instruction has put operation o under token t of its crew (R229, R231, R232): o stands in the table under the next
number, with a place in start order exactly when its preconditions are met, its first step then due; the token is
pending; no other token, no lane, no other crew, no other operation and no byte of memory is changed. -/
structure Issued (x : Issue) (t : Nat) (o : Op) (s' : State) (c' : Crew) : Prop where
  op : ∃ p, tget s'.ops x.s.nextId = some { o with order := p } ∧ (p.isSome = true ↔ o.clear = true)
  begins : o.clear = true → ∀ e, startEvent x.s.nextId o.body = some e → e ∈ s'.due
  others : ∀ id, id ≠ x.s.nextId → tget s'.ops id = tget x.s.ops id
  crew : tget s'.crews x.k = some c'
  crews : ∀ j, j ≠ x.k → tget s'.crews j = tget x.s.crews j
  token : ∀ n < 32, c'.tok n = if n = t then ⟨.pending x.s.nextId, 0, []⟩ else x.c.tok n
  lanes : c'.lanes = x.c.lanes
  pc : ∀ j ∈ x.js, (c'.slice j).pc = (x.c.slice j).pc + 4
  mem : s'.mem = x.s.mem

/-- The copy instructions and their variants (R259). -/
def copyForm : Instr → Option (FSDA × CopyKind)
  | .cpy f => some (f, .cpy)
  | .cpyt f => some (f, .cpyt)
  | .cpyg f => some (f, .cpyg)
  | .cpyw f => some (f, .cpyw)
  | .cpys f => some (f, .cpys)
  | .cpyx f => some (f, .cpyx)
  | _ => none

/-- The accumulator instructions (R309). -/
def accForm : Instr → Option (FSDA × MatKind)
  | .mzero f => some (f, .mzero)
  | .mscal f => some (f, .mscal)
  | .mcvt f => some (f, .mcvt)
  | .mload f => some (f, .mload)
  | _ => none

/-- The asynchronous tree instructions (R399): what they state and the words of their group. -/
def treeForm : Instr → Option (FSDA × TreeKind × Nat × Head)
  | .ctleaf f => some (f, .leaf, 8, treeInstrHead f 8 [3, 7] fun g =>
      (g.getD 4 0).toNat % 4096 != 0 || (g.getD 6 0).toNat == 0 || decide (2 ^ 20 < (g.getD 6 0).toNat))
  | .ctset f => some (f, .settle, 4, treeInstrHead f 4 [3] fun _ => false)
  | .ctmove f => some (f, .move, 8, treeInstrHead f 8 [3, 6, 7] fun _ => false)
  | .ctdrop f => some (f, .drop, 4, treeInstrHead f 4 [3] fun _ => false)
  | _ => none

/-- MMA and MMAO. -/
def multiplyForm : Instr → Option (FSDA × MatKind)
  | .mma f => some (f, .mma)
  | .mmao f => some (f, .mmao)
  | _ => none

/-- A collective issue in state s, whose member is m, joins the team's open collection, or opens the operation o (R287,
R288, R291): in owner mode it always opens; it waits when it must open one while the engine is full or, of a team, four
are open. -/
structure Collected (x : Issue) (i : Instr) (m : Member) (t : Nat) (full : Prop) (o : Op) : Prop where
  joins : x.owned = false → ∀ e, x.joins = some e → tget x.s.ops e.1 = some e.2 →
    ∃ s' c' o', exec i x.s = .next s' ∧ tget s'.crews x.k = some c' ∧ Moved x c' ∧ c'.lanes = x.c.lanes ∧
      (∀ n < 32, c'.tok n = if n = t then ⟨.pending e.1, 0, []⟩ else x.c.tok n) ∧ tget s'.ops e.1 = some o' ∧
      o'.members = e.2.members ++ [m] ∧ (o'.order.isSome = true ↔ o'.clear = true) ∧ s'.mem = x.s.mem
  opens : (x.owned = true ∨ x.joins = none) → ¬ full → (x.owned = true ∨ x.openColls.length < 4) →
    ∃ s' c', exec i x.s = .next s' ∧ Issued x t o s' c'
  waits : (x.owned = true ∨ x.joins = none) → (full ∨ (x.owned = false ∧ 4 ≤ x.openColls.length)) →
    exec i x.s = .next (x.s.stall x.k x.js)

end Sys2Proof.Machine

/-! ### The engines' instructions -/

/-- R229, R231, R259 to R261, R309, R399 and R415: each copy, each accumulator instruction, COLL and each asynchronous tree
instruction whose group passes the checks puts its operation in flight under its token, with the preconditions of its
mask; a move whose new parent lies in a peer's or the host's memory raises PROTECT (R455); a copy also joins the open batch of every slice of its gang (R279). While the engine is full (256 copies and 64
matrix operations a core, 64 collectives a die) the gang waits at the instruction. -/
def Obligations.OperationsIssued : Prop :=
  (∀ (i : Instr) (f : FSDA) (kind : CopyKind) (s : State) (k : Nat) (js : List Nat) (c : Crew),
    copyForm i = some (f, kind) → i.wf = true → s.clears (copyInstrHead f kind) k js c = true →
    let x := s.issueOf (copyInstrHead f kind) k js c
    let g := x.group f.a kind.groupSize
    (256 ≤ s.copiesOn c.core → exec i s = .next (s.stall k js)) ∧
    (s.copiesOn c.core < 256 → ∃ t c', exec i s = .next t ∧
      Issued x f.d.toNat (x.newOp f.d.toNat (c.pre (gw g 0)) (.copy (s.makeCopy k js c.block kind g))) t c' ∧
      ∀ j ∈ js, (c'.slice j).batch =
        { (c.slice j).batch with opened := (c.slice j).batch.opened ++ [s.nextId] })) ∧
  (∀ (i : Instr) (f : FSDA) (kind : MatKind) (s : State) (k : Nat) (js : List Nat) (c : Crew),
    accForm i = some (f, kind) → i.wf = true → s.clears (accInstrHead f kind) k js c = true →
    let x := s.issueOf (accInstrHead f kind) k js c
    let g := x.group f.a kind.groupSize
    (64 ≤ s.matsOn c.core → exec i s = .next (s.stall k js)) ∧
    (s.matsOn c.core < 64 → ∃ t c' m, exec i s = .next t ∧ Moved x c' ∧
      Issued x f.d.toNat (x.newOp f.d.toNat ⟨[], false⟩ (.mat m)) t c' ∧ m.kind = kind ∧ m.need = 1 ∧
      m.members.map (fun y => (y.crew, y.token, y.g, y.pre)) = [(k, f.d.toNat, g, c.pre (gw g 0))] ∧
      m.acc = s.bindTile c.block (gw g 1) ∧ (kind.groupSize = 8 → m.bTile = s.bindTile c.block (gw g 4)) ∧
      m.started = false ∧ m.ended = false)) ∧
  (∀ (f : FSDA) (s : State) (k : Nat) (js : List Nat) (c : Crew), (Instr.coll f).wf = true →
    s.clears (collHead f) k js c = true →
    let x := s.issueOf (collHead f) k js c
    let g := x.group f.a 4
    let held := (s.ops.filter fun e => dieOfCore e.2.core == dieOfCore c.core && e.2.coll?.isSome).length
    (64 ≤ held → exec (.coll f) s = .next (s.stall k js)) ∧
    (held < 64 → ∃ t c' m, exec (.coll f) s = .next t ∧ Moved x c' ∧
      Issued x f.d.toNat (x.newOp f.d.toNat (c.pre (gw g 0)) (.coll m)) t c' ∧ m.die = dieOfCore c.core ∧
      m.blockVa = gw g 3 ++ gw g 2 ∧ m.started = false ∧ m.poisoned = false)) ∧
  (∀ (i : Instr) (f : FSDA) (kind : TreeKind) (n : Nat) (h : Head) (s : State) (k : Nat) (js : List Nat) (c : Crew) (l : Loc),
    treeForm i = some (f, kind, n, h) → i.wf = true → s.clears h k js c = true →
    let x := s.issueOf h k js c
    let va := x.reg64 (lowest x.act) f.a.toNat
    let parent := gw (x.group f.a n) 5 ++ gw (x.group f.a n) 4
    x.check .write 64 (lowest x.act) va = .ok l → isLocal l.pa = true → isLocal (l.pa + 63) = true →
    (kind = .move → x.elsewhere parent = true → exec i s = .next (s.takeTrap k js .protect (maskOf (lanesOf x.act).contains) 0
      ((lanesOf x.act).map fun l => (l, parent)) (maskOf (lanesOf x.act).contains))) ∧
    ((kind = .move → x.elsewhere parent = false) → ∃ t c' m, exec i s = .next t ∧ Moved x c' ∧
      Issued x f.d.toNat (x.newOp f.d.toNat (c.pre (gw (x.group f.a n) 2)) (.tree m)) t c' ∧ m.kind = kind ∧
      m.g = x.group f.a n ∧ m.node = l.pa))

/-- R288, R291, R295, R296 and R310: MMA, MMAO and MSEQ join their team's collection or open one, or an owner's alone,
when the crew's team is whole and agrees (else TEAM with the acting lanes, log entry 44), and, for A in registers, the
format block passes the checks of a load, is local and is clean. The member carries its mask's preconditions and, for
A in registers, its lanes' rows. The core holds 64 matrix operations and eight macro-operations. R288 to R290: in
owner mode, MACQ of a crew that neither owns nor waits puts an operation under its token, which completes at once, the
crew then owning the engine, when nobody owns it and nobody waits for it; else it waits behind the crews before it.
MREL gives the engine up: when nobody waits it has no owner. -/
def Obligations.CollectivesAndOwnership : Prop :=
  ((∀ (i : Instr) (f : FSDA) (kind : MatKind) (s : State) (k : Nat) (js : List Nat) (c : Crew),
    multiplyForm i = some (f, kind) → i.wf = true → s.clears (multiplyInstrHead s f kind) k js c = true →
    let x := s.issueOf (multiplyInstrHead s f kind) k js c
    let g := x.group f.a kind.groupSize
    let same : OpBody → Bool := fun b => match b with | .mat m => m.kind == kind | _ => false
    (x.teamFails same mmaShared g = true → exec i s = .next (s.takeTrap k js .team x.act 0 [] 0)) ∧
    (x.teamFails same mmaShared g = false →
      ∀ fmt : Option (List Byte),
        ((ctlA (gw g 1) ≠ 0 ∧ fmt = none) ∨ (ctlA (gw g 1) = 0 ∧ ∃ l, x.check .read 64 (lowest x.act) (gd g 10) = .ok l ∧
          isPeer l.pa = false ∧ s.marked l.pa 64 = false ∧ fmt = some (s.bytesAt l 64))) →
        ∃ m o, m.crew = k ∧ m.token = f.d.toNat ∧ m.g = g ∧ m.pre = c.pre (gw g 0) ∧ m.regsA = x.rowsA g fmt ∧
          (ctlA (gw g 1) ≠ 0 → m.aTile = s.bindTile c.block (gw g 5)) ∧
          ((gw g 1).getLsbD 2 = true → m.wTile = s.bindTile c.block (gw g 13)) ∧
          o.kind = kind ∧ o.members = [m] ∧ o.need = (if x.owned then 1 else c.team) ∧ o.fmt = fmt ∧
          o.acc = s.bindTile c.block (gw g 3) ∧ (ctlB (gw g 1) = false → o.bTile = s.bindTile c.block (gw g 7)) ∧
          o.started = false ∧
          Collected x i m f.d.toNat (64 ≤ s.matsOn c.core) (x.newOp f.d.toNat ⟨[], false⟩ (.mat o)))) ∧
  (∀ (f : FSDA) (s : State) (k : Nat) (js : List Nat) (c : Crew), (Instr.mseq f).wf = true →
    s.clears (mseqHead s f) k js c = true →
    let x := s.issueOf (mseqHead s f) k js c
    let g := x.group f.a 4
    let same : OpBody → Bool := fun b => match b with | .furlong _ => true | _ => false
    let held := (s.ops.filter fun e => e.2.core == c.core && !s.blockOut e.2.block && e.2.furlong?.isSome).length
    (x.teamFails same [1, 2, 3] g = true → exec (.mseq f) s = .next (s.takeTrap k js .team x.act 0 [] 0)) ∧
    (x.teamFails same [1, 2, 3] g = false → ∃ m o, m.crew = k ∧ m.token = f.d.toNat ∧ m.g = g ∧ m.pre = c.pre (gw g 0) ∧
      o.members = [m] ∧ o.need = (if x.owned then 1 else c.team) ∧ o.started = false ∧
      Collected x (.mseq f) m f.d.toNat (8 ≤ held) (x.newOp f.d.toNat ⟨[], false⟩ (OpBody.furlong o))))) ∧
  ((∀ (f : FSD) (s : State) (k : Nat) (js : List Nat) (c : Crew), (Instr.macq f).wf = true →
    s.clears (macqHead f) k js c = true →
    let x := s.issueOf (macqHead f) k js c
    ((s.core c.core).owner ≠ none → ∃ t c', exec (.macq f) s = .next t ∧ tget t.crews k = some c' ∧ Moved x c' ∧
      c'.lanes = c.lanes ∧ (c'.tok f.d.toNat).st = .pending s.nextId ∧
      (t.core c.core).ownq = (s.core c.core).ownq ++ [s.nextId] ∧ (t.core c.core).owner = (s.core c.core).owner) ∧
    ((s.core c.core).owner = none → (s.core c.core).ownq = [] → ∃ t c', exec (.macq f) s = .next t ∧
      tget t.crews k = some c' ∧ c'.lanes = c.lanes ∧ (c'.tok f.d.toNat).st = .done ∧ (t.core c.core).owner = some k)) ∧
  (∀ (f : FS) (s : State) (k : Nat) (js : List Nat) (c : Crew), s.clears (mrelHead f) k js c = true →
    let x := s.issueOf (mrelHead f) k js c
    (s.core c.core).owner = some k ∧
    ((s.core c.core).ownq = [] → ∃ t c', exec (.mrel f) s = .next t ∧ t.crews = (s.setCrew k c').crews ∧ Moved x c' ∧
      c'.alike c ∧ c'.lanes = c.lanes ∧ t.mem = s.mem ∧ (t.core c.core).owner = none ∧ t.ops = s.ops)))

/-! ### Launches, messages, trace records, the commit tree -/

/-- R139, R141 and R345: LAUNCH of a node and a parent that pass the checks, once its slices owe nothing, links the node as
the parent's last child under a pending token when no rejection code applies; else it writes the code (0x16 never) as the
node's status, links nothing and poisons the token at once. At a mark in either node
the token is poisoned and no PC moves. LAUNCH_RELEASE sets the released bit of its crew's node. -/
def Obligations.Launches : Prop :=
  (∀ (f : FSDA) (s : State) (k : Nat) (js : List Nat) (c : Crew) (b : Block) (l q : Loc), (Instr.launch f).wf = true →
    s.clears (launchHead f) k js c = true → tget s.blocks c.block = some b →
    let x := s.issueOf (launchHead f) k js c
    let va := x.reg64 (lowest x.act) f.a.toNat
    let pva := BitVec.ofNat 64 (memNat s.mem (l.pa + 8) 8)
    va.toNat % 256 = 0 → x.check .write 256 (lowest x.act) va = .ok l → isLocal l.pa = true →
    pva.toNat % 256 = 0 → x.check .write 256 (lowest x.act) pva = .ok q → isLocal q.pa = true →
    ((s.marked l.pa 256 = true ∨ s.marked q.pa 256 = true) → ∃ t, exec (.launch f) s = .next t ∧
      ∀ c', tget t.crews k = some c' → (c'.tok f.d.toNat).st = .poisoned ∧ c'.lanes = c.lanes ∧
        ∀ j < 8, (c'.slice j).pc = (c.slice j).pc) ∧
    (s.marked l.pa 256 = false → s.marked q.pa 256 = false →
      (x.owes = true → exec (.launch f) s = .next (s.stall k js)) ∧
      (x.owes = false → s.nodeTainted q.pa = false →
        let code := s.linkCode l.pa b.ctx (some q.pa) false
        ∃ t c', exec (.launch f) s = .next t ∧ tget t.crews k = some c' ∧ Moved x c' ∧ c'.lanes = c.lanes ∧
          (∀ n < 32, n ≠ f.d.toNat → c'.tok n = c.tok n) ∧
          (code ≠ 0 → c'.tok f.d.toNat = ⟨.poisoned, 0, []⟩ ∧ t.ops = s.ops ∧
            (∀ a, (tget t.nodes a).isSome = (tget s.nodes a).isSome) ∧
            (code ≠ 0x16 → s.scrubbed (l.pa + 4) 4 (fun _ => true) = false → memNat t.mem (l.pa + 4) 4 = code) ∧
            (code = 0x16 → t.mem = s.mem)) ∧
          (code = 0 → ∃ id n o, c'.tok f.d.toNat = ⟨.pending id, 0, []⟩ ∧ tget t.ops id = some o ∧ o.body = .launch l.pa ∧
            o.crew = k ∧ o.token = some f.d.toNat ∧ tget t.nodes l.pa = some n ∧ n.va = va ∧ n.ctx = b.ctx ∧
            n.kind = memNat s.mem l.pa 1 ∧ n.parent = q.pa ∧ n.status = 1 ∧ n.launchOp = some id)))) ∧
  (∀ (f : FS) (s : State) (k : Nat) (js : List Nat) (c : Crew) (b : Block),
    s.clears (launchReleaseHead f) k js c = true → tget s.blocks c.block = some b →
    let x := s.issueOf (launchReleaseHead f) k js c
    ∃ t c', exec (.launchRelease f) s = .next t ∧ tget t.crews k = some c' ∧ Moved x c' ∧ c'.lanes = c.lanes ∧
      (∀ n, tget s.nodes b.node = some n → ∃ n', tget t.nodes b.node = some n' ∧ n'.released = true ∧ n'.status = n.status) ∧
      (s.scrubbed (b.node + 100) 1 (fun _ => true) = false →
        memGet t.mem (b.node + 100) = memGet s.mem (b.node + 100) ||| 2) ∧
      ∀ a, a ≠ b.node + 100 → memGet t.mem a = memGet s.mem a)

/-- R381, R382 and R429: MSGS of type 7, or of any type in supervisor state, puts its message in flight under its token;
types 1 to 3 in user state raise PROTECT. MSGR gives every lane that acts the oldest message of the partition's software
queue, with its valid bit and the number that remain, and takes it out; of an empty queue it gives 12 zeros, and of an absent one as
much (log entry 63); marks raise DATAERR (log entry 63). TRACE writes its record of kind 0x20 into the partition's ring when the crew's node is traced and the
ring enabled, and else nothing. -/
def Obligations.MessagesAndTraces : Prop :=
  (∀ (f : FSDA) (s : State) (k : Nat) (js : List Nat) (c : Crew), (Instr.msgs f).wf = true →
    s.clears (msgsHead f) k js c = true →
    let x := s.issueOf (msgsHead f) k js c
    let g := x.group f.a 12
    let typ := ((gw g 1).extractLsb' 16 4).toNat
    (typ ≠ 7 → c.sup = none → exec (.msgs f) s = .next (s.takeTrap k js .protect x.act 0 [] 0)) ∧
    ((typ = 7 ∨ c.sup ≠ none) → ∃ t c', exec (.msgs f) s = .next t ∧ Moved x c' ∧
      Issued x f.d.toNat (x.newOp f.d.toNat (c.pre (gw g 0)) (.send ((gw g 1).extractLsb' 0 10).toNat
        ((gw g 1).extractLsb' 10 4).toNat typ ((g.drop 2).take 8) false)) t c')) ∧
  (∀ (f : FSD) (s : State) (k : Nat) (js : List Nat) (c : Crew), s.clears (msgrHead f) k js c = true →
    let x := s.issueOf (msgrHead f) k js c
    let die := dieOfCore c.core
    let gives (t : State) (ws : Nat → Word) : Prop := ∃ c', tget t.crews k = some c' ∧ Moved x c' ∧
      LanesBut x.act (fun _ => (List.range 12).map (c.depth + f.d.toNat + ·)) (fun _ => []) c c' ∧
      ∀ l, x.act.getLsbD l = true → ∀ i < 12, (c'.lane l).get c.depth (f.d.toNat + i) = ws i
    let at_ := s.queueAt die (s.part die (s.partOf (s.ctxOf c))).msgq
    ((at_ = none ∨ ∃ q, at_ = some q ∧ s.marked q.pa 32 = false ∧ q.head = q.tail) →
      ∃ t, exec (.msgr f) s = .next t ∧ t.mem = s.mem ∧ gives t fun _ => 0) ∧
    (∀ q, at_ = some q → let slot := s.slotOf die q q.head
      ((s.marked q.pa 32 = true ∨ (q.head ≠ q.tail ∧ s.marked slot 64 = true)) →
        exec (.msgr f) s = .next (s.takeTrap k js .dataerr x.act 0 [] 0)) ∧
      (s.marked q.pa 32 = false → q.head ≠ q.tail → s.marked slot 64 = false →
        ∃ t, exec (.msgr f) s = .next t ∧
          (s.scrubbed (q.pa + 12) 4 (fun _ => true) = false → memNat t.mem (q.pa + 12) 4 = (q.head + 1) % 2 ^ 32) ∧
          (∀ a, a < q.pa + 12 ∨ q.pa + 16 ≤ a → memGet t.mem a = memGet s.mem a) ∧
          gives t fun i => let w (i : Nat) := BitVec.ofNat 32 (memNat s.mem (slot + 4 * i) 4)
            if i = 0 then w 0 ||| 0x80000000 else if i = 1 then w 1 else if i < 10 then w (i + 2)
            else if i = 10 then BitVec.ofNat 32 (q.held - 1) else 0))) ∧
  (∀ (f : FSA) (s : State) (k : Nat) (js : List Nat) (c : Crew), s.clears (traceHead f) k js c = true →
    let x := s.issueOf (traceHead f) k js c
    let die := dieOfCore c.core
    let pn := s.partOf (s.ctxOf c)
    let p := s.part die pn
    let on : Prop := s.traced c = true ∧ p.trcEn = true ∧ 4 ≤ p.trcK.toNat ∧ p.trcK.toNat ≤ 24
    (¬ on → ∃ c', exec (.trace f) s = .next (s.setCrew k c') ∧ Moved x c' ∧ c'.alike c ∧ c'.lanes = c.lanes) ∧
    (on → ∃ t c', exec (.trace f) s = .next t ∧ tget t.crews k = some c' ∧ Moved x c' ∧ c'.lanes = c.lanes ∧
      (t.part die pn).widx = p.widx + 1 ∧
      (t.part die pn).ridx = (if (p.widx - p.ridx).toNat = 2 ^ p.trcK.toNat then p.ridx + 1 else p.ridx) ∧
      let slot := memKey s.pkg.split die (32 * (p.trcBase + p.widx.toNat % 2 ^ p.trcK.toNat))
      memBytes t.mem slot 32 = s.trovy die pn (sourceOf c false) 0x20 (x.group f.a 4) ∧
      ∀ a, a < slot ∨ slot + 32 ≤ a → memGet t.mem a = memGet s.mem a))

/-- R394, R396 and R400: CTENR of a node that is not valid, under no parent or under a valid parent that is no leaf, in clean
memory, writes a valid node of count 0 with no children, no entries and the parent given; the parent's number of children
rises by 1, modulo 2^32, and nothing else of it changes. A node that is valid, or a parent that is not or that is a leaf, is
ILLEGAL, with the live lanes as its mask and no address. While an operation of the tree's structure is under way CTENR waits. -/
def Obligations.TreeNodes : Prop :=
  ∀ (f : FSA) (s : State) (k : Nat) (js : List Nat) (c : Crew) (l : Loc), s.clears (ctenrHead f) k js c = true →
    let x := s.issueOf (ctenrHead f) k js c
    let va := x.reg64 (lowest x.act) f.a.toNat
    let up := x.reg64 (lowest x.act) (f.a.toNat + 2)
    let illegal : Prop := exec (.ctenr f) s = .next (s.takeTrap k js .illegal x.live 0 [] 0)
    x.nodeAcc .write va = .ok l → l.pa % 64 = 0 →
    (up = 0 → (s.structBusy l.pa = true → exec (.ctenr f) s = .next (s.stall k js)) ∧
      (s.structBusy l.pa = false → s.marked l.pa 64 = false → l.pa ∉ s.tainted →
        ((s.treeNode l.pa).valid = true → illegal) ∧
        ((s.treeNode l.pa).valid = false → ∃ t c', exec (.ctenr f) s = .next t ∧ tget t.crews k = some c' ∧ Moved x c' ∧
          c'.lanes = c.lanes ∧ t.treeNode l.pa = ⟨0, 0, true, false, 0, 0⟩ ∧ tget t.parents l.pa = none ∧
          ∀ a, a < l.pa ∨ l.pa + 64 ≤ a → memGet t.mem a = memGet s.mem a))) ∧
    (up ≠ 0 → ∀ q : Loc, x.nodeAcc .write up = .ok q → q.pa % 64 = 0 → s.structBusy l.pa = false → s.marked l.pa 64 = false →
      l.pa ∉ s.tainted → s.marked q.pa 64 = false → s.treeLost q.pa = false →
      let p := s.treeNode q.pa
      ((s.treeNode l.pa).valid = true → illegal) ∧
      ((s.treeNode l.pa).valid = false → (p.valid = false ∨ p.leaf = true) → illegal) ∧
      ((s.treeNode l.pa).valid = false → p.valid = true → p.leaf = false →
        ∃ t c', exec (.ctenr f) s = .next t ∧ tget t.crews k = some c' ∧ Moved x c' ∧ c'.lanes = c.lanes ∧
          t.treeNode l.pa = ⟨0, up, true, false, 0, 0⟩ ∧ tget t.parents l.pa = some q.pa ∧
          t.treeNode q.pa = { p with nchild := (p.nchild + 1) % 2 ^ 32 } ∧
          ∀ a, (a < l.pa ∨ l.pa + 64 ≤ a) → (a < q.pa ∨ q.pa + 64 ≤ a) → memGet t.mem a = memGet s.mem a))

/-- R226, R394 and R402: CTREAD gives the count of a valid node in clean memory to a pair of every lane that acts; CTCMP
sets a predicate of each to whether it differs from the number in its group. Both drop the core's load-cache line of the node
and change nothing else. A node that is not valid is ILLEGAL to both, with no address. -/
def Obligations.TreeCounts : Prop :=
  ∀ (f : FSDA) (s : State) (k : Nat) (js : List Nat) (c : Crew) (l : Loc) (i : Instr) (h : Head),
    ((i = .ctread f ∧ h = ctreadHead f) ∨ (i = .ctcmp f ∧ h = ctcmpHead f)) → i.wf = true → s.clears h k js c = true →
    let x := s.issueOf h k js c
    let va := x.reg64 (lowest x.act) f.a.toNat
    let n := s.treeNode l.pa
    x.nodeAcc .read va = .ok l → s.marked l.pa 64 = false → s.treeLost l.pa = false →
    (n.valid = false → exec i s = .next (s.takeTrap k js .illegal x.live 0 [] 0)) ∧
    (n.valid = true → ∃ c', exec i s = .next ((s.lcacheDrop c.core l.pa 64).setCrew k c') ∧ Moved x c' ∧ c'.alike c ∧
      (i = .ctread f → LanesBut x.act (fun _ => [c.depth + f.d.toNat, c.depth + f.d.toNat + 1]) (fun _ => []) c c' ∧
        ∀ j, x.act.getLsbD j = true → (c'.lane j).get64 c.depth f.d.toNat = BitVec.ofNat 64 n.count) ∧
      (i = .ctcmp f → LanesBut x.act (fun _ => []) (fun _ => [f.d.toNat]) c c' ∧
        ∀ j, x.act.getLsbD j = true → f.d ≠ 0 → ((c'.lane j).pred f.d.toNat = true ↔
          n.count ≠ (x.reg64 (lowest x.act) (f.a.toNat + 2)).toNat)))

/-! ### The system instructions -/

namespace Sys2Proof.Machine

/-- The privileged instructions with what they state before their effect (R59, R318). -/
def privilegedForm : Instr → Option Head
  | .eret f => some (eretHead f)
  | .mappg f => some (mappgHead f)
  | .unmappg f => some (unmappgHead f)
  | .tlbinv f => some (tlbinvHead f)
  | .srd f => some (srdHead f)
  | .swr f => some (swrHead f)
  | .fltinfo f => some (fltinfoHead f)
  | _ => none

/-- No translation of a context that meets a range is left in any core's translation cache (R334). -/
def State.noTlb (s : State) (ctx base n : Nat) : Prop :=
  ∀ e ∈ s.cores, e.2.ctx = some ctx → ∀ t ∈ e.2.tlb, rangesMeet base n t.base t.size = false

/-- What a write of v to the registers L2H_REDSTAT, FAB_ and TRC_ leaves in them, by the access codes of their fields: bits of
RW fields take the value written, W1C bits fall where a 1 is written, and RO fields keep what they were. -/
def State.wroteReg (s t : State) (r : RegAt) (v : Nat) : Prop :=
  let new := t.readReg r
  let p := s.part r.die r.inst
  (r.reg = .redstat → new % 2 ^ 30 = v % 2 ^ 30 ∧ new.testBit 30 = ((s.home r.slice).refused && !v.testBit 30) ∧
    new.testBit 31 = ((s.home r.slice).lost && !v.testBit 31)) ∧
  (r.reg = .trcRidx → new = if (BitVec.ofNat 32 v - p.ridx).toNat ≤ (p.widx - p.ridx).toNat then v % 2 ^ 32 else s.readReg r) ∧
  (r.reg = .trcCtl → new = v % 2 ^ 6) ∧ (r.reg = .trcBase → new = v / 2 ^ 5 % 2 ^ 47 * 2 ^ 5) ∧
  (r.reg = .trcWidx ∨ r.reg = .trcTstat → new = s.readReg r) ∧
  (∀ i, r.reg = .route i → new = v % 2 ^ 32 - v / 2 ^ 24 % 2 ^ 7 * 2 ^ 24) ∧
  (∀ i, r.reg = .portstat i → new % 2 ^ 16 = v % 2 ^ 16 ∧ new.testBit 31 = (s.port r.die i).up ∧
    new.testBit 30 = ((s.port r.die i).failed && !v.testBit 30)) ∧
  (r.reg = .brstat → new = v % 2 ^ 48) ∧
  (r.reg = .tickstat → (s.entriesUsed r.die).length < 2 ^ 16 → new / 2 ^ 16 = v / 2 ^ 16 % 2 ^ 48 ∧
    new % 2 ^ 16 = (s.entriesUsed r.die).length) ∧
  (r.reg = .exproot → new = v / 2 ^ 12 % 2 ^ 40 * 2 ^ 12 + v % 2) ∧ (r.reg = .xmlog → new = v / 2 ^ 16 % 2 ^ 36 * 2 ^ 16 + v % 2) ∧
  (r.reg = .msgq ∨ r.reg = .ctlq → new = v / 2 ^ 6 % 2 ^ 46 * 2 ^ 6 + v % 2) ∧
  (r.reg = .xcmd → new = if p.xbusy ∨ v / 2 ^ 32 % 4 < 2 then 2 ^ 63 else 0)

end Sys2Proof.Machine

/-- R59 and R318: outside supervisor state a privileged instruction that passes the checks of R58 raises PROTECT, with its
acting lanes as the mask, and does nothing else. -/
def Obligations.Privileged : Prop :=
  ∀ (i : Instr) (h : Head) (s : State) (k : Nat) (js : List Nat) (c : Crew), privilegedForm i = some h →
    s.clears h k js c = true → c.sup = none →
    exec i s = .next (s.takeTrap k js .protect (s.issueOf h k js c).act 0 [] 0)

/-- R324 and R325: FLTINFO in supervisor state writes a quad of every lane that acts: for selector 0 of the lane the cause,
its bit of the mask and of the writes, the service code, the mask and its address; for 1 the saved mode of its slice, its
saved predicates and the PC of the trapping instruction; for 2 the oldest entry of the engine fault record, or zeros when
it is empty. When a lane selects 2 that entry is removed, once, and lost is cleared. -/
def Obligations.FaultReports : Prop :=
  ∀ (f : FSDA) (s : State) (k : Nat) (js : List Nat) (c : Crew) (sv : Saved), s.clears (fltinfoHead f) k js c = true →
    c.sup = some sv → c.trap.cause < 256 →
    let x := s.issueOf (fltinfoHead f) k js c
    let sel (l : Nat) := (x.reg l f.a.toNat).toNat
    ∃ c', exec (.fltinfo f) s = .next (s.setCrew k c') ∧ Moved x c' ∧
      LanesBut x.act (fun _ => (List.range 4).map (c.depth + f.d.toNat + ·)) (fun _ => []) c c' ∧
      ((∃ l, x.act.getLsbD l = true ∧ sel l = 2) → c'.efr = c.efr.drop 1 ∧ (c.efr ≠ [] → c'.efrLost = false)) ∧
      ((∀ l, x.act.getLsbD l = true → sel l ≠ 2) → c'.efr = c.efr ∧ c'.efrLost = c.efrLost) ∧
      ∀ l, x.act.getLsbD l = true →
        let w (i : Nat) := (c'.lane l).get c.depth (f.d.toNat + i)
        sel l ≤ 2 ∧
        (sel l = 0 → (w 0).extractLsb' 0 8 = BitVec.ofNat 8 c.trap.cause ∧ (w 0).getLsbD 8 = c.trap.mask.getLsbD l ∧
          (w 0).getLsbD 9 = c.trap.writes.getLsbD l ∧ (w 0).extractLsb' 10 13 = c.trap.code ∧ w 1 = c.trap.mask ∧
          w 3 ++ w 2 = (tget c.trap.addrs l).getD 0) ∧
        (sel l = 1 → w 3 ++ w 2 = c.trap.pc ∧ (∀ p, sv.preds[l]? = some p → w 1 = (p ||| 1).zeroExtend 32) ∧
          ∀ q : Nat, sv.slices[q]? = some (l / 4) → (∀ r < q, sv.slices[r]? ≠ some (l / 4)) →
            ∀ m, sv.modes[q]? = some m → w 0 = m.zeroExtend 32) ∧
        (sel l = 2 → (c.efr = [] → w 0 = 0 ∧ w 1 = 0 ∧ w 2 = 0 ∧ w 3 = 0) ∧
          ∀ e r, c.efr = e :: r → e.cause < 256 → e.token < 32 → r.length < 8 → (w 0).extractLsb' 0 8 = BitVec.ofNat 8 e.cause ∧
            (w 0).extractLsb' 8 5 = BitVec.ofNat 5 e.token ∧ (w 0).getLsbD 13 = true ∧ (w 0).getLsbD 14 = e.tile ∧
            (w 0).getLsbD 15 = c.efrLost ∧ (w 0).extractLsb' 16 16 = BitVec.ofNat 16 e.step ∧
            (w 1).toNat = r.length ∧ w 3 ++ w 2 = e.addr)

/-- R330 to R332: MAPPG in supervisor state, of a canonical address and with a clean pool object, whose walk and pool
answer, gives every lane that acts a status and the pool's count. When the leaf's table is there and its entry clean:
an entry that is valid gives 1 and changes nothing; else an empty pool gives 2; else the top frame is taken, its bytes
made 0 and the leaf entry written with the attributes given, and the status is 0. R333 and R334: UNMAPPG in supervisor
state of a canonical address whose walk ends at an entry with V = 0 gives that entry (R333 itself speaks of the leaf
entry: log entry 53) and changes no memory. Where it finds a leaf, it drops the context's translations of the page or
run and makes the entry 0; its gang then stays not ready until the accesses made through the entry have been
performed, and it gives the entry as it was, with bit 11 set when the frame was to be pushed and the stack was full.
TLBINV drops the context's translations that meet its range (all, for a length of 0), and its gang waits so too. -/
def Obligations.PageTableCommands : Prop :=
  (∀ (f : FSDA) (s : State) (k : Nat) (js : List Nat) (c : Crew), s.clears (mappgHead f) k js c = true → c.sup ≠ none →
    let x := s.issueOf (mappgHead f) k js c
    let va := x.reg64 (lowest x.act) f.a.toNat
    let attr := (gw (x.group f.a 4) 2).toNat
    let p := s.pool c.core
    let leaf := if p.size = 2 then 2 else 1
    let gives (t : State) (n : Nat) : Prop := ∃ c', tget t.crews k = some c' ∧ Moved x c' ∧
      LanesBut x.act (fun _ => [c.depth + f.d.toNat, c.depth + f.d.toNat + 1]) (fun _ => []) c c' ∧
      ∀ l, x.act.getLsbD l = true → (c'.lane l).get c.depth f.d.toNat = BitVec.ofNat 32 n ∧
        (c'.lane l).get c.depth (f.d.toNat + 1) = BitVec.ofNat 32 (t.pool c.core).count
    s.marked p.pa 32 = false → canonical va = true →
    (∀ n, (s.mapPage c.core va.toNat attr).2 = .status n → ∃ t, exec (.mappg f) s = .next t ∧ gives t n) ∧
    (∀ frame slot, s.makeTables c.core leaf va.toNat 5 (s.core c.core).ptroot = (s, .table frame) → p.size ≠ 1 →
      s.leafSlots c.core p.size leaf va.toNat frame = [slot] → s.marked slot 8 = false →
      (memGet s.mem slot % 2 = 1 → ∃ t, exec (.mappg f) s = .next t ∧ gives t 1 ∧ t.mem = s.mem) ∧
      (memGet s.mem slot % 2 = 0 → p.count = 0 → ∃ t, exec (.mappg f) s = .next t ∧ gives t 2) ∧
      (memGet s.mem slot % 2 = 0 → p.count ≠ 0 → let top := s.poolSlot c.core p (p.count - 1)
        let fr := bits (memNat s.mem top 8) 51 12 * 4096
        let at_ := memKey s.pkg.split (dieOfCore c.core) fr
        s.marked top 8 = false → s.scrubbed slot 8 (fun _ => true) = false → ∃ t, exec (.mappg f) s = .next t ∧ gives t 0 ∧
          memNat t.mem slot 8 = leafEntry fr attr false ∧
          ∀ a, at_ ≤ a → a < at_ + (if p.size = 2 then 2 ^ 21 else 4096) → (a < slot ∨ slot + 8 ≤ a) → memGet t.mem a = 0))) ∧
  ((∀ (f : FSDA) (s : State) (k : Nat) (js : List Nat) (c : Crew), s.clears (unmappgHead f) k js c = true → c.sup ≠ none →
    let x := s.issueOf (unmappgHead f) k js c
    let va := x.reg64 (lowest x.act) f.a.toNat
    let asked := (gw (x.group f.a 4) 2).getLsbD 0
    let gives (t : State) (v : Dword) : Prop := ∃ c', tget t.crews k = some c' ∧ Moved x c' ∧
      LanesBut x.act (fun _ => [c.depth + f.d.toNat, c.depth + f.d.toNat + 1]) (fun _ => []) c c' ∧
      ∀ l, x.act.getLsbD l = true → (c'.lane l).get64 c.depth f.d.toNat = v
    let left := fun (v : Inval) => s.invalOut v = true
    canonical va = true →
    (∀ v, x.inval = some v →
      (left v → ∃ t : State, exec (.unmappg f) s = .next (t.stall k js) ∧ t.mem = s.mem) ∧
      (¬ left v → asked = false → ∃ t, exec (.unmappg f) s = .next t ∧ t.mem = s.mem ∧ gives t v.old)) ∧
    (x.inval = none → s.walk (dieOfCore c.core) 5 (s.core c.core).ptroot va.toNat = .fault →
      ∃ t, exec (.unmappg f) s = .next t ∧ t.mem = s.mem ∧
        gives t (s.absentEntry (dieOfCore c.core) 5 (s.core c.core).ptroot va.toNat)) ∧
    ∀ lv pa e, x.inval = none → s.walk (dieOfCore c.core) 5 (s.core c.core).ptroot va.toNat = .leaf lv pa e →
      let n := if e.getLsbD 5 then runLength lv else 1
      let span := n * levelSize lv
      let base := va.toNat / span * span
      let v := s.accessesOut (s.ctxOf c) base span [(memKey s.pkg.split (dieOfCore c.core) (entryFrame e / span * span), span)] e
      let cleared (t : State) : Prop := t.noTlb (s.ctxOf c) base span ∧
        (∀ a, pa / (8 * n) * (8 * n) ≤ a → a < pa / (8 * n) * (8 * n) + 8 * n → memGet t.mem a = 0) ∧
        ∀ a, a < pa / (8 * n) * (8 * n) ∨ pa / (8 * n) * (8 * n) + 8 * n ≤ a → memGet t.mem a = memGet s.mem a
      (left v → s.scrubbed (pa / (8 * n) * (8 * n)) (8 * n) (fun _ => true) = false →
        ∃ t : State, exec (.unmappg f) s = .next (t.stall k js) ∧ cleared t ∧ tget t.invals (8 * k + js.headD 0) = some v) ∧
      (¬ left v → asked = false → s.scrubbed (pa / (8 * n) * (8 * n)) (8 * n) (fun _ => true) = false →
        ∃ t, exec (.unmappg f) s = .next t ∧ gives t e ∧ cleared t) ∧
      (¬ left v → e.getLsbD 5 = false → asked = true →
        s.marked (s.pool c.core).pa 32 = false → ((s.pool c.core).pa + 64 ≤ pa / 8 * 8 ∨ pa / 8 * 8 + 8 ≤ (s.pool c.core).pa) →
        ∃ t, exec (.unmappg f) s = .next t ∧ t.noTlb (s.ctxOf c) base span ∧
          gives t (if (s.pool c.core).cap ≤ (s.pool c.core).count then e ||| 0x800 else e))) ∧
  (∀ (f : FSA) (s : State) (k : Nat) (js : List Nat) (c : Crew), s.clears (tlbinvHead f) k js c = true → c.sup ≠ none →
    let x := s.issueOf (tlbinvHead f) k js c
    let ctx := s.ctxOf c
    let base := (x.reg64 (lowest x.act) f.a.toNat).toNat / 4096 * 4096
    let n := 4096 * (gw (x.group f.a 4) 2).toNat
    let v := s.accessesOut ctx base n (s.framesOf ctx base n) 0
    (∀ w, x.inval = some w → (s.invalOut w = true → ∃ t : State, exec (.tlbinv f) s = .next (t.stall k js) ∧ t.mem = s.mem) ∧
      (s.invalOut w = false → ∃ t c', exec (.tlbinv f) s = .next t ∧ t.crews = (s.setCrew k c').crews ∧ Moved x c' ∧
        c'.alike c ∧ c'.lanes = c.lanes ∧ t.mem = s.mem)) ∧
    (x.inval = none → s.invalOut v = true → ∃ t : State, exec (.tlbinv f) s = .next (t.stall k js) ∧ t.noTlb ctx base n ∧
      tget t.invals (8 * k + js.headD 0) = some v) ∧
    (x.inval = none → s.invalOut v = false → ∃ t c', exec (.tlbinv f) s = .next t ∧ t.crews = (s.setCrew k c').crews ∧ Moved x c' ∧
      c'.alike c ∧ c'.lanes = c.lanes ∧ t.mem = s.mem ∧ t.noTlb ctx base n)))

/-- R335 and R336: SRD and SWR in supervisor state of a register that the issuer may use, its own core's where it is a
core's, under the grant where one is needed, read it into a pair of every lane that acts, and write it under the access
codes of its fields (among them L2H_REDSTAT and TRC_RIDX, R453); of any other register they raise PROTECT. -/
def Obligations.DeviceRegisters : Prop :=
  (∀ (f : FSDA) (s : State) (k : Nat) (js : List Nat) (c : Crew) (r : RegAt), c.sup ≠ none →
    (s.clears (srdHead f) k js c = true →
      let x := s.issueOf (srdHead f) k js c
      regOf (x.reg (lowest x.act) f.a.toNat) = some r →
      (x.mayUse r false = false → exec (.srd f) s = .next (s.takeTrap k js .protect x.act 0 [] 0)) ∧
      (x.mayUse r false = true → ∃ c', exec (.srd f) s = .next (s.setCrew k c') ∧
        Computed x (fun _ => [f.d.toNat, f.d.toNat + 1]) (fun _ => []) (s.setCrew k c') c' ∧
        ∀ l, x.act.getLsbD l = true → (c'.lane l).get64 c.depth f.d.toNat = BitVec.ofNat 64 (s.readReg r))) ∧
    (s.clears (swrHead f) k js c = true →
      let x := s.issueOf (swrHead f) k js c
      let v := (x.reg64 (lowest x.act) f.d.toNat).toNat
      regOf (x.reg (lowest x.act) f.a.toNat) = some r →
      (x.mayUse r true = false → exec (.swr f) s = .next (s.takeTrap k js .protect x.act 0 [] 0)) ∧
      (x.mayUse r true = true → ∃ t c', exec (.swr f) s = .next t ∧ t.crews = (s.setCrew k c').crews ∧ Moved x c' ∧
        c'.alike c ∧ c'.lanes = c.lanes ∧ t.mem = s.mem ∧
        (r.reg = .coreCtl → t.readReg r = v % 2) ∧ (r.reg = .coreWaitivl → t.readReg r = v % 2 ^ 16) ∧
        (r.reg = .coreWaitpoll ∨ r.reg = .redhold ∨ r.reg = .ctlag → t.readReg r = v % 2 ^ 32) ∧
        (r.reg = .scrubctl → t.readReg r = v % 2 ^ 17) ∧
        s.wroteReg t r v ∧
        (r.reg = .coreMxctl → (t.core r.core).mown = if s.occupied r.core then (s.core r.core).mown else v.testBit 15) ∧
        (r.reg = .ctstat → (t.die r.die).ctFull = ((s.die r.die).ctFull && !v.testBit 31) ∧
          (t.die r.die).ctLost = ((s.die r.die).ctLost && !v.testBit 30)))))

/-! ### Steps of hardware: waits, arrivals, retirement -/

namespace Sys2Proof.Machine

/-- Slices js of crew c go on past the instruction they waited at, in crew c', and no slice but theirs is changed. -/
structure Resumed (c c' : Crew) (js : List Nat) : Prop where
  go : ∀ j ∈ js, j < 8 → (c'.slice j).pc = (c.slice j).pc + 4 ∧ (c'.slice j).wait = .none ∧
    (c'.slice j).exited = (c.slice j).exited ∧ (c'.slice j).live = (c.slice j).live
  others : ∀ j, j ∉ js → c'.slice j = c.slice j

/-- A token a crew waits for completes (R229): done, or poisoned. -/
def Crew.ended (c' : Crew) (n : Nat) (poison : Bool) (bytes : Nat) : Prop :=
  c'.tok n = ⟨if poison then .poisoned else .done, bytes, []⟩

end Sys2Proof.Machine

/-- R126, R156, R184, R199, R234, R251 and R281: a gang that waits goes on past its instruction when what it waits for
has come: the masks' tokens settled (p7 told of poison), its batches ended, the phase complete or its object invalid
(p7 told of poison), the condition of its WAITA met (the result written), or the clock of its SLEEP reached. A tile is
clear: its handle is written. A gang ready for 32,768 clocks is aged. R122 to R125, R143, R292: REGANG completes when
every named slice that has not exited waits with its mask, SYNCC when every slice that has not exited waits at one,
and the slices go on. When all wait and neither can complete, the waits are cancelled and the gang with the lowest
slice raises ILLEGAL. A grow that the free registers cover gives the crew its allotment and prio and puts its slices
at the entry. A crew without live slices, pending tokens and deferred arrivals retires. -/
def Obligations.WaitsEnd : Prop :=
  ((∀ (s : State) (k j : Nat) (c : Crew) (m : Word) (any : Bool) (d : Nat) (act : BitVec 32),
    s.ev = some (.tokenWaitWake k j) → tget s.crews k = some c → (c.slice j).wait = .tokens m any d act →
    (if any then m = 0 ∨ ∃ n < 32, m.getLsbD n = true ∧ ¬ c.isPending n else ∀ n < 32, m.getLsbD n = true → ¬ c.isPending n) →
    ∃ c', exec .tokenWaitWake s = .next (s.setCrew k c') ∧ Resumed c c' (c.gangOf j) ∧ ∀ l < 32, act.getLsbD l = true →
      ((c'.lane l).pred 7 = true ↔ ∃ n < 32, m.getLsbD n = true ∧ (c.tok n).st = .poisoned)) ∧
  (∀ (s : State) (k j : Nat) (c : Crew) (n : Word) (act : BitVec 32), s.ev = some (.batchWaitWake k j) →
    tget s.crews k = some c → (c.slice j).wait = .batch n act →
    (∀ i ∈ c.gangOf j, ∀ q a, (c.slice i).wait = .batch q a → ∀ r ∈ (c.slice i).batch.recs, covers q r.num = true → r.copies = []) →
    (∀ i ∈ c.gangOf j, ∃ q a, (c.slice i).wait = .batch q a) →
    ∃ c', exec .batchWaitWake s = .next (s.setCrew k c') ∧ ∀ i ∈ c.gangOf j, i < 8 → (c'.slice i).pc = (c.slice i).pc + 4 ∧
      (c'.slice i).wait = .none) ∧
  (∀ (s : State) (k j : Nat) (c : Crew) (pa : Nat) (n : Word) (act : BitVec 32) (o : BarObj),
    s.ev = some (.barrierWaitWake k j) → tget s.crews k = some c → (c.slice j).wait = .barrier pa n act →
    s.isOut c = false → s.barSee pa = .ok o → (o.valid = false ∨ o.past n) →
    ∃ t c', exec .barrierWaitWake s = .next t ∧ t.crews = (s.setCrew k c').crews ∧ t.mem = s.mem ∧
      Resumed c c' (c.gangOf j) ∧ ∀ l < 32, act.getLsbD l = true → (c'.lane l).pred 7 = (!o.valid || o.lpoison)) ∧
  (∀ (i : Instr) (s : State) (k j : Nat) (c : Crew) (w : WaitA),
    ((i = .waitaMonitorWake ∧ s.ev = some (.waitaMonitorWake k j)) ∨ (i = .waitaPoll ∧ s.ev = some (.waitaPoll k j))) →
    tget s.crews k = some c → (c.slice j).wait = .waita w → isPeer w.loc.pa = false → s.marked w.loc.pa w.n = false →
    w.holds (s.waitaRead c.core w) = true →
    ∃ t c', exec i s = .next t ∧ t.crews = (s.setCrew k c').crews ∧ t.mem = s.mem ∧ Resumed c c' (c.gangOf j) ∧
      ∀ l < 32, w.act.getLsbD l = true → ∀ p, (w.n = 4 ∧ p = 0) ∨ (w.n = 8 ∧ p < 2) →
        tget (c'.lane l).regs (w.d + p) = (loadRegs w.n false (s.waitaRead c.core w))[p]?) ∧
  (∀ (s : State) (k j : Nat) (c : Crew) (w : Nat), s.ev = some (.sleepExpiry k j) → tget s.crews k = some c →
    (c.slice j).wait = .sleep w → w ≤ s.clk →
    ∃ c', exec .sleepExpiry s = .next (s.setCrew k c') ∧ c'.lanes = c.lanes ∧ c'.alike c ∧
      ∀ i ∈ c.gangOf j, i < 8 → (c'.slice i).wait = .none ∧ (c'.slice i).pc = (c.slice i).pc) ∧
  (∀ (s : State) (k j : Nat) (c : Crew), s.ev = some (.gangAged k j) → tget s.crews k = some c → c.ready s.clk j = true →
    (c.slice j).aged = false → (c.slice j).since + 32768 ≤ s.clk →
    ∃ c', exec .gangAged s = .next (s.setCrew k c') ∧ c'.lanes = c.lanes ∧ c'.alike c ∧
      ∀ i ∈ c.gangOf j, i < 8 → c'.slice i = { c.slice i with aged := true }) ∧
  (∀ (s : State) (id : Nat) (p : Pend) (c : Crew) (h : Word) (r : Nat), s.ev = some (.tileClearDone id) →
    tget s.pends id = some p → tget s.crews p.crew = some c → p.land = .handle h → p.dst = [r] → p.causes = [] →
    p.failed = [] → p.complete = true →
    ∃ c', exec .tileClearDone s = .next (({ s with pends := tdel s.pends id } : State).setCrew p.crew c') ∧
      c'.slices = c.slices ∧ ∀ l < 32, p.act.getLsbD l = true → tget (c'.lane l).regs r = some h)) ∧
  ((∀ (s : State) (k : Nat) (m : BitVec 8) (c : Crew), s.ev = some (.regangComplete k m) → tget s.crews k = some c →
    (∃ j ∈ c.present, (c.slice j).wait = .regang m) → (∀ j ∈ c.present, m.getLsbD j = true → (c.slice j).wait = .regang m) →
    ∃ c', exec .regangComplete s = .next (s.setCrew k c') ∧ c'.lanes = c.lanes ∧
      ∀ j ∈ c.present, j < 8 → (c.slice j).wait = .regang m → (c'.slice j).pc = (c.slice j).pc + 4 ∧ (c'.slice j).wait = .none ∧
        ∀ i ∈ c.present, i < 8 → (c.slice i).wait = .regang m → (c.slice i).pc = (c.slice j).pc →
          (c'.slice i).gang = (c'.slice j).gang) ∧
  (∀ (s : State) (k : Nat) (c : Crew), s.ev = some (.synccComplete k) → tget s.crews k = some c → c.present ≠ [] →
    (∀ j ∈ c.present, (c.slice j).wait = .sync) →
    ∃ c', exec .synccComplete s = .next (s.setCrew k c') ∧ c'.lanes = c.lanes ∧ Resumed c c' c.present) ∧
  (∀ (s : State) (k : Nat) (c : Crew), s.ev = some (.crewDeadlock k) → tget s.crews k = some c → c.deadlocked = true →
    ∃ c', exec .crewDeadlock s = .next ((s.setCrew k c').takeTrap k (c.gangOf (c.present.headD 0)) .illegal
        (c.live (c.gangOf (c.present.headD 0))) 0 [] 0) ∧ c'.lanes = c.lanes ∧
      ∀ j ∈ c.present, j < 8 → (c'.slice j).wait = .none ∧ (c'.slice j).pc = (c.slice j).pc) ∧
  (∀ (s : State) (k : Nat) (c : Crew) (r : RoleReq), s.ev = some (.roleswGrant k) → tget s.crews k = some c →
    c.role = some r → .roleswGrant k ∈ s.roleSteps c.block →
    ∃ t c', exec .roleswGrant s = .next t ∧ t.crews = (s.setCrew k c').crews ∧ t.mem = s.mem ∧ c'.allot = r.allot ∧
      c'.prio = r.prio ∧ c'.role = none ∧ (∀ j ∈ c.present, j < 8 → (c'.slice j).pc = r.entry ∧ (c'.slice j).wait = .none) ∧
      ∀ l < 32, ∀ i, tget (c'.lane l).regs i = if i < min c.allot r.allot then tget (c.lane l).regs i else none) ∧
  (∀ (s : State) (k : Nat) (c : Crew), s.ev = some (.crewRetire k) → tget s.crews k = some c → c.present = [] →
    (∀ n < 32, ¬ c.isPending n) → c.deferred = [] →
    (∀ e ∈ s.pends, e.2.crew = k → e.2.complete = true) → ∃ t, exec .crewRetire s = .next t ∧ tget t.crews k = none))

/-- R146, R155, R237, R243 and R250: an update that comes due is applied to a valid object (R243) and discarded at an
invalid one; a crew's oldest deferred arrival whose copies have ended is made, poisoned when a batch that it covers
holds a poisoned record still, and held no more. A task node's counter falls by the count, modulo 2^32, with its
dpoison bit set by poison. A node whose blocks have all retired, or which has none and may start, ends with status 3,
or 4 after a fault, and is linked no more. R5, R60 and R329: a word that does not decode raises ILLEGAL, and a fetch
that fails raises its cause at its own address, both with the gang's live lanes. A write from outside changes the
register that its address names, the FAB_ registers (R384) and TRC_RIDX (R453) among them. -/
def Obligations.UpdatesArrive : Prop :=
  ((∀ (s : State) (u : BarUpd) (o : BarObj), s.ev = some (.barrierUpdate u) → isPeer u.pa = false → s.barSee u.pa = .ok o →
    (o.valid = false → exec .barrierUpdate s = .next s) ∧
    (o.valid = true → ∀ t, s.barApply u.pa o u.arrive u.bytes u.poison = some t → exec .barrierUpdate s = .next t)) ∧
  (∀ (s : State) (k : Nat) (c : Crew) (d : Deferred) (r : List Deferred) (o : BarObj), s.ev = some (.deferredArrival k) →
    tget s.crews k = some c → c.deferred = d :: r → s.arrivalDue k d = true → isPeer d.pa = false →
    s.barSee d.pa = .ok o → o.valid = true →
    let c1 := d.covers.foldl (fun (q : Crew) e => q.modSlice e.1 fun sl => { sl with batch := sl.batch.retire e.2 }) c
    ∀ t, (s.setCrew k { c1 with deferred := r }).barApply d.pa o true d.bytes.toInt
        (d.covers.any fun e => (c.slice e.1).batch.poisonedBy e.2) = some t →
      ∃ t', exec .deferredArrival s = .next t' ∧ t'.crews = t.crews ∧ t'.mem = t.mem ∧ t'.bars = t.bars) ∧
  (∀ (s : State) (pa n : Nat) (poison : Bool), s.ev = some (.taskDepcountDecrement pa n poison) →
    s.scrubbed (pa + 116) 5 (fun _ => true) = false →
    ∃ t, exec .taskDepcountDecrement s = .next t ∧
      BitVec.ofNat 32 (memNat t.mem (pa + 116) 4) = BitVec.ofNat 32 (memNat s.mem (pa + 116) 4) - BitVec.ofNat 32 n ∧
      memGet t.mem (pa + 120) = (if poison then memGet s.mem (pa + 120) ||| 1 else memGet s.mem (pa + 120)) ∧
      ∀ a, a < pa + 116 ∨ pa + 121 ≤ a → memGet t.mem a = memGet s.mem a) ∧
  (∀ (i : Instr) (s : State) (pa : Nat) (n : Node),
    ((i = .launchNodeRetire ∧ s.ev = some (.launchNodeRetire pa) ∧ s.nodeOver pa n = true) ∨
      (i = .zeroBlockNode ∧ s.ev = some (.zeroBlockNode pa) ∧ s.nodeEmpty pa n = true)) →
    tget s.nodes pa = some n → s.scrubbed (pa + 4) 4 (fun _ => true) = false →
    ∃ t, exec i s = .next t ∧ tget t.nodes pa = none ∧ memNat t.mem (pa + 4) 4 = (if n.faulted then 4 else 3) ∧
      ∀ a, a < pa + 4 ∨ pa + 8 ≤ a → memGet t.mem a = memGet s.mem a)) ∧
  ((∀ (s : State) (w : Word) (k : Nat) (js : List Nat) (c : Crew), s.ev = some (.illegalInstructionWord w) →
    s.cur = some (k, js) → tget s.crews k = some c →
    exec .illegalInstructionWord s = .next (s.takeTrap k js .illegal (c.live js) 0 [] 0)) ∧
  (∀ (s : State) (k j : Nat) (js : List Nat) (c : Crew) (e : Cause), s.ev = some .fetchFault →
    s.cur = some (k, j :: js) → tget s.crews k = some c → s.fetch c fetchChoice (c.slice j).pc = .bad e →
    ∃ addrs : Table Dword, exec .fetchFault s = .next (s.takeTrap k (j :: js) e (c.live (j :: js)) 0 addrs 0) ∧
      ∀ l a, (l, a) ∈ addrs ↔ l < 32 ∧ (c.live (j :: js)).getLsbD l = true ∧ a = (c.slice j).pc) ∧
  (∀ (s : State) (a : Word) (v : Dword) (r : RegAt), s.ev = some (.registerWrite a v) → regOf a = some r →
    ∃ t, exec .registerWrite s = .next t ∧ t.crews = s.crews ∧ t.mem = s.mem ∧ s.wroteReg t r v.toNat ∧
      (r.reg = .coreCtl → t.readReg r = v.toNat % 2) ∧ (r.reg = .coreTmkey → s.occupied r.core = false → t.readReg r = v.toNat % 2 ^ 12) ∧
      (r.reg = .xdto ∨ r.reg = .rto ∨ r.reg = .trcDrop ∨ r.reg = .redhold ∨ r.reg = .ctlag → t.readReg r = v.toNat % 2 ^ 32) ∧
      (r.reg = .pwrBudget → t.readReg r = v.toNat % 2 ^ 12) ∧
      (r.reg = .escal → t.readReg r = (v.toNat ||| 3) % 2 ^ 12)))

/-! ### Steps of the engines -/

/-- R261, R271, R273, R292, R301, R302, R305, R306, R311 and R313: a copy starts when it is next in start order, its
preconditions have ended and its slices owe no earlier access; from then on it goes on by the model's steps (log entry
5). Poisoned, or across the end of its tile's rows, it makes none but its marks and comes to its end; when it ends its
token is done or poisoned. A matrix operation starts so too, when no other runs on its core, and goes on step after
step (log entry 38); poisoned, or with an accumulator of a wrong shape, it comes to its end at once; at its completion
it leaves the table. A macro-operation starts in turn, issues the next step that is ready, and leaves the table when
its plan is complete, or when it has failed, nothing it issued is still out and its marks are made. R415 to R418, R421
and R422: a collective begins in start order once its slices owe nothing, takes the notices of members whose operation
agrees and holds those that come too early; it sends its next step, stages a reduction chunk of a part that another
member owns, or that waits for the other children of a tree's root, and ends, its token done or poisoned with its
destination bytes, when it is over. When FAB_RTO has passed without progress it drops what it has not sent, and is
poisoned. R394, R396, R403 and R408: a delta entry that has been open long enough sets out to its leaf. A roll-up adds
its delta to the node it meets, modulo 2^64, and goes on to the parent in force, or ends at a root; at a marked node
it is lost and noted. A settle whose roll-ups have passed completes its token, poisoned when one was lost. -/
def Obligations.EngineAndTreeSteps : Prop :=
  ((∀ (s : State) (id : Nat) (o : Op) (c : CopyOp), s.ev = some (.copyStart id) → tget s.ops id = some o → o.body = .copy c →
    let n := copyBytes c.kind c.g
    let c1 : CopyOp := { c with started := true, todo := if n = 0 then [] else [(0, n)] }
    (s.copyRuns o.core c = true → exec .copyStart s = .next (s.copyStep id o c)) ∧
    (s.copyReady id o c = true → (o.poisonedPre = true ∨ s.crossesRow c1 = true) →
      ∃ t c', exec .copyStart s = .next t ∧ tget t.ops id = some { o with body := .copy c' } ∧ c'.poisoned = true ∧ c'.todo = [] ∧
        c'.held = [] ∧ (c'.peers = [] → c'.asks = [] → c'.finished = true ∧ .copyComplete id ∈ t.due)) ∧
    (s.copyReady id o c = true → o.poisonedPre = false → s.crossesRow c1 = false →
      exec .copyStart s = .next (s.putCopy id c1)) ∧
    (s.copyRuns o.core c = false → s.copyReady id o c = false → exec .copyStart s = .next s)) ∧
  (∀ (s : State) (id n : Nat) (o : Op) (c : CopyOp) (cr : Crew), s.ev = some (.copyComplete id) → tget s.ops id = some o →
    o.body = .copy c → c.finished = true → o.parent = none → o.token = some n → n < 32 → tget s.crews o.crew = some cr →
    (cr.tok n).st = .pending id →
    ∃ t c', exec .copyComplete s = .next t ∧ tget t.ops id = none ∧ tget t.crews o.crew = some c' ∧ c'.lanes = cr.lanes ∧
      c'.ended n c.poisoned (copyBytes c.kind c.g) ∧ t.mem = s.mem ∧
      ∀ e ∈ (t.core o.core).lcache, e ∈ (s.core o.core).lcache ∧ e.1 ∉ c.lines) ∧
  (∀ (s : State) (id : Nat) (o : Op) (m : MatOp), s.ev = some (.matrixOpStart id) → tget s.ops id = some o → o.body = .mat m →
    let m1 : MatOp := { m with started := true }
    (m.running = true → exec .matrixOpStart s = .next (s.matStep id o m)) ∧
    (m.running = false → s.matReady id o m = false → exec .matrixOpStart s = .next s) ∧
    (s.matReady id o m = true →
      ((o.poisonedPre = true ∨ (m.kind.multiply = true ∧ ∃ e, s.accShape m1 = .error e)) →
        ∃ t m', exec .matrixOpStart s = .next t ∧ tget t.ops id = some { o with body := .mat m' } ∧ m'.ended = true ∧
          m'.poisoned = true ∧ .matrixOpComplete id ∈ t.due) ∧
      (o.poisonedPre = false → (m.kind.multiply = false ∨ (s.accShape m1 = .ok () ∧ m.fmt = none)) →
        exec .matrixOpStart s = .next (s.putMat id m1)))) ∧
  (∀ (s : State) (id : Nat) (o : Op) (m : MatOp), s.ev = some (.matrixOpComplete id) → tget s.ops id = some o →
    o.body = .mat m → (m.ended = true → ∃ t, exec .matrixOpComplete s = .next t ∧ tget t.ops id = none) ∧
      (m.ended = false → exec .matrixOpComplete s = .next s)) ∧
  (∀ (s : State) (id : Nat) (o : Op) (f : FurlongOp), s.ev = some (.furlongStep id) → tget s.ops id = some o →
    o.body = OpBody.furlong f →
    (s.macroGoes o f = true → exec .furlongStep s = .next (s.macroStep id o f)) ∧
    (s.macroGoes o f = false → s.macroReady id o f = true →
      exec .furlongStep s = .next (s.putFurlong id { f with started := true })) ∧
    (f.started = true → f.wait = none →
      ((f.over_ = true ∨ f.failed ≠ none) → (∀ a ∈ f.issued, a ∈ f.doneSteps) → f.marking = true → f.peers = [] →
        ∃ t, exec .furlongStep s = .next t ∧ tget t.ops id = none) ∧
      (f.over_ = false → f.failed = none → f.wants = [] → ∀ p, o.plan = some p →
        (p.complete = true → ∃ t, exec .furlongStep s = .next t ∧ tget t.ops id = none) ∧
        (p.complete = false → ∀ a, s.nextAction o p = some a → p.scaleAt a = [] →
          exec .furlongStep s = .next (s.issueStep id o p a)))))) ∧
  ((∀ (s : State) (id : Nat) (o : Op) (c : CollOp), s.ev = some (.collStart id) → tget s.ops id = some o → o.body = .coll c →
    s.collReady id o c = true → exec .collStart s = .next (s.beginColl id o c)) ∧
  (∀ (s : State) (r : Ready), s.ev = some (.collectiveReady r) →
    s.memberOf r.die r.stream r.dst r.buf = none →
    (s.die r.die).notices.length < 256 → ∃ t, exec .collectiveReady s = .next t ∧ t.ops = s.ops ∧
      (t.die r.die).notices = (s.die r.die).notices ++ [r]) ∧
  (∀ (s : State) (r : Ready) (id : Nat) (o : Op) (c : CollOp), s.ev = some (.collectiveReady r) → s.ops = [(id, o)] →
    s.memberOf r.die r.stream r.dst r.buf = some (id, o, c) → o.body = .coll c → c.failed = false → r.sig = c.sig →
    ∃ t, exec .collectiveReady s = .next t ∧
      t.ops = [(id, { o with body := .coll { c with ready := sins r.rank c.ready } })]) ∧
  (∀ (s : State) (id k : Nat) (o : Op) (c : CollOp) (u : CStep), s.ev = some (.collStep id) → tget s.ops id = some o →
    o.body = .coll c → c.busy = true →
    (∀ i, c.nextTile = some i → exec .collStep s = .next (s.collCount id o c i)) ∧
    (c.nextTile = none → c.nextStep = some (k, u) → exec .collStep s = .next (s.collSend id o c k u))) ∧
  (∀ (s : State) (k : CollChunk) (id q : Nat) (o : Op) (c : CollOp) (data : List Byte), s.ev = some (.collChunkReceive k) →
    let m := chunkLen (c.part k.part).2.2 k.first
    s.ops = [(id, o)] → s.memberOf k.die k.stream k.dst k.buf = some (id, o, c) → o.body = .coll c → k.reduce = true →
    (c.ownerOf k.part ≠ c.rank ∨ c.how = 1) → k.ranks = [q] → k.sub = 0 → k.len = m → 0 < m →
    decodeChunk c.es m k.wire = (some data, false) → data.length = m * c.es →
    ∃ t c', exec .collChunkReceive s = .next t ∧ t.ops = [(id, { o with body := .coll c' })] ∧ t.mem = s.mem ∧
      c' = { c with lastData := s.ticks c.die, lastMove := s.ticks c.die,
                    staged := c.staged ++ [⟨k.part, q, k.first, m, data, false⟩] }) ∧
  (∀ (s : State) (id n : Nat) (o : Op) (c : CollOp) (cr : Crew), s.ev = some (.collComplete id) → tget s.ops id = some o →
    o.body = .coll c → c.over = true → o.token = some n → n < 32 → tget s.crews o.crew = some cr →
    (cr.tok n).st = .pending id →
    ∃ t c', exec .collComplete s = .next t ∧ tget t.ops id = none ∧ tget t.crews o.crew = some c' ∧ c'.lanes = cr.lanes ∧
      c'.ended n c.poisoned (s.collBytes id c)) ∧
  (∀ (s : State) (id : Nat) (o : Op) (c : CollOp), s.ev = some (.collTimeout id) → tget s.ops id = some o → o.body = .coll c →
    c.started = true → c.failed = false → (s.die c.die).rto ≠ 0 → c.allFinal = true → c.stopped = false →
    (∃ k < c.steps.length, k ∉ c.done) → c.lastMove + (s.die c.die).rto.toNat ≤ s.ticks c.die →
    ∃ t o', exec .collTimeout s = .next t ∧ tget t.ops id = some o' ∧
      o'.body = .coll { c with stopped := true, poisoned := true })) ∧
  ((∀ (s : State) (h leaf : Nat) (d : Delta), s.ev = some (.ctDeltaFlush h leaf) →
    (s.home h).deltas.find? (fun d => d.leaf == leaf) = some d →
    d.since + max 100 (s.die (h / 64)).ctlag.toNat ≤ s.ticks (h / 64) →
    ∃ t, exec .ctDeltaFlush s = .next t ∧ tget t.rollups s.nextId = some ⟨leaf, d.delta, s.clk + 256, []⟩ ∧ .ctRollup s.nextId ∈ t.due ∧
      ∀ e ∈ (t.home h).deltas, e.leaf ≠ leaf) ∧
  (∀ (s : State) (id : Nat) (r : Rollup), s.ev = some (.ctRollup id) → tget s.rollups id = some r →
    (s.marked r.node 64 = true → ∃ t, exec .ctRollup s = .next t ∧ tget t.rollups id = none ∧ t.mem = s.mem ∧
      (t.die (s.memDie r.node)).ctLost = true) ∧
    (s.marked r.node 64 = false → s.treeLost r.node = false → r.node % 64 = 0 → ∃ t, exec .ctRollup s = .next t ∧
      (s.treeNode r.node).parent = (t.treeNode r.node).parent ∧ (s.treeNode r.node).valid = (t.treeNode r.node).valid ∧
      (t.treeNode r.node).count = ((s.treeNode r.node).count + r.delta) % 2 ^ 64 ∧
      (∀ a, a < r.node ∨ r.node + 64 ≤ a → memGet t.mem a = memGet s.mem a) ∧
      tget t.rollups id = (tget s.parents r.node).map fun q => { r with node := q, limit := r.limit + 256, passed := r.node :: r.passed })) ∧
  (∀ (s : State) (id n : Nat) (o : Op) (u : TreeOp) (cr : Crew), s.ev = some (.treeOpComplete id) → tget s.ops id = some o →
    o.body = .tree u → u.kind = .settle → u.started = true → u.flushed = true → u.waits = [] → o.parent = none →
    o.token = some n → n < 32 → tget s.crews o.crew = some cr → (cr.tok n).st = .pending id →
    ∃ t c', exec .treeOpComplete s = .next t ∧ tget t.ops id = none ∧ tget t.crews o.crew = some c' ∧ c'.lanes = cr.lanes ∧
      c'.ended n u.lost 64 ∧ t.mem = s.mem))

/-! ### Steps of the fabric -/

/-- R365, R369, R370, R373, R374 and R381: a message of types 1, 2, 3 or 7 that is no repeat is appended to its
partition's queue, its tag then held with the answer, or refused when the queue takes none; a repeat gets the answer
its tag holds. An append writes the slot at the tail and raises the tail. An export miss is appended, or waits. A
message that cannot be handled is counted. A MSGS that is ready is sent; one to a device with no route ends poisoned.
R79, R81, R193 to R196 and R378: a contribution of no stream is applied when it comes; one of a stream in the order of
its indices from 0, a repeat being counted and not applied; one that comes before its index waits in the entry of its
stream and line, and is applied after those it waited for, the last freeing the entry; one that finds no entry free,
or comes 16 or more ahead, is refused, and again at most once, a third time it is accepted. An application writes the
reduction of what the location holds and the lane's value, wrapped, saturated or rounded, and nothing else; a poisoned
location stays as it is, and a poisoned lane marks it. When the time-out passes, the entry is freed and what waited in
it is lost and marked. A reduction message of one part is served as its contribution. -/
def Obligations.MessagesAndReductionsArrive : Prop :=
  ((∀ (i : Instr) (s : State) (m : Msg) (typ : Nat),
    ((i = .grant ∧ s.ev = some (.grant m) ∧ typ = 1) ∨ (i = .recall ∧ s.ev = some (.recall m) ∧ typ = 2) ∨
      (i = .acknowledgement ∧ s.ev = some (.acknowledgement m) ∧ typ = 3) ∨
      (i = .softwareMessage ∧ s.ev = some (.softwareMessage m) ∧ typ = 7)) →
    (∀ a, s.heldFor m.die m.part m.fromDev m.fromPart m.tag = some a →
      exec i s = .next (s.emit (.answer m.fromDev m.fromPart m.tag a))) ∧
    (s.heldFor m.die m.part m.fromDev m.fromPart m.tag = none → m.reserved = 0 →
      let r := s.append m.die m.part (typ != 7) { m with typ := typ }
      (r = none → exec i s = .next (s.emit (.refused m.fromDev m.fromPart m.tag))) ∧
      (∀ t, r = some t → ∃ t', exec i s = .next t' ∧ t'.mem = t.mem ∧
        t'.heldFor m.die m.part m.fromDev m.fromPart m.tag ≠ none))) ∧
  (∀ (s : State) (die part : Nat) (control : Bool) (m : Msg) (q : Queue),
    s.queueAt die (if control then (s.part die part).ctlq else (s.part die part).msgq) = some q → q.ok = true →
    q.held ≠ q.size → s.marked q.pa 32 = false →
    let slot := s.slotOf die q q.tail
    (slot + 64 ≤ q.pa + 16 ∨ q.pa + 20 ≤ slot) → s.scrubbed slot 64 (fun _ => true) = false →
    s.scrubbed (q.pa + 16) 4 (fun _ => true) = false →
    ∃ t, s.append die part control m = some t ∧ memBytes t.mem slot 64 = msgBytes m ∧
      memNat t.mem (q.pa + 16) 4 = (q.tail + 1) % 2 ^ 32 ∧
      ∀ a, (a < slot ∨ slot + 64 ≤ a) → (a < q.pa + 16 ∨ q.pa + 20 ≤ a) → memGet t.mem a = memGet s.mem a) ∧
  (∀ (s : State) (part : Nat) (m : Msg), s.ev = some (.exportMiss part m) →
    (∀ t, s.append m.die part true m = some t → exec .exportMiss s = .next t) ∧
    (s.append m.die part true m = none → ∃ t, exec .exportMiss s = .next t ∧ (tget t.resend s.nextId).map (·.1) = some m ∧ t.mem = s.mem)) ∧
  (∀ (s : State) (die : Nat), s.ev = some (.badMessage die) → ∃ t, exec .badMessage s = .next t ∧
    (t.die die).badmsg.toNat = min 0xFFFF ((s.die die).badmsg.toNat + 1) ∧ t.mem = s.mem ∧ t.crews = s.crews) ∧
  (∀ (s : State) (id n : Nat) (o : Op) (dev part typ : Nat) (payload : List Word) (cr : Crew), s.ev = some (.messageResend id) →
    tget s.ops id = some o → o.body = .send dev part typ payload false → s.msgReady id o = true → o.token = some n → n < 32 →
    tget s.crews o.crew = some cr → (cr.tok n).st = .pending id →
    let die := dieOfCore o.core
    let mine := s.partOf (((tget s.blocks o.block).map (·.ctx)).getD 0)
    ((o.poisonedPre = true ∨ s.routed die mine dev = false) → ∃ t c', exec .messageResend s = .next t ∧ tget t.ops id = none ∧
      tget t.crews o.crew = some c' ∧ (c'.tok n).st = .poisoned ∧ c'.lanes = cr.lanes) ∧
    (o.poisonedPre = false → s.routed die mine dev = true → dev ≠ s.devOf die → s.dieOfDev dev = none →
      ∃ t, exec .messageResend s = .next t ∧ t.mem = s.mem ∧ .message dev (s.portTo die mine dev 0x1FFFFF0) ⟨die, part, typ, mine, s.devOf die,
        (tget (s.part die mine).seq (16 * dev + part)).getD 0, id, 0, payload⟩ ∈ t.out))) ∧
  ((∀ (s : State) (r : Contribution), s.ev = some (.reductionContribution r) →
    let x := s.home r.slice
    ((r.stream = 0 ∨ (x.entry r.stream r.line = none ∧ r.index = 0 ∧ r.last = true)) →
      exec .reductionContribution s = .next (s.redPerform r)) ∧
    (r.stream ≠ 0 → ∀ e, x.entry r.stream r.line = some e → (r.index < e.next ∨ ∃ w ∈ e.waiting, w.index = r.index) →
      ∃ t, exec .reductionContribution s = .next t ∧ t.mem = s.mem ∧ (t.home r.slice).dups = min 0xFFFF (x.dups + 1)) ∧
    (r.stream ≠ 0 → x.entry r.stream r.line = none → 16 ≤ r.index → ∃ t, exec .reductionContribution s = .next t ∧
      t.mem = s.mem ∧ (t.home r.slice).refused = true ∧ (tget t.retries s.nextId).map (·.c) = some r) ∧
    (r.stream ≠ 0 → x.entry r.stream r.line = none → 256 ≤ x.entries.length → ¬(r.index = 0 ∧ r.last = true) →
      ∃ t, exec .reductionContribution s = .next t ∧ t.mem = s.mem ∧ (t.home r.slice).refused = true ∧
        (t.home r.slice).entries = x.entries ∧ tget t.retries s.nextId = some ⟨r, 1⟩) ∧
    (r.stream ≠ 0 → x.entry r.stream r.line = none → x.entries.length < 256 → 0 < r.index → r.index < 16 →
      ∃ t, exec .reductionContribution s = .next t ∧ t.mem = s.mem ∧ t.marks = s.marks ∧
        (t.home r.slice).entry r.stream r.line = some ⟨r.stream, r.line, 0, [r], s.ticks (r.slice / 64)⟩) ∧
    (r.stream ≠ 0 → x.entry r.stream r.line = none → x.entries.length < 256 → r.index = 0 → r.last = false →
      ∃ t, exec .reductionContribution s = .next t ∧ t.mem = (s.redPerform r).mem ∧ t.marks = (s.redPerform r).marks ∧
        (t.home r.slice).entry r.stream r.line = some ⟨r.stream, r.line, 1, [], s.ticks (r.slice / 64)⟩) ∧
    (r.stream ≠ 0 → ∀ e, x.entry r.stream r.line = some e → e.stream = r.stream → e.line = r.line →
      (∀ w ∈ e.waiting, w.index ≠ r.index ∧ w.index ≠ e.next) →
      (e.next + 16 ≤ r.index → ∃ t, exec .reductionContribution s = .next t ∧ t.mem = s.mem ∧ (t.home r.slice).refused = true ∧
        (t.home r.slice).entries = x.entries ∧ tget t.retries s.nextId = some ⟨r, 1⟩) ∧
      (e.next < r.index → r.index < e.next + 16 → ∃ t, exec .reductionContribution s = .next t ∧ t.mem = s.mem ∧
        t.marks = s.marks ∧ (t.home r.slice).entry r.stream r.line = some { e with waiting := e.waiting ++ [r] }) ∧
      (r.index = e.next → (∀ w ∈ e.waiting, w.index ≠ e.next + 1) → ∃ t, exec .reductionContribution s = .next t ∧
        t.mem = (s.redPerform r).mem ∧ t.marks = (s.redPerform r).marks ∧
        (r.last = true → (t.home r.slice).entry r.stream r.line = none) ∧
        (r.last = false → (t.home r.slice).entry r.stream r.line =
          some { e with next := e.next + 1, since := s.ticks (r.slice / 64) })) ∧
      (r.index = e.next → r.last = false → ∀ q, e.waiting = [q] → q.index = e.next + 1 →
        ∃ t, exec .reductionContribution s = .next t ∧ t.mem = ((s.redPerform r).redPerform q).mem ∧
          t.marks = ((s.redPerform r).redPerform q).marks ∧
          (q.last = true → (t.home r.slice).entry r.stream r.line = none) ∧
          (q.last = false → ∃ e', (t.home r.slice).entry r.stream r.line = some e' ∧ e'.next = e.next + 2 ∧ e'.waiting = [])))) ∧
  (∀ (s : State) (r : Contribution) (l : RedLane), r.lanes = [l] → r.coll = false → s.gkeys = [] → r.key = 0 → s.enrols = [] →
    s.bars = [] →
    let pa := r.line * 128 + l.off
    let n := redWidth l.kind false
    s.scrubbed pa n (fun _ => true) = false →
    (l.poison = true → (s.redPerform r).mem = s.mem ∧ (s.redPerform r).marked pa n = true) ∧
    (l.poison = false → s.marked pa n = true → s.redPerform r = s) ∧
    (l.poison = false → s.marked pa n = false → pa % n = 0 →
      (s.redPerform r).marks = s.marks ∧
      memBytes (s.redPerform r).mem pa n =
        natBytes (redApply l.kind false r.index (memNat s.mem pa n) (l.val.toNat % 2 ^ (8 * n))) n ∧
      ∀ a, (a < pa ∨ pa + n ≤ a) → memGet (s.redPerform r).mem a = memGet s.mem a)) ∧
  (∀ (e : IElem) (i v c : Nat), redApply (.wrap .add e) false i v c % 2 ^ (8 * elemBytes e) = (v + c) % 2 ^ (8 * elemBytes e)) ∧
  (∀ (i : Nat) (v c : BitVec 32), (BitVec.ofNat 32 (redApply (.sat .i32) false i v.toNat c.toNat)).toInt =
      max (-2 ^ 31) (min (2 ^ 31 - 1) (v.toInt + c.toInt)) ∧
    (BitVec.ofNat 32 (redApply (.sat .u32) false i v.toNat c.toNat)).toNat = min (2 ^ 32 - 1) (v.toNat + c.toNat)) ∧
  (∀ i v c : Nat, v < 2 ^ 32 → c < 2 ^ 32 →
    redApply (.float .add .fp32) false i v c = roundFl .fp32 0 false (addFl 0 (decodeFl .fp32 v) (decodeFl .fp32 c))) ∧
  (∀ (s : State) (id : Nat) (q : Retry), s.ev = some (.reductionRetry id) → tget s.retries id = some q → q.c.stream ≠ 0 →
    id < s.nextId → (s.home q.c.slice).entry q.c.stream q.c.line = none → 16 ≤ q.c.index →
    (q.refusals < 2 → ∃ t, exec .reductionRetry s = .next t ∧ t.mem = s.mem ∧ tget t.retries id = none ∧
      tget t.retries s.nextId = some ⟨q.c, q.refusals + 1⟩) ∧
    (2 ≤ q.refusals → ∃ t, exec .reductionRetry s = .next t ∧ t.mem = s.mem ∧ tget t.retries id = none ∧
      (t.home q.c.slice).entry q.c.stream q.c.line = some ⟨q.c.stream, q.c.line, 0, [q.c], s.ticks (q.c.slice / 64)⟩)) ∧
  (∀ (s : State) (id : Nat) (q : Retry), s.ev = some (.reductionRetry id) → tget s.retries id = some q → q.c.stream = 0 →
    exec .reductionRetry s = .next (({ s with retries := tdel s.retries id } : State).redPerform q.c)) ∧
  (∀ (s : State) (h stream line : Nat) (e : RobEntry), s.ev = some (.reorderTimeout h stream line) →
    (s.home h).entry stream line = some e → (s.home h).hold ≠ 0 → e.since + (s.home h).hold.toNat ≤ s.ticks (h / 64) →
    ∃ t, exec .reorderTimeout s = .next t ∧ (t.home h).entry stream line = none ∧
      (e.waiting ≠ [] → (t.home h).lost = true)) ∧
  (∀ (s : State) (r : RedMsg), s.ev = some (.reductionMessage r) → r.final = true → r.partNo = 0 →
    (∀ q ∈ (s.die r.die).parts, ¬(q.dev = r.dev ∧ q.fromPart = r.fromPart ∧ q.tag = r.tag)) →
    ∀ t, (s.modDie r.die fun d => { d with parts := d.parts }).servePeer
        { die := r.die, dev := r.dev, part := r.fromPart, tag := r.tag, ticket := r.ticket, retires := [], flows := []
          dstPart := r.part, efn := r.efn, off := r.lineOff, n := 128, kind := .reduce { r.contrib with issuer := s.redIssuer r } } false = some t →
      exec .reductionMessage s = .next t.sendHeld))

/-- R361 to R363, R365, R371, R372, R374 to R376 and R446: a peer's request of a clean range that its entry admits is
performed and answered, a read with its bytes; one that is not admitted is answered PROTECT or REVOKED and changes no
memory. The requests of one instruction's lanes are served with it, in the order they were sent, atomics only when
none of them holds a cause. An answer ends its request; so does the time-out, as a failed access. A fault ticket
leaves its request held; a notice with no ticket is counted as stale. A tag expires. An export invalidated or serviced
leaves no copy cached. The host's read of clean local memory through its partition's BAR2 window gives its bytes, and
one outside the window or that fails gives the cause. A write's bytes land where the entry maps them, and nowhere
else. A request that its owner refused is sent again. A replay notice that finds its ticket sends the access again,
waits for an older one of its page, or ends it; a request that ends by time-out sets the fabric status, rtimeout for
one that its gang waits for, and one entry of the fault record (R362), and a load that waited for it gives all ones.
R356 to R358, R361 and R365: a cross-die request takes a tracker of its home slice, or is refused and comes again; its
second refusal reserves one, which is released later; its end or its time-out frees what it held. A packet in its
channel's order is acted on once; one that fails is counted and comes again with all that follow. The link retrains
after sixteen failures in a row, and carries nothing meanwhile; when it goes down a unified package stops. A port that
fails leaves every routing mask of its device. -/
def Obligations.PeersAndLinks : Prop :=
  ((∀ (s : State) (r : PeerIn), s.ev = some (.peerRequest r) → s.mates r = [] → s.ownPend r = none →
    r.efn < 0x1FFFFF0 → portCarries r = true → r.retires = [] → s.heldFor r.die r.dstPart r.dev r.part r.tag = none →
    let e := s.exportEntry r.die r.dstPart r.efn (16 * r.dev + r.part)
    (s.part r.die r.dstPart).xcache = [] →
    ((s.judge r.die e (peerWrites r.kind) r.off = .protect ∨ s.judge r.die e (peerWrites r.kind) r.off = .revoked) →
      ∃ t a, exec .peerRequest s = .next t ∧ t.mem = s.mem ∧ (a = .protect ∨ a = .revoked) ∧
        (s.dieOfDev r.dev = none → .answer r.dev r.part r.tag a ∈ t.out)) ∧
    (∀ l, s.judge r.die e false r.off = .perform l → r.kind = .read → s.badBytes l.pa r.n = [] →
      ∃ t, exec .peerRequest s = .next t ∧ t.mem = s.mem ∧
        (s.dieOfDev r.dev = none → .answer r.dev r.part r.tag (.data (s.bytesAt l r.n) []) ∈ t.out)) ∧
    (∀ l bs, s.judge r.die e true r.off = .perform l → r.kind = .write bs [] → bs.length = 4 ∨ bs.length = 8 → l.pa % 8 = 0 →
      s.scrubbed l.pa bs.length (fun _ => true) = false → s.marked l.pa bs.length = false → l.key = 0 → s.gkeys = [] →
      s.enrols = [] → s.bars = [] →
      ∃ t, exec .peerRequest s = .next t ∧ memBytes t.mem l.pa bs.length = bs ∧
        (∀ a, a < l.pa ∨ l.pa + bs.length ≤ a → memGet t.mem a = memGet s.mem a) ∧
        (s.dieOfDev r.dev = none → .answer r.dev r.part r.tag .done ∈ t.out))) ∧
  (∀ (s : State) (tag : Nat) (r : PeerReq), s.ev = some (.missLogRetry tag) →
    (tget s.reqs tag = none → exec .missLogRetry s = .next s) ∧
    (tget s.reqs tag = some r → s.dieOfDev (peerDev r.pa) = none → (∀ c, r.kind ≠ .reduce c) →
      ∃ t q, exec .missLogRetry s = .next t ∧ tget t.reqs tag = some q ∧ q.sent = true ∧ q.kind = r.kind ∧ q.pa = r.pa ∧ t.mem = s.mem ∧
        .request tag (s.portTo r.die r.part (peerDev r.pa) (r.pa / 4096)) ∈ t.out)) ∧
  (∀ (s t : State) (r : PeerIn), s.ev = some (.peerRequest r) →
    ({ s with due := s.due.filter fun e => !(s.mates r).any fun q => e == Event.peerRequest q } : State).serveGroup (r :: s.mates r) =
        some t → exec .peerRequest s = .next t) ∧
  (∀ (s : State) (dev part tag : Nat), s.ev = some (.tagExpiry dev part tag) → ∃ t, exec .tagExpiry s = .next t ∧
    t.mem = s.mem ∧ ∀ e ∈ t.parts, ∀ h ∈ e.2.held, ¬(h.dev = dev ∧ h.part = part ∧ h.tag = tag)) ∧
  (∀ (i : Instr) (s : State) (die part efn : Nat),
    ((i = .exportInvalidate ∧ s.ev = some (.exportInvalidate die part efn)) ∨
      (i = .exportServiced ∧ s.ev = some (.exportServiced die part efn))) →
    ∃ t, exec i s = .next t ∧ t.mem = s.mem ∧ (∀ x ∈ (t.part die part).xcache, x.efn ≠ efn) ∧
      (i = .exportServiced → ∀ r ∈ (t.part die part).misses, r.efn ≠ efn)) ∧
  (∀ (s : State) (tag : Nat) (r : PeerReq) (k : Nat) (js : List Nat), s.ev = some (.requestResponse tag .done) → tget s.reqs tag = some r →
    (∃ d, r.who = .posted k js d) → ∃ t, exec .requestResponse s = .next t ∧ tget t.reqs tag = none ∧ t.mem = s.mem) ∧
  (∀ (s : State) (tag id l n d : Nat) (sg : Bool) (r : PeerReq) (p : Pend) (c : Crew) (bs : List Byte),
    s.ev = some (.requestResponse tag (.data bs [])) → tget s.reqs tag = some r → r.who = .pend id l →
    s.pendReqs id = [(tag, r)] → tget s.pends id = some p → p.land = .load n sg → p.dst = [d] → p.locals = [] → p.causes = [] →
    p.failed = [] → p.loss = none → p.complete = false → p.slices.Nodup → tget s.crews p.crew = some c →
    ∃ t c', exec .requestResponse s = .next t ∧ tget t.pends id = none ∧ tget t.crews p.crew = some c' ∧ t.mem = s.mem ∧
      (∀ j ∈ p.slices, j < 8 → (c'.slice j).wait = .none ∧ (c'.slice j).pc = (c.slice j).pc + 4) ∧
      ∀ m < 32, p.act.getLsbD m = true → p.uni.getD m = l → tget (c'.lane m).regs d = (loadRegs n sg bs)[0]?) ∧
  (∀ (s : State) (tag : Nat) (r : PeerReq) (k d : Nat) (js : List Nat), s.ev = some (.peerTimeout tag) → tget s.reqs tag = some r →
    r.who = .posted k js d → (s.die r.die).rto ≠ 0 → r.since + (s.die r.die).rto.toNat ≤ s.ticks r.die → s.ticketOut r = false →
    ∃ t, exec .peerTimeout s = .next t ∧ tget t.reqs tag = none ∧ t.mem = s.mem ∧
      (r.loss = none → (∀ e ∈ s.reqs, e.1 ≠ tag → e.2.who.thread = true → e.2.issuer.born ≠ r.issuer.born) → r.issuer.crew = k →
        ∀ c, tget s.crews k = some c → c.efr.length < 8 → ∃ c', tget t.crews k = some c' ∧ c'.lanes = c.lanes ∧ c'.fab =
          ⟨min 0xFFFF (c.fab.count + 1), true, 0, peerDev r.pa⟩ ∧ c'.efr = c.efr ++ [⟨Cause.protect.code, 0, false, 0xFFFE, r.va⟩])) ∧
  (∀ (s : State) (tag id l n d : Nat) (sg : Bool) (r : PeerReq) (p : Pend) (c : Crew), s.ev = some (.peerTimeout tag) →
    tget s.reqs tag = some r → r.who = .pend id l → (s.die r.die).rto ≠ 0 → r.since + (s.die r.die).rto.toNat ≤ s.ticks r.die →
    s.ticketOut r = false → s.pendReqs id = [(tag, r)] → tget s.pends id = some p → p.land = .load n sg → p.dst = [d] → p.locals = [] →
    p.causes = [] → p.failed = [] → p.loss = none → p.complete = false → p.slices.Nodup → tget s.crews p.crew = some c →
    c.efr.length < 8 →
    ∃ t c', exec .peerTimeout s = .next t ∧ tget t.pends id = none ∧ tget t.crews p.crew = some c' ∧ t.mem = s.mem ∧
      c'.rtimeout = true ∧ c'.fab.rfail = true ∧ c'.fab.cause = 0 ∧ c'.fab.dev = peerDev r.pa ∧
      c'.efr = c.efr ++ [⟨Cause.protect.code, 0, false, 0xFFFE, r.va⟩] ∧
      ∀ m < 32, p.act.getLsbD m = true → p.uni.getD m = l → tget (c'.lane m).regs d = some 0xFFFFFFFF) ∧
  (∀ (s : State) (tag : Nat) (r : PeerReq) (k d : Nat) (js : List Nat), s.ev = some (.faultTicket tag) → tget s.reqs tag = some r →
    r.who = .posted k js d → ∃ t q, exec .faultTicket s = .next t ∧ tget t.reqs tag = some q ∧ q.ticket = true ∧
      q.who = r.who ∧ q.va = r.va ∧ t.mem = s.mem) ∧
  (∀ (s : State) (die entry dev part efn status : Nat), s.ev = some (.replayNotice die entry dev part efn status) →
    s.ticketFor die entry dev part efn = none → ∃ t, exec .replayNotice s = .next t ∧ t.mem = s.mem ∧ t.reqs = s.reqs ∧
      (t.die die).stale.toNat = min 0xFFFF ((s.die die).stale.toNat + 1)) ∧
  (∀ (s : State) (die entry dev part efn status tag : Nat) (r : PeerReq),
    s.ev = some (.replayNotice die entry dev part efn status) → s.ticketFor die entry dev part efn = some (tag, r) →
    s.reqOut r = none →
    (status = 0 → s.behindTicket tag r = false → s.dieOfDev (peerDev r.pa) = none → (∀ c, r.kind ≠ .reduce c) →
      ∃ t q, exec .replayNotice s = .next t ∧ tget t.reqs tag = some q ∧ q.sent = true ∧ q.ticket = r.ticket ∧ q.kind = r.kind ∧
        q.pa = r.pa ∧ q.since = s.ticks r.die ∧ t.mem = s.mem ∧
        .request tag (s.portTo r.die r.part (peerDev r.pa) (r.pa / 4096)) ∈ t.out) ∧
    (status = 0 → s.behindTicket tag r = true → ∃ t, exec .replayNotice s = .next t ∧ t.mem = s.mem ∧
      tget t.reqs tag = some { r with noticed := true }) ∧
    (status ≠ 0 → ∀ k js d, r.who = .posted k js d → ∃ t, exec .replayNotice s = .next t ∧ tget t.reqs tag = none ∧ t.mem = s.mem)) ∧
  (∀ (s : State) (part off n ctx : Nat) (base : Dword) (l : Loc), s.ev = some (.hostRequest (.bar2 part off n none)) → 1 ≤ n →
    (s.part 0 part).bar2 = some (ctx, base) →
    let va := base + BitVec.ofNat 64 off
    (2 ^ 36 < off + n → exec .hostRequest s = .next (s.emit (.hostFail Cause.protect.code))) ∧
    (off + n ≤ 2 ^ 36 → va.toNat % 4096 + n ≤ 4096 →
      (s.ctxTranslate ctx false .read va.toNat (BitVec.ofNat 64 va.toNat) = .ok l → isLocal l.pa = true →
        s.marked l.pa n = false → exec .hostRequest s = .next (s.emit (.hostData (s.bytesAt l n)))) ∧
      (∀ c, s.ctxTranslate ctx false .read va.toNat (BitVec.ofNat 64 va.toNat) = .bad c →
        exec .hostRequest s = .next (s.emit (.hostFail c.code)))))) ∧
  ((∀ (s : State) (die id slice : Nat), s.ev = some (.xdieRequest die id slice) → tget s.xreqs id = none →
    (∀ e ∈ s.reqs, e.2.sent = true) → ∃ t x, exec .xdieRequest s = .next t ∧ tget t.xreqs id = some x ∧ x.slice = slice ∧ t.mem = s.mem ∧
      ((id ∈ (s.home slice).reserved ∨ (s.home slice).trackerFree = true) → x.accepted = true ∧
        id ∈ (t.home slice).trackers ∧ id ∉ (t.home slice).reserved) ∧
      (id ∉ (s.home slice).reserved → (s.home slice).trackerFree = false → x.accepted = false ∧ x.refusals = 1 ∧
        t.homes = s.homes)) ∧
  (∀ (s : State) (id : Nat) (x : XReq), s.ev = some (.xdieRetry id) → tget s.xreqs id = some x → x.accepted = false →
    ((s.pkg.split = false ∨ tget s.reqs id = none) → (∀ e ∈ s.reqs, e.2.sent = true) →
      ∃ t y, exec .xdieRetry s = .next t ∧ tget t.xreqs id = some y ∧ y.slice = x.slice ∧ t.mem = s.mem ∧
      ((id ∈ (s.home x.slice).reserved ∨ (s.home x.slice).trackerFree = true) → y.accepted = true) ∧
      (id ∉ (s.home x.slice).reserved → (s.home x.slice).trackerFree = false → x.refusals = 1 →
        id ∈ (t.home x.slice).reserved)) ∧
    (s.pkg.split = true → ∀ r, tget s.reqs id = some r →
      exec .xdieRetry s = .next (s.cross (1 - x.die) 0 0 (.xdieRequest x.die id x.slice)))) ∧
  (∀ (s : State) (id : Nat) (x : XReq), s.ev = some (.reservationRelease id) → tget s.xreqs id = some x →
    ∃ t, exec .reservationRelease s = .next t ∧ id ∉ (t.home x.slice).reserved ∧ t.mem = s.mem) ∧
  (∀ (s : State) (id : Nat) (x : XReq), s.ev = some (.xdieTimeout id) → tget s.xreqs id = some x → (s.die x.die).xdto ≠ 0 →
    x.since + (s.die x.die).xdto.toNat ≤ s.ticks x.die → tget s.reqs id = none → ∃ t, exec .xdieTimeout s = .next t ∧ tget t.xreqs id = none ∧
      id ∉ (t.home x.slice).trackers ∧ id ∉ (t.home x.slice).reserved ∧ t.mem = s.mem) ∧
  (∀ (s : State) (p : BridgePkt), s.ev = some (.bridgePacket p) → s.pkg.bridge.down = false → s.pkg.bridge.retraining = false →
    let key := 3 * p.die + p.chan
    let next := (tget s.pkg.bridge.next key).getD 0
    (p.flitOk = true → p.stomped = false → p.headerOk = true → p.seq = next → ∃ t, exec .bridgePacket s = .next t ∧
      tget t.pkg.bridge.next key = some (next + 1) ∧ t.pkg.bridge.failed key = 0 ∧ t.mem = s.mem ∧
      (∀ q, s.pkg.bridge.head key = some q → t.due = s.due ++ [q.body] ∧ t.pkg.bridge.wire = s.pkg.bridge.wire.erase q) ∧
      (s.pkg.bridge.head key = none → t.due = s.due)) ∧
    (p.flitOk = true → p.stomped = false → p.headerOk = true → p.seq ≠ next → exec .bridgePacket s = .next s) ∧
    ((p.flitOk = false ∨ p.stomped = true ∨ p.headerOk = false) → ∃ t, exec .bridgePacket s = .next t ∧
      (p.die, p.chan) ∈ t.pkg.bridge.replaying ∧ t.pkg.bridge.failed key = s.pkg.bridge.failed key + 1 ∧
      t.pkg.bridge.next = s.pkg.bridge.next ∧ t.pkg.bridge.wire = s.pkg.bridge.wire ∧ .bridgeReplay p.die p.chan ∈ t.due ∧
      (15 ≤ s.pkg.bridge.failed key → .bridgeRetrain ∈ t.due) ∧
      (p.flitOk = false → (t.die p.die).crcerr.toNat = min 0xFFFF ((s.die p.die).crcerr.toNat + 1)) ∧
      (p.flitOk = true → (t.die p.die).stomps.toNat = min 0xFFFF ((s.die p.die).stomps.toNat + 1)))) ∧
  (∀ (s : State) (p : BridgePkt), s.ev = some (.bridgePacket p) → (s.pkg.bridge.down = true ∨ s.pkg.bridge.retraining = true) →
    exec .bridgePacket s = .next s) ∧
  (∀ (s : State) (die chan : Nat), s.ev = some (.bridgeReplay die chan) → (die, chan) ∈ s.pkg.bridge.replaying →
    ∃ t, exec .bridgeReplay s = .next t ∧ (die, chan) ∉ t.pkg.bridge.replaying ∧
      (t.die die).replays.toNat = min 0xFFFF ((s.die die).replays.toNat + 1)) ∧
  (∀ s : State, s.ev = some .bridgeRetrain → s.pkg.bridge.down = false → s.pkg.bridge.retraining = false →
    ∃ t, exec .bridgeRetrain s = .next t ∧ t.pkg.bridge.retraining = true ∧ t.mem = s.mem ∧ t.crews = s.crews) ∧
  (∀ s : State, s.ev = some .bridgeRetrained → ∃ t, exec .bridgeRetrained s = .next t ∧ t.pkg.bridge.retraining = false ∧
    t.pkg.bridge.attempts = [] ∧ t.mem = s.mem ∧ t.crews = s.crews) ∧
  (∀ s : State, s.ev = some .bridgeDown → ∃ t, exec .bridgeDown s = .next t ∧ t.pkg.bridge.down = true ∧ t.mem = s.mem ∧
    (s.pkg.split = false → t.pkg.held = true)) ∧
  (∀ (s : State) (p : Nat), s.ev = some (.portFailure p) → s.pkg.split = false → p < 32 → ∃ t, exec .portFailure s = .next t ∧
    t.mem = s.mem ∧ (t.port (p / 12) p).up = false ∧ (t.port (p / 12) p).failed = true ∧
    ∀ e ∈ t.parts, ∀ w ∈ e.2.route, w.2.getLsbD p = false))

/-! ### Steps of launches, pre-emption and the platform -/

/-- R140, R148, R151 and R154: a link call of the monitor for the partition's first root links it, or writes the code
that rejects it, and reports the status. The words of a slot register gather, and the fourth appends their record when
it is valid and the table has room. A bind round writes the records of the nodes it may bind; a dispatch makes one
block for each core of the head record's mask, a cluster with its ranks, each with its crews at the node's entry, and
counts them as created. R338 to R343: a drain begins on every core of the cluster's set, and gives each its limit. It
ends when no block is left; at the limit it becomes a save, which, once what must end has ended, holds the blocks out,
writes the barriers cached for them back and clears the cores' caches and monitors. A restore brings the blocks back
to the cores they left, unless it reads a mark, which is contained. -/
def Obligations.LaunchAndPreemptionSteps : Prop :=
  ((∀ (s : State) (ctx : Nat) (rcb : Dword) (l : Loc), s.ev = some (.linkCall ctx rcb) →
    s.ctxTranslate ctx true .write 0 rcb = .ok l → s.marked l.pa 256 = false → memGet s.mem l.pa = 1 →
    (∀ e ∈ s.nodes, ¬(e.2.kind = 1 ∧ s.partOf e.2.ctx = s.partOf ctx)) →
    let code := s.linkCode l.pa ctx none true
    ∃ t, exec .linkCall s = .next t ∧ (code = 0 → .linkStatus ctx 2 ∈ t.out ∧ ∃ n, tget t.nodes l.pa = some n ∧ n.kind = 1 ∧
      n.ctx = ctx ∧ n.va = rcb ∧ n.status = 2) ∧ (code ≠ 0 → .linkStatus ctx code ∈ t.out ∧
        ∀ a, (tget t.nodes a).isSome = (tget s.nodes a).isSome)) ∧
  (∀ (s : State) (k : Nat) (w : Dword), s.ev = some (.coreSlotin k w) →
    ((s.core k).slotin.length < 3 → ∃ t, exec .coreSlotin s = .next t ∧ (t.core k).slotin = (s.core k).slotin ++ [w] ∧
      (t.core k).slots = (s.core k).slots ∧ t.mem = s.mem) ∧
    (∀ a b c, (s.core k).slotin = [a, b, c] → let r := Rec.ofNat (w ++ c ++ b ++ a).toNat
      ∃ t, exec .coreSlotin s = .next t ∧ (t.core k).slotin = [] ∧ t.mem = s.mem ∧
      (64 ≤ (s.core k).slots.length → (t.core k).ovf = true ∧ (t.core k).slots = (s.core k).slots) ∧
      ((s.core k).slots.length < 64 → s.recOk k r = true →
        (t.core k).slots = (s.core k).slots ++ [⟨BitVec.ofNat 256 r.toNat, 0⟩]) ∧
      (s.recOk k r = false → (t.core k).bad = true ∧ (t.core k).slots = (s.core k).slots))) ∧
  (∀ (s : State) (q : Nat), s.ev = some (.bindRound q) → s.queueWork q = true →
    (∀ pa ∈ s.bindable q, s.nodeTainted pa = false ∧ ∀ a ∈ s.chain pa, s.marked a 256 = false) →
    exec .bindRound s = .next ((s.bindable q).foldl (fun (s : State) pa => (s.reread pa).bindNode pa 65536) (s.served q))) ∧
  (∀ (s : State) (core made : Nat) (r : Rec) (n : Node), s.ev = some (.dispatchBlock core) → s.headRec core = some (r, made) →
    s.dispatchOk core = true → tget s.nodes r.launch = some n →
    (tget s.ctxs n.ctx).map (·.stopped) = some false → s.nodeTainted r.launch = false → s.marked r.launch 256 = false →
    ∃ t m, exec .dispatchBlock s = .next t ∧ tget t.nodes r.launch = some m ∧
      m.created = n.created + (maskCores (core / 16) r.mask).length ∧ (n.created = 0 → m.status = 2) ∧
      let ks := maskCores (core / 16) r.mask
      let u := s.beginNode r.launch n
      let v := (tget u.nodes r.launch).getD n
      ∀ e (h : e < ks.length),
        let id := s.nextId + e * (1 + r.crews)
        (∃ b, tget t.blocks id = some b ∧ b.node = r.launch ∧ b.ctx = n.ctx ∧ b.core = ks[e] ∧ b.index = r.first + made + e ∧
          b.cluster = s.nextId ∧ b.rank = e ∧ b.clsize = ks.length ∧ b.crews = r.crews ∧ b.slices = r.slices ∧ b.regs = r.regs ∧
          b.tmquota = r.tm ∧ b.osquota = r.os ∧ b.tiles = [] ∧ b.stopped = false ∧ b.out = false) ∧
        ∀ i < r.crews, ∃ c, tget t.crews (id + 1 + i) = some c ∧ c.block = id ∧ c.core = ks[e] ∧ c.crewIx = i ∧ c.nsl = r.slices ∧
          c.team = r.team ∧ c.allot = r.regs ∧ c.prio = r.prio ∧ c.poison = v.dpoison ∧ ∀ j < 8,
            (c.slice j).exited = decide (r.slices ≤ j) ∧ (c.slice j).mode = 8 ∧
            (c.slice j).pc = BitVec.ofNat 64 (bits (u.nodeBits r.launch (v.keptFor (r.first + made + e))) 575 512 / 4 * 4) ∧
            (j < r.slices → (c.slice j).live = 0xF))) ∧
  ((∀ (s : State) (core : Nat), s.ev = some (.drainRequest core) → (s.core core).draining = false → (s.core core).saving = false →
    ∃ t, exec .drainRequest s = .next t ∧ t.mem = s.mem ∧ t.crews = s.crews ∧ ∀ k ∈ s.drainCores core 16,
      (t.core k).draining = true ∧ (t.core k).drainSet = s.drainCores core 16 ∧ (t.core k).limit.isSome = true) ∧
  (∀ (s : State) (core : Nat), s.ev = some (.drainEnd core) → (s.core core).draining = true → (s.core core).saving = false →
    s.blocksOn (s.core core).drainSet = [] → ∃ t, exec .drainEnd s = .next t ∧ t.mem = s.mem ∧ t.crews = s.crews ∧
      ∀ k ∈ (s.core core).drainSet, (t.core k).draining = false ∧ (t.core k).limit = none) ∧
  (∀ (s : State) (core limit : Nat), s.ev = some (.drainLimit core) → (s.core core).draining = true →
    (s.core core).saving = false → (s.core core).limit = some limit → limit ≤ s.ticks (dieOfCore core) →
    s.blocksOn (s.core core).drainSet ≠ [] → ∃ t, exec .drainLimit s = .next t ∧ t.mem = s.mem ∧ t.crews = s.crews ∧
      ∀ k ∈ (s.core core).drainSet, (t.core k).saving = true) ∧
  (∀ (s : State) (core : Nat), s.ev = some (.forcedSaveWrite core) → s.saveReady core = true →
    let ks := (s.core core).drainSet
    ∃ t, exec .forcedSaveWrite s = .next t ∧
      (∀ e ∈ t.blocks, e.2.core ∈ ks → e.2.out = true) ∧
      (∀ pa b o, s.bars = [(pa, b)] → b.cached = some o → b.core ∈ ks → s.scrubbed pa 64 (fun _ => true) = false → s.gkeys = [] →
        (∀ k ∈ ks, ∀ ctx a n, s.hogRegion k ctx = some (a, n) →
          let h := memKey s.pkg.split (dieOfCore k) a
          pa + 64 ≤ h ∨ h + n ≤ pa) →
        tget t.bars pa = some { b with cached := none } ∧ memBytes t.mem pa 64 = natBytes o.toNat 64) ∧
      ∀ k ∈ ks, (t.core k).saved = ((s.core k).saved || !(s.blocksOn [k]).isEmpty) ∧ (t.core k).saving = false ∧ (t.core k).draining = false ∧ (t.core k).tlb = [] ∧
        (t.core k).lcache = [] ∧ (t.core k).peers.held = [] ∧ (t.core k).monitors = []) ∧
  (∀ (s : State) (ctx core : Nat) (h : Hog), s.ev = some (.contextRestore ctx core) → tget s.hogs (core + 256 * ctx) = some h →
    let ks := s.hogCores ctx [core] 16
    core ∈ ks ∧ (s.blocksOn ks = [] → s.hogMarked ctx ks = true → exec .contextRestore s = .next (s.contain 2 none (some ctx))) ∧
    (s.blocksOn ks = [] → s.hogMarked ctx ks = false → exec .contextRestore s = .next (ks.foldl (fun (s : State) k =>
      match tget s.hogs (k + 256 * ctx) with
      | some g => s.reload (k + 256 * ctx) g
      | none => s) s))))

/-- R344 to R347, R360, R441 to R445, R448, R449, R451 and R453: what the scrubber, the power, clock and wear
monitors, the key slots, attestation, boot, the debug port and power loss do. A scrub writes back or marks once; a key
load fills its slot and an unload empties it; the attestation counter rises before the signed report leaves and survives
power loss; a boot measures every image, and stops unless all verify, Aeddan's against the root in the fuses (R443); a halt of a die needs the grant and no other partition there. The hash and the signature scheme (log entry 15), the offset of exactly 1 ms (75), what a slot loaded
anew holds (76), a second boot (77), what power loss leaves (78), the watts of a grant (120) and tile and register errors (7) are the model's readings. -/
def Obligations.PlatformSteps : Prop :=
  (∀ (s : State) (die g : Nat) (found : ScrubFound), s.ev = some (.scrubRead die (.granule g) found) → (s.die die).scrubEn = true →
    (s.die die).scrub = none → isLocal (32 * g) = true → s.memDie (32 * g) = die → s.marked (32 * g) 32 = false → found ≠ .clean →
    ∃ t, exec .scrubRead s = .next t ∧ (t.die die).scrub = some (g, found) ∧ .scrubWriteback die ∈ t.due ∧ t.mem = s.mem ∧
      t.marks = s.marks) ∧
  (∀ (s : State) (die b h w : Nat) (k : Block) (o : Tile), s.ev = some (.scrubRead die (.tile b h w) .uncorrectable) →
    tget s.blocks b = some k → tget k.tiles h = some o →
    ∃ t k' o', exec .scrubRead s = .next t ∧ t.mem = s.mem ∧ t.crews = s.crews ∧ tget t.blocks b = some k' ∧
      tget k'.tiles h = some o' ∧ w ∈ o'.marks ∧ o'.data = o.data) ∧
  (∀ (s : State) (die k l r : Nat) (c : Crew), s.ev = some (.scrubRead die (.reg k l r) .uncorrectable) → l < 32 →
    tget s.crews k = some c → ∃ t c', exec .scrubRead s = .next t ∧ t.mem = s.mem ∧ tget t.crews k = some c' ∧
      r ∈ (c'.lane l).bad ∧ (c'.lane l).regs = (c.lane l).regs) ∧
  (∀ (s : State) (die g : Nat) (found : ScrubFound), s.ev = some (.scrubWriteback die) → (s.die die).scrub = some (g, found) →
    s.memDie (32 * g) = die →
    ∃ t, exec .scrubWriteback s = .next t ∧ (t.die die).scrub = none ∧ t.mem = s.mem ∧
      (found = .uncorrectable → g ∈ t.marks ∧ (t.die die).marked.toNat = min 0xFFFF ((s.die die).marked.toNat + 1)) ∧
      (found ≠ .uncorrectable → t.marks = s.marks ∧ (t.die die).fixed.toNat = min 0xFFFF ((s.die die).fixed.toNat + 1))) ∧
  (∀ (s : State) (p : PowerTarget) (grant : BitVec 16) (stretch : Bool), s.ev = some (.powerGrant p grant stretch) →
    (s.pkg.limit < Config.watts (s.granted p grant stretch).grantSum → exec .powerGrant s = .next s) ∧
    (Config.watts (s.granted p grant stretch).grantSum ≤ s.pkg.limit → ∃ t, exec .powerGrant s = .next t ∧ t.mem = s.mem ∧
      t.crews = s.crews ∧ (∀ k, p = .core k → (t.core k).grant = grant ∧ (t.core k).stretch = stretch) ∧
      (∀ d i, p = .stack d i → tget t.pkg.grants (2 * (2 * i + d % 2)) = some grant.toNat) ∧
      (∀ d i, p = .ports d i → tget t.pkg.grants (2 * (2 * i + d % 2) + 1) = some grant.toNat))) ∧
  (∀ s : State, s.pkg.limit = min 2200 s.pkg.budget.toNat) ∧
  (∀ (s : State) (die i : Nat) (hours : Word), s.ev = some (.wearEstimate die i hours) → i < 64 →
    ∃ t, exec .wearEstimate s = .next t ∧ t.readReg ⟨.pwrWear i, die, 0⟩ = hours.toNat ∧ t.mem = s.mem ∧ t.crews = s.crews) ∧
  (∀ (s : State) (offset : Int), s.ev = some (.ptpMessage offset) → ∃ t, exec .ptpMessage s = .next t ∧ t.pkg.synced = true ∧
    t.pkg.offs = BitVec.ofInt 32 offset ∧ t.mem = s.mem ∧ t.crews = s.crews ∧ (1000000 ≤ offset → s.pkg.tai < t.pkg.tai) ∧
    (offset < 1000000 → t.pkg.tai = s.pkg.tai)) ∧
  (∀ (s : State) (offset : Int), s.ev = some (.ppsInput offset) → (s.pkg.synced = false → exec .ppsInput s = .next s) ∧
    (s.pkg.synced = true → ∃ t, exec .ppsInput s = .next t ∧ t.mem = s.mem ∧
    t.crews = s.crews ∧ (1000000 ≤ offset → s.pkg.tai < t.pkg.tai) ∧ (offset < 1000000 → t.pkg.tai = s.pkg.tai))) ∧
  (∀ (s : State) (die part : Nat) (v : Word), s.ev = some (.trcRidx die part v) → ∃ t, exec .trcRidx s = .next t ∧
    t.mem = s.mem ∧ (t.part die part).ridx = (if (v - (s.part die part).ridx).toNat ≤
      ((s.part die part).widx - (s.part die part).ridx).toNat then v else (s.part die part).ridx)) ∧
  (∀ (i : Instr) (s : State) (p : Option Nat) (k : BitVec 13) (w : Nat), ((i = .loadGeneratedKey ∧ s.ev = some (.loadGeneratedKey p k)) ∨
    (i = .loadWrappedKey ∧ s.ev = some (.loadWrappedKey p k w)) ∨ (i = .unload ∧ s.ev = some (.unload p k))) →
    ∃ t, exec i s = .next t ∧ t.mem = s.mem ∧ (∀ j, j ≠ k.toNat → tget t.pkg.keys j = tget s.pkg.keys j) ∧
      (s.mayKey p k = false → t.pkg.keys = s.pkg.keys) ∧
      (s.mayKey p k = true → t.pkg.keyBusy = false ∧ (i = .loadGeneratedKey → tget t.pkg.keys k.toNat = some (2 * s.nextId)) ∧
        (i = .loadWrappedKey → tget t.pkg.keys k.toNat = some (2 * w + 1)) ∧ (i = .unload → tget t.pkg.keys k.toNat = none))) ∧
  (∀ (s : State) (p : Nat) (k : BitVec 13), s.mayKey none k = true ∧ s.mayKey (some p) 0 = false) ∧
  (∀ (s : State) (part : Nat) (nonce : List Byte), s.ev = some (.attestationRequest part nonce) → ∃ t,
    exec .attestationRequest s = .next t ∧ t.mem = s.mem ∧
    (s.pkg.attctr < 2 ^ 20 → t.pkg.attctr = s.pkg.attctr + 1 ∧
      let r := nonce ++ Config.serial ++ natBytes part 1 ++ s.pkg.measures.flatten ++ natBytes s.pkg.attctr 4
      .signed (r ++ Config.signature s.pkg.attctr r) ∈ t.out) ∧
    (2 ^ 20 ≤ s.pkg.attctr → t.pkg = s.pkg ∧ .attRefused ∈ t.out)) ∧
  (∀ (s : State) (b : BootInfo), s.ev = some (.boot b) → s.pkg.booted = false →
    let aeddan := [b.firmware, b.binder, b.monitor]
    let good : Prop := (∀ i ∈ aeddan, i.root = s.pkg.fuses) ∧
      ∀ i ∈ aeddan ++ b.systems, xmssVerify i.root i.seed i.sig i.bytes = true
    (¬ good → ∃ t, exec .boot s = .next t ∧ t.pkg.held = true ∧ .bootFailed ∈ t.out) ∧
    (good → bootUp b = [0, 1] → ∃ t, exec .boot s = .next t ∧ t.pkg.booted = true ∧ t.pkg.split = b.split ∧
      t.pkg.measures = (aeddan ++ b.systems).map (fun i => shake256 i.bytes) ∧ t.pkg.held = s.pkg.held ∧ t.mem = s.mem)) ∧
  (∀ (s : State) (die part : Nat), s.ev = some (.debugHalt die part) → (s.part die part).dbgGrant.getLsbD die = true →
    s.othersOn die part = false → ∃ t, exec .debugHalt s = .next t ∧ (t.die die).halted = true ∧ t.mem = s.mem ∧ t.crews = s.crews) ∧
  (∀ (s : State) (die part : Nat) (single watch : Bool), s.ev = some (.debugResume die part single watch) →
    (s.part die part).dbgGrant.getLsbD die = true → ∃ t, exec .debugResume s = .next t ∧ (t.die die).halted = false ∧
    (part ∈ (t.die die).stepping ↔ single = true) ∧ (part ∈ (t.die die).watching ↔ watch = true) ∧ t.mem = s.mem ∧ t.crews = s.crews) ∧
  (∀ s : State, s.ev = some .powerLoss → ∃ t, exec .powerLoss s = .next t ∧ t.pkg.attctr = s.pkg.attctr ∧ t.pkg.fuses = s.pkg.fuses ∧ t.mem = [] ∧
    t.crews = [] ∧ t.blocks = [] ∧ t.pkg.booted = false)

/-! ### Words, checks, steps, and the machine as a whole -/

namespace Sys2Proof.Machine

/-- What each instruction states before its effect, in a state; none for a step of hardware. -/
def wordHead (s : State) (i : Instr) : Option Head :=
  match laneForm i, accessForm i, tileForm i, copyForm i, accForm i, treeForm i, multiplyForm i, privilegedForm i with
  | some F, _, _, _, _, _, _, _ => some F.head
  | _, some F, _, _, _, _, _, _ => some F.head
  | _, _, some F, _, _, _, _, _ => some F.head
  | _, _, _, some (f, kind), _, _, _, _ => some (copyInstrHead f kind)
  | _, _, _, _, some (f, kind), _, _, _ => some (accInstrHead f kind)
  | _, _, _, _, _, some (_, _, _, h), _, _ => some h
  | _, _, _, _, _, _, some (f, kind), _ => some (multiplyInstrHead s f kind)
  | _, _, _, _, _, _, _, some h => some h
  | none, none, none, none, none, none, none, none =>
    match allocForm i, waitForm i with
    | some (f, os, morton), _ => some (allocateHead f os morton)
    | _, some (f, _) => some (waitAHead f)
    | none, none =>
      match i with
      | .nop f => some (nopHead f)
      | .mode f => some (modeHead f)
      | .modex f => some (modexHead f)
      | .bra f => some (braHead f)
      | .brx f => some (brxHead f)
      | .call f => some (callHead f)
      | .callx f => some (callxHead f)
      | .ret f => some (retHead f)
      | .ldc f => some (ldcHead f)
      | .trap f => some (trapHead f)
      | .syscall f => some (syscallHead f)
      | .exit f => some (exitHead f)
      | .yield f => some (yieldHead f)
      | .sleep f => some (sleepHead f)
      | .regang f => some (regangHead f)
      | .syncc f => some (synccHead f)
      | .rolesw f => some (roleswHead f)
      | .launch f => some (launchHead f)
      | .launchRelease f => some (launchReleaseHead f)
      | .swreg f => some (swregHead f)
      | .tfree f => some (tfreeHead f)
      | .fence f => some (fenceHead f)
      | .pref f => some (prefHead f)
      | .cctlInv f => some (cacheControlHead f)
      | .cctlClean f => some (cacheControlHead f)
      | .cctlFlush f => some (cacheControlHead f)
      | .tkwait f => some (tkwaitHead f)
      | .tkwaitMask f => some (tkwaitMaskHead f)
      | .tkany f => some (tkanyHead f)
      | .tktest f => some (tktestHead f)
      | .tkfree f => some (tkfreeHead f)
      | .tkfreeMask f => some (tkfreeMaskHead f)
      | .tkexpBar f => some (tkexpBarHead f)
      | .tkexpTask f => some (tkexpTaskHead f)
      | .binit f => some (binitHead f)
      | .bbind f => some (bbindHead f)
      | .barr f => some (barrHead f)
      | .barrd f => some (barrdHead f)
      | .bexp f => some (bexpHead f)
      | .bwait f => some (bwaitHead f)
      | .btest f => some (btestHead f)
      | .bcont f => some (bcontHead f)
      | .taskd f => some (taskdHead f)
      | .seal f => some (sealHead f)
      | .waitb f => some (waitbHead f)
      | .mseq f => some (mseqHead s f)
      | .macq f => some (macqHead f)
      | .mrel f => some (mrelHead f)
      | .coll f => some (collHead f)
      | .trace f => some (traceHead f)
      | .fclr f => some (fclrHead f)
      | .msgs f => some (msgsHead f)
      | .msgr f => some (msgrHead f)
      | .ctenr f => some (ctenrHead f)
      | .ctread f => some (ctreadHead f)
      | .ctcmp f => some (ctcmpHead f)
      | _ => none

end Sys2Proof.Machine

/-- R41, R56, R58 and R88 to R91: whatever a word's instruction, what is checked before its effect comes in one order, and the
first check that fails decides: ILLEGAL that the word, the window size or the gang reveals; a wait for results that have
not landed; ILLEGAL from registers and state; STALLSHORT; REGERR; NONUNIFORM of operands, then of the guard. When all
pass and no lane or slice acts, the gang only goes on. Every word has what it states. The order of the
two NONUNIFORM causes (log entry 85), the scoreboard by lane (22) and the masks of exchanges (105) are the model's readings. -/
def Obligations.ChecksInOrder : Prop :=
  (∀ (s : State) (i : Instr), (encode i).isSome = true ↔ (wordHead s i).isSome = true) ∧
  ∀ (i : Instr) (h : Head) (s : State) (k : Nat) (js : List Nat) (c : Crew), wordHead s i = some h → s.cur = some (k, js) →
    tget s.crews k = some c →
    let x := s.issueOf h k js c
    (x.misnamed h = true → exec i s = .next (s.takeTrap k js .illegal x.live 0 [] 0)) ∧
    (x.misnamed h = false →
      (x.waits h = true → exec i s = .next (s.stall k js)) ∧
      (x.waits h = false →
        (x.forbidden h = true → exec i s = .next (s.takeTrap k js .illegal (h.dynMask x) 0 [] 0)) ∧
        (x.forbidden h = false →
          (x.early h = true → exec i s = .next (s.takeTrap k js .stallshort x.live 0 [] 0)) ∧
          (x.early h = false →
            (x.badRegs h ≠ 0 → exec i s = .next (s.takeTrap k js .regerr (x.badRegs h) 0 [] 0)) ∧
            (x.badRegs h = 0 →
              (x.nonuniform h ≠ 0 → exec i s = .next (s.takeTrap k js .nonuniform (x.nonuniform h) 0 [] 0)) ∧
              (x.nonuniform h = 0 →
                (x.split h ≠ 0 → exec i s = .next (s.takeTrap k js .nonuniform (x.split h) 0 [] 0)) ∧
                (x.split h = 0 → x.act = 0 → gangShape js = true →
                  ∃ c', exec i s = .next (s.setCrew k c') ∧ Moved x c' ∧ c'.alike c ∧ c'.lanes = c.lanes)))))))

/-- R45, R46, R47, R59 and R60: words written out from the spec's encodings decode to the instructions they stand for, and
words with an unassigned opcode, an unused bit set or U where no U is permitted decode to none. -/
def Obligations.WordsDecode : Prop :=
  decode 0x27088064#32 = some (.movi ⟨false, 1, 4, 100⟩) ∧
  decode 0x1888A201#32 = some (.addi ⟨false, 1, 5, 4, 1⟩) ∧
  decode 0x08000000#32 = some (.exit ⟨0⟩) ∧
  decode 0x00801283#32 = some (.mode ⟨0, 0x1283⟩) ∧
  decode 0xBD000800#32 = some (.barr ⟨0, 16⟩) ∧
  decode 0xEB000005#32 = some (.syscall ⟨0, 5⟩) ∧
  decode 0xF1806E00#32 = some (.ctcmp ⟨0, 3, 28⟩) ∧
  decode 0x08400000#32 = none ∧ decode 0x08000001#32 = none ∧ decode 0xFFFFFFFF#32 = none

/-- R45, R46, R59 and R60: an instruction that keeps its fields' limits is what its word decodes to, with every operand at
every value its fields admit; and a word that decodes gives an instruction that keeps them and whose word it is. -/
def Obligations.EncodeDecode : Prop :=
  (∀ (i : Instr) (w : Word), i.wf = true → encode i = some w → decode w = some i) ∧
  (∀ (w : Word) (i : Instr), decode w = some i → i.wf = true ∧ encode i = some w)

/-- A step is the turn that comes next: the word that the gang's PC fetches, decoded and executed in the state in which that
gang issues, which an armed single step or watch point notes; a word that does not decode, or a fetch that fails, as the
step the spec gives each; the MONITOR of the word before, noted so; a step of hardware; or the passing of a clock, at which a gang whose instruction would have waited counts as not having been ready (R156). A package
that is held takes none. A fetch of a page that is there gives the word that memory held
when the launch began. -/
def Obligations.StepRuns : Prop :=
  (∀ (s : State) (k : Nat) (js : List Nat), s.pkg.held = false → s.turn = .issue k js →
    let t := s.issuing k js
    t.cur = some (k, js) ∧ t.mem = s.mem ∧ t.blocks = s.blocks ∧ t.clk = s.clk ∧
    (∀ q, q ≠ k → tget t.crews q = tget s.crews q) ∧
    (∀ c, tget s.crews k = some c → ∃ c', tget t.crews k = some c' ∧ c'.alike c ∧ c'.lanes = c.lanes ∧
      ∀ j, c'.slice j = c.slice j ∨ c'.slice j = { c.slice j with stepped := true }) ∧
    (∀ w i, t.fetched k js = .word w → decode w = some i → step s = exec i t) ∧
    (∀ w, t.fetched k js = .word w → decode w = none →
      step s = exec .illegalInstructionWord { t with ev := some (.illegalInstructionWord w) }) ∧
    ((∀ w, t.fetched k js ≠ .word w) → step s = exec .fetchFault { t with ev := some .fetchFault })) ∧
  (∀ (s : State) (k : Nat) (js : List Nat) (c : Crew), s.pkg.held = false → s.turn = .monitor k js → tget s.crews k = some c →
    ∃ u : State, step s = .next (u.takeTrap k js .monitor (c.live js) 0 [] 0) ∧ u.crews = s.crews ∧ u.mem = s.mem) ∧
  (∀ (s : State) (e : Event), s.pkg.held = false → s.turn = .event e → ∃ t, step s = exec e.row t ∧ t.ev = some e ∧
    t.due = s.due.erase e ∧ t.mem = s.mem ∧ t.crews = s.crews) ∧
  (∀ (s : State), s.pkg.held = false → s.turn = .clock → ∃ t, step s = .next t ∧ t.clk = s.clk + 1 ∧ t.mem = s.mem ∧
    ∀ k, (tget s.crews k = none → tget t.crews k = none) ∧ ∀ c, tget s.crews k = some c → ∃ c', tget t.crews k = some c' ∧
      c'.alike c ∧ c'.lanes = c.lanes ∧ ∀ j, c'.slice j = c.slice j ∨ c'.slice j = { c.slice j with since := s.clk + 1 }) ∧
  (∀ (s : State), s.pkg.held = true → step s = .fault .deviceHeld) ∧
  (∀ (s : State) (c : Crew) (va : Dword) (l : Loc) (b : Block) (n : Node),
    s.translate c.core c.sup.isSome .fetch fetchChoice va = .ok l → s.marked l.pa 4 = false →
    tget s.blocks c.block = some b → tget s.nodes b.node = some n →
    s.fetch c fetchChoice va = .word (BitVec.ofNat 32 (memNat n.code l.pa 4)))

/-- What reset leaves: no memory written and none marked, in canonical form, no context, launch, crew or operation, the
registers at the values the spec gives, and the package not yet booted; the first step is the passing of a clock. The
values the spec does not give are the model's choice (log entry 8). -/
def Obligations.Reset : Prop :=
  State.reset.memOk ∧ State.reset.mem = [] ∧ State.reset.marks = [] ∧ State.reset.crews = [] ∧ State.reset.blocks = [] ∧
  State.reset.ctxs = [] ∧ State.reset.nodes = [] ∧ State.reset.ops = [] ∧ State.reset.clk = 0 ∧
  State.reset.pkg.booted = false ∧ State.reset.pkg.held = false ∧ State.reset.pkg.attctr = 0 ∧
  (∀ k r, regOf k = some r → r.reg = .coreCtl ∨ r.reg = .coreMxctl ∨ r.reg = .coreSlotstat ∨ r.reg = .redstat →
    State.reset.readReg r = 0) ∧
  step State.reset = .next State.reset.clock

/-- Every step keeps the canonical form of memory: bytes by rising address, none of them 0. -/
def Obligations.MemoryKept : Prop := Kept State.memOk

/-! ### What the engines move and compute -/

/-- R265 to R270, R272 and R386: a copy holds the bytes it has read of a source until it writes them: those of clean
local memory of which no older value is left, and those of a tile with no unfenced write. A word written to a tile is
the word held, and no other byte of the tile changes. Of a run of words within a granule it writes each as held, or
not yet, and nothing outside the run; a piece that is poison marks. R73, R75, R295, R301, R302 and R309: one promotion
adds to the accumulator, in FP32 with one rounding, the sum in IA24 of its k-steps, each the exact sum of its
products, a longer operation being its promotions one after another; a marked row, column or accumulator gives the
marked NaN. The results are the accumulator block's words, and no others change. MZERO writes zeros, MSCAL each
element by the scale, rounded once, MLOAD each element's value in FP32, and MCVT has each element rounded to its
format still to write to its tile; a marked element stays marked. -/
def Obligations.EngineResults : Prop :=
  ((∀ (c : CopyOp) (pos i : Nat) (bs : List Byte) (bad : List Bool), bs.length % 4 = 0 → i < bs.length / 4 →
    tget (c.got pos bs bad).held (pos + 4 * i) =
      some (BitVec.ofNat 32 (bytesNat ((bs.drop (4 * i)).take 4)), bad.getD i false)) ∧
  (∀ (s : State) (id pos len : Nat) (o : Op) (c : CopyOp) (a : Dword) (l : Loc), c.kind ≠ .cpyg →
    let n := (copyShape c.kind c.g).2
    let va := a + BitVec.ofNat 64 (pos % n)
    (s.copyRow c (pos / n)).1 = .glob a → 0 < len → len % 4 = 0 → n % 4 = 0 → 0 < n → pos % 4 = 0 → a.toNat % 4 = 0 →
    (∀ m < 33, s.reach o .read 0 m va = .here l) → s.gkeys = [] → (s.core o.core).olds = [] →
    ∃ m, 0 < m ∧ m ≤ len ∧ m % 4 = 0 ∧ pos % n + m ≤ n ∧
      s.copyRead id o c pos len = (s.lcacheDrop o.core l.pa m).putCopy id
        (c.got pos (memBytes s.mem l.pa m) (List.replicate (m / 4) (s.marked l.pa m)))) ∧
  (∀ (s : State) (id pos len off : Nat) (o : Op) (c : CopyOp) (x : Tile), c.kind ≠ .cpyg →
    let n := (copyShape c.kind c.g).2
    (s.copyRow c (pos / n)).1 = .tile off → 0 < len → len % 4 = 0 → n % 4 = 0 → 0 < n → pos % 4 = 0 → off % 4 = 0 →
    s.bound c.src = some x → off + n ≤ x.size → x.shadows = [] → c.shadows = [] →
    ∃ m, 0 < m ∧ m ≤ len ∧ m % 4 = 0 ∧ pos % n + m ≤ n ∧ s.copyRead id o c pos len = s.putCopy id
      (c.got pos (x.read (off + pos % n) m) ((wordsIn (off + pos % n) m).map x.marks.contains))) ∧
  (∀ (s : State) (id pos off : Nat) (o : Op) (c : CopyOp) (x : Tile) (w : Word) (bad : Bool),
    let n := (copyShape c.kind c.g).2
    (s.copyRow c (pos / n)).2 = .tile off → tget c.held pos = some (w, bad) → s.bound c.dst = some x → x.morton = false →
    tget s.ops id = some o → o.body = .copy c →
    let p := off + pos % n
    p + 4 ≤ x.size → p % 4 = 0 →
    ∃ x' o' c', (s.copyWrite id o c pos).bound c.dst = some x' ∧ x'.read p 4 = natBytes w.toNat 4 ∧ x'.badAt p 4 = bad ∧
      (∀ a, (a < p ∨ p + 4 ≤ a) → memGet x'.data a = memGet x.data a) ∧ (s.copyWrite id o c pos).mem = s.mem ∧
      tget (s.copyWrite id o c pos).ops id = some o' ∧ o'.body = .copy c' ∧ c'.held = tdel c.held pos ∧
      c'.poisoned = (c.poisoned || bad)) ∧
  (∀ (s : State) (id p k : Nat) (o : Op) (c : CopyOp) (va a : Dword) (l : Loc) (w : Nat → Word),
    let n := (copyShape c.kind c.g).2
    tget s.ops id = some o → o.body = .copy c → (s.copyRow c (p / n)).2 = .glob a → a + BitVec.ofNat 64 (p % n) = va →
    0 < k → va.toNat % 4 = 0 → va.toNat % 32 + 4 * k ≤ 32 →
    s.runAt c 32 va = (List.range k).map (fun i => (va + BitVec.ofNat 64 (4 * i), [p + 4 * i])) →
    (∀ i < k, tget c.held (p + 4 * i) = some (w i, false)) → (∀ m < 33, s.reach o .write 1 m va = .here l) →
    l.pa % 32 = va.toNat % 32 → s.marked l.pa (4 * k) = false → s.scrubbed l.pa (4 * k) (fun _ => true) = false →
    l.key = 0 → s.gkeys = [] → s.enrols = [] → s.bars = [] →
    let t := s.copyWrite id o c p
    ∃ o' c', tget t.ops id = some o' ∧ o'.body = .copy c' ∧ c'.poisoned = c.poisoned ∧
      (∃ i < k, tget c'.held (p + 4 * i) = none) ∧
      (∀ i < k, (tget c'.held (p + 4 * i) = none ∧ memBytes t.mem (l.pa + 4 * i) 4 = natBytes (w i).toNat 4) ∨
        (tget c'.held (p + 4 * i) = some (w i, false) ∧ memBytes t.mem (l.pa + 4 * i) 4 = memBytes s.mem (l.pa + 4 * i) 4)) ∧
      ∀ b, (b < l.pa ∨ l.pa + 4 * k ≤ b) → memGet t.mem b = memGet s.mem b) ∧
  (∀ (s : State) (l : Loc) (bs : List Byte) (whole bad : Bool), bs ≠ [] → l.pa % 32 + bs.length ≤ 32 →
    s.scrubbed l.pa bs.length (fun _ => true) = false → l.key = 0 → s.gkeys = [] →
    let r := s.enginePut l bs whole bad
    (whole = false → s.marked l.pa bs.length = true → r.2 = false ∧ r.1.mem = s.mem ∧ r.1.marks = s.marks) ∧
    ((whole = true ∨ s.marked l.pa bs.length = false) → r.2 = true ∧ memBytes r.1.mem l.pa bs.length = bs ∧
      (bad = true → r.1.marked l.pa bs.length = true) ∧ (bad = false → bs.length = 32 → r.1.marked l.pa 32 = false)))) ∧
  ((∀ (ks : Nat) (a b : List Fl) (acc : Fl), 0 < ks → a.length = ks → b.length = ks →
    mmaElem ks 1 a b [] acc =
      roundFl .fp32 0 false (addAcc acc (truncIA24 (sumFl [.fin false 0 0, sumFl (List.zipWith mulFl a b)])))) ∧
  (∀ (ks p : Nat) (a b a' b' : List Fl) (acc : Fl), 0 < ks → 0 < p → a.length = ks * p → b.length = a.length →
    a'.length = b'.length → ks ∣ a'.length → 0 < a'.length →
    mmaElem ks p (a ++ a') (b ++ b') [] acc = mmaElem ks p a' b' [] (decodeFl .fp32 (mmaElem ks p a b [] acc))) ∧
  (∀ (ks p : Nat) (z : Bool) (a : List Fl × Bool) (cols : List (List Fl × Bool)) (old : List (Nat × Bool)) (j : Nat)
    (b : List Fl × Bool), cols[j]? = some b →
    let was := old.getD j (0, false)
    (mmaRow ks p z none [] a cols old)[j]? = some (if a.2 || b.2 || (!z && was.2) then (0x7FC00000, true)
      else (mmaElem ks p a.1 b.1 [] (if z then .fin false 0 0 else decodeFl .fp32 was.1), false))) ∧
  (∀ (s : State) (o : Op) (m : MatOp) (rows cols : List (List Fl × Bool)), m.list = [] → (gw m.g 1).getLsbD 0 = true →
    (gw m.g 1).getLsbD 1 = false → m.step = 0 → s.matrixA o m m.span.1 m.span.2 = .ok rows →
    s.matrixB o m m.span.1 m.span.2 = .ok cols →
    s.promote o m = .ok (rows.map fun a => mmaRow m.ks (ctlP (gw m.g 1)) true none [] a cols [])) ∧
  (∀ (s : State) (o : Op) (m : MatOp) (x : Member) (t : Tile) (i lo n : Nat), ctlA (gw x.g 1) = 1 →
    s.level x.aTile false = some t → t.shadows = [] → o.olds = [] → 0 < n →
    let ea := elemSize m.f.a
    let off := (gw x.g 6).toNat + i * t.rowBytes + lo * ea
    off % ea = 0 → off + n * ea ≤ t.size →
    s.rowA o m x i lo n =
      .ok ((List.range n).map (fun j => elemVal m.f.a (bytesNat (t.read (off + j * ea) ea))), t.badAt off (n * ea))) ∧
  (∀ (s : State) (id : Nat) (o : Op) (m : MatOp) (t : Tile) (rs : List (List (Nat × Bool))), tget s.ops id = some o → o.body = .mat m →
    s.ev = some (.matrixOpStart id) → m.running = true → m.outs = [] → m.kind.multiply = true → m.fmt.isSome = true →
    m.wantsList = false → Got.missing m.got m.wants = [] → s.promote o m = .ok rs →
    let g := m.g
    let at_ := fun (r j : Nat) => ((gw g 4).toNat + r) * t.rowBytes + 4 * j
    s.level m.acc true = some t → (∀ r ∈ rs, 4 * r.length = t.rowBytes) →
    ∃ u t' o' m', exec .matrixOpStart s = .next u ∧ u.mem = s.mem ∧ u.level m.acc true = some t' ∧ tget u.ops id = some o' ∧
      o'.body = .mat m' ∧ m'.step = min (m.k / m.ks) (m.step + ctlP (gw g 1)) ∧
      (∀ r (h : r < rs.length) j (h' : j < rs[r].length), t'.read (at_ r j) 4 = natBytes rs[r][j].1 4 ∧
        t'.badAt (at_ r j) 4 = rs[r][j].2) ∧
      ∀ a, (a < at_ 0 0 ∨ at_ rs.length 0 ≤ a) → t'.read a 1 = t.read a 1) ∧
  (∀ (s : State) (id : Nat) (o : Op) (m : MatOp) (t : Tile), tget s.ops id = some o → o.body = .mat m →
    s.ev = some (.matrixOpStart id) → m.running = true → m.outs = [] → o.olds = [] →
    let g := m.g
    let off := fun (i j : Nat) => ((rowsOf g).1 + i) * t.rowBytes + 4 * j
    let n := (rowsOf g).2
    s.level m.acc true = some t → t.shadows = [] → t.rowBytes % 4 = 0 → 0 < t.rowBytes → (rowsOf g).1 + n ≤ t.rows →
    let round := fun (x : Fl) => natBytes (roundFl .fp32 0 false x) 4
    let old := fun (i j : Nat) => decodeFl .fp32 (bytesNat (t.read (off i j) 4))
    let ends := fun (u : State) (t' : Tile) => exec .matrixOpStart s = .next u ∧ u.mem = s.mem ∧ u.level m.acc true = some t' ∧
      .matrixOpComplete id ∈ u.due ∧ ∀ a, (a < off 0 0 ∨ off n 0 ≤ a) → t'.read a 1 = t.read a 1
    (m.kind = .mzero → ∃ u t', ends u t' ∧ ∀ i < n, ∀ j < t.rowBytes / 4, t'.read (off i j) 4 = [0, 0, 0, 0] ∧
      t'.badAt (off i j) 4 = false) ∧
    (m.kind = .mscal → ∃ u t', ends u t' ∧ ∀ i < n, ∀ j < t.rowBytes / 4,
      t'.badAt (off i j) 4 = t.badAt (off i j) 4 ∧
      t'.read (off i j) 4 = if t.badAt (off i j) 4 then natBytes 0x7FC00000 4
        else round (mulFl (old i j) (decodeFl .fp32 (gw g 3).toNat))) ∧
    (m.kind = .mload → ∀ y, s.level m.bTile false = some y → y.shadows = [] →
      let f := accFmt (gw g 3).toNat
      let place := fun (i j : Nat) => (gw g 5).toNat + i * y.rowBytes + j * fmtBytes f
      (∀ i < n, place i (t.rowBytes / 4) ≤ y.size ∧ place i 0 % fmtBytes f = 0) → ∃ u t', ends u t' ∧
        ∀ i < n, ∀ j < t.rowBytes / 4, t'.badAt (off i j) 4 = y.badAt (place i j) (fmtBytes f) ∧
          t'.read (off i j) 4 = if y.badAt (place i j) (fmtBytes f) then natBytes 0x7FC00000 4
            else round (decodeFl f (bytesNat (y.read (place i j) (fmtBytes f))))) ∧
    (m.kind = .mcvt → 0 < n → ∀ y, s.level m.bTile false = some y →
      let f := accFmt ((gw g 3).extractLsb' 0 3).toNat
      let w := t.rowBytes / 4 * fmtBytes f
      let place := fun (i : Nat) => (gw g 5).toNat + i * y.rowBytes
      (∀ i < n, place i + w ≤ y.size ∧ place i % fmtBytes f = 0 ∧ place i % y.rowBytes + w ≤ y.rowBytes) →
      let code := fun (i j : Nat) => if t.badAt (off i j) 4 then (canonNan f, true)
        else (roundFl f 0 ((gw g 3).getLsbD 3) (old i j), false)
      ∃ u o' m', exec .matrixOpStart s = .next u ∧ u.mem = s.mem ∧ tget u.ops id = some o' ∧ o'.body = .mat m' ∧
        u.level m.acc true = some t ∧
        m'.outs = joinBad ((List.range n).flatMap fun i =>
          rowOuts m.bTile (gw g 4) (place i) f ((List.range (t.rowBytes / 4)).map (code i))))) ∧
  (∀ (b : Bound) (h : Word) (off : Nat) (f : FFmt) (xs : List (Nat × Bool)),
    (rowOuts b h off f xs).flatMap (·.bs) = xs.flatMap (fun x => natBytes x.1 (fmtBytes f)) ∧
    ∀ e ∈ rowOuts b h off f xs, e.dst = b ∧ off ≤ e.off ∧ e.off / 4 = (e.off + e.bs.length - 1) / 4 ∧
      e.bs = ((xs.flatMap (fun x => natBytes x.1 (fmtBytes f))).drop (e.off - off)).take e.bs.length) ∧
  (∀ (s : State) (id : Nat) (o : Op) (m : MatOp) (e : MatOut) (t : Tile), tget s.ops id = some o → o.body = .mat m →
    s.ev = some (.matrixOpStart id) → m.running = true → m.outs = [e] → s.level e.dst false = some t → t.morton = false →
    e.bs ≠ [] → e.off + e.bs.length ≤ t.size → e.off % min e.size 4 = 0 →
    ∃ u t', exec .matrixOpStart s = .next u ∧ u.mem = s.mem ∧ u.level e.dst false = some t' ∧
      t'.read e.off e.bs.length = e.bs ∧ t'.badAt e.off e.bs.length = e.bad ∧ .matrixOpComplete id ∈ u.due ∧
      ∀ a, (a < e.off ∨ e.off + e.bs.length ≤ a) → memGet t'.data a = memGet t.data a))
end

