-- ==== Sys2Proof/Laws/Tables.lean ====
section
/-! SUPPORT. Laws of finite tables, of memory, and of byte strings. -/

namespace Sys2Proof.Machine

variable {α : Type}

/-! ### Reading after writing -/

@[simp] theorem tget_nil (k : Nat) : tget ([] : Table α) k = none := rfl

/-- A table read after one entry is set. -/
theorem tget_tset (t : Table α) (k j : Nat) (v : α) : tget (tset t k v) j = if k = j then some v else tget t j := by
  induction t with
  | nil => simp [tset, tget]
  | cons e r ih =>
    obtain ⟨i, w⟩ := e
    simp only [tset]
    split
    · simp [tget]
    · split
      · subst_vars
        simp only [tget]
        split <;> simp_all
      · simp only [tget, ih]
        split <;> simp_all

@[simp] theorem tget_tset_self (t : Table α) (k : Nat) (v : α) : tget (tset t k v) k = some v := by simp [tget_tset]

theorem tget_tset_ne (t : Table α) {k j : Nat} (v : α) (h : k ≠ j) : tget (tset t k v) j = tget t j := by
  simp [tget_tset, h]

/-- A table read after one of its entries is mapped. -/
theorem tget_tmod (t : Table α) (k j : Nat) (f : α → α) :
    tget (tmod t k f) j = if k = j then (tget t k).map f else tget t j := by
  unfold tmod
  cases h : tget t k with
  | none => by_cases hj : k = j <;> simp_all
  | some v => by_cases hj : k = j <;> simp_all [tget_tset]

/-- A table read after every entry is mapped. -/
theorem tget_tmap (t : Table α) (f : Nat → α → α) (k : Nat) : tget (tmap t f) k = (tget t k).map (f k) := by
  unfold tmap
  induction t with
  | nil => rfl
  | cons e r ih =>
    obtain ⟨j, w⟩ := e
    simp only [List.map_cons, tget]
    split
    · simp_all
    · exact ih

/-! ### Keys that strictly rise -/

theorem keysFrom_mono {lo hi : Nat} {t : Table α} (h : keysFrom hi t = true) (hle : lo ≤ hi) : keysFrom lo t = true := by
  cases t with
  | nil => rfl
  | cons e r =>
    obtain ⟨k, v⟩ := e
    simp only [keysFrom, Bool.and_eq_true, decide_eq_true_eq] at h ⊢
    exact ⟨by omega, h.2⟩

/-- Every key of a table lies at or above the bound it rises from. -/
theorem keysFrom_ge {lo : Nat} {t : Table α} (h : keysFrom lo t = true) : ∀ e ∈ t, lo ≤ e.1 := by
  induction t generalizing lo with
  | nil => simp
  | cons e r ih =>
    obtain ⟨k, v⟩ := e
    simp only [keysFrom, Bool.and_eq_true, decide_eq_true_eq] at h
    intro e he
    rcases List.mem_cons.mp he with rfl | he
    · exact h.1
    · have := ih h.2 e he; omega

theorem keysFrom_tset {lo : Nat} {t : Table α} (k : Nat) (v : α) (h : keysFrom lo t = true) (hk : lo ≤ k) :
    keysFrom lo (tset t k v) = true := by
  induction t generalizing lo with
  | nil => simp [tset, keysFrom, hk]
  | cons e r ih =>
    obtain ⟨j, w⟩ := e
    simp only [keysFrom, Bool.and_eq_true, decide_eq_true_eq] at h
    simp only [tset]
    split
    · simp only [keysFrom, Bool.and_eq_true, decide_eq_true_eq]; exact ⟨hk, by omega, h.2⟩
    · split
      · simp only [keysFrom, Bool.and_eq_true, decide_eq_true_eq]; subst_vars; exact ⟨hk, h.2⟩
      · simp only [keysFrom, Bool.and_eq_true, decide_eq_true_eq]; exact ⟨h.1, ih h.2 (by omega)⟩

theorem keysFrom_tdel {lo : Nat} {t : Table α} (k : Nat) (h : keysFrom lo t = true) : keysFrom lo (tdel t k) = true := by
  induction t generalizing lo with
  | nil => rfl
  | cons e r ih =>
    obtain ⟨j, w⟩ := e
    simp only [keysFrom, Bool.and_eq_true, decide_eq_true_eq] at h
    simp only [tdel]
    split
    · exact ih (keysFrom_mono h.2 (by omega))
    · simp only [keysFrom, Bool.and_eq_true, decide_eq_true_eq]; exact ⟨h.1, ih h.2⟩

theorem keysFrom_filter {lo : Nat} {t : Table α} (p : Nat × α → Bool) (h : keysFrom lo t = true) :
    keysFrom lo (t.filter p) = true := by
  induction t generalizing lo with
  | nil => rfl
  | cons e r ih =>
    obtain ⟨j, w⟩ := e
    simp only [keysFrom, Bool.and_eq_true, decide_eq_true_eq] at h
    simp only [List.filter_cons]
    split
    · simp only [keysFrom, Bool.and_eq_true, decide_eq_true_eq]; exact ⟨h.1, ih h.2⟩
    · exact keysFrom_mono (ih h.2) (by omega)

/-- A key below every entry of a table is not in it. -/
theorem tget_below {lo k : Nat} {t : Table α} (h : keysFrom lo t = true) (hk : k < lo) : tget t k = none := by
  induction t generalizing lo with
  | nil => rfl
  | cons e r ih =>
    obtain ⟨j, w⟩ := e
    simp only [keysFrom, Bool.and_eq_true, decide_eq_true_eq] at h
    simp only [tget]
    rw [if_neg (by omega)]
    exact ih h.2 (by omega)

/-- A table read after one entry is taken out. -/
theorem tget_tdel (t : Table α) (k j : Nat) : tget (tdel t k) j = if k = j then none else tget t j := by
  induction t with
  | nil => simp [tdel]
  | cons e r ih =>
    obtain ⟨i, w⟩ := e
    simp only [tdel]
    split
    · rw [ih]; subst_vars
      split <;> simp_all [tget]
    · simp only [tget, ih]
      split <;> simp_all
      omega

@[simp] theorem tget_tdel_self (t : Table α) (k : Nat) : tget (tdel t k) k = none := by simp [tget_tdel]

/-! ### Memory -/

theorem wf_nil : Memory.wf [] = true := rfl

theorem all_tset {p : Nat × Byte → Bool} {t : Table Byte} (k : Nat) (v : Byte) (h : t.all p = true) (hv : p (k, v) = true) :
    (tset t k v).all p = true := by
  induction t with
  | nil => simp [tset, hv]
  | cons e r ih =>
    obtain ⟨j, w⟩ := e
    simp only [List.all_cons, Bool.and_eq_true] at h
    simp only [tset]
    split
    · simp only [List.all_cons, Bool.and_eq_true]; exact ⟨hv, h.1, h.2⟩
    · split
      · simp only [List.all_cons, Bool.and_eq_true]; exact ⟨hv, h.2⟩
      · simp only [List.all_cons, Bool.and_eq_true]; exact ⟨h.1, ih h.2⟩

theorem all_tdel {p : Nat × Byte → Bool} {t : Table Byte} (k : Nat) (h : t.all p = true) : (tdel t k).all p = true := by
  induction t with
  | nil => rfl
  | cons e r ih =>
    obtain ⟨j, w⟩ := e
    simp only [List.all_cons, Bool.and_eq_true] at h
    simp only [tdel]
    split
    · exact ih h.2
    · simp only [List.all_cons, Bool.and_eq_true]; exact ⟨h.1, ih h.2⟩

/-- Writing one byte keeps the canonical form of memory. -/
theorem wf_memSet {m : Table Byte} (a : Nat) (b : Byte) (h : Memory.wf m = true) : Memory.wf (memSet m a b) = true := by
  simp only [Memory.wf, Bool.and_eq_true] at h ⊢
  unfold memSet
  split
  · exact ⟨keysFrom_tdel a h.1, all_tdel a h.2⟩
  · exact ⟨keysFrom_tset a b h.1 (Nat.zero_le _), all_tset a b h.2 (by simpa using ‹_›)⟩

/-- Writing a string of bytes keeps the canonical form of memory. -/
theorem wf_memWrite {m : Table Byte} (a : Nat) (bs : List Byte) (h : Memory.wf m = true) :
    Memory.wf (memWrite m a bs) = true := by
  induction bs generalizing m a with
  | nil => exact h
  | cons b r ih => exact ih _ (wf_memSet a b h)

/-- Taking bytes out of memory keeps its canonical form. -/
theorem wf_filter {m : Table Byte} (p : Nat × Byte → Bool) (h : Memory.wf m = true) : Memory.wf (m.filter p) = true := by
  simp only [Memory.wf, Bool.and_eq_true] at h ⊢
  refine ⟨keysFrom_filter p h.1, ?_⟩
  simp only [List.all_eq_true] at h ⊢
  exact fun c hc => h.2 c (List.mem_filter.mp hc).1

/-- A byte read after one is written. -/
theorem memGet_memSet (m : Table Byte) (a k : Nat) (b : Byte) :
    memGet (memSet m a b) k = if a = k then b else memGet m k := by
  unfold memSet memGet
  split
  · rw [tget_tdel]
    split <;> simp_all
  · rw [tget_tset]
    split <;> simp_all

/-- A byte outside a string that is written reads as before. -/
theorem memGet_memWrite_out (m : Table Byte) (a : Nat) (bs : List Byte) (k : Nat)
    (hk : k < a ∨ a + bs.length ≤ k) : memGet (memWrite m a bs) k = memGet m k := by
  induction bs generalizing m a with
  | nil => rfl
  | cons b r ih =>
    simp only [List.length_cons] at hk
    show memGet (memWrite (memSet m a b) (a + 1) r) k = _
    rw [ih _ (a + 1) (by omega), memGet_memSet, if_neg (by omega)]

/-- A byte inside a string that is written reads as written. -/
theorem memGet_memWrite_in (m : Table Byte) (a : Nat) (bs : List Byte) (i : Nat)
    (hi : i < bs.length) : memGet (memWrite m a bs) (a + i) = bs[i] := by
  induction bs generalizing m a i with
  | nil => simp at hi
  | cons b r ih =>
    show memGet (memWrite (memSet m a b) (a + 1) r) (a + i) = _
    cases i with
    | zero =>
      rw [memGet_memWrite_out _ _ _ _ (by omega), memGet_memSet]
      simp
    | succ i =>
      rw [show a + (i + 1) = a + 1 + i by omega, ih _ (a + 1) i (by simpa using hi)]
      simp

@[simp] theorem memBytes_length (m : Table Byte) (a n : Nat) : (memBytes m a n).length = n := by
  induction n generalizing a with
  | zero => rfl
  | succ n ih => simp [memBytes, ih]

/-- The bytes of a string that is written read back. -/
theorem memBytes_memWrite (m : Table Byte) (a : Nat) (bs : List Byte) :
    memBytes (memWrite m a bs) a bs.length = bs := by
  induction bs generalizing m a with
  | nil => rfl
  | cons b r ih =>
    have h0 := memGet_memWrite_in m a (b :: r) 0 (by simp)
    simp only [Nat.add_zero, List.getElem_cons_zero] at h0
    show memGet (memWrite m a (b :: r)) a :: memBytes (memWrite (memSet m a b) (a + 1) r) (a + 1) r.length = _
    rw [h0, ih]

/-! ### Byte strings -/

@[simp] theorem natBytes_length (v n : Nat) : (natBytes v n).length = n := by
  induction n generalizing v with
  | zero => rfl
  | succ n ih => simp [natBytes, ih]

/-- The bytes of a number give the number, cut to their count. -/
theorem bytesNat_natBytes (v n : Nat) : bytesNat (natBytes v n) = v % 256 ^ n := by
  induction n generalizing v with
  | zero => simp [natBytes, bytesNat, Nat.mod_one]
  | succ n ih =>
    simp only [natBytes, bytesNat, ih, BitVec.toNat_ofNat]
    rw [show (256 : Nat) ^ (n + 1) = 256 * 256 ^ n by ring, Nat.mod_mul]

/-- A byte string's number lies below 256 to its length. -/
theorem bytesNat_lt (bs : List Byte) : bytesNat bs < 256 ^ bs.length := by
  induction bs with
  | nil => simp [bytesNat]
  | cons b r ih =>
    have := b.isLt
    simp only [bytesNat, List.length_cons, Nat.pow_succ]
    omega

/-- A number written as bytes reads back. -/
theorem memNat_memWrite (m : Table Byte) (a v n : Nat) :
    memNat (memWrite m a (natBytes v n)) a n = v % 256 ^ n := by
  have := memBytes_memWrite m a (natBytes v n)
  rw [natBytes_length] at this
  rw [memNat, this, bytesNat_natBytes]

/-! ### Sorted sets -/

/-- Taking one number out of a sorted set leaves every other. -/
theorem mem_sdel_ne {k j : Nat} (t : List Nat) (h : j ≠ k) : j ∈ sdel k t ↔ j ∈ t := by
  induction t with
  | nil => rfl
  | cons i r ih =>
    simp only [sdel]
    split
    · subst_vars; simp [ih, h]
    · simp [ih]

end Sys2Proof.Machine
end

