-- ==== Sys2Proof/Laws/State.lean ====
section
/-! SUPPORT. What each update of the state leaves: one lemma per field, and what the changed table then reads as. -/

namespace Sys2Proof.Machine

/-! ### setCrew -/

@[simp] theorem State.setCrew_mem (s : State) (k : Nat) (c : Crew) : (s.setCrew k c).mem = s.mem := rfl
@[simp] theorem State.setCrew_marks (s : State) (k : Nat) (c : Crew) : (s.setCrew k c).marks = s.marks := rfl
@[simp] theorem State.setCrew_gkeys (s : State) (k : Nat) (c : Crew) : (s.setCrew k c).gkeys = s.gkeys := rfl
@[simp] theorem State.setCrew_crews (s : State) (k : Nat) (c : Crew) : (s.setCrew k c).crews = tset s.crews k c := rfl
@[simp] theorem State.setCrew_blocks (s : State) (k : Nat) (c : Crew) : (s.setCrew k c).blocks = s.blocks := rfl
@[simp] theorem State.setCrew_orphans (s : State) (k : Nat) (c : Crew) : (s.setCrew k c).orphans = s.orphans := rfl
@[simp] theorem State.setCrew_nodes (s : State) (k : Nat) (c : Crew) : (s.setCrew k c).nodes = s.nodes := rfl
@[simp] theorem State.setCrew_ctxs (s : State) (k : Nat) (c : Crew) : (s.setCrew k c).ctxs = s.ctxs := rfl
@[simp] theorem State.setCrew_cores (s : State) (k : Nat) (c : Crew) : (s.setCrew k c).cores = s.cores := rfl
@[simp] theorem State.setCrew_bars (s : State) (k : Nat) (c : Crew) : (s.setCrew k c).bars = s.bars := rfl
@[simp] theorem State.setCrew_ops (s : State) (k : Nat) (c : Crew) : (s.setCrew k c).ops = s.ops := rfl
@[simp] theorem State.setCrew_pends (s : State) (k : Nat) (c : Crew) : (s.setCrew k c).pends = s.pends := rfl
@[simp] theorem State.setCrew_homes (s : State) (k : Nat) (c : Crew) : (s.setCrew k c).homes = s.homes := rfl
@[simp] theorem State.setCrew_retries (s : State) (k : Nat) (c : Crew) : (s.setCrew k c).retries = s.retries := rfl
@[simp] theorem State.setCrew_enrols (s : State) (k : Nat) (c : Crew) : (s.setCrew k c).enrols = s.enrols := rfl
@[simp] theorem State.setCrew_parents (s : State) (k : Nat) (c : Crew) : (s.setCrew k c).parents = s.parents := rfl
@[simp] theorem State.setCrew_rollups (s : State) (k : Nat) (c : Crew) : (s.setCrew k c).rollups = s.rollups := rfl
@[simp] theorem State.setCrew_xreqs (s : State) (k : Nat) (c : Crew) : (s.setCrew k c).xreqs = s.xreqs := rfl
@[simp] theorem State.setCrew_dies (s : State) (k : Nat) (c : Crew) : (s.setCrew k c).dies = s.dies := rfl
@[simp] theorem State.setCrew_parts (s : State) (k : Nat) (c : Crew) : (s.setCrew k c).parts = s.parts := rfl
@[simp] theorem State.setCrew_reqs (s : State) (k : Nat) (c : Crew) : (s.setCrew k c).reqs = s.reqs := rfl
@[simp] theorem State.setCrew_answers (s : State) (k : Nat) (c : Crew) : (s.setCrew k c).answers = s.answers := rfl
@[simp] theorem State.setCrew_invals (s : State) (k : Nat) (c : Crew) : (s.setCrew k c).invals = s.invals := rfl
@[simp] theorem State.setCrew_resend (s : State) (k : Nat) (c : Crew) : (s.setCrew k c).resend = s.resend := rfl
@[simp] theorem State.setCrew_hogs (s : State) (k : Nat) (c : Crew) : (s.setCrew k c).hogs = s.hogs := rfl
@[simp] theorem State.setCrew_queues (s : State) (k : Nat) (c : Crew) : (s.setCrew k c).queues = s.queues := rfl
@[simp] theorem State.setCrew_pkg (s : State) (k : Nat) (c : Crew) : (s.setCrew k c).pkg = s.pkg := rfl
@[simp] theorem State.setCrew_clk (s : State) (k : Nat) (c : Crew) : (s.setCrew k c).clk = s.clk := rfl
@[simp] theorem State.setCrew_timers (s : State) (k : Nat) (c : Crew) : (s.setCrew k c).timers = s.timers := rfl
@[simp] theorem State.setCrew_due (s : State) (k : Nat) (c : Crew) : (s.setCrew k c).due = s.due := rfl
@[simp] theorem State.setCrew_cur (s : State) (k : Nat) (c : Crew) : (s.setCrew k c).cur = s.cur := rfl
@[simp] theorem State.setCrew_ev (s : State) (k : Nat) (c : Crew) : (s.setCrew k c).ev = s.ev := rfl
@[simp] theorem State.setCrew_fresh (s : State) (k : Nat) (c : Crew) : (s.setCrew k c).fresh = s.fresh := rfl
@[simp] theorem State.setCrew_nextId (s : State) (k : Nat) (c : Crew) : (s.setCrew k c).nextId = s.nextId := rfl
@[simp] theorem State.setCrew_out (s : State) (k : Nat) (c : Crew) : (s.setCrew k c).out = s.out := rfl
@[simp] theorem State.setCrew_objects (s : State) (k : Nat) (c : Crew) : (s.setCrew k c).objects = s.objects := rfl
@[simp] theorem State.setCrew_tainted (s : State) (k : Nat) (c : Crew) : (s.setCrew k c).tainted = s.tainted := rfl

/-! ### modCrew -/

@[simp] theorem State.modCrew_mem (s : State) (k : Nat) (f : Crew → Crew) : (s.modCrew k f).mem = s.mem := rfl
@[simp] theorem State.modCrew_marks (s : State) (k : Nat) (f : Crew → Crew) : (s.modCrew k f).marks = s.marks := rfl
@[simp] theorem State.modCrew_gkeys (s : State) (k : Nat) (f : Crew → Crew) : (s.modCrew k f).gkeys = s.gkeys := rfl
@[simp] theorem State.modCrew_crews (s : State) (k : Nat) (f : Crew → Crew) : (s.modCrew k f).crews = tmod s.crews k f := rfl
@[simp] theorem State.modCrew_blocks (s : State) (k : Nat) (f : Crew → Crew) : (s.modCrew k f).blocks = s.blocks := rfl
@[simp] theorem State.modCrew_orphans (s : State) (k : Nat) (f : Crew → Crew) : (s.modCrew k f).orphans = s.orphans := rfl
@[simp] theorem State.modCrew_nodes (s : State) (k : Nat) (f : Crew → Crew) : (s.modCrew k f).nodes = s.nodes := rfl
@[simp] theorem State.modCrew_ctxs (s : State) (k : Nat) (f : Crew → Crew) : (s.modCrew k f).ctxs = s.ctxs := rfl
@[simp] theorem State.modCrew_cores (s : State) (k : Nat) (f : Crew → Crew) : (s.modCrew k f).cores = s.cores := rfl
@[simp] theorem State.modCrew_bars (s : State) (k : Nat) (f : Crew → Crew) : (s.modCrew k f).bars = s.bars := rfl
@[simp] theorem State.modCrew_ops (s : State) (k : Nat) (f : Crew → Crew) : (s.modCrew k f).ops = s.ops := rfl
@[simp] theorem State.modCrew_pends (s : State) (k : Nat) (f : Crew → Crew) : (s.modCrew k f).pends = s.pends := rfl
@[simp] theorem State.modCrew_homes (s : State) (k : Nat) (f : Crew → Crew) : (s.modCrew k f).homes = s.homes := rfl
@[simp] theorem State.modCrew_retries (s : State) (k : Nat) (f : Crew → Crew) : (s.modCrew k f).retries = s.retries := rfl
@[simp] theorem State.modCrew_enrols (s : State) (k : Nat) (f : Crew → Crew) : (s.modCrew k f).enrols = s.enrols := rfl
@[simp] theorem State.modCrew_parents (s : State) (k : Nat) (f : Crew → Crew) : (s.modCrew k f).parents = s.parents := rfl
@[simp] theorem State.modCrew_rollups (s : State) (k : Nat) (f : Crew → Crew) : (s.modCrew k f).rollups = s.rollups := rfl
@[simp] theorem State.modCrew_xreqs (s : State) (k : Nat) (f : Crew → Crew) : (s.modCrew k f).xreqs = s.xreqs := rfl
@[simp] theorem State.modCrew_dies (s : State) (k : Nat) (f : Crew → Crew) : (s.modCrew k f).dies = s.dies := rfl
@[simp] theorem State.modCrew_parts (s : State) (k : Nat) (f : Crew → Crew) : (s.modCrew k f).parts = s.parts := rfl
@[simp] theorem State.modCrew_reqs (s : State) (k : Nat) (f : Crew → Crew) : (s.modCrew k f).reqs = s.reqs := rfl
@[simp] theorem State.modCrew_answers (s : State) (k : Nat) (f : Crew → Crew) : (s.modCrew k f).answers = s.answers := rfl
@[simp] theorem State.modCrew_invals (s : State) (k : Nat) (f : Crew → Crew) : (s.modCrew k f).invals = s.invals := rfl
@[simp] theorem State.modCrew_resend (s : State) (k : Nat) (f : Crew → Crew) : (s.modCrew k f).resend = s.resend := rfl
@[simp] theorem State.modCrew_hogs (s : State) (k : Nat) (f : Crew → Crew) : (s.modCrew k f).hogs = s.hogs := rfl
@[simp] theorem State.modCrew_queues (s : State) (k : Nat) (f : Crew → Crew) : (s.modCrew k f).queues = s.queues := rfl
@[simp] theorem State.modCrew_pkg (s : State) (k : Nat) (f : Crew → Crew) : (s.modCrew k f).pkg = s.pkg := rfl
@[simp] theorem State.modCrew_clk (s : State) (k : Nat) (f : Crew → Crew) : (s.modCrew k f).clk = s.clk := rfl
@[simp] theorem State.modCrew_timers (s : State) (k : Nat) (f : Crew → Crew) : (s.modCrew k f).timers = s.timers := rfl
@[simp] theorem State.modCrew_due (s : State) (k : Nat) (f : Crew → Crew) : (s.modCrew k f).due = s.due := rfl
@[simp] theorem State.modCrew_cur (s : State) (k : Nat) (f : Crew → Crew) : (s.modCrew k f).cur = s.cur := rfl
@[simp] theorem State.modCrew_ev (s : State) (k : Nat) (f : Crew → Crew) : (s.modCrew k f).ev = s.ev := rfl
@[simp] theorem State.modCrew_fresh (s : State) (k : Nat) (f : Crew → Crew) : (s.modCrew k f).fresh = s.fresh := rfl
@[simp] theorem State.modCrew_nextId (s : State) (k : Nat) (f : Crew → Crew) : (s.modCrew k f).nextId = s.nextId := rfl
@[simp] theorem State.modCrew_out (s : State) (k : Nat) (f : Crew → Crew) : (s.modCrew k f).out = s.out := rfl
@[simp] theorem State.modCrew_objects (s : State) (k : Nat) (f : Crew → Crew) : (s.modCrew k f).objects = s.objects := rfl
@[simp] theorem State.modCrew_tainted (s : State) (k : Nat) (f : Crew → Crew) : (s.modCrew k f).tainted = s.tainted := rfl

/-! ### modBlock -/

@[simp] theorem State.modBlock_mem (s : State) (k : Nat) (f : Block → Block) : (s.modBlock k f).mem = s.mem := rfl
@[simp] theorem State.modBlock_marks (s : State) (k : Nat) (f : Block → Block) : (s.modBlock k f).marks = s.marks := rfl
@[simp] theorem State.modBlock_gkeys (s : State) (k : Nat) (f : Block → Block) : (s.modBlock k f).gkeys = s.gkeys := rfl
@[simp] theorem State.modBlock_crews (s : State) (k : Nat) (f : Block → Block) : (s.modBlock k f).crews = s.crews := rfl
@[simp] theorem State.modBlock_blocks (s : State) (k : Nat) (f : Block → Block) : (s.modBlock k f).blocks = tmod s.blocks k f := rfl
@[simp] theorem State.modBlock_orphans (s : State) (k : Nat) (f : Block → Block) : (s.modBlock k f).orphans = s.orphans := rfl
@[simp] theorem State.modBlock_nodes (s : State) (k : Nat) (f : Block → Block) : (s.modBlock k f).nodes = s.nodes := rfl
@[simp] theorem State.modBlock_ctxs (s : State) (k : Nat) (f : Block → Block) : (s.modBlock k f).ctxs = s.ctxs := rfl
@[simp] theorem State.modBlock_cores (s : State) (k : Nat) (f : Block → Block) : (s.modBlock k f).cores = s.cores := rfl
@[simp] theorem State.modBlock_bars (s : State) (k : Nat) (f : Block → Block) : (s.modBlock k f).bars = s.bars := rfl
@[simp] theorem State.modBlock_ops (s : State) (k : Nat) (f : Block → Block) : (s.modBlock k f).ops = s.ops := rfl
@[simp] theorem State.modBlock_pends (s : State) (k : Nat) (f : Block → Block) : (s.modBlock k f).pends = s.pends := rfl
@[simp] theorem State.modBlock_homes (s : State) (k : Nat) (f : Block → Block) : (s.modBlock k f).homes = s.homes := rfl
@[simp] theorem State.modBlock_retries (s : State) (k : Nat) (f : Block → Block) : (s.modBlock k f).retries = s.retries := rfl
@[simp] theorem State.modBlock_enrols (s : State) (k : Nat) (f : Block → Block) : (s.modBlock k f).enrols = s.enrols := rfl
@[simp] theorem State.modBlock_parents (s : State) (k : Nat) (f : Block → Block) : (s.modBlock k f).parents = s.parents := rfl
@[simp] theorem State.modBlock_rollups (s : State) (k : Nat) (f : Block → Block) : (s.modBlock k f).rollups = s.rollups := rfl
@[simp] theorem State.modBlock_xreqs (s : State) (k : Nat) (f : Block → Block) : (s.modBlock k f).xreqs = s.xreqs := rfl
@[simp] theorem State.modBlock_dies (s : State) (k : Nat) (f : Block → Block) : (s.modBlock k f).dies = s.dies := rfl
@[simp] theorem State.modBlock_parts (s : State) (k : Nat) (f : Block → Block) : (s.modBlock k f).parts = s.parts := rfl
@[simp] theorem State.modBlock_reqs (s : State) (k : Nat) (f : Block → Block) : (s.modBlock k f).reqs = s.reqs := rfl
@[simp] theorem State.modBlock_answers (s : State) (k : Nat) (f : Block → Block) : (s.modBlock k f).answers = s.answers := rfl
@[simp] theorem State.modBlock_invals (s : State) (k : Nat) (f : Block → Block) : (s.modBlock k f).invals = s.invals := rfl
@[simp] theorem State.modBlock_resend (s : State) (k : Nat) (f : Block → Block) : (s.modBlock k f).resend = s.resend := rfl
@[simp] theorem State.modBlock_hogs (s : State) (k : Nat) (f : Block → Block) : (s.modBlock k f).hogs = s.hogs := rfl
@[simp] theorem State.modBlock_queues (s : State) (k : Nat) (f : Block → Block) : (s.modBlock k f).queues = s.queues := rfl
@[simp] theorem State.modBlock_pkg (s : State) (k : Nat) (f : Block → Block) : (s.modBlock k f).pkg = s.pkg := rfl
@[simp] theorem State.modBlock_clk (s : State) (k : Nat) (f : Block → Block) : (s.modBlock k f).clk = s.clk := rfl
@[simp] theorem State.modBlock_timers (s : State) (k : Nat) (f : Block → Block) : (s.modBlock k f).timers = s.timers := rfl
@[simp] theorem State.modBlock_due (s : State) (k : Nat) (f : Block → Block) : (s.modBlock k f).due = s.due := rfl
@[simp] theorem State.modBlock_cur (s : State) (k : Nat) (f : Block → Block) : (s.modBlock k f).cur = s.cur := rfl
@[simp] theorem State.modBlock_ev (s : State) (k : Nat) (f : Block → Block) : (s.modBlock k f).ev = s.ev := rfl
@[simp] theorem State.modBlock_fresh (s : State) (k : Nat) (f : Block → Block) : (s.modBlock k f).fresh = s.fresh := rfl
@[simp] theorem State.modBlock_nextId (s : State) (k : Nat) (f : Block → Block) : (s.modBlock k f).nextId = s.nextId := rfl
@[simp] theorem State.modBlock_out (s : State) (k : Nat) (f : Block → Block) : (s.modBlock k f).out = s.out := rfl
@[simp] theorem State.modBlock_objects (s : State) (k : Nat) (f : Block → Block) : (s.modBlock k f).objects = s.objects := rfl
@[simp] theorem State.modBlock_tainted (s : State) (k : Nat) (f : Block → Block) : (s.modBlock k f).tainted = s.tainted := rfl

/-! ### modOp -/

@[simp] theorem State.modOp_mem (s : State) (k : Nat) (f : Op → Op) : (s.modOp k f).mem = s.mem := rfl
@[simp] theorem State.modOp_marks (s : State) (k : Nat) (f : Op → Op) : (s.modOp k f).marks = s.marks := rfl
@[simp] theorem State.modOp_gkeys (s : State) (k : Nat) (f : Op → Op) : (s.modOp k f).gkeys = s.gkeys := rfl
@[simp] theorem State.modOp_crews (s : State) (k : Nat) (f : Op → Op) : (s.modOp k f).crews = s.crews := rfl
@[simp] theorem State.modOp_blocks (s : State) (k : Nat) (f : Op → Op) : (s.modOp k f).blocks = s.blocks := rfl
@[simp] theorem State.modOp_orphans (s : State) (k : Nat) (f : Op → Op) : (s.modOp k f).orphans = s.orphans := rfl
@[simp] theorem State.modOp_nodes (s : State) (k : Nat) (f : Op → Op) : (s.modOp k f).nodes = s.nodes := rfl
@[simp] theorem State.modOp_ctxs (s : State) (k : Nat) (f : Op → Op) : (s.modOp k f).ctxs = s.ctxs := rfl
@[simp] theorem State.modOp_cores (s : State) (k : Nat) (f : Op → Op) : (s.modOp k f).cores = s.cores := rfl
@[simp] theorem State.modOp_bars (s : State) (k : Nat) (f : Op → Op) : (s.modOp k f).bars = s.bars := rfl
@[simp] theorem State.modOp_ops (s : State) (k : Nat) (f : Op → Op) : (s.modOp k f).ops = tmod s.ops k f := rfl
@[simp] theorem State.modOp_pends (s : State) (k : Nat) (f : Op → Op) : (s.modOp k f).pends = s.pends := rfl
@[simp] theorem State.modOp_homes (s : State) (k : Nat) (f : Op → Op) : (s.modOp k f).homes = s.homes := rfl
@[simp] theorem State.modOp_retries (s : State) (k : Nat) (f : Op → Op) : (s.modOp k f).retries = s.retries := rfl
@[simp] theorem State.modOp_enrols (s : State) (k : Nat) (f : Op → Op) : (s.modOp k f).enrols = s.enrols := rfl
@[simp] theorem State.modOp_parents (s : State) (k : Nat) (f : Op → Op) : (s.modOp k f).parents = s.parents := rfl
@[simp] theorem State.modOp_rollups (s : State) (k : Nat) (f : Op → Op) : (s.modOp k f).rollups = s.rollups := rfl
@[simp] theorem State.modOp_xreqs (s : State) (k : Nat) (f : Op → Op) : (s.modOp k f).xreqs = s.xreqs := rfl
@[simp] theorem State.modOp_dies (s : State) (k : Nat) (f : Op → Op) : (s.modOp k f).dies = s.dies := rfl
@[simp] theorem State.modOp_parts (s : State) (k : Nat) (f : Op → Op) : (s.modOp k f).parts = s.parts := rfl
@[simp] theorem State.modOp_reqs (s : State) (k : Nat) (f : Op → Op) : (s.modOp k f).reqs = s.reqs := rfl
@[simp] theorem State.modOp_answers (s : State) (k : Nat) (f : Op → Op) : (s.modOp k f).answers = s.answers := rfl
@[simp] theorem State.modOp_invals (s : State) (k : Nat) (f : Op → Op) : (s.modOp k f).invals = s.invals := rfl
@[simp] theorem State.modOp_resend (s : State) (k : Nat) (f : Op → Op) : (s.modOp k f).resend = s.resend := rfl
@[simp] theorem State.modOp_hogs (s : State) (k : Nat) (f : Op → Op) : (s.modOp k f).hogs = s.hogs := rfl
@[simp] theorem State.modOp_queues (s : State) (k : Nat) (f : Op → Op) : (s.modOp k f).queues = s.queues := rfl
@[simp] theorem State.modOp_pkg (s : State) (k : Nat) (f : Op → Op) : (s.modOp k f).pkg = s.pkg := rfl
@[simp] theorem State.modOp_clk (s : State) (k : Nat) (f : Op → Op) : (s.modOp k f).clk = s.clk := rfl
@[simp] theorem State.modOp_timers (s : State) (k : Nat) (f : Op → Op) : (s.modOp k f).timers = s.timers := rfl
@[simp] theorem State.modOp_due (s : State) (k : Nat) (f : Op → Op) : (s.modOp k f).due = s.due := rfl
@[simp] theorem State.modOp_cur (s : State) (k : Nat) (f : Op → Op) : (s.modOp k f).cur = s.cur := rfl
@[simp] theorem State.modOp_ev (s : State) (k : Nat) (f : Op → Op) : (s.modOp k f).ev = s.ev := rfl
@[simp] theorem State.modOp_fresh (s : State) (k : Nat) (f : Op → Op) : (s.modOp k f).fresh = s.fresh := rfl
@[simp] theorem State.modOp_nextId (s : State) (k : Nat) (f : Op → Op) : (s.modOp k f).nextId = s.nextId := rfl
@[simp] theorem State.modOp_out (s : State) (k : Nat) (f : Op → Op) : (s.modOp k f).out = s.out := rfl
@[simp] theorem State.modOp_objects (s : State) (k : Nat) (f : Op → Op) : (s.modOp k f).objects = s.objects := rfl
@[simp] theorem State.modOp_tainted (s : State) (k : Nat) (f : Op → Op) : (s.modOp k f).tainted = s.tainted := rfl

/-! ### modNode -/

@[simp] theorem State.modNode_mem (s : State) (k : Nat) (f : Node → Node) : (s.modNode k f).mem = s.mem := rfl
@[simp] theorem State.modNode_marks (s : State) (k : Nat) (f : Node → Node) : (s.modNode k f).marks = s.marks := rfl
@[simp] theorem State.modNode_gkeys (s : State) (k : Nat) (f : Node → Node) : (s.modNode k f).gkeys = s.gkeys := rfl
@[simp] theorem State.modNode_crews (s : State) (k : Nat) (f : Node → Node) : (s.modNode k f).crews = s.crews := rfl
@[simp] theorem State.modNode_blocks (s : State) (k : Nat) (f : Node → Node) : (s.modNode k f).blocks = s.blocks := rfl
@[simp] theorem State.modNode_orphans (s : State) (k : Nat) (f : Node → Node) : (s.modNode k f).orphans = s.orphans := rfl
@[simp] theorem State.modNode_nodes (s : State) (k : Nat) (f : Node → Node) : (s.modNode k f).nodes = tmod s.nodes k f := rfl
@[simp] theorem State.modNode_ctxs (s : State) (k : Nat) (f : Node → Node) : (s.modNode k f).ctxs = s.ctxs := rfl
@[simp] theorem State.modNode_cores (s : State) (k : Nat) (f : Node → Node) : (s.modNode k f).cores = s.cores := rfl
@[simp] theorem State.modNode_bars (s : State) (k : Nat) (f : Node → Node) : (s.modNode k f).bars = s.bars := rfl
@[simp] theorem State.modNode_ops (s : State) (k : Nat) (f : Node → Node) : (s.modNode k f).ops = s.ops := rfl
@[simp] theorem State.modNode_pends (s : State) (k : Nat) (f : Node → Node) : (s.modNode k f).pends = s.pends := rfl
@[simp] theorem State.modNode_homes (s : State) (k : Nat) (f : Node → Node) : (s.modNode k f).homes = s.homes := rfl
@[simp] theorem State.modNode_retries (s : State) (k : Nat) (f : Node → Node) : (s.modNode k f).retries = s.retries := rfl
@[simp] theorem State.modNode_enrols (s : State) (k : Nat) (f : Node → Node) : (s.modNode k f).enrols = s.enrols := rfl
@[simp] theorem State.modNode_parents (s : State) (k : Nat) (f : Node → Node) : (s.modNode k f).parents = s.parents := rfl
@[simp] theorem State.modNode_rollups (s : State) (k : Nat) (f : Node → Node) : (s.modNode k f).rollups = s.rollups := rfl
@[simp] theorem State.modNode_xreqs (s : State) (k : Nat) (f : Node → Node) : (s.modNode k f).xreqs = s.xreqs := rfl
@[simp] theorem State.modNode_dies (s : State) (k : Nat) (f : Node → Node) : (s.modNode k f).dies = s.dies := rfl
@[simp] theorem State.modNode_parts (s : State) (k : Nat) (f : Node → Node) : (s.modNode k f).parts = s.parts := rfl
@[simp] theorem State.modNode_reqs (s : State) (k : Nat) (f : Node → Node) : (s.modNode k f).reqs = s.reqs := rfl
@[simp] theorem State.modNode_answers (s : State) (k : Nat) (f : Node → Node) : (s.modNode k f).answers = s.answers := rfl
@[simp] theorem State.modNode_invals (s : State) (k : Nat) (f : Node → Node) : (s.modNode k f).invals = s.invals := rfl
@[simp] theorem State.modNode_resend (s : State) (k : Nat) (f : Node → Node) : (s.modNode k f).resend = s.resend := rfl
@[simp] theorem State.modNode_hogs (s : State) (k : Nat) (f : Node → Node) : (s.modNode k f).hogs = s.hogs := rfl
@[simp] theorem State.modNode_queues (s : State) (k : Nat) (f : Node → Node) : (s.modNode k f).queues = s.queues := rfl
@[simp] theorem State.modNode_pkg (s : State) (k : Nat) (f : Node → Node) : (s.modNode k f).pkg = s.pkg := rfl
@[simp] theorem State.modNode_clk (s : State) (k : Nat) (f : Node → Node) : (s.modNode k f).clk = s.clk := rfl
@[simp] theorem State.modNode_timers (s : State) (k : Nat) (f : Node → Node) : (s.modNode k f).timers = s.timers := rfl
@[simp] theorem State.modNode_due (s : State) (k : Nat) (f : Node → Node) : (s.modNode k f).due = s.due := rfl
@[simp] theorem State.modNode_cur (s : State) (k : Nat) (f : Node → Node) : (s.modNode k f).cur = s.cur := rfl
@[simp] theorem State.modNode_ev (s : State) (k : Nat) (f : Node → Node) : (s.modNode k f).ev = s.ev := rfl
@[simp] theorem State.modNode_fresh (s : State) (k : Nat) (f : Node → Node) : (s.modNode k f).fresh = s.fresh := rfl
@[simp] theorem State.modNode_nextId (s : State) (k : Nat) (f : Node → Node) : (s.modNode k f).nextId = s.nextId := rfl
@[simp] theorem State.modNode_out (s : State) (k : Nat) (f : Node → Node) : (s.modNode k f).out = s.out := rfl
@[simp] theorem State.modNode_objects (s : State) (k : Nat) (f : Node → Node) : (s.modNode k f).objects = s.objects := rfl
@[simp] theorem State.modNode_tainted (s : State) (k : Nat) (f : Node → Node) : (s.modNode k f).tainted = s.tainted := rfl

/-! ### modCore -/

@[simp] theorem State.modCore_mem (s : State) (k : Nat) (f : Core → Core) : (s.modCore k f).mem = s.mem := rfl
@[simp] theorem State.modCore_marks (s : State) (k : Nat) (f : Core → Core) : (s.modCore k f).marks = s.marks := rfl
@[simp] theorem State.modCore_gkeys (s : State) (k : Nat) (f : Core → Core) : (s.modCore k f).gkeys = s.gkeys := rfl
@[simp] theorem State.modCore_crews (s : State) (k : Nat) (f : Core → Core) : (s.modCore k f).crews = s.crews := rfl
@[simp] theorem State.modCore_blocks (s : State) (k : Nat) (f : Core → Core) : (s.modCore k f).blocks = s.blocks := rfl
@[simp] theorem State.modCore_orphans (s : State) (k : Nat) (f : Core → Core) : (s.modCore k f).orphans = s.orphans := rfl
@[simp] theorem State.modCore_nodes (s : State) (k : Nat) (f : Core → Core) : (s.modCore k f).nodes = s.nodes := rfl
@[simp] theorem State.modCore_ctxs (s : State) (k : Nat) (f : Core → Core) : (s.modCore k f).ctxs = s.ctxs := rfl
@[simp] theorem State.modCore_cores (s : State) (k : Nat) (f : Core → Core) : (s.modCore k f).cores = tset s.cores k (f (s.core k)) := rfl
@[simp] theorem State.modCore_bars (s : State) (k : Nat) (f : Core → Core) : (s.modCore k f).bars = s.bars := rfl
@[simp] theorem State.modCore_ops (s : State) (k : Nat) (f : Core → Core) : (s.modCore k f).ops = s.ops := rfl
@[simp] theorem State.modCore_pends (s : State) (k : Nat) (f : Core → Core) : (s.modCore k f).pends = s.pends := rfl
@[simp] theorem State.modCore_homes (s : State) (k : Nat) (f : Core → Core) : (s.modCore k f).homes = s.homes := rfl
@[simp] theorem State.modCore_retries (s : State) (k : Nat) (f : Core → Core) : (s.modCore k f).retries = s.retries := rfl
@[simp] theorem State.modCore_enrols (s : State) (k : Nat) (f : Core → Core) : (s.modCore k f).enrols = s.enrols := rfl
@[simp] theorem State.modCore_parents (s : State) (k : Nat) (f : Core → Core) : (s.modCore k f).parents = s.parents := rfl
@[simp] theorem State.modCore_rollups (s : State) (k : Nat) (f : Core → Core) : (s.modCore k f).rollups = s.rollups := rfl
@[simp] theorem State.modCore_xreqs (s : State) (k : Nat) (f : Core → Core) : (s.modCore k f).xreqs = s.xreqs := rfl
@[simp] theorem State.modCore_dies (s : State) (k : Nat) (f : Core → Core) : (s.modCore k f).dies = s.dies := rfl
@[simp] theorem State.modCore_parts (s : State) (k : Nat) (f : Core → Core) : (s.modCore k f).parts = s.parts := rfl
@[simp] theorem State.modCore_reqs (s : State) (k : Nat) (f : Core → Core) : (s.modCore k f).reqs = s.reqs := rfl
@[simp] theorem State.modCore_answers (s : State) (k : Nat) (f : Core → Core) : (s.modCore k f).answers = s.answers := rfl
@[simp] theorem State.modCore_invals (s : State) (k : Nat) (f : Core → Core) : (s.modCore k f).invals = s.invals := rfl
@[simp] theorem State.modCore_resend (s : State) (k : Nat) (f : Core → Core) : (s.modCore k f).resend = s.resend := rfl
@[simp] theorem State.modCore_hogs (s : State) (k : Nat) (f : Core → Core) : (s.modCore k f).hogs = s.hogs := rfl
@[simp] theorem State.modCore_queues (s : State) (k : Nat) (f : Core → Core) : (s.modCore k f).queues = s.queues := rfl
@[simp] theorem State.modCore_pkg (s : State) (k : Nat) (f : Core → Core) : (s.modCore k f).pkg = s.pkg := rfl
@[simp] theorem State.modCore_clk (s : State) (k : Nat) (f : Core → Core) : (s.modCore k f).clk = s.clk := rfl
@[simp] theorem State.modCore_timers (s : State) (k : Nat) (f : Core → Core) : (s.modCore k f).timers = s.timers := rfl
@[simp] theorem State.modCore_due (s : State) (k : Nat) (f : Core → Core) : (s.modCore k f).due = s.due := rfl
@[simp] theorem State.modCore_cur (s : State) (k : Nat) (f : Core → Core) : (s.modCore k f).cur = s.cur := rfl
@[simp] theorem State.modCore_ev (s : State) (k : Nat) (f : Core → Core) : (s.modCore k f).ev = s.ev := rfl
@[simp] theorem State.modCore_fresh (s : State) (k : Nat) (f : Core → Core) : (s.modCore k f).fresh = s.fresh := rfl
@[simp] theorem State.modCore_nextId (s : State) (k : Nat) (f : Core → Core) : (s.modCore k f).nextId = s.nextId := rfl
@[simp] theorem State.modCore_out (s : State) (k : Nat) (f : Core → Core) : (s.modCore k f).out = s.out := rfl
@[simp] theorem State.modCore_objects (s : State) (k : Nat) (f : Core → Core) : (s.modCore k f).objects = s.objects := rfl
@[simp] theorem State.modCore_tainted (s : State) (k : Nat) (f : Core → Core) : (s.modCore k f).tainted = s.tainted := rfl

/-! ### modHome -/

@[simp] theorem State.modHome_mem (s : State) (k : Nat) (f : Home → Home) : (s.modHome k f).mem = s.mem := rfl
@[simp] theorem State.modHome_marks (s : State) (k : Nat) (f : Home → Home) : (s.modHome k f).marks = s.marks := rfl
@[simp] theorem State.modHome_gkeys (s : State) (k : Nat) (f : Home → Home) : (s.modHome k f).gkeys = s.gkeys := rfl
@[simp] theorem State.modHome_crews (s : State) (k : Nat) (f : Home → Home) : (s.modHome k f).crews = s.crews := rfl
@[simp] theorem State.modHome_blocks (s : State) (k : Nat) (f : Home → Home) : (s.modHome k f).blocks = s.blocks := rfl
@[simp] theorem State.modHome_orphans (s : State) (k : Nat) (f : Home → Home) : (s.modHome k f).orphans = s.orphans := rfl
@[simp] theorem State.modHome_nodes (s : State) (k : Nat) (f : Home → Home) : (s.modHome k f).nodes = s.nodes := rfl
@[simp] theorem State.modHome_ctxs (s : State) (k : Nat) (f : Home → Home) : (s.modHome k f).ctxs = s.ctxs := rfl
@[simp] theorem State.modHome_cores (s : State) (k : Nat) (f : Home → Home) : (s.modHome k f).cores = s.cores := rfl
@[simp] theorem State.modHome_bars (s : State) (k : Nat) (f : Home → Home) : (s.modHome k f).bars = s.bars := rfl
@[simp] theorem State.modHome_ops (s : State) (k : Nat) (f : Home → Home) : (s.modHome k f).ops = s.ops := rfl
@[simp] theorem State.modHome_pends (s : State) (k : Nat) (f : Home → Home) : (s.modHome k f).pends = s.pends := rfl
@[simp] theorem State.modHome_homes (s : State) (k : Nat) (f : Home → Home) : (s.modHome k f).homes = tset s.homes k (f (s.home k)) := rfl
@[simp] theorem State.modHome_retries (s : State) (k : Nat) (f : Home → Home) : (s.modHome k f).retries = s.retries := rfl
@[simp] theorem State.modHome_enrols (s : State) (k : Nat) (f : Home → Home) : (s.modHome k f).enrols = s.enrols := rfl
@[simp] theorem State.modHome_parents (s : State) (k : Nat) (f : Home → Home) : (s.modHome k f).parents = s.parents := rfl
@[simp] theorem State.modHome_rollups (s : State) (k : Nat) (f : Home → Home) : (s.modHome k f).rollups = s.rollups := rfl
@[simp] theorem State.modHome_xreqs (s : State) (k : Nat) (f : Home → Home) : (s.modHome k f).xreqs = s.xreqs := rfl
@[simp] theorem State.modHome_dies (s : State) (k : Nat) (f : Home → Home) : (s.modHome k f).dies = s.dies := rfl
@[simp] theorem State.modHome_parts (s : State) (k : Nat) (f : Home → Home) : (s.modHome k f).parts = s.parts := rfl
@[simp] theorem State.modHome_reqs (s : State) (k : Nat) (f : Home → Home) : (s.modHome k f).reqs = s.reqs := rfl
@[simp] theorem State.modHome_answers (s : State) (k : Nat) (f : Home → Home) : (s.modHome k f).answers = s.answers := rfl
@[simp] theorem State.modHome_invals (s : State) (k : Nat) (f : Home → Home) : (s.modHome k f).invals = s.invals := rfl
@[simp] theorem State.modHome_resend (s : State) (k : Nat) (f : Home → Home) : (s.modHome k f).resend = s.resend := rfl
@[simp] theorem State.modHome_hogs (s : State) (k : Nat) (f : Home → Home) : (s.modHome k f).hogs = s.hogs := rfl
@[simp] theorem State.modHome_queues (s : State) (k : Nat) (f : Home → Home) : (s.modHome k f).queues = s.queues := rfl
@[simp] theorem State.modHome_pkg (s : State) (k : Nat) (f : Home → Home) : (s.modHome k f).pkg = s.pkg := rfl
@[simp] theorem State.modHome_clk (s : State) (k : Nat) (f : Home → Home) : (s.modHome k f).clk = s.clk := rfl
@[simp] theorem State.modHome_timers (s : State) (k : Nat) (f : Home → Home) : (s.modHome k f).timers = s.timers := rfl
@[simp] theorem State.modHome_due (s : State) (k : Nat) (f : Home → Home) : (s.modHome k f).due = s.due := rfl
@[simp] theorem State.modHome_cur (s : State) (k : Nat) (f : Home → Home) : (s.modHome k f).cur = s.cur := rfl
@[simp] theorem State.modHome_ev (s : State) (k : Nat) (f : Home → Home) : (s.modHome k f).ev = s.ev := rfl
@[simp] theorem State.modHome_fresh (s : State) (k : Nat) (f : Home → Home) : (s.modHome k f).fresh = s.fresh := rfl
@[simp] theorem State.modHome_nextId (s : State) (k : Nat) (f : Home → Home) : (s.modHome k f).nextId = s.nextId := rfl
@[simp] theorem State.modHome_out (s : State) (k : Nat) (f : Home → Home) : (s.modHome k f).out = s.out := rfl
@[simp] theorem State.modHome_objects (s : State) (k : Nat) (f : Home → Home) : (s.modHome k f).objects = s.objects := rfl
@[simp] theorem State.modHome_tainted (s : State) (k : Nat) (f : Home → Home) : (s.modHome k f).tainted = s.tainted := rfl

/-! ### modDie -/

@[simp] theorem State.modDie_mem (s : State) (d : Nat) (f : Die → Die) : (s.modDie d f).mem = s.mem := rfl
@[simp] theorem State.modDie_marks (s : State) (d : Nat) (f : Die → Die) : (s.modDie d f).marks = s.marks := rfl
@[simp] theorem State.modDie_gkeys (s : State) (d : Nat) (f : Die → Die) : (s.modDie d f).gkeys = s.gkeys := rfl
@[simp] theorem State.modDie_crews (s : State) (d : Nat) (f : Die → Die) : (s.modDie d f).crews = s.crews := rfl
@[simp] theorem State.modDie_blocks (s : State) (d : Nat) (f : Die → Die) : (s.modDie d f).blocks = s.blocks := rfl
@[simp] theorem State.modDie_orphans (s : State) (d : Nat) (f : Die → Die) : (s.modDie d f).orphans = s.orphans := rfl
@[simp] theorem State.modDie_nodes (s : State) (d : Nat) (f : Die → Die) : (s.modDie d f).nodes = s.nodes := rfl
@[simp] theorem State.modDie_ctxs (s : State) (d : Nat) (f : Die → Die) : (s.modDie d f).ctxs = s.ctxs := rfl
@[simp] theorem State.modDie_cores (s : State) (d : Nat) (f : Die → Die) : (s.modDie d f).cores = s.cores := rfl
@[simp] theorem State.modDie_bars (s : State) (d : Nat) (f : Die → Die) : (s.modDie d f).bars = s.bars := rfl
@[simp] theorem State.modDie_ops (s : State) (d : Nat) (f : Die → Die) : (s.modDie d f).ops = s.ops := rfl
@[simp] theorem State.modDie_pends (s : State) (d : Nat) (f : Die → Die) : (s.modDie d f).pends = s.pends := rfl
@[simp] theorem State.modDie_homes (s : State) (d : Nat) (f : Die → Die) : (s.modDie d f).homes = s.homes := rfl
@[simp] theorem State.modDie_retries (s : State) (d : Nat) (f : Die → Die) : (s.modDie d f).retries = s.retries := rfl
@[simp] theorem State.modDie_enrols (s : State) (d : Nat) (f : Die → Die) : (s.modDie d f).enrols = s.enrols := rfl
@[simp] theorem State.modDie_parents (s : State) (d : Nat) (f : Die → Die) : (s.modDie d f).parents = s.parents := rfl
@[simp] theorem State.modDie_rollups (s : State) (d : Nat) (f : Die → Die) : (s.modDie d f).rollups = s.rollups := rfl
@[simp] theorem State.modDie_xreqs (s : State) (d : Nat) (f : Die → Die) : (s.modDie d f).xreqs = s.xreqs := rfl
@[simp] theorem State.modDie_dies (s : State) (d : Nat) (f : Die → Die) : (s.modDie d f).dies = tset s.dies d (f (s.die d)) := rfl
@[simp] theorem State.modDie_parts (s : State) (d : Nat) (f : Die → Die) : (s.modDie d f).parts = s.parts := rfl
@[simp] theorem State.modDie_reqs (s : State) (d : Nat) (f : Die → Die) : (s.modDie d f).reqs = s.reqs := rfl
@[simp] theorem State.modDie_answers (s : State) (d : Nat) (f : Die → Die) : (s.modDie d f).answers = s.answers := rfl
@[simp] theorem State.modDie_invals (s : State) (d : Nat) (f : Die → Die) : (s.modDie d f).invals = s.invals := rfl
@[simp] theorem State.modDie_resend (s : State) (d : Nat) (f : Die → Die) : (s.modDie d f).resend = s.resend := rfl
@[simp] theorem State.modDie_hogs (s : State) (d : Nat) (f : Die → Die) : (s.modDie d f).hogs = s.hogs := rfl
@[simp] theorem State.modDie_queues (s : State) (d : Nat) (f : Die → Die) : (s.modDie d f).queues = s.queues := rfl
@[simp] theorem State.modDie_pkg (s : State) (d : Nat) (f : Die → Die) : (s.modDie d f).pkg = s.pkg := rfl
@[simp] theorem State.modDie_clk (s : State) (d : Nat) (f : Die → Die) : (s.modDie d f).clk = s.clk := rfl
@[simp] theorem State.modDie_timers (s : State) (d : Nat) (f : Die → Die) : (s.modDie d f).timers = s.timers := rfl
@[simp] theorem State.modDie_due (s : State) (d : Nat) (f : Die → Die) : (s.modDie d f).due = s.due := rfl
@[simp] theorem State.modDie_cur (s : State) (d : Nat) (f : Die → Die) : (s.modDie d f).cur = s.cur := rfl
@[simp] theorem State.modDie_ev (s : State) (d : Nat) (f : Die → Die) : (s.modDie d f).ev = s.ev := rfl
@[simp] theorem State.modDie_fresh (s : State) (d : Nat) (f : Die → Die) : (s.modDie d f).fresh = s.fresh := rfl
@[simp] theorem State.modDie_nextId (s : State) (d : Nat) (f : Die → Die) : (s.modDie d f).nextId = s.nextId := rfl
@[simp] theorem State.modDie_out (s : State) (d : Nat) (f : Die → Die) : (s.modDie d f).out = s.out := rfl
@[simp] theorem State.modDie_objects (s : State) (d : Nat) (f : Die → Die) : (s.modDie d f).objects = s.objects := rfl
@[simp] theorem State.modDie_tainted (s : State) (d : Nat) (f : Die → Die) : (s.modDie d f).tainted = s.tainted := rfl

/-! ### modPart -/

@[simp] theorem State.modPart_mem (s : State) (d p : Nat) (f : Part → Part) : (s.modPart d p f).mem = s.mem := rfl
@[simp] theorem State.modPart_marks (s : State) (d p : Nat) (f : Part → Part) : (s.modPart d p f).marks = s.marks := rfl
@[simp] theorem State.modPart_gkeys (s : State) (d p : Nat) (f : Part → Part) : (s.modPart d p f).gkeys = s.gkeys := rfl
@[simp] theorem State.modPart_crews (s : State) (d p : Nat) (f : Part → Part) : (s.modPart d p f).crews = s.crews := rfl
@[simp] theorem State.modPart_blocks (s : State) (d p : Nat) (f : Part → Part) : (s.modPart d p f).blocks = s.blocks := rfl
@[simp] theorem State.modPart_orphans (s : State) (d p : Nat) (f : Part → Part) : (s.modPart d p f).orphans = s.orphans := rfl
@[simp] theorem State.modPart_nodes (s : State) (d p : Nat) (f : Part → Part) : (s.modPart d p f).nodes = s.nodes := rfl
@[simp] theorem State.modPart_ctxs (s : State) (d p : Nat) (f : Part → Part) : (s.modPart d p f).ctxs = s.ctxs := rfl
@[simp] theorem State.modPart_cores (s : State) (d p : Nat) (f : Part → Part) : (s.modPart d p f).cores = s.cores := rfl
@[simp] theorem State.modPart_bars (s : State) (d p : Nat) (f : Part → Part) : (s.modPart d p f).bars = s.bars := rfl
@[simp] theorem State.modPart_ops (s : State) (d p : Nat) (f : Part → Part) : (s.modPart d p f).ops = s.ops := rfl
@[simp] theorem State.modPart_pends (s : State) (d p : Nat) (f : Part → Part) : (s.modPart d p f).pends = s.pends := rfl
@[simp] theorem State.modPart_homes (s : State) (d p : Nat) (f : Part → Part) : (s.modPart d p f).homes = s.homes := rfl
@[simp] theorem State.modPart_retries (s : State) (d p : Nat) (f : Part → Part) : (s.modPart d p f).retries = s.retries := rfl
@[simp] theorem State.modPart_enrols (s : State) (d p : Nat) (f : Part → Part) : (s.modPart d p f).enrols = s.enrols := rfl
@[simp] theorem State.modPart_parents (s : State) (d p : Nat) (f : Part → Part) : (s.modPart d p f).parents = s.parents := rfl
@[simp] theorem State.modPart_rollups (s : State) (d p : Nat) (f : Part → Part) : (s.modPart d p f).rollups = s.rollups := rfl
@[simp] theorem State.modPart_xreqs (s : State) (d p : Nat) (f : Part → Part) : (s.modPart d p f).xreqs = s.xreqs := rfl
@[simp] theorem State.modPart_dies (s : State) (d p : Nat) (f : Part → Part) : (s.modPart d p f).dies = s.dies := rfl
@[simp] theorem State.modPart_parts (s : State) (d p : Nat) (f : Part → Part) : (s.modPart d p f).parts = tset s.parts (s.partKey d p) (f (s.part d p)) := rfl
@[simp] theorem State.modPart_reqs (s : State) (d p : Nat) (f : Part → Part) : (s.modPart d p f).reqs = s.reqs := rfl
@[simp] theorem State.modPart_answers (s : State) (d p : Nat) (f : Part → Part) : (s.modPart d p f).answers = s.answers := rfl
@[simp] theorem State.modPart_invals (s : State) (d p : Nat) (f : Part → Part) : (s.modPart d p f).invals = s.invals := rfl
@[simp] theorem State.modPart_resend (s : State) (d p : Nat) (f : Part → Part) : (s.modPart d p f).resend = s.resend := rfl
@[simp] theorem State.modPart_hogs (s : State) (d p : Nat) (f : Part → Part) : (s.modPart d p f).hogs = s.hogs := rfl
@[simp] theorem State.modPart_queues (s : State) (d p : Nat) (f : Part → Part) : (s.modPart d p f).queues = s.queues := rfl
@[simp] theorem State.modPart_pkg (s : State) (d p : Nat) (f : Part → Part) : (s.modPart d p f).pkg = s.pkg := rfl
@[simp] theorem State.modPart_clk (s : State) (d p : Nat) (f : Part → Part) : (s.modPart d p f).clk = s.clk := rfl
@[simp] theorem State.modPart_timers (s : State) (d p : Nat) (f : Part → Part) : (s.modPart d p f).timers = s.timers := rfl
@[simp] theorem State.modPart_due (s : State) (d p : Nat) (f : Part → Part) : (s.modPart d p f).due = s.due := rfl
@[simp] theorem State.modPart_cur (s : State) (d p : Nat) (f : Part → Part) : (s.modPart d p f).cur = s.cur := rfl
@[simp] theorem State.modPart_ev (s : State) (d p : Nat) (f : Part → Part) : (s.modPart d p f).ev = s.ev := rfl
@[simp] theorem State.modPart_fresh (s : State) (d p : Nat) (f : Part → Part) : (s.modPart d p f).fresh = s.fresh := rfl
@[simp] theorem State.modPart_nextId (s : State) (d p : Nat) (f : Part → Part) : (s.modPart d p f).nextId = s.nextId := rfl
@[simp] theorem State.modPart_out (s : State) (d p : Nat) (f : Part → Part) : (s.modPart d p f).out = s.out := rfl
@[simp] theorem State.modPart_objects (s : State) (d p : Nat) (f : Part → Part) : (s.modPart d p f).objects = s.objects := rfl
@[simp] theorem State.modPart_tainted (s : State) (d p : Nat) (f : Part → Part) : (s.modPart d p f).tainted = s.tainted := rfl

/-! ### later -/

@[simp] theorem State.later_mem (s : State) (x : Timer) : (s.later x).mem = s.mem := rfl
@[simp] theorem State.later_marks (s : State) (x : Timer) : (s.later x).marks = s.marks := rfl
@[simp] theorem State.later_gkeys (s : State) (x : Timer) : (s.later x).gkeys = s.gkeys := rfl
@[simp] theorem State.later_crews (s : State) (x : Timer) : (s.later x).crews = s.crews := rfl
@[simp] theorem State.later_blocks (s : State) (x : Timer) : (s.later x).blocks = s.blocks := rfl
@[simp] theorem State.later_orphans (s : State) (x : Timer) : (s.later x).orphans = s.orphans := rfl
@[simp] theorem State.later_nodes (s : State) (x : Timer) : (s.later x).nodes = s.nodes := rfl
@[simp] theorem State.later_ctxs (s : State) (x : Timer) : (s.later x).ctxs = s.ctxs := rfl
@[simp] theorem State.later_cores (s : State) (x : Timer) : (s.later x).cores = s.cores := rfl
@[simp] theorem State.later_bars (s : State) (x : Timer) : (s.later x).bars = s.bars := rfl
@[simp] theorem State.later_ops (s : State) (x : Timer) : (s.later x).ops = s.ops := rfl
@[simp] theorem State.later_pends (s : State) (x : Timer) : (s.later x).pends = s.pends := rfl
@[simp] theorem State.later_homes (s : State) (x : Timer) : (s.later x).homes = s.homes := rfl
@[simp] theorem State.later_retries (s : State) (x : Timer) : (s.later x).retries = s.retries := rfl
@[simp] theorem State.later_enrols (s : State) (x : Timer) : (s.later x).enrols = s.enrols := rfl
@[simp] theorem State.later_parents (s : State) (x : Timer) : (s.later x).parents = s.parents := rfl
@[simp] theorem State.later_rollups (s : State) (x : Timer) : (s.later x).rollups = s.rollups := rfl
@[simp] theorem State.later_xreqs (s : State) (x : Timer) : (s.later x).xreqs = s.xreqs := rfl
@[simp] theorem State.later_dies (s : State) (x : Timer) : (s.later x).dies = s.dies := rfl
@[simp] theorem State.later_parts (s : State) (x : Timer) : (s.later x).parts = s.parts := rfl
@[simp] theorem State.later_reqs (s : State) (x : Timer) : (s.later x).reqs = s.reqs := rfl
@[simp] theorem State.later_answers (s : State) (x : Timer) : (s.later x).answers = s.answers := rfl
@[simp] theorem State.later_invals (s : State) (x : Timer) : (s.later x).invals = s.invals := rfl
@[simp] theorem State.later_resend (s : State) (x : Timer) : (s.later x).resend = s.resend := rfl
@[simp] theorem State.later_hogs (s : State) (x : Timer) : (s.later x).hogs = s.hogs := rfl
@[simp] theorem State.later_queues (s : State) (x : Timer) : (s.later x).queues = s.queues := rfl
@[simp] theorem State.later_pkg (s : State) (x : Timer) : (s.later x).pkg = s.pkg := rfl
@[simp] theorem State.later_clk (s : State) (x : Timer) : (s.later x).clk = s.clk := rfl
@[simp] theorem State.later_timers (s : State) (x : Timer) : (s.later x).timers = s.timers ++ [x] := rfl
@[simp] theorem State.later_due (s : State) (x : Timer) : (s.later x).due = s.due := rfl
@[simp] theorem State.later_cur (s : State) (x : Timer) : (s.later x).cur = s.cur := rfl
@[simp] theorem State.later_ev (s : State) (x : Timer) : (s.later x).ev = s.ev := rfl
@[simp] theorem State.later_fresh (s : State) (x : Timer) : (s.later x).fresh = s.fresh := rfl
@[simp] theorem State.later_nextId (s : State) (x : Timer) : (s.later x).nextId = s.nextId := rfl
@[simp] theorem State.later_out (s : State) (x : Timer) : (s.later x).out = s.out := rfl
@[simp] theorem State.later_objects (s : State) (x : Timer) : (s.later x).objects = s.objects := rfl
@[simp] theorem State.later_tainted (s : State) (x : Timer) : (s.later x).tainted = s.tainted := rfl

/-! ### mark -/

@[simp] theorem State.mark_mem (s : State) (a n : Nat) : (s.mark a n).mem = s.mem := rfl
@[simp] theorem State.mark_gkeys (s : State) (a n : Nat) : (s.mark a n).gkeys = s.gkeys := rfl
@[simp] theorem State.mark_crews (s : State) (a n : Nat) : (s.mark a n).crews = s.crews := rfl
@[simp] theorem State.mark_blocks (s : State) (a n : Nat) : (s.mark a n).blocks = s.blocks := rfl
@[simp] theorem State.mark_orphans (s : State) (a n : Nat) : (s.mark a n).orphans = s.orphans := rfl
@[simp] theorem State.mark_nodes (s : State) (a n : Nat) : (s.mark a n).nodes = s.nodes := rfl
@[simp] theorem State.mark_ctxs (s : State) (a n : Nat) : (s.mark a n).ctxs = s.ctxs := rfl
@[simp] theorem State.mark_cores (s : State) (a n : Nat) : (s.mark a n).cores = s.cores := rfl
@[simp] theorem State.mark_bars (s : State) (a n : Nat) : (s.mark a n).bars = s.bars := rfl
@[simp] theorem State.mark_ops (s : State) (a n : Nat) : (s.mark a n).ops = s.ops := rfl
@[simp] theorem State.mark_pends (s : State) (a n : Nat) : (s.mark a n).pends = s.pends := rfl
@[simp] theorem State.mark_homes (s : State) (a n : Nat) : (s.mark a n).homes = s.homes := rfl
@[simp] theorem State.mark_retries (s : State) (a n : Nat) : (s.mark a n).retries = s.retries := rfl
@[simp] theorem State.mark_enrols (s : State) (a n : Nat) : (s.mark a n).enrols = s.enrols := rfl
@[simp] theorem State.mark_parents (s : State) (a n : Nat) : (s.mark a n).parents = s.parents := rfl
@[simp] theorem State.mark_rollups (s : State) (a n : Nat) : (s.mark a n).rollups = s.rollups := rfl
@[simp] theorem State.mark_xreqs (s : State) (a n : Nat) : (s.mark a n).xreqs = s.xreqs := rfl
@[simp] theorem State.mark_dies (s : State) (a n : Nat) : (s.mark a n).dies = s.dies := rfl
@[simp] theorem State.mark_parts (s : State) (a n : Nat) : (s.mark a n).parts = s.parts := rfl
@[simp] theorem State.mark_reqs (s : State) (a n : Nat) : (s.mark a n).reqs = s.reqs := rfl
@[simp] theorem State.mark_answers (s : State) (a n : Nat) : (s.mark a n).answers = s.answers := rfl
@[simp] theorem State.mark_invals (s : State) (a n : Nat) : (s.mark a n).invals = s.invals := rfl
@[simp] theorem State.mark_resend (s : State) (a n : Nat) : (s.mark a n).resend = s.resend := rfl
@[simp] theorem State.mark_hogs (s : State) (a n : Nat) : (s.mark a n).hogs = s.hogs := rfl
@[simp] theorem State.mark_queues (s : State) (a n : Nat) : (s.mark a n).queues = s.queues := rfl
@[simp] theorem State.mark_pkg (s : State) (a n : Nat) : (s.mark a n).pkg = s.pkg := rfl
@[simp] theorem State.mark_clk (s : State) (a n : Nat) : (s.mark a n).clk = s.clk := rfl
@[simp] theorem State.mark_timers (s : State) (a n : Nat) : (s.mark a n).timers = s.timers := rfl
@[simp] theorem State.mark_due (s : State) (a n : Nat) : (s.mark a n).due = s.due := rfl
@[simp] theorem State.mark_cur (s : State) (a n : Nat) : (s.mark a n).cur = s.cur := rfl
@[simp] theorem State.mark_ev (s : State) (a n : Nat) : (s.mark a n).ev = s.ev := rfl
@[simp] theorem State.mark_fresh (s : State) (a n : Nat) : (s.mark a n).fresh = s.fresh := rfl
@[simp] theorem State.mark_nextId (s : State) (a n : Nat) : (s.mark a n).nextId = s.nextId := rfl
@[simp] theorem State.mark_out (s : State) (a n : Nat) : (s.mark a n).out = s.out := rfl
@[simp] theorem State.mark_objects (s : State) (a n : Nat) : (s.mark a n).objects = s.objects := rfl
@[simp] theorem State.mark_tainted (s : State) (a n : Nat) : (s.mark a n).tainted = s.tainted := rfl

/-! ### unmark -/

@[simp] theorem State.unmark_mem (s : State) (g : Nat) : (s.unmark g).mem = s.mem := rfl
@[simp] theorem State.unmark_marks (s : State) (g : Nat) : (s.unmark g).marks = sdel g s.marks := rfl
@[simp] theorem State.unmark_gkeys (s : State) (g : Nat) : (s.unmark g).gkeys = s.gkeys := rfl
@[simp] theorem State.unmark_crews (s : State) (g : Nat) : (s.unmark g).crews = s.crews := rfl
@[simp] theorem State.unmark_blocks (s : State) (g : Nat) : (s.unmark g).blocks = s.blocks := rfl
@[simp] theorem State.unmark_orphans (s : State) (g : Nat) : (s.unmark g).orphans = s.orphans := rfl
@[simp] theorem State.unmark_nodes (s : State) (g : Nat) : (s.unmark g).nodes = s.nodes := rfl
@[simp] theorem State.unmark_ctxs (s : State) (g : Nat) : (s.unmark g).ctxs = s.ctxs := rfl
@[simp] theorem State.unmark_cores (s : State) (g : Nat) : (s.unmark g).cores = s.cores := rfl
@[simp] theorem State.unmark_bars (s : State) (g : Nat) : (s.unmark g).bars = s.bars := rfl
@[simp] theorem State.unmark_ops (s : State) (g : Nat) : (s.unmark g).ops = s.ops := rfl
@[simp] theorem State.unmark_pends (s : State) (g : Nat) : (s.unmark g).pends = s.pends := rfl
@[simp] theorem State.unmark_homes (s : State) (g : Nat) : (s.unmark g).homes = s.homes := rfl
@[simp] theorem State.unmark_retries (s : State) (g : Nat) : (s.unmark g).retries = s.retries := rfl
@[simp] theorem State.unmark_enrols (s : State) (g : Nat) : (s.unmark g).enrols = s.enrols := rfl
@[simp] theorem State.unmark_parents (s : State) (g : Nat) : (s.unmark g).parents = s.parents := rfl
@[simp] theorem State.unmark_rollups (s : State) (g : Nat) : (s.unmark g).rollups = s.rollups := rfl
@[simp] theorem State.unmark_xreqs (s : State) (g : Nat) : (s.unmark g).xreqs = s.xreqs := rfl
@[simp] theorem State.unmark_dies (s : State) (g : Nat) : (s.unmark g).dies = s.dies := rfl
@[simp] theorem State.unmark_parts (s : State) (g : Nat) : (s.unmark g).parts = s.parts := rfl
@[simp] theorem State.unmark_reqs (s : State) (g : Nat) : (s.unmark g).reqs = s.reqs := rfl
@[simp] theorem State.unmark_answers (s : State) (g : Nat) : (s.unmark g).answers = s.answers := rfl
@[simp] theorem State.unmark_invals (s : State) (g : Nat) : (s.unmark g).invals = s.invals := rfl
@[simp] theorem State.unmark_resend (s : State) (g : Nat) : (s.unmark g).resend = s.resend := rfl
@[simp] theorem State.unmark_hogs (s : State) (g : Nat) : (s.unmark g).hogs = s.hogs := rfl
@[simp] theorem State.unmark_queues (s : State) (g : Nat) : (s.unmark g).queues = s.queues := rfl
@[simp] theorem State.unmark_pkg (s : State) (g : Nat) : (s.unmark g).pkg = s.pkg := rfl
@[simp] theorem State.unmark_clk (s : State) (g : Nat) : (s.unmark g).clk = s.clk := rfl
@[simp] theorem State.unmark_timers (s : State) (g : Nat) : (s.unmark g).timers = s.timers := rfl
@[simp] theorem State.unmark_due (s : State) (g : Nat) : (s.unmark g).due = s.due := rfl
@[simp] theorem State.unmark_cur (s : State) (g : Nat) : (s.unmark g).cur = s.cur := rfl
@[simp] theorem State.unmark_ev (s : State) (g : Nat) : (s.unmark g).ev = s.ev := rfl
@[simp] theorem State.unmark_fresh (s : State) (g : Nat) : (s.unmark g).fresh = s.fresh := rfl
@[simp] theorem State.unmark_nextId (s : State) (g : Nat) : (s.unmark g).nextId = s.nextId := rfl
@[simp] theorem State.unmark_out (s : State) (g : Nat) : (s.unmark g).out = s.out := rfl
@[simp] theorem State.unmark_objects (s : State) (g : Nat) : (s.unmark g).objects = s.objects := rfl
@[simp] theorem State.unmark_tainted (s : State) (g : Nat) : (s.unmark g).tainted = s.tainted := rfl

/-! ### guardBytes -/

@[simp] theorem State.guardBytes_mem (s : State) (o b n : Nat) : (s.guardBytes o b n).mem = s.mem := rfl
@[simp] theorem State.guardBytes_marks (s : State) (o b n : Nat) : (s.guardBytes o b n).marks = s.marks := rfl
@[simp] theorem State.guardBytes_gkeys (s : State) (o b n : Nat) : (s.guardBytes o b n).gkeys = s.gkeys := rfl
@[simp] theorem State.guardBytes_crews (s : State) (o b n : Nat) : (s.guardBytes o b n).crews = s.crews := rfl
@[simp] theorem State.guardBytes_blocks (s : State) (o b n : Nat) : (s.guardBytes o b n).blocks = s.blocks := rfl
@[simp] theorem State.guardBytes_orphans (s : State) (o b n : Nat) : (s.guardBytes o b n).orphans = s.orphans := rfl
@[simp] theorem State.guardBytes_nodes (s : State) (o b n : Nat) : (s.guardBytes o b n).nodes = s.nodes := rfl
@[simp] theorem State.guardBytes_ctxs (s : State) (o b n : Nat) : (s.guardBytes o b n).ctxs = s.ctxs := rfl
@[simp] theorem State.guardBytes_cores (s : State) (o b n : Nat) : (s.guardBytes o b n).cores = s.cores := rfl
@[simp] theorem State.guardBytes_bars (s : State) (o b n : Nat) : (s.guardBytes o b n).bars = s.bars := rfl
@[simp] theorem State.guardBytes_ops (s : State) (o b n : Nat) : (s.guardBytes o b n).ops = s.ops := rfl
@[simp] theorem State.guardBytes_pends (s : State) (o b n : Nat) : (s.guardBytes o b n).pends = s.pends := rfl
@[simp] theorem State.guardBytes_homes (s : State) (o b n : Nat) : (s.guardBytes o b n).homes = s.homes := rfl
@[simp] theorem State.guardBytes_retries (s : State) (o b n : Nat) : (s.guardBytes o b n).retries = s.retries := rfl
@[simp] theorem State.guardBytes_enrols (s : State) (o b n : Nat) : (s.guardBytes o b n).enrols = s.enrols := rfl
@[simp] theorem State.guardBytes_parents (s : State) (o b n : Nat) : (s.guardBytes o b n).parents = s.parents := rfl
@[simp] theorem State.guardBytes_rollups (s : State) (o b n : Nat) : (s.guardBytes o b n).rollups = s.rollups := rfl
@[simp] theorem State.guardBytes_xreqs (s : State) (o b n : Nat) : (s.guardBytes o b n).xreqs = s.xreqs := rfl
@[simp] theorem State.guardBytes_dies (s : State) (o b n : Nat) : (s.guardBytes o b n).dies = s.dies := rfl
@[simp] theorem State.guardBytes_parts (s : State) (o b n : Nat) : (s.guardBytes o b n).parts = s.parts := rfl
@[simp] theorem State.guardBytes_reqs (s : State) (o b n : Nat) : (s.guardBytes o b n).reqs = s.reqs := rfl
@[simp] theorem State.guardBytes_answers (s : State) (o b n : Nat) : (s.guardBytes o b n).answers = s.answers := rfl
@[simp] theorem State.guardBytes_invals (s : State) (o b n : Nat) : (s.guardBytes o b n).invals = s.invals := rfl
@[simp] theorem State.guardBytes_resend (s : State) (o b n : Nat) : (s.guardBytes o b n).resend = s.resend := rfl
@[simp] theorem State.guardBytes_hogs (s : State) (o b n : Nat) : (s.guardBytes o b n).hogs = s.hogs := rfl
@[simp] theorem State.guardBytes_queues (s : State) (o b n : Nat) : (s.guardBytes o b n).queues = s.queues := rfl
@[simp] theorem State.guardBytes_pkg (s : State) (o b n : Nat) : (s.guardBytes o b n).pkg = s.pkg := rfl
@[simp] theorem State.guardBytes_clk (s : State) (o b n : Nat) : (s.guardBytes o b n).clk = s.clk := rfl
@[simp] theorem State.guardBytes_timers (s : State) (o b n : Nat) : (s.guardBytes o b n).timers = s.timers := rfl
@[simp] theorem State.guardBytes_due (s : State) (o b n : Nat) : (s.guardBytes o b n).due = s.due := rfl
@[simp] theorem State.guardBytes_cur (s : State) (o b n : Nat) : (s.guardBytes o b n).cur = s.cur := rfl
@[simp] theorem State.guardBytes_ev (s : State) (o b n : Nat) : (s.guardBytes o b n).ev = s.ev := rfl
@[simp] theorem State.guardBytes_fresh (s : State) (o b n : Nat) : (s.guardBytes o b n).fresh = s.fresh := rfl
@[simp] theorem State.guardBytes_nextId (s : State) (o b n : Nat) : (s.guardBytes o b n).nextId = s.nextId := rfl
@[simp] theorem State.guardBytes_out (s : State) (o b n : Nat) : (s.guardBytes o b n).out = s.out := rfl
@[simp] theorem State.guardBytes_objects (s : State) (o b n : Nat) : (s.guardBytes o b n).objects = ⟨o, b, n⟩ :: s.objects := rfl
@[simp] theorem State.guardBytes_tainted (s : State) (o b n : Nat) : (s.guardBytes o b n).tainted = s.tainted := rfl

/-! ### taint -/

@[simp] theorem State.taint_mem (s : State) (a n : Nat) : (s.taint a n).mem = s.mem := rfl
@[simp] theorem State.taint_marks (s : State) (a n : Nat) : (s.taint a n).marks = s.marks := rfl
@[simp] theorem State.taint_gkeys (s : State) (a n : Nat) : (s.taint a n).gkeys = s.gkeys := rfl
@[simp] theorem State.taint_crews (s : State) (a n : Nat) : (s.taint a n).crews = s.crews := rfl
@[simp] theorem State.taint_blocks (s : State) (a n : Nat) : (s.taint a n).blocks = s.blocks := rfl
@[simp] theorem State.taint_orphans (s : State) (a n : Nat) : (s.taint a n).orphans = s.orphans := rfl
@[simp] theorem State.taint_nodes (s : State) (a n : Nat) : (s.taint a n).nodes = s.nodes := rfl
@[simp] theorem State.taint_ctxs (s : State) (a n : Nat) : (s.taint a n).ctxs = s.ctxs := rfl
@[simp] theorem State.taint_cores (s : State) (a n : Nat) : (s.taint a n).cores = s.cores := rfl
@[simp] theorem State.taint_bars (s : State) (a n : Nat) : (s.taint a n).bars = s.bars := rfl
@[simp] theorem State.taint_ops (s : State) (a n : Nat) : (s.taint a n).ops = s.ops := rfl
@[simp] theorem State.taint_pends (s : State) (a n : Nat) : (s.taint a n).pends = s.pends := rfl
@[simp] theorem State.taint_homes (s : State) (a n : Nat) : (s.taint a n).homes = s.homes := rfl
@[simp] theorem State.taint_retries (s : State) (a n : Nat) : (s.taint a n).retries = s.retries := rfl
@[simp] theorem State.taint_enrols (s : State) (a n : Nat) : (s.taint a n).enrols = s.enrols := rfl
@[simp] theorem State.taint_parents (s : State) (a n : Nat) : (s.taint a n).parents = s.parents := rfl
@[simp] theorem State.taint_rollups (s : State) (a n : Nat) : (s.taint a n).rollups = s.rollups := rfl
@[simp] theorem State.taint_xreqs (s : State) (a n : Nat) : (s.taint a n).xreqs = s.xreqs := rfl
@[simp] theorem State.taint_dies (s : State) (a n : Nat) : (s.taint a n).dies = s.dies := rfl
@[simp] theorem State.taint_parts (s : State) (a n : Nat) : (s.taint a n).parts = s.parts := rfl
@[simp] theorem State.taint_reqs (s : State) (a n : Nat) : (s.taint a n).reqs = s.reqs := rfl
@[simp] theorem State.taint_answers (s : State) (a n : Nat) : (s.taint a n).answers = s.answers := rfl
@[simp] theorem State.taint_invals (s : State) (a n : Nat) : (s.taint a n).invals = s.invals := rfl
@[simp] theorem State.taint_resend (s : State) (a n : Nat) : (s.taint a n).resend = s.resend := rfl
@[simp] theorem State.taint_hogs (s : State) (a n : Nat) : (s.taint a n).hogs = s.hogs := rfl
@[simp] theorem State.taint_queues (s : State) (a n : Nat) : (s.taint a n).queues = s.queues := rfl
@[simp] theorem State.taint_pkg (s : State) (a n : Nat) : (s.taint a n).pkg = s.pkg := rfl
@[simp] theorem State.taint_clk (s : State) (a n : Nat) : (s.taint a n).clk = s.clk := rfl
@[simp] theorem State.taint_timers (s : State) (a n : Nat) : (s.taint a n).timers = s.timers := rfl
@[simp] theorem State.taint_due (s : State) (a n : Nat) : (s.taint a n).due = s.due := rfl
@[simp] theorem State.taint_cur (s : State) (a n : Nat) : (s.taint a n).cur = s.cur := rfl
@[simp] theorem State.taint_ev (s : State) (a n : Nat) : (s.taint a n).ev = s.ev := rfl
@[simp] theorem State.taint_fresh (s : State) (a n : Nat) : (s.taint a n).fresh = s.fresh := rfl
@[simp] theorem State.taint_nextId (s : State) (a n : Nat) : (s.taint a n).nextId = s.nextId := rfl
@[simp] theorem State.taint_out (s : State) (a n : Nat) : (s.taint a n).out = s.out := rfl
@[simp] theorem State.taint_objects (s : State) (a n : Nat) : (s.taint a n).objects = s.objects := rfl

/-! ### push, pushAll and emit -/

@[simp] theorem State.push_mem (s : State) (e : Event) : (s.push e).mem = s.mem := by unfold push; split <;> rfl
@[simp] theorem State.push_marks (s : State) (e : Event) : (s.push e).marks = s.marks := by unfold push; split <;> rfl
@[simp] theorem State.push_gkeys (s : State) (e : Event) : (s.push e).gkeys = s.gkeys := by unfold push; split <;> rfl
@[simp] theorem State.push_crews (s : State) (e : Event) : (s.push e).crews = s.crews := by unfold push; split <;> rfl
@[simp] theorem State.push_blocks (s : State) (e : Event) : (s.push e).blocks = s.blocks := by unfold push; split <;> rfl
@[simp] theorem State.push_orphans (s : State) (e : Event) : (s.push e).orphans = s.orphans := by unfold push; split <;> rfl
@[simp] theorem State.push_nodes (s : State) (e : Event) : (s.push e).nodes = s.nodes := by unfold push; split <;> rfl
@[simp] theorem State.push_ctxs (s : State) (e : Event) : (s.push e).ctxs = s.ctxs := by unfold push; split <;> rfl
@[simp] theorem State.push_cores (s : State) (e : Event) : (s.push e).cores = s.cores := by unfold push; split <;> rfl
@[simp] theorem State.push_bars (s : State) (e : Event) : (s.push e).bars = s.bars := by unfold push; split <;> rfl
@[simp] theorem State.push_ops (s : State) (e : Event) : (s.push e).ops = s.ops := by unfold push; split <;> rfl
@[simp] theorem State.push_pends (s : State) (e : Event) : (s.push e).pends = s.pends := by unfold push; split <;> rfl
@[simp] theorem State.push_homes (s : State) (e : Event) : (s.push e).homes = s.homes := by unfold push; split <;> rfl
@[simp] theorem State.push_retries (s : State) (e : Event) : (s.push e).retries = s.retries := by unfold push; split <;> rfl
@[simp] theorem State.push_enrols (s : State) (e : Event) : (s.push e).enrols = s.enrols := by unfold push; split <;> rfl
@[simp] theorem State.push_parents (s : State) (e : Event) : (s.push e).parents = s.parents := by unfold push; split <;> rfl
@[simp] theorem State.push_rollups (s : State) (e : Event) : (s.push e).rollups = s.rollups := by unfold push; split <;> rfl
@[simp] theorem State.push_xreqs (s : State) (e : Event) : (s.push e).xreqs = s.xreqs := by unfold push; split <;> rfl
@[simp] theorem State.push_dies (s : State) (e : Event) : (s.push e).dies = s.dies := by unfold push; split <;> rfl
@[simp] theorem State.push_parts (s : State) (e : Event) : (s.push e).parts = s.parts := by unfold push; split <;> rfl
@[simp] theorem State.push_reqs (s : State) (e : Event) : (s.push e).reqs = s.reqs := by unfold push; split <;> rfl
@[simp] theorem State.push_answers (s : State) (e : Event) : (s.push e).answers = s.answers := by unfold push; split <;> rfl
@[simp] theorem State.push_invals (s : State) (e : Event) : (s.push e).invals = s.invals := by unfold push; split <;> rfl
@[simp] theorem State.push_resend (s : State) (e : Event) : (s.push e).resend = s.resend := by unfold push; split <;> rfl
@[simp] theorem State.push_hogs (s : State) (e : Event) : (s.push e).hogs = s.hogs := by unfold push; split <;> rfl
@[simp] theorem State.push_queues (s : State) (e : Event) : (s.push e).queues = s.queues := by unfold push; split <;> rfl
@[simp] theorem State.push_pkg (s : State) (e : Event) : (s.push e).pkg = s.pkg := by unfold push; split <;> rfl
@[simp] theorem State.push_clk (s : State) (e : Event) : (s.push e).clk = s.clk := by unfold push; split <;> rfl
@[simp] theorem State.push_timers (s : State) (e : Event) : (s.push e).timers = s.timers := by unfold push; split <;> rfl
@[simp] theorem State.push_cur (s : State) (e : Event) : (s.push e).cur = s.cur := by unfold push; split <;> rfl
@[simp] theorem State.push_ev (s : State) (e : Event) : (s.push e).ev = s.ev := by unfold push; split <;> rfl
@[simp] theorem State.push_fresh (s : State) (e : Event) : (s.push e).fresh = s.fresh := by unfold push; split <;> rfl
@[simp] theorem State.push_nextId (s : State) (e : Event) : (s.push e).nextId = s.nextId := by unfold push; split <;> rfl
@[simp] theorem State.push_out (s : State) (e : Event) : (s.push e).out = s.out := by unfold push; split <;> rfl
@[simp] theorem State.push_objects (s : State) (e : Event) : (s.push e).objects = s.objects := by unfold push; split <;> rfl
@[simp] theorem State.push_tainted (s : State) (e : Event) : (s.push e).tainted = s.tainted := by unfold push; split <;> rfl
@[simp] theorem State.pushAll_mem (s : State) (es : List Event) : (s.pushAll es).mem = s.mem := by
  induction es generalizing s with
  | nil => rfl
  | cons e r ih => exact (ih _).trans (s.push_mem e)
@[simp] theorem State.pushAll_marks (s : State) (es : List Event) : (s.pushAll es).marks = s.marks := by
  induction es generalizing s with
  | nil => rfl
  | cons e r ih => exact (ih _).trans (s.push_marks e)
@[simp] theorem State.pushAll_gkeys (s : State) (es : List Event) : (s.pushAll es).gkeys = s.gkeys := by
  induction es generalizing s with
  | nil => rfl
  | cons e r ih => exact (ih _).trans (s.push_gkeys e)
@[simp] theorem State.pushAll_crews (s : State) (es : List Event) : (s.pushAll es).crews = s.crews := by
  induction es generalizing s with
  | nil => rfl
  | cons e r ih => exact (ih _).trans (s.push_crews e)
@[simp] theorem State.pushAll_blocks (s : State) (es : List Event) : (s.pushAll es).blocks = s.blocks := by
  induction es generalizing s with
  | nil => rfl
  | cons e r ih => exact (ih _).trans (s.push_blocks e)
@[simp] theorem State.pushAll_orphans (s : State) (es : List Event) : (s.pushAll es).orphans = s.orphans := by
  induction es generalizing s with
  | nil => rfl
  | cons e r ih => exact (ih _).trans (s.push_orphans e)
@[simp] theorem State.pushAll_nodes (s : State) (es : List Event) : (s.pushAll es).nodes = s.nodes := by
  induction es generalizing s with
  | nil => rfl
  | cons e r ih => exact (ih _).trans (s.push_nodes e)
@[simp] theorem State.pushAll_ctxs (s : State) (es : List Event) : (s.pushAll es).ctxs = s.ctxs := by
  induction es generalizing s with
  | nil => rfl
  | cons e r ih => exact (ih _).trans (s.push_ctxs e)
@[simp] theorem State.pushAll_cores (s : State) (es : List Event) : (s.pushAll es).cores = s.cores := by
  induction es generalizing s with
  | nil => rfl
  | cons e r ih => exact (ih _).trans (s.push_cores e)
@[simp] theorem State.pushAll_bars (s : State) (es : List Event) : (s.pushAll es).bars = s.bars := by
  induction es generalizing s with
  | nil => rfl
  | cons e r ih => exact (ih _).trans (s.push_bars e)
@[simp] theorem State.pushAll_ops (s : State) (es : List Event) : (s.pushAll es).ops = s.ops := by
  induction es generalizing s with
  | nil => rfl
  | cons e r ih => exact (ih _).trans (s.push_ops e)
@[simp] theorem State.pushAll_pends (s : State) (es : List Event) : (s.pushAll es).pends = s.pends := by
  induction es generalizing s with
  | nil => rfl
  | cons e r ih => exact (ih _).trans (s.push_pends e)
@[simp] theorem State.pushAll_homes (s : State) (es : List Event) : (s.pushAll es).homes = s.homes := by
  induction es generalizing s with
  | nil => rfl
  | cons e r ih => exact (ih _).trans (s.push_homes e)
@[simp] theorem State.pushAll_retries (s : State) (es : List Event) : (s.pushAll es).retries = s.retries := by
  induction es generalizing s with
  | nil => rfl
  | cons e r ih => exact (ih _).trans (s.push_retries e)
@[simp] theorem State.pushAll_enrols (s : State) (es : List Event) : (s.pushAll es).enrols = s.enrols := by
  induction es generalizing s with
  | nil => rfl
  | cons e r ih => exact (ih _).trans (s.push_enrols e)
@[simp] theorem State.pushAll_parents (s : State) (es : List Event) : (s.pushAll es).parents = s.parents := by
  induction es generalizing s with
  | nil => rfl
  | cons e r ih => exact (ih _).trans (s.push_parents e)
@[simp] theorem State.pushAll_rollups (s : State) (es : List Event) : (s.pushAll es).rollups = s.rollups := by
  induction es generalizing s with
  | nil => rfl
  | cons e r ih => exact (ih _).trans (s.push_rollups e)
@[simp] theorem State.pushAll_xreqs (s : State) (es : List Event) : (s.pushAll es).xreqs = s.xreqs := by
  induction es generalizing s with
  | nil => rfl
  | cons e r ih => exact (ih _).trans (s.push_xreqs e)
@[simp] theorem State.pushAll_dies (s : State) (es : List Event) : (s.pushAll es).dies = s.dies := by
  induction es generalizing s with
  | nil => rfl
  | cons e r ih => exact (ih _).trans (s.push_dies e)
@[simp] theorem State.pushAll_parts (s : State) (es : List Event) : (s.pushAll es).parts = s.parts := by
  induction es generalizing s with
  | nil => rfl
  | cons e r ih => exact (ih _).trans (s.push_parts e)
@[simp] theorem State.pushAll_reqs (s : State) (es : List Event) : (s.pushAll es).reqs = s.reqs := by
  induction es generalizing s with
  | nil => rfl
  | cons e r ih => exact (ih _).trans (s.push_reqs e)
@[simp] theorem State.pushAll_answers (s : State) (es : List Event) : (s.pushAll es).answers = s.answers := by
  induction es generalizing s with
  | nil => rfl
  | cons e r ih => exact (ih _).trans (s.push_answers e)
@[simp] theorem State.pushAll_invals (s : State) (es : List Event) : (s.pushAll es).invals = s.invals := by
  induction es generalizing s with
  | nil => rfl
  | cons e r ih => exact (ih _).trans (s.push_invals e)
@[simp] theorem State.pushAll_resend (s : State) (es : List Event) : (s.pushAll es).resend = s.resend := by
  induction es generalizing s with
  | nil => rfl
  | cons e r ih => exact (ih _).trans (s.push_resend e)
@[simp] theorem State.pushAll_hogs (s : State) (es : List Event) : (s.pushAll es).hogs = s.hogs := by
  induction es generalizing s with
  | nil => rfl
  | cons e r ih => exact (ih _).trans (s.push_hogs e)
@[simp] theorem State.pushAll_queues (s : State) (es : List Event) : (s.pushAll es).queues = s.queues := by
  induction es generalizing s with
  | nil => rfl
  | cons e r ih => exact (ih _).trans (s.push_queues e)
@[simp] theorem State.pushAll_pkg (s : State) (es : List Event) : (s.pushAll es).pkg = s.pkg := by
  induction es generalizing s with
  | nil => rfl
  | cons e r ih => exact (ih _).trans (s.push_pkg e)
@[simp] theorem State.pushAll_clk (s : State) (es : List Event) : (s.pushAll es).clk = s.clk := by
  induction es generalizing s with
  | nil => rfl
  | cons e r ih => exact (ih _).trans (s.push_clk e)
@[simp] theorem State.pushAll_timers (s : State) (es : List Event) : (s.pushAll es).timers = s.timers := by
  induction es generalizing s with
  | nil => rfl
  | cons e r ih => exact (ih _).trans (s.push_timers e)
@[simp] theorem State.pushAll_cur (s : State) (es : List Event) : (s.pushAll es).cur = s.cur := by
  induction es generalizing s with
  | nil => rfl
  | cons e r ih => exact (ih _).trans (s.push_cur e)
@[simp] theorem State.pushAll_ev (s : State) (es : List Event) : (s.pushAll es).ev = s.ev := by
  induction es generalizing s with
  | nil => rfl
  | cons e r ih => exact (ih _).trans (s.push_ev e)
@[simp] theorem State.pushAll_fresh (s : State) (es : List Event) : (s.pushAll es).fresh = s.fresh := by
  induction es generalizing s with
  | nil => rfl
  | cons e r ih => exact (ih _).trans (s.push_fresh e)
@[simp] theorem State.pushAll_nextId (s : State) (es : List Event) : (s.pushAll es).nextId = s.nextId := by
  induction es generalizing s with
  | nil => rfl
  | cons e r ih => exact (ih _).trans (s.push_nextId e)
@[simp] theorem State.pushAll_out (s : State) (es : List Event) : (s.pushAll es).out = s.out := by
  induction es generalizing s with
  | nil => rfl
  | cons e r ih => exact (ih _).trans (s.push_out e)
@[simp] theorem State.pushAll_objects (s : State) (es : List Event) : (s.pushAll es).objects = s.objects := by
  induction es generalizing s with
  | nil => rfl
  | cons e r ih => exact (ih _).trans (s.push_objects e)
@[simp] theorem State.pushAll_tainted (s : State) (es : List Event) : (s.pushAll es).tainted = s.tainted := by
  induction es generalizing s with
  | nil => rfl
  | cons e r ih => exact (ih _).trans (s.push_tainted e)
@[simp] theorem State.cross_mem (s : State) (d c n : Nat) (e : Event) : (s.cross d c n e).mem = s.mem := by
  unfold cross; dsimp only; split <;> rfl
@[simp] theorem State.cross_marks (s : State) (d c n : Nat) (e : Event) : (s.cross d c n e).marks = s.marks := by
  unfold cross; dsimp only; split <;> rfl
@[simp] theorem State.cross_gkeys (s : State) (d c n : Nat) (e : Event) : (s.cross d c n e).gkeys = s.gkeys := by
  unfold cross; dsimp only; split <;> rfl
@[simp] theorem State.cross_crews (s : State) (d c n : Nat) (e : Event) : (s.cross d c n e).crews = s.crews := by
  unfold cross; dsimp only; split <;> rfl
@[simp] theorem State.cross_blocks (s : State) (d c n : Nat) (e : Event) : (s.cross d c n e).blocks = s.blocks := by
  unfold cross; dsimp only; split <;> rfl
@[simp] theorem State.cross_orphans (s : State) (d c n : Nat) (e : Event) : (s.cross d c n e).orphans = s.orphans := by
  unfold cross; dsimp only; split <;> rfl
@[simp] theorem State.cross_nodes (s : State) (d c n : Nat) (e : Event) : (s.cross d c n e).nodes = s.nodes := by
  unfold cross; dsimp only; split <;> rfl
@[simp] theorem State.cross_ctxs (s : State) (d c n : Nat) (e : Event) : (s.cross d c n e).ctxs = s.ctxs := by
  unfold cross; dsimp only; split <;> rfl
@[simp] theorem State.cross_cores (s : State) (d c n : Nat) (e : Event) : (s.cross d c n e).cores = s.cores := by
  unfold cross; dsimp only; split <;> rfl
@[simp] theorem State.cross_bars (s : State) (d c n : Nat) (e : Event) : (s.cross d c n e).bars = s.bars := by
  unfold cross; dsimp only; split <;> rfl
@[simp] theorem State.cross_ops (s : State) (d c n : Nat) (e : Event) : (s.cross d c n e).ops = s.ops := by
  unfold cross; dsimp only; split <;> rfl
@[simp] theorem State.cross_pends (s : State) (d c n : Nat) (e : Event) : (s.cross d c n e).pends = s.pends := by
  unfold cross; dsimp only; split <;> rfl
@[simp] theorem State.cross_homes (s : State) (d c n : Nat) (e : Event) : (s.cross d c n e).homes = s.homes := by
  unfold cross; dsimp only; split <;> rfl
@[simp] theorem State.cross_retries (s : State) (d c n : Nat) (e : Event) : (s.cross d c n e).retries = s.retries := by
  unfold cross; dsimp only; split <;> rfl
@[simp] theorem State.cross_enrols (s : State) (d c n : Nat) (e : Event) : (s.cross d c n e).enrols = s.enrols := by
  unfold cross; dsimp only; split <;> rfl
@[simp] theorem State.cross_parents (s : State) (d c n : Nat) (e : Event) : (s.cross d c n e).parents = s.parents := by
  unfold cross; dsimp only; split <;> rfl
@[simp] theorem State.cross_rollups (s : State) (d c n : Nat) (e : Event) : (s.cross d c n e).rollups = s.rollups := by
  unfold cross; dsimp only; split <;> rfl
@[simp] theorem State.cross_xreqs (s : State) (d c n : Nat) (e : Event) : (s.cross d c n e).xreqs = s.xreqs := by
  unfold cross; dsimp only; split <;> rfl
@[simp] theorem State.cross_dies (s : State) (d c n : Nat) (e : Event) : (s.cross d c n e).dies = s.dies := by
  unfold cross; dsimp only; split <;> rfl
@[simp] theorem State.cross_parts (s : State) (d c n : Nat) (e : Event) : (s.cross d c n e).parts = s.parts := by
  unfold cross; dsimp only; split <;> rfl
@[simp] theorem State.cross_reqs (s : State) (d c n : Nat) (e : Event) : (s.cross d c n e).reqs = s.reqs := by
  unfold cross; dsimp only; split <;> rfl
@[simp] theorem State.cross_answers (s : State) (d c n : Nat) (e : Event) : (s.cross d c n e).answers = s.answers := by
  unfold cross; dsimp only; split <;> rfl
@[simp] theorem State.cross_invals (s : State) (d c n : Nat) (e : Event) : (s.cross d c n e).invals = s.invals := by
  unfold cross; dsimp only; split <;> rfl
@[simp] theorem State.cross_resend (s : State) (d c n : Nat) (e : Event) : (s.cross d c n e).resend = s.resend := by
  unfold cross; dsimp only; split <;> rfl
@[simp] theorem State.cross_hogs (s : State) (d c n : Nat) (e : Event) : (s.cross d c n e).hogs = s.hogs := by
  unfold cross; dsimp only; split <;> rfl
@[simp] theorem State.cross_queues (s : State) (d c n : Nat) (e : Event) : (s.cross d c n e).queues = s.queues := by
  unfold cross; dsimp only; split <;> rfl
@[simp] theorem State.cross_clk (s : State) (d c n : Nat) (e : Event) : (s.cross d c n e).clk = s.clk := by
  unfold cross; dsimp only; split <;> rfl
@[simp] theorem State.cross_timers (s : State) (d c n : Nat) (e : Event) : (s.cross d c n e).timers = s.timers := by
  unfold cross; dsimp only; split <;> rfl
@[simp] theorem State.cross_due (s : State) (d c n : Nat) (e : Event) : (s.cross d c n e).due = s.due := by
  unfold cross; dsimp only; split <;> rfl
@[simp] theorem State.cross_cur (s : State) (d c n : Nat) (e : Event) : (s.cross d c n e).cur = s.cur := by
  unfold cross; dsimp only; split <;> rfl
@[simp] theorem State.cross_ev (s : State) (d c n : Nat) (e : Event) : (s.cross d c n e).ev = s.ev := by
  unfold cross; dsimp only; split <;> rfl
@[simp] theorem State.cross_fresh (s : State) (d c n : Nat) (e : Event) : (s.cross d c n e).fresh = s.fresh := by
  unfold cross; dsimp only; split <;> rfl
@[simp] theorem State.cross_nextId (s : State) (d c n : Nat) (e : Event) : (s.cross d c n e).nextId = s.nextId := by
  unfold cross; dsimp only; split <;> rfl
@[simp] theorem State.cross_objects (s : State) (d c n : Nat) (e : Event) : (s.cross d c n e).objects = s.objects := by
  unfold cross; dsimp only; split <;> rfl
@[simp] theorem State.cross_tainted (s : State) (d c n : Nat) (e : Event) : (s.cross d c n e).tainted = s.tainted := by
  unfold cross; dsimp only; split <;> rfl
@[simp] theorem State.cross_out (s : State) (d c n : Nat) (e : Event) : (s.cross d c n e).out = s.out := by
  unfold cross; dsimp only; split <;> rfl
@[simp] theorem State.emit_mem (s : State) (o : Out) : (s.emit o).mem = s.mem := by unfold emit; split <;> simp
@[simp] theorem State.emit_marks (s : State) (o : Out) : (s.emit o).marks = s.marks := by unfold emit; split <;> simp
@[simp] theorem State.emit_gkeys (s : State) (o : Out) : (s.emit o).gkeys = s.gkeys := by unfold emit; split <;> simp
@[simp] theorem State.emit_crews (s : State) (o : Out) : (s.emit o).crews = s.crews := by unfold emit; split <;> simp
@[simp] theorem State.emit_blocks (s : State) (o : Out) : (s.emit o).blocks = s.blocks := by unfold emit; split <;> simp
@[simp] theorem State.emit_orphans (s : State) (o : Out) : (s.emit o).orphans = s.orphans := by unfold emit; split <;> simp
@[simp] theorem State.emit_nodes (s : State) (o : Out) : (s.emit o).nodes = s.nodes := by unfold emit; split <;> simp
@[simp] theorem State.emit_ctxs (s : State) (o : Out) : (s.emit o).ctxs = s.ctxs := by unfold emit; split <;> simp
@[simp] theorem State.emit_cores (s : State) (o : Out) : (s.emit o).cores = s.cores := by unfold emit; split <;> simp
@[simp] theorem State.emit_bars (s : State) (o : Out) : (s.emit o).bars = s.bars := by unfold emit; split <;> simp
@[simp] theorem State.emit_ops (s : State) (o : Out) : (s.emit o).ops = s.ops := by unfold emit; split <;> simp
@[simp] theorem State.emit_pends (s : State) (o : Out) : (s.emit o).pends = s.pends := by unfold emit; split <;> simp
@[simp] theorem State.emit_homes (s : State) (o : Out) : (s.emit o).homes = s.homes := by unfold emit; split <;> simp
@[simp] theorem State.emit_retries (s : State) (o : Out) : (s.emit o).retries = s.retries := by unfold emit; split <;> simp
@[simp] theorem State.emit_enrols (s : State) (o : Out) : (s.emit o).enrols = s.enrols := by unfold emit; split <;> simp
@[simp] theorem State.emit_parents (s : State) (o : Out) : (s.emit o).parents = s.parents := by unfold emit; split <;> simp
@[simp] theorem State.emit_rollups (s : State) (o : Out) : (s.emit o).rollups = s.rollups := by unfold emit; split <;> simp
@[simp] theorem State.emit_xreqs (s : State) (o : Out) : (s.emit o).xreqs = s.xreqs := by unfold emit; split <;> simp
@[simp] theorem State.emit_dies (s : State) (o : Out) : (s.emit o).dies = s.dies := by unfold emit; split <;> simp
@[simp] theorem State.emit_parts (s : State) (o : Out) : (s.emit o).parts = s.parts := by unfold emit; split <;> simp
@[simp] theorem State.emit_reqs (s : State) (o : Out) : (s.emit o).reqs = s.reqs := by unfold emit; split <;> simp
@[simp] theorem State.emit_answers (s : State) (o : Out) : (s.emit o).answers = s.answers := by unfold emit; split <;> simp
@[simp] theorem State.emit_invals (s : State) (o : Out) : (s.emit o).invals = s.invals := by unfold emit; split <;> simp
@[simp] theorem State.emit_resend (s : State) (o : Out) : (s.emit o).resend = s.resend := by unfold emit; split <;> simp
@[simp] theorem State.emit_hogs (s : State) (o : Out) : (s.emit o).hogs = s.hogs := by unfold emit; split <;> simp
@[simp] theorem State.emit_queues (s : State) (o : Out) : (s.emit o).queues = s.queues := by unfold emit; split <;> simp
@[simp] theorem State.emit_clk (s : State) (o : Out) : (s.emit o).clk = s.clk := by unfold emit; split <;> simp
@[simp] theorem State.emit_timers (s : State) (o : Out) : (s.emit o).timers = s.timers := by unfold emit; split <;> simp
@[simp] theorem State.emit_due (s : State) (o : Out) : (s.emit o).due = s.due := by unfold emit; split <;> simp
@[simp] theorem State.emit_cur (s : State) (o : Out) : (s.emit o).cur = s.cur := by unfold emit; split <;> simp
@[simp] theorem State.emit_ev (s : State) (o : Out) : (s.emit o).ev = s.ev := by unfold emit; split <;> simp
@[simp] theorem State.emit_fresh (s : State) (o : Out) : (s.emit o).fresh = s.fresh := by unfold emit; split <;> simp
@[simp] theorem State.emit_nextId (s : State) (o : Out) : (s.emit o).nextId = s.nextId := by unfold emit; split <;> simp
@[simp] theorem State.emit_objects (s : State) (o : Out) : (s.emit o).objects = s.objects := by unfold emit; split <;> simp
@[simp] theorem State.emit_tainted (s : State) (o : Out) : (s.emit o).tainted = s.tainted := by unfold emit; split <;> simp

/-! ### Records read after an update -/

/-- The record of a core after one is changed. -/
theorem State.core_modCore (s : State) (k j : Nat) (f : Core → Core) :
    (s.modCore k f).core j = if k = j then f (s.core k) else s.core j := by
  unfold State.core; rw [modCore_cores, tget_tset]; split <;> rfl

/-- The record of a home slice after one is changed. -/
theorem State.home_modHome (s : State) (k j : Nat) (f : Home → Home) :
    (s.modHome k f).home j = if k = j then f (s.home k) else s.home j := by
  unfold State.home; rw [modHome_homes, tget_tset]; split <;> rfl

/-- The record of a die after one is changed. -/
theorem State.die_modDie (s : State) (k j : Nat) (f : Die → Die) :
    (s.modDie k f).die j = if k = j then f (s.die k) else s.die j := by
  unfold State.die; rw [modDie_dies, tget_tset]; split <;> rfl

/-- The registers of a partition after those of one are changed. -/
theorem State.part_modPart (s : State) (d p e q : Nat) (f : Part → Part) :
    (s.modPart d p f).part e q = if s.partKey d p = s.partKey e q then f (s.part d p) else s.part e q := by
  unfold State.part; rw [modPart_parts, show (s.modPart d p f).partKey e q = s.partKey e q from rfl, tget_tset]
  split <;> rfl

/-- A crew put in place is the crew found there, and no other crew changes. -/
theorem State.tget_setCrew (s : State) (k j : Nat) (c : Crew) :
    tget (s.setCrew k c).crews j = if k = j then some c else tget s.crews j := tget_tset ..

/-- The last of two crews put in one place stays. -/
theorem tset_tset {α : Type} (t : Table α) (k : Nat) (v w : α) : tset (tset t k v) k w = tset t k w := by
  induction t with
  | nil => simp [tset]
  | cons e r ih =>
    obtain ⟨i, u⟩ := e
    simp only [tset]
    split
    · simp [tset]
    · split
      · simp [tset]
      · simp_all [tset]

@[simp] theorem State.setCrew_setCrew (s : State) (k : Nat) (c d : Crew) : (s.setCrew k c).setCrew k d = s.setCrew k d := by
  simp [State.setCrew, tset_tset]

/-- A step handed to an agent, or noted as due, leaves the open values. -/
@[simp] theorem State.free_setCrew (s : State) (k : Nat) (c : Crew) (j i : Nat) : (s.setCrew k c).free j i = s.free j i := rfl

end Sys2Proof.Machine
end

