-- ==== Sys2Proof/Laws/Crew.lean ====
section
/-! SUPPORT. Laws of lanes, slices and crews: what reading gives after an update, and what completing an instruction
changes. -/

namespace Sys2Proof.Machine

/-! ### Masks -/

theorem maskOf_fold (p : Nat → Bool) (ls : List Nat) (m : BitVec 32) (i : Nat) (hi : i < 32) :
    (ls.foldl (fun (m : BitVec 32) l => if p l then m ||| (1#32 <<< l) else m) m).getLsbD i =
      (m.getLsbD i || (ls.contains i && p i)) := by
  induction ls generalizing m with
  | nil => simp
  | cons l r ih =>
    rw [List.foldl_cons, ih]
    by_cases h : p l = true
    · by_cases e : i = l
      · subst e; simp [h, hi]
      · have : (1#32 <<< l).getLsbD i = false := by
          simp [BitVec.getLsbD_shiftLeft, BitVec.getLsbD_one]
          omega
        simp [h, this, e]
    · by_cases e : i = l
      · subst e; simp [h]
      · simp [h, e]

/-- A lane is in the mask of a predicate when it is one of 32 and the predicate holds. -/
@[simp] theorem getLsbD_maskOf (p : Nat → Bool) (l : Nat) : (maskOf p).getLsbD l = (decide (l < 32) && p l) := by
  by_cases h : l < 32
  · unfold maskOf
    rw [maskOf_fold p _ _ l h]
    simp [h]
  · simp [h, BitVec.getLsbD_of_ge _ _ (Nat.le_of_not_lt h)]

/-- The lowest lane of a mask that is not 0 is in it. -/
theorem getLsbD_lowest {m : BitVec 32} (h : m ≠ 0) : m.getLsbD (lowest m) = true := by
  unfold lowest
  cases e : (List.range 32).find? fun l => m.getLsbD l with
  | some l => simpa using List.find?_some e
  | none =>
    exfalso
    apply h
    apply BitVec.eq_of_getLsbD_eq
    intro i hi
    have := List.find?_eq_none.mp e i (by simpa using hi)
    simpa using this

/-! ### Lanes -/

/-- A window register read after one is written. -/
theorem Lane.get_set (ln : Lane) (D i j : Nat) (v : Word) : (ln.set D i v).get D j = if i = j then v else ln.get D j := by
  unfold Lane.get Lane.set
  simp only [tget_tset]
  by_cases h : i = j
  · simp [h]
  · rw [if_neg (by omega), if_neg h]

@[simp] theorem Lane.set_preds (ln : Lane) (D i : Nat) (v : Word) : (ln.set D i v).preds = ln.preds := rfl
@[simp] theorem Lane.set_pred (ln : Lane) (D i p : Nat) (v : Word) : (ln.set D i v).pred p = ln.pred p := rfl
@[simp] theorem Lane.setPred_regs (ln : Lane) (p : Nat) (v : Bool) : (ln.setPred p v).regs = ln.regs := by
  unfold Lane.setPred; split <;> rfl
@[simp] theorem Lane.setPred_bad (ln : Lane) (p : Nat) (v : Bool) : (ln.setPred p v).bad = ln.bad := by
  unfold Lane.setPred; split <;> rfl
@[simp] theorem Lane.setPred_get (ln : Lane) (p D i : Nat) (v : Bool) : (ln.setPred p v).get D i = ln.get D i := by
  simp [Lane.get]

/-- Predicate 0 reads as 1 (R38). -/
@[simp] theorem Lane.pred_zero (ln : Lane) : ln.pred 0 = true := rfl

/-- A predicate read after one is written: a write to p0 is discarded (R38). -/
theorem Lane.pred_setPred (ln : Lane) (p q : Nat) (v : Bool) (hp : p < 8) :
    (ln.setPred p v).pred q = if q = p ∧ p ≠ 0 then v else ln.pred q := by
  unfold Lane.setPred
  by_cases h0 : p = 0
  · simp [h0]
  · simp only [if_neg h0]
    unfold Lane.pred
    by_cases hq : q = p
    · subst hq
      cases v <;> simp [h0, hp]
    · have one : (1#8 <<< p).getLsbD q = false := by
        simp [BitVec.getLsbD_shiftLeft, BitVec.getLsbD_one]
        omega
      cases v
      · by_cases h8 : q < 8
        · rcases Nat.lt_or_gt_of_ne hq with h | h
          · simp [hq, h8, h]
          · have : q - p ≠ 0 := by omega
            simp [hq, h8, this]
        · simp [hq, BitVec.getLsbD_of_ge _ _ (Nat.le_of_not_lt h8)]
      · simp [hq, one]

/-- A logical register read after a window register is written. -/
theorem Lane.tget_set (ln : Lane) (D i r : Nat) (v : Word) :
    tget (ln.set D i v).regs r = if D + i = r then some v else tget ln.regs r := tget_tset ..

/-- Registers of a lane after several window registers are written. -/
theorem Lane.foldSet_frame (ws : List (Nat × Word)) (ln : Lane) (D r : Nat) (h : ∀ w ∈ ws, D + w.1 ≠ r) :
    tget (ws.foldl (fun (ln : Lane) w => ln.set D w.1 w.2) ln).regs r = tget ln.regs r ∧
      (r ∈ (ws.foldl (fun (ln : Lane) w => ln.set D w.1 w.2) ln).bad ↔ r ∈ ln.bad) := by
  induction ws generalizing ln with
  | nil => simp
  | cons w t ih =>
    have h1 : D + w.1 ≠ r := h w (by simp)
    obtain ⟨a, b⟩ := ih (ln.set D w.1 w.2) fun u hu => h u (List.mem_cons_of_mem _ hu)
    refine ⟨a.trans ?_, b.trans ?_⟩
    · rw [Lane.tget_set, if_neg h1]
    · exact mem_sdel_ne _ (Ne.symm h1)

@[simp] theorem Lane.foldSet_pred (ws : List (Nat × Word)) (ln : Lane) (D p : Nat) :
    (ws.foldl (fun (ln : Lane) w => ln.set D w.1 w.2) ln).pred p = ln.pred p := by
  induction ws generalizing ln with
  | nil => rfl
  | cons w t ih => exact (ih _).trans rfl

@[simp] theorem Lane.foldSetPred_regs (ws : List (Nat × Bool)) (ln : Lane) :
    (ws.foldl (fun (ln : Lane) w => ln.setPred w.1 w.2) ln).regs = ln.regs := by
  induction ws generalizing ln with
  | nil => rfl
  | cons w t ih => exact (ih _).trans (by simp)

@[simp] theorem Lane.foldSetPred_bad (ws : List (Nat × Bool)) (ln : Lane) :
    (ws.foldl (fun (ln : Lane) w => ln.setPred w.1 w.2) ln).bad = ln.bad := by
  induction ws generalizing ln with
  | nil => rfl
  | cons w t ih => exact (ih _).trans (by simp)

theorem Lane.setPred_frame (ln : Lane) (q p : Nat) (v : Bool) (h : q ≠ p) : (ln.setPred q v).pred p = ln.pred p := by
  by_cases h8 : q < 8
  · rw [Lane.pred_setPred _ _ _ _ h8, if_neg (by omega)]
  · unfold Lane.setPred Lane.pred
    have z : (1#8 <<< q) = 0 := by
      apply BitVec.eq_of_getLsbD_eq; intro i hi; simp [BitVec.getLsbD_shiftLeft]; omega
    rw [if_neg (by omega)]
    have z2 : ~~~(1#8 <<< q) = BitVec.allOnes 8 := by rw [z]; rfl
    cases v
    · simp only [z2, BitVec.and_allOnes, Bool.false_eq_true, if_false]
    · simp [z]

theorem Lane.foldSetPred_frame (ws : List (Nat × Bool)) (ln : Lane) (p : Nat) (h : ∀ w ∈ ws, w.1 ≠ p) :
    (ws.foldl (fun (ln : Lane) w => ln.setPred w.1 w.2) ln).pred p = ln.pred p := by
  induction ws generalizing ln with
  | nil => rfl
  | cons w t ih =>
    exact (ih _ fun u hu => h u (List.mem_cons_of_mem _ hu)).trans (Lane.setPred_frame _ _ _ _ (h w (by simp)))

/-! ### Slices -/

/-- A slice read after one is changed. -/
theorem Crew.slice_modSlice (c : Crew) (j i : Nat) (f : Slice → Slice) (hj : j < 8) :
    (c.modSlice j f).slice i = if i = j then f (c.slice j) else c.slice i := by
  unfold Crew.modSlice Crew.slice
  rw [dif_pos hj]
  by_cases h : i = j
  · subst h
    simp [List.getD_eq_getElem?_getD, hj]
  · simp [List.getD_eq_getElem?_getD, h, Ne.symm h]

theorem Crew.modSlice_same (c : Crew) (j : Nat) (f : Slice → Slice) :
    (c.modSlice j f).alike c ∧ (c.modSlice j f).lanes = c.lanes := by
  unfold Crew.modSlice Crew.alike
  split <;> simp

/-- Changing slices one by one: what each reads as. -/
theorem Crew.slice_fold (js : List Nat) (c : Crew) (f : Nat → Slice → Slice) (hn : js.Nodup) (h8 : ∀ j ∈ js, j < 8) (i : Nat) :
    (js.foldl (fun (c : Crew) j => c.modSlice j (f j)) c).slice i = if i ∈ js then f i (c.slice i) else c.slice i := by
  induction js generalizing c with
  | nil => simp
  | cons j r ih =>
    have hj : j < 8 := h8 j (by simp)
    obtain ⟨hjr, hr⟩ := List.nodup_cons.mp hn
    rw [List.foldl_cons, ih _ hr fun k hk => h8 k (List.mem_cons_of_mem _ hk)]
    by_cases hi : i ∈ r
    · have : i ≠ j := fun e => hjr (e ▸ hi)
      simp [hi, Crew.slice_modSlice _ _ _ _ hj, this]
    · by_cases e : i = j
      · subst e; simp [hi, Crew.slice_modSlice _ _ _ _ hj]
      · simp [hi, e, Crew.slice_modSlice _ _ _ _ hj]

theorem Crew.alike_refl (c : Crew) : c.alike c := rfl

theorem Crew.alike_trans {a b c : Crew} (h : a.alike b) (g : b.alike c) : a.alike c := by
  unfold Crew.alike at *
  rw [← g, ← h]

/-- Changing slices one by one leaves the lanes and everything else of a crew. -/
theorem Crew.fold_same (js : List Nat) (c : Crew) (f : Nat → Slice → Slice) :
    (js.foldl (fun (c : Crew) j => c.modSlice j (f j)) c).alike c ∧
      (js.foldl (fun (c : Crew) j => c.modSlice j (f j)) c).lanes = c.lanes := by
  induction js generalizing c with
  | nil => exact ⟨rfl, rfl⟩
  | cons j r ih =>
    obtain ⟨a, b⟩ := ih (c.modSlice j (f j))
    obtain ⟨p, q⟩ := c.modSlice_same j (f j)
    exact ⟨Crew.alike_trans a p, b.trans q⟩

/-- A lane read after the lanes of a mask are changed. -/
@[simp] theorem Crew.lane_modLanes (c : Crew) (m : BitVec 32) (f : Nat → Lane → Lane) (l : Nat) :
    (c.modLanes m f).lane l = if m.getLsbD l then f l (c.lane l) else c.lane l := by
  unfold Crew.modLanes Crew.lane
  by_cases h : l < 32
  · simp [List.getD_eq_getElem?_getD, h]
  · have : m.getLsbD l = false := BitVec.getLsbD_of_ge _ _ (by omega)
    simp [List.getD_eq_getElem?_getD, this, h]

theorem Crew.modLanes_same (c : Crew) (m : BitVec 32) (f : Nat → Lane → Lane) :
    (c.modLanes m f).alike c ∧ (c.modLanes m f).slices = c.slices := by
  cases c
  simp [Crew.alike, Crew.modLanes]

theorem Crew.lane_of_lanes {a b : Crew} (h : a.lanes = b.lanes) (l : Nat) : a.lane l = b.lane l := by
  unfold Crew.lane; rw [h]

theorem Crew.slice_of_slices {a b : Crew} (h : a.slices = b.slices) (j : Nat) : a.slice j = b.slice j := by
  unfold Crew.slice; rw [h]

/-! ### Completing an instruction -/

theorem gangShape_iff {js : List Nat} : gangShape js = true ↔ js ≠ [] ∧ js.Nodup ∧ ∀ j ∈ js, j < 8 := by
  unfold gangShape
  cases js <;> simp

/-- The checks that `clears` names, one by one. -/
theorem State.clears_iff {s : State} {h : Head} {k : Nat} {js : List Nat} {c : Crew} :
    s.clears h k js c = true ↔
      s.cur = some (k, js) ∧ tget s.crews k = some c ∧ gangShape js = true ∧
        (s.issueOf h k js c).misnamed h = false ∧ (s.issueOf h k js c).waits h = false ∧
        (s.issueOf h k js c).forbidden h = false ∧ (s.issueOf h k js c).early h = false ∧
        (s.issueOf h k js c).badRegs h = 0 ∧ (s.issueOf h k js c).nonuniform h = 0 ∧
        (s.issueOf h k js c).split h = 0 ∧ (s.issueOf h k js c).act ≠ 0 := by
  unfold State.clears
  simp only [Bool.and_eq_true, decide_eq_true_eq, Bool.not_eq_true', beq_iff_eq, bne_iff_ne, ne_eq, and_assoc]

/-- An instruction that clears the checks has its effect. -/
theorem issue_clears {s : State} {h : Head} {k : Nat} {js : List Nat} {c : Crew} (hc : s.clears h k js c = true)
    (body : Issue → Res) : issue s h body = body (s.issueOf h k js c) := by
  obtain ⟨h1, h2, -, h3, h4, h5, h6, h7, h8, h9, h10⟩ := State.clears_iff.mp hc
  unfold issue
  simp only [h1, h2, h3, h4, h5, h6, h7, h8, h9, h10, bne_self_eq_false, Bool.false_eq_true, if_false]

@[simp] theorem State.issueOf_s (s : State) (h : Head) (k : Nat) (js : List Nat) (c : Crew) : (s.issueOf h k js c).s = s := rfl
@[simp] theorem State.issueOf_k (s : State) (h : Head) (k : Nat) (js : List Nat) (c : Crew) : (s.issueOf h k js c).k = k := rfl
@[simp] theorem State.issueOf_c (s : State) (h : Head) (k : Nat) (js : List Nat) (c : Crew) : (s.issueOf h k js c).c = c := rfl
@[simp] theorem State.issueOf_js (s : State) (h : Head) (k : Nat) (js : List Nat) (c : Crew) : (s.issueOf h k js c).js = js :=
  rfl
@[simp] theorem State.issueOf_st (s : State) (h : Head) (k : Nat) (js : List Nat) (c : Crew) :
    (s.issueOf h k js c).st = h.st.toNat := rfl
@[simp] theorem State.issueOf_fp (s : State) (h : Head) (k : Nat) (js : List Nat) (c : Crew) : (s.issueOf h k js c).fp = h.fp :=
  rfl

/-- A crew of one gang that has completed an instruction: the gang's slices move, and the lanes and all else are as the
instruction left them. -/
theorem Issue.advanced_spec (x : Issue) (c : Crew) (hj : gangShape x.js = true) (hs : ∀ j, c.slice j = x.c.slice j) :
    Moved x (x.advanced c) ∧ (x.advanced c).alike c ∧ (x.advanced c).lanes = c.lanes := by
  obtain ⟨-, hn, h8⟩ := gangShape_iff.mp hj
  have hsl := Crew.slice_fold x.js c (fun j => x.advance j) hn h8
  obtain ⟨ha, hl⟩ := Crew.fold_same x.js c (fun j => x.advance j)
  have hin : ∀ j ∈ x.js, (x.advanced c).slice j = x.advance j (x.c.slice j) := by
    intro j hj
    have := hsl j
    rw [if_pos hj, hs] at this
    exact this
  refine ⟨⟨?_, ?_, ?_, ?_, ?_, ?_⟩, ha, hl⟩
  · intro j hj; rw [hin j hj]; rfl
  · intro j hj; rw [hin j hj]; rfl
  · intro j hj; rw [hin j hj]; exact ⟨rfl, rfl⟩
  · intro j hj; rw [hin j hj]; exact ⟨rfl, rfl⟩
  · intro j hj; rw [hin j hj]; exact ⟨rfl, rfl, rfl⟩
  · intro j hj
    have := hsl j
    rw [if_neg hj, hs] at this
    exact this

/-- What `Lane.write` leaves: registers and predicates that are not among those written. -/
theorem Lane.write_frame (ln : Lane) (D : Nat) (w : Wr) :
    (∀ r, (∀ e ∈ w.regs, D + e.1 ≠ r) → tget (ln.write D w).regs r = tget ln.regs r ∧ (r ∈ (ln.write D w).bad ↔ r ∈ ln.bad)) ∧
      ∀ p, (∀ e ∈ w.preds, e.1 ≠ p) → (ln.write D w).pred p = ln.pred p := by
  refine ⟨fun r hr => ?_, fun p hp => ?_⟩
  · unfold Lane.write
    simpa using Lane.foldSet_frame w.regs ln D r hr
  · unfold Lane.write
    rw [Lane.foldSetPred_frame _ _ _ hp]
    simp

/-- A crew that an instruction's results are written in: its frame. -/
theorem Issue.write_spec (x : Issue) (f : Nat → Wr) (dst dstP : Nat → List Nat) (hj : gangShape x.js = true)
    (hr : ∀ l, x.act.getLsbD l = true → ∀ e ∈ (f l).regs, e.1 ∈ dst l)
    (hp : ∀ l, x.act.getLsbD l = true → ∀ e ∈ (f l).preds, e.1 ∈ dstP l) :
    Computed x dst dstP (x.s.setCrew x.k (x.advanced (x.write f))) (x.advanced (x.write f)) := by
  obtain ⟨hm, ha, hl⟩ := x.advanced_spec (x.write f) hj fun j => Crew.slice_of_slices (Crew.modLanes_same _ _ _).2 j
  have lane : ∀ l, (x.advanced (x.write f)).lane l = if x.act.getLsbD l then (x.c.lane l).write x.c.depth (f l) else x.c.lane l := by
    intro l
    rw [Crew.lane_of_lanes hl, Issue.write, Crew.lane_modLanes]
  refine ⟨rfl, hm, Crew.alike_trans ha (Crew.modLanes_same _ _ _).1, ⟨?_, ?_, ?_, ?_⟩⟩
  · intro l h; rw [lane, h]; rfl
  · intro l r h
    rw [lane]
    split
    · refine ((Lane.write_frame _ _ _).1 r fun e he hE => h ?_).1
      exact List.mem_map.mpr ⟨e.1, hr l ‹_› e he, hE⟩
    · rfl
  · intro l r h
    rw [lane]
    split
    · refine ((Lane.write_frame _ _ _).1 r fun e he hE => h ?_).2
      exact List.mem_map.mpr ⟨e.1, hr l ‹_› e he, hE⟩
    · rfl
  · intro l p h
    rw [lane]
    split
    · exact (Lane.write_frame _ _ _).2 p fun e he hE => h (hE ▸ hp l ‹_› e he)
    · rfl

/-- A lane-wise instruction that clears the checks completes: its results are in the lanes that act. -/
theorem scalar_clears {s : State} {h : Head} {k : Nat} {js : List Nat} {c : Crew} (f : Issue → Nat → Wr)
    (hc : s.clears h.scalar k js c = true) :
    let x := s.issueOf h.scalar k js c
    scalar s h f = .next (s.setCrew k (x.advanced (x.write fun l => f x (x.source h.u l)))) := by
  unfold scalar
  rw [issue_clears hc]
  rfl

end Sys2Proof.Machine
end

