-- ==== Sys2Proof/Laws/PerInstr.lean ====
section
/-! SUPPORT. The family ReadsBack: the word of every instruction reads back as that instruction, whatever its fields hold
(R45, R46, R59). A step of the hardware has no word. -/

namespace Sys2Proof

theorem and_append_append {n m : Nat} (a b : BitVec n) (c d : BitVec m) : (a ++ c) &&& (b ++ d) = (a &&& b) ++ (c &&& d) := by
  ext i hi
  simp only [BitVec.getElem_and, BitVec.getElem_append]
  split <;> rfl

/-! ### The forms: what reading the word of a form gives, and where its opcode stands -/

theorem FS.opcode_word (op : BitVec 9) (f : FS) : (f.word op).extractLsb' 23 9 = op := by
  apply BitVec.eq_of_getLsbD_eq
  intro i hi
  simp (disch := omega) only [FS.word, BitVec.getLsbD_extractLsb', BitVec.getLsbD_append, if_neg, hi, decide_true, Bool.true_and]
  congr 1
  omega

theorem FS.read_word (mk : FS → Instr) (op : BitVec 9) (f : FS) : FS.read mk (f.word op) = some (mk f) := by
  have h : f.word op &&& 0x47ffff#32 = 0#32 := by
    show (op ++ 0#1 ++ f.s ++ 0#19) &&& (0#9 ++ 1#1 ++ 0#3 ++ 524287#19) = 0#_
    simp only [and_append_append]
    simp
  have e : FS.ofWord (f.word op) = f := by
    cases f
    simp only [FS.ofWord, FS.word]
    congr 1
    all_goals
      apply BitVec.eq_of_getLsbD_eq
      intro i hi
      simp (disch := omega) only [BitVec.getLsbD_extractLsb', BitVec.getLsbD_append, if_neg, if_pos, hi, decide_true, Bool.true_and]
      congr 1
      omega
  rw [FS.read, if_pos h, e]

theorem FSI.opcode_word (op : BitVec 9) (f : FSI) : (f.word op).extractLsb' 23 9 = op := by
  apply BitVec.eq_of_getLsbD_eq
  intro i hi
  simp (disch := omega) only [FSI.word, BitVec.getLsbD_extractLsb', BitVec.getLsbD_append, if_neg, hi, decide_true, Bool.true_and]
  congr 1
  omega

theorem FSI.read_word (mk : FSI → Instr) (op : BitVec 9) (f : FSI) : FSI.read mk (f.word op) = some (mk f) := by
  have h : f.word op &&& 0x47e000#32 = 0#32 := by
    show (op ++ 0#1 ++ f.s ++ 0#6 ++ f.i) &&& (0#9 ++ 1#1 ++ 0#3 ++ 63#6 ++ 0#13) = 0#_
    simp only [and_append_append]
    simp
  have e : FSI.ofWord (f.word op) = f := by
    cases f
    simp only [FSI.ofWord, FSI.word]
    congr 1
    all_goals
      apply BitVec.eq_of_getLsbD_eq
      intro i hi
      simp (disch := omega) only [BitVec.getLsbD_extractLsb', BitVec.getLsbD_append, if_neg, if_pos, hi, decide_true, Bool.true_and]
      congr 1
      omega
  rw [FSI.read, if_pos h, e]

theorem FSA.opcode_word (op : BitVec 9) (f : FSA) : (f.word op).extractLsb' 23 9 = op := by
  apply BitVec.eq_of_getLsbD_eq
  intro i hi
  simp (disch := omega) only [FSA.word, BitVec.getLsbD_extractLsb', BitVec.getLsbD_append, if_neg, hi, decide_true, Bool.true_and]
  congr 1
  omega

theorem FSA.read_word (mk : FSA → Instr) (op : BitVec 9) (f : FSA) : FSA.read mk (f.word op) = some (mk f) := by
  have h : f.word op &&& 0x47e07f#32 = 0#32 := by
    show (op ++ 0#1 ++ f.s ++ 0#6 ++ f.a ++ 0#7) &&& (0#9 ++ 1#1 ++ 0#3 ++ 63#6 ++ 0#6 ++ 127#7) = 0#_
    simp only [and_append_append]
    simp
  have e : FSA.ofWord (f.word op) = f := by
    cases f
    simp only [FSA.ofWord, FSA.word]
    congr 1
    all_goals
      apply BitVec.eq_of_getLsbD_eq
      intro i hi
      simp (disch := omega) only [BitVec.getLsbD_extractLsb', BitVec.getLsbD_append, if_neg, if_pos, hi, decide_true, Bool.true_and]
      congr 1
      omega
  rw [FSA.read, if_pos h, e]

theorem FSO.opcode_word (op : BitVec 9) (f : FSO) : (f.word op).extractLsb' 23 9 = op := by
  apply BitVec.eq_of_getLsbD_eq
  intro i hi
  simp (disch := omega) only [FSO.word, BitVec.getLsbD_extractLsb', BitVec.getLsbD_append, if_neg, hi, decide_true, Bool.true_and]
  congr 1
  omega

theorem FSO.read_word (mk : FSO → Instr) (op : BitVec 9) (f : FSO) : FSO.read mk (f.word op) = some (mk f) := by
  have h : f.word op &&& 0x400000#32 = 0#32 := by
    show (op ++ 0#1 ++ f.s ++ f.o) &&& (0#9 ++ 1#1 ++ 0#3 ++ 0#19) = 0#_
    simp only [and_append_append]
    simp
  have e : FSO.ofWord (f.word op) = f := by
    cases f
    simp only [FSO.ofWord, FSO.word]
    congr 1
    all_goals
      apply BitVec.eq_of_getLsbD_eq
      intro i hi
      simp (disch := omega) only [BitVec.getLsbD_extractLsb', BitVec.getLsbD_append, if_neg, if_pos, hi, decide_true, Bool.true_and]
      congr 1
      omega
  rw [FSO.read, if_pos h, e]

theorem FSDI.opcode_word (op : BitVec 9) (f : FSDI) : (f.word op).extractLsb' 23 9 = op := by
  apply BitVec.eq_of_getLsbD_eq
  intro i hi
  simp (disch := omega) only [FSDI.word, BitVec.getLsbD_extractLsb', BitVec.getLsbD_append, if_neg, hi, decide_true, Bool.true_and]
  congr 1
  omega

theorem FSDI.read_word (mk : FSDI → Instr) (op : BitVec 9) (f : FSDI) : FSDI.read mk (f.word op) = some (mk f) := by
  have h : f.word op &&& 0x400000#32 = 0#32 := by
    show (op ++ 0#1 ++ f.s ++ f.d ++ f.i) &&& (0#9 ++ 1#1 ++ 0#3 ++ 0#6 ++ 0#13) = 0#_
    simp only [and_append_append]
    simp
  have e : FSDI.ofWord (f.word op) = f := by
    cases f
    simp only [FSDI.ofWord, FSDI.word]
    congr 1
    all_goals
      apply BitVec.eq_of_getLsbD_eq
      intro i hi
      simp (disch := omega) only [BitVec.getLsbD_extractLsb', BitVec.getLsbD_append, if_neg, if_pos, hi, decide_true, Bool.true_and]
      congr 1
      omega
  rw [FSDI.read, if_pos h, e]

theorem FSDA.opcode_word (op : BitVec 9) (f : FSDA) : (f.word op).extractLsb' 23 9 = op := by
  apply BitVec.eq_of_getLsbD_eq
  intro i hi
  simp (disch := omega) only [FSDA.word, BitVec.getLsbD_extractLsb', BitVec.getLsbD_append, if_neg, hi, decide_true, Bool.true_and]
  congr 1
  omega

theorem FSDA.read_word (mk : FSDA → Instr) (op : BitVec 9) (f : FSDA) : FSDA.read mk (f.word op) = some (mk f) := by
  have h : f.word op &&& 0x40007f#32 = 0#32 := by
    show (op ++ 0#1 ++ f.s ++ f.d ++ f.a ++ 0#7) &&& (0#9 ++ 1#1 ++ 0#3 ++ 0#6 ++ 0#6 ++ 127#7) = 0#_
    simp only [and_append_append]
    simp
  have e : FSDA.ofWord (f.word op) = f := by
    cases f
    simp only [FSDA.ofWord, FSDA.word]
    congr 1
    all_goals
      apply BitVec.eq_of_getLsbD_eq
      intro i hi
      simp (disch := omega) only [BitVec.getLsbD_extractLsb', BitVec.getLsbD_append, if_neg, if_pos, hi, decide_true, Bool.true_and]
      congr 1
      omega
  rw [FSDA.read, if_pos h, e]

theorem FUSDI.opcode_word (op : BitVec 9) (f : FUSDI) : (f.word op).extractLsb' 23 9 = op := by
  apply BitVec.eq_of_getLsbD_eq
  intro i hi
  simp (disch := omega) only [FUSDI.word, BitVec.getLsbD_extractLsb', BitVec.getLsbD_append, if_neg, hi, decide_true, Bool.true_and]
  congr 1
  omega

theorem FUSDI.read_word (mk : FUSDI → Instr) (op : BitVec 9) (f : FUSDI) : FUSDI.read mk (f.word op) = some (mk f) := by
  have h : f.word op &&& 0x0#32 = 0#32 := by
    show (op ++ BitVec.ofBool f.u ++ f.s ++ f.d ++ f.i) &&& (0#9 ++ 0#1 ++ 0#3 ++ 0#6 ++ 0#13) = 0#_
    simp only [and_append_append]
    simp
  have e : FUSDI.ofWord (f.word op) = f := by
    cases f
    simp only [FUSDI.ofWord, FUSDI.word]
    congr 1
    all_goals
      first
        | apply BitVec.eq_of_getLsbD_eq
          intro i hi
          simp (disch := omega) only [BitVec.getLsbD_extractLsb', BitVec.getLsbD_append, if_neg, if_pos, hi, decide_true, Bool.true_and]
          congr 1
          omega
        | simp (disch := omega) only [BitVec.getLsbD_append, if_neg, if_pos]
          simp
  rw [FUSDI.read, if_pos h, e]

theorem FSM.opcode_word (op : BitVec 9) (f : FSM) : (f.word op).extractLsb' 23 9 = op := by
  apply BitVec.eq_of_getLsbD_eq
  intro i hi
  simp (disch := omega) only [FSM.word, BitVec.getLsbD_extractLsb', BitVec.getLsbD_append, if_neg, hi, decide_true, Bool.true_and]
  congr 1
  omega

theorem FSM.read_word (mk : FSM → Instr) (op : BitVec 9) (f : FSM) : FSM.read mk (f.word op) = some (mk f) := by
  have h : f.word op &&& 0x47ff00#32 = 0#32 := by
    show (op ++ 0#1 ++ f.s ++ 0#11 ++ f.m) &&& (0#9 ++ 1#1 ++ 0#3 ++ 2047#11 ++ 0#8) = 0#_
    simp only [and_append_append]
    simp
  have e : FSM.ofWord (f.word op) = f := by
    cases f
    simp only [FSM.ofWord, FSM.word]
    congr 1
    all_goals
      apply BitVec.eq_of_getLsbD_eq
      intro i hi
      simp (disch := omega) only [BitVec.getLsbD_extractLsb', BitVec.getLsbD_append, if_neg, if_pos, hi, decide_true, Bool.true_and]
      congr 1
      omega
  rw [FSM.read, if_pos h, e]

theorem FUSDAB.opcode_word (op : BitVec 9) (f : FUSDAB) : (f.word op).extractLsb' 23 9 = op := by
  apply BitVec.eq_of_getLsbD_eq
  intro i hi
  simp (disch := omega) only [FUSDAB.word, BitVec.getLsbD_extractLsb', BitVec.getLsbD_append, if_neg, hi, decide_true, Bool.true_and]
  congr 1
  omega

theorem FUSDAB.read_word (mk : FUSDAB → Instr) (op : BitVec 9) (f : FUSDAB) : FUSDAB.read mk (f.word op) = some (mk f) := by
  have h : f.word op &&& 0x1#32 = 0#32 := by
    show (op ++ BitVec.ofBool f.u ++ f.s ++ f.d ++ f.a ++ f.b ++ 0#1) &&& (0#9 ++ 0#1 ++ 0#3 ++ 0#6 ++ 0#6 ++ 0#6 ++ 1#1) = 0#_
    simp only [and_append_append]
    simp
  have e : FUSDAB.ofWord (f.word op) = f := by
    cases f
    simp only [FUSDAB.ofWord, FUSDAB.word]
    congr 1
    all_goals
      first
        | apply BitVec.eq_of_getLsbD_eq
          intro i hi
          simp (disch := omega) only [BitVec.getLsbD_extractLsb', BitVec.getLsbD_append, if_neg, if_pos, hi, decide_true, Bool.true_and]
          congr 1
          omega
        | simp (disch := omega) only [BitVec.getLsbD_append, if_neg, if_pos]
          simp
  rw [FUSDAB.read, if_pos h, e]

theorem FUSDAI.opcode_word (op : BitVec 9) (f : FUSDAI) : (f.word op).extractLsb' 23 9 = op := by
  apply BitVec.eq_of_getLsbD_eq
  intro i hi
  simp (disch := omega) only [FUSDAI.word, BitVec.getLsbD_extractLsb', BitVec.getLsbD_append, if_neg, hi, decide_true, Bool.true_and]
  congr 1
  omega

theorem FUSDAI.read_word (mk : FUSDAI → Instr) (op : BitVec 9) (f : FUSDAI) : FUSDAI.read mk (f.word op) = some (mk f) := by
  have h : f.word op &&& 0x0#32 = 0#32 := by
    show (op ++ BitVec.ofBool f.u ++ f.s ++ f.d ++ f.a ++ f.i) &&& (0#9 ++ 0#1 ++ 0#3 ++ 0#6 ++ 0#6 ++ 0#7) = 0#_
    simp only [and_append_append]
    simp
  have e : FUSDAI.ofWord (f.word op) = f := by
    cases f
    simp only [FUSDAI.ofWord, FUSDAI.word]
    congr 1
    all_goals
      first
        | apply BitVec.eq_of_getLsbD_eq
          intro i hi
          simp (disch := omega) only [BitVec.getLsbD_extractLsb', BitVec.getLsbD_append, if_neg, if_pos, hi, decide_true, Bool.true_and]
          congr 1
          omega
        | simp (disch := omega) only [BitVec.getLsbD_append, if_neg, if_pos]
          simp
  rw [FUSDAI.read, if_pos h, e]

theorem FUSDA.opcode_word (op : BitVec 9) (f : FUSDA) : (f.word op).extractLsb' 23 9 = op := by
  apply BitVec.eq_of_getLsbD_eq
  intro i hi
  simp (disch := omega) only [FUSDA.word, BitVec.getLsbD_extractLsb', BitVec.getLsbD_append, if_neg, hi, decide_true, Bool.true_and]
  congr 1
  omega

theorem FUSDA.read_word (mk : FUSDA → Instr) (op : BitVec 9) (f : FUSDA) : FUSDA.read mk (f.word op) = some (mk f) := by
  have h : f.word op &&& 0x7f#32 = 0#32 := by
    show (op ++ BitVec.ofBool f.u ++ f.s ++ f.d ++ f.a ++ 0#7) &&& (0#9 ++ 0#1 ++ 0#3 ++ 0#6 ++ 0#6 ++ 127#7) = 0#_
    simp only [and_append_append]
    simp
  have e : FUSDA.ofWord (f.word op) = f := by
    cases f
    simp only [FUSDA.ofWord, FUSDA.word]
    congr 1
    all_goals
      first
        | apply BitVec.eq_of_getLsbD_eq
          intro i hi
          simp (disch := omega) only [BitVec.getLsbD_extractLsb', BitVec.getLsbD_append, if_neg, if_pos, hi, decide_true, Bool.true_and]
          congr 1
          omega
        | simp (disch := omega) only [BitVec.getLsbD_append, if_neg, if_pos]
          simp
  rw [FUSDA.read, if_pos h, e]

theorem FSDAB.opcode_word (op : BitVec 9) (f : FSDAB) : (f.word op).extractLsb' 23 9 = op := by
  apply BitVec.eq_of_getLsbD_eq
  intro i hi
  simp (disch := omega) only [FSDAB.word, BitVec.getLsbD_extractLsb', BitVec.getLsbD_append, if_neg, hi, decide_true, Bool.true_and]
  congr 1
  omega

theorem FSDAB.read_word (mk : FSDAB → Instr) (op : BitVec 9) (f : FSDAB) : FSDAB.read mk (f.word op) = some (mk f) := by
  have h : f.word op &&& 0x400001#32 = 0#32 := by
    show (op ++ 0#1 ++ f.s ++ f.d ++ f.a ++ f.b ++ 0#1) &&& (0#9 ++ 1#1 ++ 0#3 ++ 0#6 ++ 0#6 ++ 0#6 ++ 1#1) = 0#_
    simp only [and_append_append]
    simp
  have e : FSDAB.ofWord (f.word op) = f := by
    cases f
    simp only [FSDAB.ofWord, FSDAB.word]
    congr 1
    all_goals
      apply BitVec.eq_of_getLsbD_eq
      intro i hi
      simp (disch := omega) only [BitVec.getLsbD_extractLsb', BitVec.getLsbD_append, if_neg, if_pos, hi, decide_true, Bool.true_and]
      congr 1
      omega
  rw [FSDAB.read, if_pos h, e]

theorem FSD.opcode_word (op : BitVec 9) (f : FSD) : (f.word op).extractLsb' 23 9 = op := by
  apply BitVec.eq_of_getLsbD_eq
  intro i hi
  simp (disch := omega) only [FSD.word, BitVec.getLsbD_extractLsb', BitVec.getLsbD_append, if_neg, hi, decide_true, Bool.true_and]
  congr 1
  omega

theorem FSD.read_word (mk : FSD → Instr) (op : BitVec 9) (f : FSD) : FSD.read mk (f.word op) = some (mk f) := by
  have h : f.word op &&& 0x401fff#32 = 0#32 := by
    show (op ++ 0#1 ++ f.s ++ f.d ++ 0#13) &&& (0#9 ++ 1#1 ++ 0#3 ++ 0#6 ++ 8191#13) = 0#_
    simp only [and_append_append]
    simp
  have e : FSD.ofWord (f.word op) = f := by
    cases f
    simp only [FSD.ofWord, FSD.word]
    congr 1
    all_goals
      apply BitVec.eq_of_getLsbD_eq
      intro i hi
      simp (disch := omega) only [BitVec.getLsbD_extractLsb', BitVec.getLsbD_append, if_neg, if_pos, hi, decide_true, Bool.true_and]
      congr 1
      omega
  rw [FSD.read, if_pos h, e]

theorem FSDAI.opcode_word (op : BitVec 9) (f : FSDAI) : (f.word op).extractLsb' 23 9 = op := by
  apply BitVec.eq_of_getLsbD_eq
  intro i hi
  simp (disch := omega) only [FSDAI.word, BitVec.getLsbD_extractLsb', BitVec.getLsbD_append, if_neg, hi, decide_true, Bool.true_and]
  congr 1
  omega

theorem FSDAI.read_word (mk : FSDAI → Instr) (op : BitVec 9) (f : FSDAI) : FSDAI.read mk (f.word op) = some (mk f) := by
  have h : f.word op &&& 0x400000#32 = 0#32 := by
    show (op ++ 0#1 ++ f.s ++ f.d ++ f.a ++ f.i) &&& (0#9 ++ 1#1 ++ 0#3 ++ 0#6 ++ 0#6 ++ 0#7) = 0#_
    simp only [and_append_append]
    simp
  have e : FSDAI.ofWord (f.word op) = f := by
    cases f
    simp only [FSDAI.ofWord, FSDAI.word]
    congr 1
    all_goals
      apply BitVec.eq_of_getLsbD_eq
      intro i hi
      simp (disch := omega) only [BitVec.getLsbD_extractLsb', BitVec.getLsbD_append, if_neg, if_pos, hi, decide_true, Bool.true_and]
      congr 1
      omega
  rw [FSDAI.read, if_pos h, e]

theorem FSDAC.opcode_word (op : BitVec 9) (f : FSDAC) : (f.word op).extractLsb' 23 9 = op := by
  apply BitVec.eq_of_getLsbD_eq
  intro i hi
  simp (disch := omega) only [FSDAC.word, BitVec.getLsbD_extractLsb', BitVec.getLsbD_append, if_neg, hi, decide_true, Bool.true_and]
  congr 1
  omega

theorem FSDAC.read_word (mk : FSDAC → Instr) (op : BitVec 9) (f : FSDAC) : FSDAC.read mk (f.word op) = some (mk f) := by
  have h : f.word op &&& 0x40000f#32 = 0#32 := by
    show (op ++ 0#1 ++ f.s ++ f.d ++ f.a ++ f.c ++ 0#4) &&& (0#9 ++ 1#1 ++ 0#3 ++ 0#6 ++ 0#6 ++ 0#3 ++ 15#4) = 0#_
    simp only [and_append_append]
    simp
  have e : FSDAC.ofWord (f.word op) = f := by
    cases f
    simp only [FSDAC.ofWord, FSDAC.word]
    congr 1
    all_goals
      apply BitVec.eq_of_getLsbD_eq
      intro i hi
      simp (disch := omega) only [BitVec.getLsbD_extractLsb', BitVec.getLsbD_append, if_neg, if_pos, hi, decide_true, Bool.true_and]
      congr 1
      omega
  rw [FSDAC.read, if_pos h, e]

theorem FSCOE.opcode_word (op : BitVec 9) (f : FSCOE) : (f.word op).extractLsb' 23 9 = op := by
  apply BitVec.eq_of_getLsbD_eq
  intro i hi
  simp (disch := omega) only [FSCOE.word, BitVec.getLsbD_extractLsb', BitVec.getLsbD_append, if_neg, hi, decide_true, Bool.true_and]
  congr 1
  omega

theorem FSCOE.read_word (mk : FSCOE → Instr) (op : BitVec 9) (f : FSCOE) : FSCOE.read mk (f.word op) = some (mk f) := by
  have h : f.word op &&& 0x47ff81#32 = 0#32 := by
    show (op ++ 0#1 ++ f.s ++ 0#12 ++ f.c ++ f.o ++ BitVec.ofBool f.e ++ 0#1) &&& (0#9 ++ 1#1 ++ 0#3 ++ 4095#12 ++ 0#3 ++ 0#2 ++ 0#1 ++ 1#1) = 0#_
    simp only [and_append_append]
    simp
  have e : FSCOE.ofWord (f.word op) = f := by
    cases f
    simp only [FSCOE.ofWord, FSCOE.word]
    congr 1
    all_goals
      first
        | apply BitVec.eq_of_getLsbD_eq
          intro i hi
          simp (disch := omega) only [BitVec.getLsbD_extractLsb', BitVec.getLsbD_append, if_neg, if_pos, hi, decide_true, Bool.true_and]
          congr 1
          omega
        | simp (disch := omega) only [BitVec.getLsbD_append, if_neg, if_pos]
          simp
  rw [FSCOE.read, if_pos h, e]

theorem FSAB.opcode_word (op : BitVec 9) (f : FSAB) : (f.word op).extractLsb' 23 9 = op := by
  apply BitVec.eq_of_getLsbD_eq
  intro i hi
  simp (disch := omega) only [FSAB.word, BitVec.getLsbD_extractLsb', BitVec.getLsbD_append, if_neg, hi, decide_true, Bool.true_and]
  congr 1
  omega

theorem FSAB.read_word (mk : FSAB → Instr) (op : BitVec 9) (f : FSAB) : FSAB.read mk (f.word op) = some (mk f) := by
  have h : f.word op &&& 0x47e001#32 = 0#32 := by
    show (op ++ 0#1 ++ f.s ++ 0#6 ++ f.a ++ f.b ++ 0#1) &&& (0#9 ++ 1#1 ++ 0#3 ++ 63#6 ++ 0#6 ++ 0#6 ++ 1#1) = 0#_
    simp only [and_append_append]
    simp
  have e : FSAB.ofWord (f.word op) = f := by
    cases f
    simp only [FSAB.ofWord, FSAB.word]
    congr 1
    all_goals
      apply BitVec.eq_of_getLsbD_eq
      intro i hi
      simp (disch := omega) only [BitVec.getLsbD_extractLsb', BitVec.getLsbD_append, if_neg, if_pos, hi, decide_true, Bool.true_and]
      congr 1
      omega
  rw [FSAB.read, if_pos h, e]

/-! ### The family -/


/-- The word of an instruction reads back, under its opcode, as that instruction. -/
def Laws.ReadsBack.Statement (i : Instr) : Prop := ∀ w, encode i = some w → readOpcode (w.extractLsb' 23 9).toNat w = some i

theorem Laws.ReadsBack.ofFS (mk : FS → Instr) (op : BitVec 9) (f : FS) (he : encode (mk f) = some (f.word op))
    (hr : readOpcode op.toNat (f.word op) = FS.read mk (f.word op)) : Statement (mk f) := by
  intro w h
  obtain rfl : f.word op = w := Option.some.inj (he.symm.trans h)
  rw [FS.opcode_word, hr, FS.read_word]

theorem Laws.ReadsBack.ofFSI (mk : FSI → Instr) (op : BitVec 9) (f : FSI) (he : encode (mk f) = some (f.word op))
    (hr : readOpcode op.toNat (f.word op) = FSI.read mk (f.word op)) : Statement (mk f) := by
  intro w h
  obtain rfl : f.word op = w := Option.some.inj (he.symm.trans h)
  rw [FSI.opcode_word, hr, FSI.read_word]

theorem Laws.ReadsBack.ofFSA (mk : FSA → Instr) (op : BitVec 9) (f : FSA) (he : encode (mk f) = some (f.word op))
    (hr : readOpcode op.toNat (f.word op) = FSA.read mk (f.word op)) : Statement (mk f) := by
  intro w h
  obtain rfl : f.word op = w := Option.some.inj (he.symm.trans h)
  rw [FSA.opcode_word, hr, FSA.read_word]

theorem Laws.ReadsBack.ofFSO (mk : FSO → Instr) (op : BitVec 9) (f : FSO) (he : encode (mk f) = some (f.word op))
    (hr : readOpcode op.toNat (f.word op) = FSO.read mk (f.word op)) : Statement (mk f) := by
  intro w h
  obtain rfl : f.word op = w := Option.some.inj (he.symm.trans h)
  rw [FSO.opcode_word, hr, FSO.read_word]

theorem Laws.ReadsBack.ofFSDI (mk : FSDI → Instr) (op : BitVec 9) (f : FSDI) (he : encode (mk f) = some (f.word op))
    (hr : readOpcode op.toNat (f.word op) = FSDI.read mk (f.word op)) : Statement (mk f) := by
  intro w h
  obtain rfl : f.word op = w := Option.some.inj (he.symm.trans h)
  rw [FSDI.opcode_word, hr, FSDI.read_word]

theorem Laws.ReadsBack.ofFSDA (mk : FSDA → Instr) (op : BitVec 9) (f : FSDA) (he : encode (mk f) = some (f.word op))
    (hr : readOpcode op.toNat (f.word op) = FSDA.read mk (f.word op)) : Statement (mk f) := by
  intro w h
  obtain rfl : f.word op = w := Option.some.inj (he.symm.trans h)
  rw [FSDA.opcode_word, hr, FSDA.read_word]

theorem Laws.ReadsBack.ofFUSDI (mk : FUSDI → Instr) (op : BitVec 9) (f : FUSDI) (he : encode (mk f) = some (f.word op))
    (hr : readOpcode op.toNat (f.word op) = FUSDI.read mk (f.word op)) : Statement (mk f) := by
  intro w h
  obtain rfl : f.word op = w := Option.some.inj (he.symm.trans h)
  rw [FUSDI.opcode_word, hr, FUSDI.read_word]

theorem Laws.ReadsBack.ofFSM (mk : FSM → Instr) (op : BitVec 9) (f : FSM) (he : encode (mk f) = some (f.word op))
    (hr : readOpcode op.toNat (f.word op) = FSM.read mk (f.word op)) : Statement (mk f) := by
  intro w h
  obtain rfl : f.word op = w := Option.some.inj (he.symm.trans h)
  rw [FSM.opcode_word, hr, FSM.read_word]

theorem Laws.ReadsBack.ofFUSDAB (mk : FUSDAB → Instr) (op : BitVec 9) (f : FUSDAB) (he : encode (mk f) = some (f.word op))
    (hr : readOpcode op.toNat (f.word op) = FUSDAB.read mk (f.word op)) : Statement (mk f) := by
  intro w h
  obtain rfl : f.word op = w := Option.some.inj (he.symm.trans h)
  rw [FUSDAB.opcode_word, hr, FUSDAB.read_word]

theorem Laws.ReadsBack.ofFUSDAI (mk : FUSDAI → Instr) (op : BitVec 9) (f : FUSDAI) (he : encode (mk f) = some (f.word op))
    (hr : readOpcode op.toNat (f.word op) = FUSDAI.read mk (f.word op)) : Statement (mk f) := by
  intro w h
  obtain rfl : f.word op = w := Option.some.inj (he.symm.trans h)
  rw [FUSDAI.opcode_word, hr, FUSDAI.read_word]

theorem Laws.ReadsBack.ofFUSDA (mk : FUSDA → Instr) (op : BitVec 9) (f : FUSDA) (he : encode (mk f) = some (f.word op))
    (hr : readOpcode op.toNat (f.word op) = FUSDA.read mk (f.word op)) : Statement (mk f) := by
  intro w h
  obtain rfl : f.word op = w := Option.some.inj (he.symm.trans h)
  rw [FUSDA.opcode_word, hr, FUSDA.read_word]

theorem Laws.ReadsBack.ofFSDAB (mk : FSDAB → Instr) (op : BitVec 9) (f : FSDAB) (he : encode (mk f) = some (f.word op))
    (hr : readOpcode op.toNat (f.word op) = FSDAB.read mk (f.word op)) : Statement (mk f) := by
  intro w h
  obtain rfl : f.word op = w := Option.some.inj (he.symm.trans h)
  rw [FSDAB.opcode_word, hr, FSDAB.read_word]

theorem Laws.ReadsBack.ofFSD (mk : FSD → Instr) (op : BitVec 9) (f : FSD) (he : encode (mk f) = some (f.word op))
    (hr : readOpcode op.toNat (f.word op) = FSD.read mk (f.word op)) : Statement (mk f) := by
  intro w h
  obtain rfl : f.word op = w := Option.some.inj (he.symm.trans h)
  rw [FSD.opcode_word, hr, FSD.read_word]

theorem Laws.ReadsBack.ofFSDAI (mk : FSDAI → Instr) (op : BitVec 9) (f : FSDAI) (he : encode (mk f) = some (f.word op))
    (hr : readOpcode op.toNat (f.word op) = FSDAI.read mk (f.word op)) : Statement (mk f) := by
  intro w h
  obtain rfl : f.word op = w := Option.some.inj (he.symm.trans h)
  rw [FSDAI.opcode_word, hr, FSDAI.read_word]

theorem Laws.ReadsBack.ofFSDAC (mk : FSDAC → Instr) (op : BitVec 9) (f : FSDAC) (he : encode (mk f) = some (f.word op))
    (hr : readOpcode op.toNat (f.word op) = FSDAC.read mk (f.word op)) : Statement (mk f) := by
  intro w h
  obtain rfl : f.word op = w := Option.some.inj (he.symm.trans h)
  rw [FSDAC.opcode_word, hr, FSDAC.read_word]

theorem Laws.ReadsBack.ofFSCOE (mk : FSCOE → Instr) (op : BitVec 9) (f : FSCOE) (he : encode (mk f) = some (f.word op))
    (hr : readOpcode op.toNat (f.word op) = FSCOE.read mk (f.word op)) : Statement (mk f) := by
  intro w h
  obtain rfl : f.word op = w := Option.some.inj (he.symm.trans h)
  rw [FSCOE.opcode_word, hr, FSCOE.read_word]

theorem Laws.ReadsBack.ofFSAB (mk : FSAB → Instr) (op : BitVec 9) (f : FSAB) (he : encode (mk f) = some (f.word op))
    (hr : readOpcode op.toNat (f.word op) = FSAB.read mk (f.word op)) : Statement (mk f) := by
  intro w h
  obtain rfl : f.word op = w := Option.some.inj (he.symm.trans h)
  rw [FSAB.opcode_word, hr, FSAB.read_word]

theorem Laws.ReadsBack.ofNone (i : Instr) (he : encode i = none) : Statement i := fun _ h => nomatch he.symm.trans h

theorem Laws.ReadsBack.bit1_word (op : BitVec 9) (f : FSD) : (f.word op).getLsbD 1 = false := by
  simp (disch := omega) only [FSD.word, BitVec.getLsbD_append, if_pos]
  simp

theorem Laws.ReadsBack.bit1_mask (op : BitVec 9) (f : FSA) : (f.word op ||| 2#32).getLsbD 1 = true := by simp

theorem Laws.ReadsBack.clear_mask (op : BitVec 9) (f : FSA) : (f.word op ||| 2#32) &&& ~~~2#32 = f.word op := by
  have h : f.word op &&& 2#32 = 0#32 := by
    show (op ++ 0#1 ++ f.s ++ 0#6 ++ f.a ++ 0#7) &&& (0#9 ++ 0#1 ++ 0#3 ++ 0#6 ++ 0#6 ++ 2#7) = 0#_
    simp only [and_append_append]
    simp
  apply BitVec.eq_of_getLsbD_eq
  intro i hi
  have h := congrArg (·.getLsbD i) h
  simp only [BitVec.getLsbD_and, BitVec.getLsbD_or, BitVec.getLsbD_not, BitVec.getLsbD_zero, hi, decide_true, Bool.true_and] at h ⊢
  cases a : (f.word op).getLsbD i <;> cases b : (2#32).getLsbD i <;> simp_all

theorem Laws.ReadsBack.opcode_mask (op : BitVec 9) (f : FSA) : (f.word op ||| 2#32).extractLsb' 23 9 = op := by
  have h : (f.word op ||| 2#32).extractLsb' 23 9 = (f.word op).extractLsb' 23 9 ||| 0#9 := by
    rw [BitVec.extractLsb'_or]
    rfl
  rw [h, FSA.opcode_word, BitVec.or_zero]

theorem Laws.ReadsBack.nop (f : FS) : Statement (.nop f) := ofFS Instr.nop 0x000#9 f rfl rfl
theorem Laws.ReadsBack.mode (f : FSI) : Statement (.mode f) := ofFSI Instr.mode 0x001#9 f rfl rfl
theorem Laws.ReadsBack.modex (f : FSA) : Statement (.modex f) := ofFSA Instr.modex 0x002#9 f rfl rfl
theorem Laws.ReadsBack.bra (f : FSO) : Statement (.bra f) := ofFSO Instr.bra 0x003#9 f rfl rfl
theorem Laws.ReadsBack.brx (f : FSA) : Statement (.brx f) := ofFSA Instr.brx 0x004#9 f rfl rfl
theorem Laws.ReadsBack.call (f : FSDI) : Statement (.call f) := ofFSDI Instr.call 0x005#9 f rfl rfl
theorem Laws.ReadsBack.callx (f : FSDA) : Statement (.callx f) := ofFSDA Instr.callx 0x006#9 f rfl rfl
theorem Laws.ReadsBack.ret (f : FS) : Statement (.ret f) := ofFS Instr.ret 0x007#9 f rfl rfl
theorem Laws.ReadsBack.ldc (f : FUSDI) : Statement (.ldc f) := ofFUSDI Instr.ldc 0x008#9 f rfl rfl
theorem Laws.ReadsBack.trap (f : FSI) : Statement (.trap f) := ofFSI Instr.trap 0x009#9 f rfl rfl
theorem Laws.ReadsBack.exit (f : FS) : Statement (.exit f) := ofFS Instr.exit 0x010#9 f rfl rfl
theorem Laws.ReadsBack.yield (f : FS) : Statement (.yield f) := ofFS Instr.yield 0x011#9 f rfl rfl
theorem Laws.ReadsBack.sleep (f : FSI) : Statement (.sleep f) := ofFSI Instr.sleep 0x012#9 f rfl rfl
theorem Laws.ReadsBack.regang (f : FSM) : Statement (.regang f) := ofFSM Instr.regang 0x013#9 f rfl rfl
theorem Laws.ReadsBack.syncc (f : FS) : Statement (.syncc f) := ofFS Instr.syncc 0x014#9 f rfl rfl
theorem Laws.ReadsBack.rolesw (f : FSA) : Statement (.rolesw f) := ofFSA Instr.rolesw 0x015#9 f rfl rfl
theorem Laws.ReadsBack.launch (f : FSDA) : Statement (.launch f) := ofFSDA Instr.launch 0x016#9 f rfl rfl
theorem Laws.ReadsBack.launchRelease (f : FS) : Statement (.launchRelease f) := ofFS Instr.launchRelease 0x017#9 f rfl rfl
theorem Laws.ReadsBack.sreg (f : FUSDI) : Statement (.sreg f) := ofFUSDI Instr.sreg 0x018#9 f rfl rfl
theorem Laws.ReadsBack.swreg (f : FSDI) : Statement (.swreg f) := ofFSDI Instr.swreg 0x019#9 f rfl rfl
theorem Laws.ReadsBack.add (f : FUSDAB) : Statement (.add f) := ofFUSDAB Instr.add 0x030#9 f rfl rfl
theorem Laws.ReadsBack.addi (f : FUSDAI) : Statement (.addi f) := ofFUSDAI Instr.addi 0x031#9 f rfl rfl
theorem Laws.ReadsBack.sub (f : FUSDAB) : Statement (.sub f) := ofFUSDAB Instr.sub 0x032#9 f rfl rfl
theorem Laws.ReadsBack.addc (f : FUSDAB) : Statement (.addc f) := ofFUSDAB Instr.addc 0x033#9 f rfl rfl
theorem Laws.ReadsBack.subc (f : FUSDAB) : Statement (.subc f) := ofFUSDAB Instr.subc 0x034#9 f rfl rfl
theorem Laws.ReadsBack.mul (f : FUSDAB) : Statement (.mul f) := ofFUSDAB Instr.mul 0x035#9 f rfl rfl
theorem Laws.ReadsBack.mulhi (f : FUSDAB) : Statement (.mulhi f) := ofFUSDAB Instr.mulhi 0x036#9 f rfl rfl
theorem Laws.ReadsBack.mad (f : FUSDAB) : Statement (.mad f) := ofFUSDAB Instr.mad 0x037#9 f rfl rfl
theorem Laws.ReadsBack.min (f : FUSDAB) : Statement (.min f) := ofFUSDAB Instr.min 0x038#9 f rfl rfl
theorem Laws.ReadsBack.max (f : FUSDAB) : Statement (.max f) := ofFUSDAB Instr.max 0x039#9 f rfl rfl
theorem Laws.ReadsBack.abs (f : FUSDA) : Statement (.abs f) := ofFUSDA Instr.abs 0x03a#9 f rfl rfl
theorem Laws.ReadsBack.neg (f : FUSDA) : Statement (.neg f) := ofFUSDA Instr.neg 0x03b#9 f rfl rfl
theorem Laws.ReadsBack.and (f : FUSDAB) : Statement (.and f) := ofFUSDAB Instr.and 0x03c#9 f rfl rfl
theorem Laws.ReadsBack.or (f : FUSDAB) : Statement (.or f) := ofFUSDAB Instr.or 0x03d#9 f rfl rfl
theorem Laws.ReadsBack.xor (f : FUSDAB) : Statement (.xor f) := ofFUSDAB Instr.xor 0x03e#9 f rfl rfl
theorem Laws.ReadsBack.not (f : FUSDA) : Statement (.not f) := ofFUSDA Instr.not 0x03f#9 f rfl rfl
theorem Laws.ReadsBack.andi (f : FUSDAI) : Statement (.andi f) := ofFUSDAI Instr.andi 0x040#9 f rfl rfl
theorem Laws.ReadsBack.ori (f : FUSDAI) : Statement (.ori f) := ofFUSDAI Instr.ori 0x041#9 f rfl rfl
theorem Laws.ReadsBack.shl (f : FUSDAB) : Statement (.shl f) := ofFUSDAB Instr.shl 0x042#9 f rfl rfl
theorem Laws.ReadsBack.shr (f : FUSDAB) : Statement (.shr f) := ofFUSDAB Instr.shr 0x043#9 f rfl rfl
theorem Laws.ReadsBack.sar (f : FUSDAB) : Statement (.sar f) := ofFUSDAB Instr.sar 0x044#9 f rfl rfl
theorem Laws.ReadsBack.shli (f : FUSDAI) : Statement (.shli f) := ofFUSDAI Instr.shli 0x045#9 f rfl rfl
theorem Laws.ReadsBack.shri (f : FUSDAI) : Statement (.shri f) := ofFUSDAI Instr.shri 0x046#9 f rfl rfl
theorem Laws.ReadsBack.sari (f : FUSDAI) : Statement (.sari f) := ofFUSDAI Instr.sari 0x047#9 f rfl rfl
theorem Laws.ReadsBack.rot (f : FUSDAB) : Statement (.rot f) := ofFUSDAB Instr.rot 0x048#9 f rfl rfl
theorem Laws.ReadsBack.bfx (f : FUSDAB) : Statement (.bfx f) := ofFUSDAB Instr.bfx 0x049#9 f rfl rfl
theorem Laws.ReadsBack.bfi (f : FUSDAB) : Statement (.bfi f) := ofFUSDAB Instr.bfi 0x04a#9 f rfl rfl
theorem Laws.ReadsBack.clz (f : FUSDA) : Statement (.clz f) := ofFUSDA Instr.clz 0x04b#9 f rfl rfl
theorem Laws.ReadsBack.popc (f : FUSDA) : Statement (.popc f) := ofFUSDA Instr.popc 0x04c#9 f rfl rfl
theorem Laws.ReadsBack.mov (f : FUSDA) : Statement (.mov f) := ofFUSDA Instr.mov 0x04d#9 f rfl rfl
theorem Laws.ReadsBack.movi (f : FUSDI) : Statement (.movi f) := ofFUSDI Instr.movi 0x04e#9 f rfl rfl
theorem Laws.ReadsBack.lea (f : FUSDAB) : Statement (.lea f) := ofFUSDAB Instr.lea 0x04f#9 f rfl rfl
theorem Laws.ReadsBack.cmpEq (f : FUSDAB) : Statement (.cmpEq f) := ofFUSDAB Instr.cmpEq 0x050#9 f rfl rfl
theorem Laws.ReadsBack.cmpNe (f : FUSDAB) : Statement (.cmpNe f) := ofFUSDAB Instr.cmpNe 0x051#9 f rfl rfl
theorem Laws.ReadsBack.cmpLt (f : FUSDAB) : Statement (.cmpLt f) := ofFUSDAB Instr.cmpLt 0x052#9 f rfl rfl
theorem Laws.ReadsBack.cmpLe (f : FUSDAB) : Statement (.cmpLe f) := ofFUSDAB Instr.cmpLe 0x053#9 f rfl rfl
theorem Laws.ReadsBack.cmpGt (f : FUSDAB) : Statement (.cmpGt f) := ofFUSDAB Instr.cmpGt 0x054#9 f rfl rfl
theorem Laws.ReadsBack.cmpGe (f : FUSDAB) : Statement (.cmpGe f) := ofFUSDAB Instr.cmpGe 0x055#9 f rfl rfl
theorem Laws.ReadsBack.cmpiEq (f : FUSDAI) : Statement (.cmpiEq f) := ofFUSDAI Instr.cmpiEq 0x056#9 f rfl rfl
theorem Laws.ReadsBack.cmpiNe (f : FUSDAI) : Statement (.cmpiNe f) := ofFUSDAI Instr.cmpiNe 0x057#9 f rfl rfl
theorem Laws.ReadsBack.cmpiLt (f : FUSDAI) : Statement (.cmpiLt f) := ofFUSDAI Instr.cmpiLt 0x058#9 f rfl rfl
theorem Laws.ReadsBack.cmpiLe (f : FUSDAI) : Statement (.cmpiLe f) := ofFUSDAI Instr.cmpiLe 0x059#9 f rfl rfl
theorem Laws.ReadsBack.cmpiGt (f : FUSDAI) : Statement (.cmpiGt f) := ofFUSDAI Instr.cmpiGt 0x05a#9 f rfl rfl
theorem Laws.ReadsBack.cmpiGe (f : FUSDAI) : Statement (.cmpiGe f) := ofFUSDAI Instr.cmpiGe 0x05b#9 f rfl rfl
theorem Laws.ReadsBack.selP1 (f : FUSDAB) : Statement (.selP1 f) := ofFUSDAB Instr.selP1 0x05c#9 f rfl rfl
theorem Laws.ReadsBack.selP2 (f : FUSDAB) : Statement (.selP2 f) := ofFUSDAB Instr.selP2 0x05d#9 f rfl rfl
theorem Laws.ReadsBack.selP3 (f : FUSDAB) : Statement (.selP3 f) := ofFUSDAB Instr.selP3 0x05e#9 f rfl rfl
theorem Laws.ReadsBack.selP4 (f : FUSDAB) : Statement (.selP4 f) := ofFUSDAB Instr.selP4 0x05f#9 f rfl rfl
theorem Laws.ReadsBack.selP5 (f : FUSDAB) : Statement (.selP5 f) := ofFUSDAB Instr.selP5 0x060#9 f rfl rfl
theorem Laws.ReadsBack.selP6 (f : FUSDAB) : Statement (.selP6 f) := ofFUSDAB Instr.selP6 0x061#9 f rfl rfl
theorem Laws.ReadsBack.selP7 (f : FUSDAB) : Statement (.selP7 f) := ofFUSDAB Instr.selP7 0x062#9 f rfl rfl
theorem Laws.ReadsBack.pand (f : FSDAB) : Statement (.pand f) := ofFSDAB Instr.pand 0x090#9 f rfl rfl
theorem Laws.ReadsBack.por (f : FSDAB) : Statement (.por f) := ofFSDAB Instr.por 0x091#9 f rfl rfl
theorem Laws.ReadsBack.pxor (f : FSDAB) : Statement (.pxor f) := ofFSDAB Instr.pxor 0x092#9 f rfl rfl
theorem Laws.ReadsBack.pnot (f : FSDA) : Statement (.pnot f) := ofFSDA Instr.pnot 0x093#9 f rfl rfl
theorem Laws.ReadsBack.pset (f : FSDA) : Statement (.pset f) := ofFSDA Instr.pset 0x094#9 f rfl rfl
theorem Laws.ReadsBack.pget (f : FSD) : Statement (.pget f) := ofFSD Instr.pget 0x095#9 f rfl rfl
theorem Laws.ReadsBack.shflIdx (f : FSDAB) : Statement (.shflIdx f) := ofFSDAB Instr.shflIdx 0x098#9 f rfl rfl
theorem Laws.ReadsBack.shflUp (f : FSDAB) : Statement (.shflUp f) := ofFSDAB Instr.shflUp 0x099#9 f rfl rfl
theorem Laws.ReadsBack.shflDown (f : FSDAB) : Statement (.shflDown f) := ofFSDAB Instr.shflDown 0x09a#9 f rfl rfl
theorem Laws.ReadsBack.shflXor (f : FSDAB) : Statement (.shflXor f) := ofFSDAB Instr.shflXor 0x09b#9 f rfl rfl
theorem Laws.ReadsBack.bcast (f : FSDAB) : Statement (.bcast f) := ofFSDAB Instr.bcast 0x09c#9 f rfl rfl
theorem Laws.ReadsBack.voteAny (f : FSDA) : Statement (.voteAny f) := ofFSDA Instr.voteAny 0x0a0#9 f rfl rfl
theorem Laws.ReadsBack.voteAll (f : FSDA) : Statement (.voteAll f) := ofFSDA Instr.voteAll 0x0a1#9 f rfl rfl
theorem Laws.ReadsBack.voteBallot (f : FSDA) : Statement (.voteBallot f) := ofFSDA Instr.voteBallot 0x0a2#9 f rfl rfl
theorem Laws.ReadsBack.voteAdd (f : FSDA) : Statement (.voteAdd f) := ofFSDA Instr.voteAdd 0x0a3#9 f rfl rfl
theorem Laws.ReadsBack.voteFadd (f : FSDA) : Statement (.voteFadd f) := ofFSDA Instr.voteFadd 0x0a4#9 f rfl rfl
theorem Laws.ReadsBack.fadd (f : FUSDAB) : Statement (.fadd f) := ofFUSDAB Instr.fadd 0x0c0#9 f rfl rfl
theorem Laws.ReadsBack.fsub (f : FUSDAB) : Statement (.fsub f) := ofFUSDAB Instr.fsub 0x0c1#9 f rfl rfl
theorem Laws.ReadsBack.fmul (f : FUSDAB) : Statement (.fmul f) := ofFUSDAB Instr.fmul 0x0c2#9 f rfl rfl
theorem Laws.ReadsBack.fma (f : FUSDAB) : Statement (.fma f) := ofFUSDAB Instr.fma 0x0c3#9 f rfl rfl
theorem Laws.ReadsBack.fmin (f : FUSDAB) : Statement (.fmin f) := ofFUSDAB Instr.fmin 0x0c4#9 f rfl rfl
theorem Laws.ReadsBack.fmax (f : FUSDAB) : Statement (.fmax f) := ofFUSDAB Instr.fmax 0x0c5#9 f rfl rfl
theorem Laws.ReadsBack.fabs (f : FUSDA) : Statement (.fabs f) := ofFUSDA Instr.fabs 0x0c6#9 f rfl rfl
theorem Laws.ReadsBack.fneg (f : FUSDA) : Statement (.fneg f) := ofFUSDA Instr.fneg 0x0c7#9 f rfl rfl
theorem Laws.ReadsBack.fcmpEq (f : FUSDAB) : Statement (.fcmpEq f) := ofFUSDAB Instr.fcmpEq 0x0c8#9 f rfl rfl
theorem Laws.ReadsBack.fcmpNe (f : FUSDAB) : Statement (.fcmpNe f) := ofFUSDAB Instr.fcmpNe 0x0c9#9 f rfl rfl
theorem Laws.ReadsBack.fcmpLt (f : FUSDAB) : Statement (.fcmpLt f) := ofFUSDAB Instr.fcmpLt 0x0ca#9 f rfl rfl
theorem Laws.ReadsBack.fcmpLe (f : FUSDAB) : Statement (.fcmpLe f) := ofFUSDAB Instr.fcmpLe 0x0cb#9 f rfl rfl
theorem Laws.ReadsBack.fcmpGt (f : FUSDAB) : Statement (.fcmpGt f) := ofFUSDAB Instr.fcmpGt 0x0cc#9 f rfl rfl
theorem Laws.ReadsBack.fcmpGe (f : FUSDAB) : Statement (.fcmpGe f) := ofFUSDAB Instr.fcmpGe 0x0cd#9 f rfl rfl
theorem Laws.ReadsBack.fcmpUn (f : FUSDAB) : Statement (.fcmpUn f) := ofFUSDAB Instr.fcmpUn 0x0ce#9 f rfl rfl
theorem Laws.ReadsBack.fclass (f : FUSDA) : Statement (.fclass f) := ofFUSDA Instr.fclass 0x0cf#9 f rfl rfl
theorem Laws.ReadsBack.frcp (f : FUSDA) : Statement (.frcp f) := ofFUSDA Instr.frcp 0x0d0#9 f rfl rfl
theorem Laws.ReadsBack.frsq (f : FUSDA) : Statement (.frsq f) := ofFUSDA Instr.frsq 0x0d1#9 f rfl rfl
theorem Laws.ReadsBack.fsqrt (f : FUSDA) : Statement (.fsqrt f) := ofFUSDA Instr.fsqrt 0x0d2#9 f rfl rfl
theorem Laws.ReadsBack.fexp2 (f : FUSDA) : Statement (.fexp2 f) := ofFUSDA Instr.fexp2 0x0d3#9 f rfl rfl
theorem Laws.ReadsBack.flog2 (f : FUSDA) : Statement (.flog2 f) := ofFUSDA Instr.flog2 0x0d4#9 f rfl rfl
theorem Laws.ReadsBack.ftanh (f : FUSDA) : Statement (.ftanh f) := ofFUSDA Instr.ftanh 0x0d5#9 f rfl rfl
theorem Laws.ReadsBack.frnd (f : FUSDA) : Statement (.frnd f) := ofFUSDA Instr.frnd 0x0d6#9 f rfl rfl
theorem Laws.ReadsBack.fdot2 (f : FUSDAB) : Statement (.fdot2 f) := ofFUSDAB Instr.fdot2 0x0d7#9 f rfl rfl
theorem Laws.ReadsBack.fcvtF32 (f : FUSDA) : Statement (.fcvtF32 f) := ofFUSDA Instr.fcvtF32 0x0d8#9 f rfl rfl
theorem Laws.ReadsBack.fcvtF16x2 (f : FUSDA) : Statement (.fcvtF16x2 f) := ofFUSDA Instr.fcvtF16x2 0x0d9#9 f rfl rfl
theorem Laws.ReadsBack.fcvtBf16x2 (f : FUSDA) : Statement (.fcvtBf16x2 f) := ofFUSDA Instr.fcvtBf16x2 0x0da#9 f rfl rfl
theorem Laws.ReadsBack.fcvtE4m3x4 (f : FUSDA) : Statement (.fcvtE4m3x4 f) := ofFUSDA Instr.fcvtE4m3x4 0x0db#9 f rfl rfl
theorem Laws.ReadsBack.fcvtE5m2x4 (f : FUSDA) : Statement (.fcvtE5m2x4 f) := ofFUSDA Instr.fcvtE5m2x4 0x0dc#9 f rfl rfl
theorem Laws.ReadsBack.icvtSf (f : FUSDA) : Statement (.icvtSf f) := ofFUSDA Instr.icvtSf 0x0dd#9 f rfl rfl
theorem Laws.ReadsBack.icvtUf (f : FUSDA) : Statement (.icvtUf f) := ofFUSDA Instr.icvtUf 0x0de#9 f rfl rfl
theorem Laws.ReadsBack.icvtFs (f : FUSDA) : Statement (.icvtFs f) := ofFUSDA Instr.icvtFs 0x0df#9 f rfl rfl
theorem Laws.ReadsBack.icvtFu (f : FUSDA) : Statement (.icvtFu f) := ofFUSDA Instr.icvtFu 0x0e0#9 f rfl rfl
theorem Laws.ReadsBack.fscal (f : FUSDAB) : Statement (.fscal f) := ofFUSDAB Instr.fscal 0x0e1#9 f rfl rfl
theorem Laws.ReadsBack.ldU8 (f : FUSDAI) : Statement (.ldU8 f) := ofFUSDAI Instr.ldU8 0x120#9 f rfl rfl
theorem Laws.ReadsBack.ldS8 (f : FUSDAI) : Statement (.ldS8 f) := ofFUSDAI Instr.ldS8 0x121#9 f rfl rfl
theorem Laws.ReadsBack.ldU16 (f : FUSDAI) : Statement (.ldU16 f) := ofFUSDAI Instr.ldU16 0x122#9 f rfl rfl
theorem Laws.ReadsBack.ldS16 (f : FUSDAI) : Statement (.ldS16 f) := ofFUSDAI Instr.ldS16 0x123#9 f rfl rfl
theorem Laws.ReadsBack.ldB32 (f : FUSDAI) : Statement (.ldB32 f) := ofFUSDAI Instr.ldB32 0x124#9 f rfl rfl
theorem Laws.ReadsBack.ldB64 (f : FUSDAI) : Statement (.ldB64 f) := ofFUSDAI Instr.ldB64 0x125#9 f rfl rfl
theorem Laws.ReadsBack.ldB128 (f : FUSDAI) : Statement (.ldB128 f) := ofFUSDAI Instr.ldB128 0x126#9 f rfl rfl
theorem Laws.ReadsBack.stB8 (f : FSDAI) : Statement (.stB8 f) := ofFSDAI Instr.stB8 0x127#9 f rfl rfl
theorem Laws.ReadsBack.stB16 (f : FSDAI) : Statement (.stB16 f) := ofFSDAI Instr.stB16 0x128#9 f rfl rfl
theorem Laws.ReadsBack.stB32 (f : FSDAI) : Statement (.stB32 f) := ofFSDAI Instr.stB32 0x129#9 f rfl rfl
theorem Laws.ReadsBack.stB64 (f : FSDAI) : Statement (.stB64 f) := ofFSDAI Instr.stB64 0x12a#9 f rfl rfl
theorem Laws.ReadsBack.stB128 (f : FSDAI) : Statement (.stB128 f) := ofFSDAI Instr.stB128 0x12b#9 f rfl rfl
theorem Laws.ReadsBack.ldtU8 (f : FUSDAB) : Statement (.ldtU8 f) := ofFUSDAB Instr.ldtU8 0x12c#9 f rfl rfl
theorem Laws.ReadsBack.ldtS8 (f : FUSDAB) : Statement (.ldtS8 f) := ofFUSDAB Instr.ldtS8 0x12d#9 f rfl rfl
theorem Laws.ReadsBack.ldtU16 (f : FUSDAB) : Statement (.ldtU16 f) := ofFUSDAB Instr.ldtU16 0x12e#9 f rfl rfl
theorem Laws.ReadsBack.ldtS16 (f : FUSDAB) : Statement (.ldtS16 f) := ofFUSDAB Instr.ldtS16 0x12f#9 f rfl rfl
theorem Laws.ReadsBack.ldtB32 (f : FUSDAB) : Statement (.ldtB32 f) := ofFUSDAB Instr.ldtB32 0x130#9 f rfl rfl
theorem Laws.ReadsBack.ldtB64 (f : FUSDAB) : Statement (.ldtB64 f) := ofFUSDAB Instr.ldtB64 0x131#9 f rfl rfl
theorem Laws.ReadsBack.ldtB128 (f : FUSDAB) : Statement (.ldtB128 f) := ofFUSDAB Instr.ldtB128 0x132#9 f rfl rfl
theorem Laws.ReadsBack.sttB8 (f : FSDAB) : Statement (.sttB8 f) := ofFSDAB Instr.sttB8 0x133#9 f rfl rfl
theorem Laws.ReadsBack.sttB16 (f : FSDAB) : Statement (.sttB16 f) := ofFSDAB Instr.sttB16 0x134#9 f rfl rfl
theorem Laws.ReadsBack.sttB32 (f : FSDAB) : Statement (.sttB32 f) := ofFSDAB Instr.sttB32 0x135#9 f rfl rfl
theorem Laws.ReadsBack.sttB64 (f : FSDAB) : Statement (.sttB64 f) := ofFSDAB Instr.sttB64 0x136#9 f rfl rfl
theorem Laws.ReadsBack.sttB128 (f : FSDAB) : Statement (.sttB128 f) := ofFSDAB Instr.sttB128 0x137#9 f rfl rfl
theorem Laws.ReadsBack.tallocTm (f : FSDAB) : Statement (.tallocTm f) := ofFSDAB Instr.tallocTm 0x138#9 f rfl rfl
theorem Laws.ReadsBack.tallocTmz (f : FSDAB) : Statement (.tallocTmz f) := ofFSDAB Instr.tallocTmz 0x139#9 f rfl rfl
theorem Laws.ReadsBack.tallocOs (f : FSDAB) : Statement (.tallocOs f) := ofFSDAB Instr.tallocOs 0x13a#9 f rfl rfl
theorem Laws.ReadsBack.tallocOsz (f : FSDAB) : Statement (.tallocOsz f) := ofFSDAB Instr.tallocOsz 0x13b#9 f rfl rfl
theorem Laws.ReadsBack.tfree (f : FSA) : Statement (.tfree f) := ofFSA Instr.tfree 0x13c#9 f rfl rfl
theorem Laws.ReadsBack.tquery (f : FSDA) : Statement (.tquery f) := ofFSDA Instr.tquery 0x13d#9 f rfl rfl
theorem Laws.ReadsBack.atomAdd (f : FSDAC) : Statement (.atomAdd f) := ofFSDAC Instr.atomAdd 0x140#9 f rfl rfl
theorem Laws.ReadsBack.atomMin (f : FSDAC) : Statement (.atomMin f) := ofFSDAC Instr.atomMin 0x141#9 f rfl rfl
theorem Laws.ReadsBack.atomMax (f : FSDAC) : Statement (.atomMax f) := ofFSDAC Instr.atomMax 0x142#9 f rfl rfl
theorem Laws.ReadsBack.atomAnd (f : FSDAC) : Statement (.atomAnd f) := ofFSDAC Instr.atomAnd 0x143#9 f rfl rfl
theorem Laws.ReadsBack.atomOr (f : FSDAC) : Statement (.atomOr f) := ofFSDAC Instr.atomOr 0x144#9 f rfl rfl
theorem Laws.ReadsBack.atomXor (f : FSDAC) : Statement (.atomXor f) := ofFSDAC Instr.atomXor 0x145#9 f rfl rfl
theorem Laws.ReadsBack.atomExch (f : FSDAC) : Statement (.atomExch f) := ofFSDAC Instr.atomExch 0x146#9 f rfl rfl
theorem Laws.ReadsBack.atomcas (f : FSDAC) : Statement (.atomcas f) := ofFSDAC Instr.atomcas 0x147#9 f rfl rfl
theorem Laws.ReadsBack.tatomAdd (f : FSDAB) : Statement (.tatomAdd f) := ofFSDAB Instr.tatomAdd 0x148#9 f rfl rfl
theorem Laws.ReadsBack.tatomMin (f : FSDAB) : Statement (.tatomMin f) := ofFSDAB Instr.tatomMin 0x149#9 f rfl rfl
theorem Laws.ReadsBack.tatomMax (f : FSDAB) : Statement (.tatomMax f) := ofFSDAB Instr.tatomMax 0x14a#9 f rfl rfl
theorem Laws.ReadsBack.tatomAnd (f : FSDAB) : Statement (.tatomAnd f) := ofFSDAB Instr.tatomAnd 0x14b#9 f rfl rfl
theorem Laws.ReadsBack.tatomOr (f : FSDAB) : Statement (.tatomOr f) := ofFSDAB Instr.tatomOr 0x14c#9 f rfl rfl
theorem Laws.ReadsBack.tatomXor (f : FSDAB) : Statement (.tatomXor f) := ofFSDAB Instr.tatomXor 0x14d#9 f rfl rfl
theorem Laws.ReadsBack.tatomExch (f : FSDAB) : Statement (.tatomExch f) := ofFSDAB Instr.tatomExch 0x14e#9 f rfl rfl
theorem Laws.ReadsBack.tatomCas (f : FSDAB) : Statement (.tatomCas f) := ofFSDAB Instr.tatomCas 0x14f#9 f rfl rfl
theorem Laws.ReadsBack.redAdd (f : FSDAC) : Statement (.redAdd f) := ofFSDAC Instr.redAdd 0x150#9 f rfl rfl
theorem Laws.ReadsBack.redMin (f : FSDAC) : Statement (.redMin f) := ofFSDAC Instr.redMin 0x151#9 f rfl rfl
theorem Laws.ReadsBack.redMax (f : FSDAC) : Statement (.redMax f) := ofFSDAC Instr.redMax 0x152#9 f rfl rfl
theorem Laws.ReadsBack.redAnd (f : FSDAC) : Statement (.redAnd f) := ofFSDAC Instr.redAnd 0x153#9 f rfl rfl
theorem Laws.ReadsBack.redOr (f : FSDAC) : Statement (.redOr f) := ofFSDAC Instr.redOr 0x154#9 f rfl rfl
theorem Laws.ReadsBack.redXor (f : FSDAC) : Statement (.redXor f) := ofFSDAC Instr.redXor 0x155#9 f rfl rfl
theorem Laws.ReadsBack.redfAdd (f : FSDAC) : Statement (.redfAdd f) := ofFSDAC Instr.redfAdd 0x156#9 f rfl rfl
theorem Laws.ReadsBack.redfMin (f : FSDAC) : Statement (.redfMin f) := ofFSDAC Instr.redfMin 0x157#9 f rfl rfl
theorem Laws.ReadsBack.redfMax (f : FSDAC) : Statement (.redfMax f) := ofFSDAC Instr.redfMax 0x158#9 f rfl rfl
theorem Laws.ReadsBack.reds (f : FSDAC) : Statement (.reds f) := ofFSDAC Instr.reds 0x159#9 f rfl rfl
theorem Laws.ReadsBack.waitaEq (f : FSDAC) : Statement (.waitaEq f) := ofFSDAC Instr.waitaEq 0x15a#9 f rfl rfl
theorem Laws.ReadsBack.waitaNe (f : FSDAC) : Statement (.waitaNe f) := ofFSDAC Instr.waitaNe 0x15b#9 f rfl rfl
theorem Laws.ReadsBack.waitaGe (f : FSDAC) : Statement (.waitaGe f) := ofFSDAC Instr.waitaGe 0x15c#9 f rfl rfl
theorem Laws.ReadsBack.waitaLt (f : FSDAC) : Statement (.waitaLt f) := ofFSDAC Instr.waitaLt 0x15d#9 f rfl rfl
theorem Laws.ReadsBack.fence (f : FSCOE) : Statement (.fence f) := ofFSCOE Instr.fence 0x15e#9 f rfl rfl
theorem Laws.ReadsBack.pref (f : FSDAI) : Statement (.pref f) := ofFSDAI Instr.pref 0x15f#9 f rfl rfl
theorem Laws.ReadsBack.cctlInv (f : FSAB) : Statement (.cctlInv f) := ofFSAB Instr.cctlInv 0x160#9 f rfl rfl
theorem Laws.ReadsBack.cctlClean (f : FSAB) : Statement (.cctlClean f) := ofFSAB Instr.cctlClean 0x161#9 f rfl rfl
theorem Laws.ReadsBack.cctlFlush (f : FSAB) : Statement (.cctlFlush f) := ofFSAB Instr.cctlFlush 0x162#9 f rfl rfl
theorem Laws.ReadsBack.tkwait (f : FSD) : Statement (.tkwait f) := ofFSD Instr.tkwait 0x170#9 f rfl
  (show (if _ then _ else _) = _ by rw [bit1_word]; rfl)
theorem Laws.ReadsBack.tkwaitMask (f : FSA) : Statement (.tkwaitMask f) := by
  intro w h
  obtain rfl : f.word 0x170#9 ||| 2#32 = w := Option.some.inj h
  rw [opcode_mask]
  show (if _ then _ else _) = _
  rw [bit1_mask, clear_mask, if_pos rfl, FSA.read_word]
theorem Laws.ReadsBack.tkany (f : FSDA) : Statement (.tkany f) := ofFSDA Instr.tkany 0x171#9 f rfl rfl
theorem Laws.ReadsBack.tktest (f : FSDA) : Statement (.tktest f) := ofFSDA Instr.tktest 0x172#9 f rfl rfl
theorem Laws.ReadsBack.tkfree (f : FSD) : Statement (.tkfree f) := ofFSD Instr.tkfree 0x173#9 f rfl
  (show (if _ then _ else _) = _ by rw [bit1_word]; rfl)
theorem Laws.ReadsBack.tkfreeMask (f : FSA) : Statement (.tkfreeMask f) := by
  intro w h
  obtain rfl : f.word 0x173#9 ||| 2#32 = w := Option.some.inj h
  rw [opcode_mask]
  show (if _ then _ else _) = _
  rw [bit1_mask, clear_mask, if_pos rfl, FSA.read_word]
theorem Laws.ReadsBack.tkexpBar (f : FSDA) : Statement (.tkexpBar f) := ofFSDA Instr.tkexpBar 0x174#9 f rfl rfl
theorem Laws.ReadsBack.tkexpTask (f : FSDA) : Statement (.tkexpTask f) := ofFSDA Instr.tkexpTask 0x175#9 f rfl rfl
theorem Laws.ReadsBack.binit (f : FSA) : Statement (.binit f) := ofFSA Instr.binit 0x178#9 f rfl rfl
theorem Laws.ReadsBack.bbind (f : FSAB) : Statement (.bbind f) := ofFSAB Instr.bbind 0x179#9 f rfl rfl
theorem Laws.ReadsBack.barr (f : FSA) : Statement (.barr f) := ofFSA Instr.barr 0x17a#9 f rfl rfl
theorem Laws.ReadsBack.barrd (f : FSA) : Statement (.barrd f) := ofFSA Instr.barrd 0x17b#9 f rfl rfl
theorem Laws.ReadsBack.bexp (f : FSA) : Statement (.bexp f) := ofFSA Instr.bexp 0x17c#9 f rfl rfl
theorem Laws.ReadsBack.bwait (f : FSA) : Statement (.bwait f) := ofFSA Instr.bwait 0x17d#9 f rfl rfl
theorem Laws.ReadsBack.btest (f : FSDA) : Statement (.btest f) := ofFSDA Instr.btest 0x17e#9 f rfl rfl
theorem Laws.ReadsBack.bcont (f : FSDAB) : Statement (.bcont f) := ofFSDAB Instr.bcont 0x17f#9 f rfl rfl
theorem Laws.ReadsBack.taskd (f : FSAB) : Statement (.taskd f) := ofFSAB Instr.taskd 0x180#9 f rfl rfl
theorem Laws.ReadsBack.cpy (f : FSDA) : Statement (.cpy f) := ofFSDA Instr.cpy 0x188#9 f rfl rfl
theorem Laws.ReadsBack.cpyt (f : FSDA) : Statement (.cpyt f) := ofFSDA Instr.cpyt 0x189#9 f rfl rfl
theorem Laws.ReadsBack.cpyg (f : FSDA) : Statement (.cpyg f) := ofFSDA Instr.cpyg 0x18a#9 f rfl rfl
theorem Laws.ReadsBack.cpyw (f : FSDA) : Statement (.cpyw f) := ofFSDA Instr.cpyw 0x18b#9 f rfl rfl
theorem Laws.ReadsBack.cpys (f : FSDA) : Statement (.cpys f) := ofFSDA Instr.cpys 0x18c#9 f rfl rfl
theorem Laws.ReadsBack.cpyx (f : FSDA) : Statement (.cpyx f) := ofFSDA Instr.cpyx 0x18d#9 f rfl rfl
theorem Laws.ReadsBack.seal (f : FSD) : Statement (.seal f) := ofFSD Instr.seal 0x18e#9 f rfl rfl
theorem Laws.ReadsBack.waitb (f : FSA) : Statement (.waitb f) := ofFSA Instr.waitb 0x18f#9 f rfl rfl
theorem Laws.ReadsBack.mma (f : FSDA) : Statement (.mma f) := ofFSDA Instr.mma 0x1b0#9 f rfl rfl
theorem Laws.ReadsBack.mmao (f : FSDA) : Statement (.mmao f) := ofFSDA Instr.mmao 0x1b1#9 f rfl rfl
theorem Laws.ReadsBack.mzero (f : FSDA) : Statement (.mzero f) := ofFSDA Instr.mzero 0x1b2#9 f rfl rfl
theorem Laws.ReadsBack.mscal (f : FSDA) : Statement (.mscal f) := ofFSDA Instr.mscal 0x1b3#9 f rfl rfl
theorem Laws.ReadsBack.mcvt (f : FSDA) : Statement (.mcvt f) := ofFSDA Instr.mcvt 0x1b4#9 f rfl rfl
theorem Laws.ReadsBack.mload (f : FSDA) : Statement (.mload f) := ofFSDA Instr.mload 0x1b5#9 f rfl rfl
theorem Laws.ReadsBack.mseq (f : FSDA) : Statement (.mseq f) := ofFSDA Instr.mseq 0x1b6#9 f rfl rfl
theorem Laws.ReadsBack.mseqq (f : FSDA) : Statement (.mseqq f) := ofFSDA Instr.mseqq 0x1b7#9 f rfl rfl
theorem Laws.ReadsBack.macq (f : FSD) : Statement (.macq f) := ofFSD Instr.macq 0x1b8#9 f rfl rfl
theorem Laws.ReadsBack.mrel (f : FS) : Statement (.mrel f) := ofFS Instr.mrel 0x1b9#9 f rfl rfl
theorem Laws.ReadsBack.coll (f : FSDA) : Statement (.coll f) := ofFSDA Instr.coll 0x1c0#9 f rfl rfl
theorem Laws.ReadsBack.collq (f : FSDA) : Statement (.collq f) := ofFSDA Instr.collq 0x1c1#9 f rfl rfl
theorem Laws.ReadsBack.trace (f : FSA) : Statement (.trace f) := ofFSA Instr.trace 0x1e8#9 f rfl rfl
theorem Laws.ReadsBack.eret (f : FSDA) : Statement (.eret f) := ofFSDA Instr.eret 0x1d0#9 f rfl rfl
theorem Laws.ReadsBack.mappg (f : FSDA) : Statement (.mappg f) := ofFSDA Instr.mappg 0x1d1#9 f rfl rfl
theorem Laws.ReadsBack.unmappg (f : FSDA) : Statement (.unmappg f) := ofFSDA Instr.unmappg 0x1d2#9 f rfl rfl
theorem Laws.ReadsBack.tlbinv (f : FSA) : Statement (.tlbinv f) := ofFSA Instr.tlbinv 0x1d3#9 f rfl rfl
theorem Laws.ReadsBack.srd (f : FSDA) : Statement (.srd f) := ofFSDA Instr.srd 0x1d4#9 f rfl rfl
theorem Laws.ReadsBack.swr (f : FSDA) : Statement (.swr f) := ofFSDA Instr.swr 0x1d5#9 f rfl rfl
theorem Laws.ReadsBack.syscall (f : FSI) : Statement (.syscall f) := ofFSI Instr.syscall 0x1d6#9 f rfl rfl
theorem Laws.ReadsBack.fltinfo (f : FSDA) : Statement (.fltinfo f) := ofFSDA Instr.fltinfo 0x1d7#9 f rfl rfl
theorem Laws.ReadsBack.fstat (f : FSD) : Statement (.fstat f) := ofFSD Instr.fstat 0x1d8#9 f rfl rfl
theorem Laws.ReadsBack.fclr (f : FS) : Statement (.fclr f) := ofFS Instr.fclr 0x1d9#9 f rfl rfl
theorem Laws.ReadsBack.tickq (f : FSDA) : Statement (.tickq f) := ofFSDA Instr.tickq 0x1da#9 f rfl rfl
theorem Laws.ReadsBack.msgs (f : FSDA) : Statement (.msgs f) := ofFSDA Instr.msgs 0x1db#9 f rfl rfl
theorem Laws.ReadsBack.msgr (f : FSD) : Statement (.msgr f) := ofFSD Instr.msgr 0x1dc#9 f rfl rfl
theorem Laws.ReadsBack.ctenr (f : FSA) : Statement (.ctenr f) := ofFSA Instr.ctenr 0x1e0#9 f rfl rfl
theorem Laws.ReadsBack.ctleaf (f : FSDA) : Statement (.ctleaf f) := ofFSDA Instr.ctleaf 0x1e1#9 f rfl rfl
theorem Laws.ReadsBack.ctread (f : FSDA) : Statement (.ctread f) := ofFSDA Instr.ctread 0x1e2#9 f rfl rfl
theorem Laws.ReadsBack.ctcmp (f : FSDA) : Statement (.ctcmp f) := ofFSDA Instr.ctcmp 0x1e3#9 f rfl rfl
theorem Laws.ReadsBack.ctset (f : FSDA) : Statement (.ctset f) := ofFSDA Instr.ctset 0x1e4#9 f rfl rfl
theorem Laws.ReadsBack.ctmove (f : FSDA) : Statement (.ctmove f) := ofFSDA Instr.ctmove 0x1e5#9 f rfl rfl
theorem Laws.ReadsBack.ctdrop (f : FSDA) : Statement (.ctdrop f) := ofFSDA Instr.ctdrop 0x1e6#9 f rfl rfl
theorem Laws.ReadsBack.tileClearDone : Statement .tileClearDone := ofNone _ rfl
theorem Laws.ReadsBack.waitaMonitorWake : Statement .waitaMonitorWake := ofNone _ rfl
theorem Laws.ReadsBack.waitaPoll : Statement .waitaPoll := ofNone _ rfl
theorem Laws.ReadsBack.tokenWaitWake : Statement .tokenWaitWake := ofNone _ rfl
theorem Laws.ReadsBack.deferredArrival : Statement .deferredArrival := ofNone _ rfl
theorem Laws.ReadsBack.barrierWaitWake : Statement .barrierWaitWake := ofNone _ rfl
theorem Laws.ReadsBack.barrierUpdate : Statement .barrierUpdate := ofNone _ rfl
theorem Laws.ReadsBack.taskDepcountDecrement : Statement .taskDepcountDecrement := ofNone _ rfl
theorem Laws.ReadsBack.copyStart : Statement .copyStart := ofNone _ rfl
theorem Laws.ReadsBack.copyComplete : Statement .copyComplete := ofNone _ rfl
theorem Laws.ReadsBack.batchWaitWake : Statement .batchWaitWake := ofNone _ rfl
theorem Laws.ReadsBack.matrixOpStart : Statement .matrixOpStart := ofNone _ rfl
theorem Laws.ReadsBack.matrixOpComplete : Statement .matrixOpComplete := ofNone _ rfl
theorem Laws.ReadsBack.furlongStep : Statement .furlongStep := ofNone _ rfl
theorem Laws.ReadsBack.collStart : Statement .collStart := ofNone _ rfl
theorem Laws.ReadsBack.collStep : Statement .collStep := ofNone _ rfl
theorem Laws.ReadsBack.collChunkReceive : Statement .collChunkReceive := ofNone _ rfl
theorem Laws.ReadsBack.collComplete : Statement .collComplete := ofNone _ rfl
theorem Laws.ReadsBack.collTimeout : Statement .collTimeout := ofNone _ rfl
theorem Laws.ReadsBack.treeOpComplete : Statement .treeOpComplete := ofNone _ rfl
theorem Laws.ReadsBack.ctDeltaFlush : Statement .ctDeltaFlush := ofNone _ rfl
theorem Laws.ReadsBack.ctRollup : Statement .ctRollup := ofNone _ rfl
theorem Laws.ReadsBack.crewRetire : Statement .crewRetire := ofNone _ rfl
theorem Laws.ReadsBack.sleepExpiry : Statement .sleepExpiry := ofNone _ rfl
theorem Laws.ReadsBack.regangComplete : Statement .regangComplete := ofNone _ rfl
theorem Laws.ReadsBack.synccComplete : Statement .synccComplete := ofNone _ rfl
theorem Laws.ReadsBack.crewDeadlock : Statement .crewDeadlock := ofNone _ rfl
theorem Laws.ReadsBack.roleswGrant : Statement .roleswGrant := ofNone _ rfl
theorem Laws.ReadsBack.gangAged : Statement .gangAged := ofNone _ rfl
theorem Laws.ReadsBack.bindRound : Statement .bindRound := ofNone _ rfl
theorem Laws.ReadsBack.coreSlotin : Statement .coreSlotin := ofNone _ rfl
theorem Laws.ReadsBack.dispatchBlock : Statement .dispatchBlock := ofNone _ rfl
theorem Laws.ReadsBack.launchNodeRetire : Statement .launchNodeRetire := ofNone _ rfl
theorem Laws.ReadsBack.zeroBlockNode : Statement .zeroBlockNode := ofNone _ rfl
theorem Laws.ReadsBack.linkCall : Statement .linkCall := ofNone _ rfl
theorem Laws.ReadsBack.reductionContribution : Statement .reductionContribution := ofNone _ rfl
theorem Laws.ReadsBack.reductionRetry : Statement .reductionRetry := ofNone _ rfl
theorem Laws.ReadsBack.reorderTimeout : Statement .reorderTimeout := ofNone _ rfl
theorem Laws.ReadsBack.xdieRequest : Statement .xdieRequest := ofNone _ rfl
theorem Laws.ReadsBack.xdieRetry : Statement .xdieRetry := ofNone _ rfl
theorem Laws.ReadsBack.reservationRelease : Statement .reservationRelease := ofNone _ rfl
theorem Laws.ReadsBack.xdieTimeout : Statement .xdieTimeout := ofNone _ rfl
theorem Laws.ReadsBack.peerTimeout : Statement .peerTimeout := ofNone _ rfl
theorem Laws.ReadsBack.bridgePacket : Statement .bridgePacket := ofNone _ rfl
theorem Laws.ReadsBack.bridgeReplay : Statement .bridgeReplay := ofNone _ rfl
theorem Laws.ReadsBack.bridgeRetrain : Statement .bridgeRetrain := ofNone _ rfl
theorem Laws.ReadsBack.bridgeDown : Statement .bridgeDown := ofNone _ rfl
theorem Laws.ReadsBack.portFailure : Statement .portFailure := ofNone _ rfl
theorem Laws.ReadsBack.peerRequest : Statement .peerRequest := ofNone _ rfl
theorem Laws.ReadsBack.tagExpiry : Statement .tagExpiry := ofNone _ rfl
theorem Laws.ReadsBack.grant : Statement .grant := ofNone _ rfl
theorem Laws.ReadsBack.recall : Statement .recall := ofNone _ rfl
theorem Laws.ReadsBack.acknowledgement : Statement .acknowledgement := ofNone _ rfl
theorem Laws.ReadsBack.faultTicket : Statement .faultTicket := ofNone _ rfl
theorem Laws.ReadsBack.replayNotice : Statement .replayNotice := ofNone _ rfl
theorem Laws.ReadsBack.reductionMessage : Statement .reductionMessage := ofNone _ rfl
theorem Laws.ReadsBack.softwareMessage : Statement .softwareMessage := ofNone _ rfl
theorem Laws.ReadsBack.exportMiss : Statement .exportMiss := ofNone _ rfl
theorem Laws.ReadsBack.collectiveReady : Statement .collectiveReady := ofNone _ rfl
theorem Laws.ReadsBack.badMessage : Statement .badMessage := ofNone _ rfl
theorem Laws.ReadsBack.messageResend : Statement .messageResend := ofNone _ rfl
theorem Laws.ReadsBack.missLogRetry : Statement .missLogRetry := ofNone _ rfl
theorem Laws.ReadsBack.exportInvalidate : Statement .exportInvalidate := ofNone _ rfl
theorem Laws.ReadsBack.exportServiced : Statement .exportServiced := ofNone _ rfl
theorem Laws.ReadsBack.hostRequest : Statement .hostRequest := ofNone _ rfl
theorem Laws.ReadsBack.drainRequest : Statement .drainRequest := ofNone _ rfl
theorem Laws.ReadsBack.drainEnd : Statement .drainEnd := ofNone _ rfl
theorem Laws.ReadsBack.drainLimit : Statement .drainLimit := ofNone _ rfl
theorem Laws.ReadsBack.forcedSaveWrite : Statement .forcedSaveWrite := ofNone _ rfl
theorem Laws.ReadsBack.contextRestore : Statement .contextRestore := ofNone _ rfl
theorem Laws.ReadsBack.scrubRead : Statement .scrubRead := ofNone _ rfl
theorem Laws.ReadsBack.scrubWriteback : Statement .scrubWriteback := ofNone _ rfl
theorem Laws.ReadsBack.powerGrant : Statement .powerGrant := ofNone _ rfl
theorem Laws.ReadsBack.ptpMessage : Statement .ptpMessage := ofNone _ rfl
theorem Laws.ReadsBack.ppsInput : Statement .ppsInput := ofNone _ rfl
theorem Laws.ReadsBack.trcRidx : Statement .trcRidx := ofNone _ rfl
theorem Laws.ReadsBack.loadGeneratedKey : Statement .loadGeneratedKey := ofNone _ rfl
theorem Laws.ReadsBack.loadWrappedKey : Statement .loadWrappedKey := ofNone _ rfl
theorem Laws.ReadsBack.unload : Statement .unload := ofNone _ rfl
theorem Laws.ReadsBack.attestationRequest : Statement .attestationRequest := ofNone _ rfl
theorem Laws.ReadsBack.boot : Statement .boot := ofNone _ rfl
theorem Laws.ReadsBack.debugHalt : Statement .debugHalt := ofNone _ rfl
theorem Laws.ReadsBack.registerWrite : Statement .registerWrite := ofNone _ rfl
theorem Laws.ReadsBack.illegalInstructionWord : Statement .illegalInstructionWord := ofNone _ rfl
theorem Laws.ReadsBack.fetchFault : Statement .fetchFault := ofNone _ rfl
theorem Laws.ReadsBack.requestResponse : Statement .requestResponse := ofNone _ rfl
theorem Laws.ReadsBack.bridgeRetrained : Statement .bridgeRetrained := ofNone _ rfl
theorem Laws.ReadsBack.debugResume : Statement .debugResume := ofNone _ rfl
theorem Laws.ReadsBack.powerLoss : Statement .powerLoss := ofNone _ rfl
theorem Laws.ReadsBack.wearEstimate : Statement .wearEstimate := ofNone _ rfl

end Sys2Proof
end

