-- ==== Sys2Proof/Laws/Signing.lean ====
section
/-! SUPPORT. A signature made from the starts of the chains verifies: the root it reaches does not depend on what is signed
(R443). -/

namespace Sys2Proof.Laws.Signing
open Sys2Proof.Machine

/-- A chain walked in two parts. -/
theorem chain_add (seed : List Byte) (idx c a b : Nat) : ∀ (i : Nat) (x : List Byte),
    xmssChain seed idx c (a + b) i x = xmssChain seed idx c b (i + a) (xmssChain seed idx c a i x) := by
  induction a with
  | zero => intro i x; simp [xmssChain]
  | succ n ih =>
    intro i x
    rw [show n + 1 + b = (n + b) + 1 by omega, xmssChain, xmssChain, ih, show i + 1 + n = i + (n + 1) by omega]

theorem keccakRound_length (a : List Dword) (rc : Dword) : (keccakRound a rc).length = 25 := by
  simp [keccakRound, lanes25]

theorem rounds_length (rs : List Dword) : ∀ a : List Dword, a.length = 25 → (rs.foldl keccakRound a).length = 25 := by
  induction rs with
  | nil => exact fun a h => h
  | cons r rs ih => exact fun a _ => ih _ (keccakRound_length a r)

theorem absorbs_length (p : List Byte) (ks : List Nat) : ∀ a : List Dword, a.length = 25 →
    (ks.foldl (fun a i => absorb a ((p.drop (136 * i)).take 136)) a).length = 25 := by
  induction ks with
  | nil => exact fun a h => h
  | cons k ks ih => exact fun a h => ih _ (rounds_length _ _ (by simp [h]))

/-- SHAKE256 gives 32 bytes. -/
theorem shake256_length (m : List Byte) : (shake256 m).length = 32 := by
  have h := absorbs_length (shakePad m) (List.range ((shakePad m).length / 136)) (List.replicate 25 0) (by simp)
  simp only [shake256]
  generalize (List.range ((shakePad m).length / 136)).foldl _ _ = a at h ⊢
  match a, h with
  | x :: y :: z :: w :: _, _ => simp [natBytes_length]

theorem chain_length (seed : List Byte) (idx c n : Nat) : ∀ (i : Nat) (x : List Byte), x.length = 32 →
    (xmssChain seed idx c n i x).length = 32 := by
  induction n with
  | zero => exact fun _ _ h => h
  | succ n ih => exact fun i x _ => ih _ _ (shake256_length _)

/-- The i-th 32 bytes of strings of 32 bytes in a row. -/
theorem part32_flatMap (f : Nat → List Byte) (hf : ∀ i, (f i).length = 32) (rest : List Byte) :
    ∀ (n k i : Nat), i < n → part32 ((List.range' k n).flatMap f ++ rest) i = f (k + i) := by
  intro n
  induction n with
  | zero => intro k i h; omega
  | succ n ih =>
    intro k i h
    simp only [List.range'_succ, List.flatMap_cons, List.append_assoc]
    cases i with
    | zero => simp [part32, hf k]
    | succ j =>
      have : part32 (f k ++ ((List.range' (k + 1) n).flatMap f ++ rest)) (j + 1) =
          part32 ((List.range' (k + 1) n).flatMap f ++ rest) j := by
        simp only [part32]
        rw [show 32 * (j + 1) = (f k).length + 32 * j by rw [hf k]; omega, ← List.drop_drop, List.drop_left]
      rw [this, ih (k + 1) j (by omega)]
      congr 1; omega

theorem flatMap_length (f : Nat → List Byte) (hf : ∀ i, (f i).length = 32) (ks : List Nat) :
    (ks.flatMap f).length = 32 * ks.length := by
  induction ks with
  | nil => rfl
  | cons k ks ih => simp [hf k, ih]; omega

theorem digits_length (m : List Byte) : (wotsDigits m).length = 2 * m.length + 3 := by
  simp only [wotsDigits, List.length_append, List.length_cons, List.length_nil]
  congr 1
  induction m with
  | nil => rfl
  | cons b m ih => simp [ih]; omega

theorem digits_lt (m : List Byte) : ∀ d ∈ wotsDigits m, d < 16 := by
  intro d h
  simp only [wotsDigits, List.mem_append, List.mem_flatMap, List.mem_cons, List.not_mem_nil, or_false] at h
  rcases h with ⟨b, -, rfl | rfl⟩ | rfl | rfl | rfl
  · have := b.isLt; omega
  · omega
  · omega
  · omega
  · omega

/-- Zeros. -/
def zeros (n : Nat) : List Byte := List.replicate n 0

theorem zeros_length (n : Nat) : (zeros n).length = n := List.length_replicate

/-- The root of a key whose 67 chains all start at 0, with a path of zeros, for the seed 0 and index 0. -/
def root0 : List Byte :=
  (List.range 20).foldl (fun node k => xmssNode (zeros 32) 2 0 k 0 node (part32 (zeros 640) k))
    (ltree (zeros 32) 0 ((List.range 67).map fun c => xmssChain (zeros 32) 0 c 15 0 (zeros 32)))

/-- What is signed of a message. -/
def digest0 (m : List Byte) : List Byte := xmssHash 2 (zeros 32 ++ root0 ++ toByte 0 32) m

/-- The part of a signature that chain c gives. -/
def ots0 (m : List Byte) (c : Nat) : List Byte :=
  xmssChain (zeros 32) 0 c ((wotsDigits (digest0 m)).getD c 0) 0 (zeros 32)

/-- That key's signature of a message. -/
def sig0 (m : List Byte) : List Byte := zeros 4 ++ (zeros 32 ++ ((List.range' 0 67).flatMap (ots0 m) ++ zeros 640))

theorem ots0_length (m : List Byte) (c : Nat) : (ots0 m c).length = 32 := chain_length _ _ _ _ _ _ (zeros_length 32)

/-- The signature verifies. -/
theorem sig0_verifies (m : List Byte) : xmssVerify root0 (zeros 32) (sig0 m) m = true := by
  have hlen : ((List.range' 0 67).flatMap (ots0 m)).length = 2144 := by rw [flatMap_length _ (ots0_length m)]; simp
  have hidx : ofByte ((sig0 m).take 4) = 0 := by
    rw [show (sig0 m).take 4 = zeros 4 from List.take_left' (zeros_length 4)]; decide
  have hbody : (sig0 m).drop 4 = zeros 32 ++ ((List.range' 0 67).flatMap (ots0 m) ++ zeros 640) := by
    exact List.drop_left' (zeros_length 4)
  have hots : ((sig0 m).drop 4).drop 32 = (List.range' 0 67).flatMap (ots0 m) ++ zeros 640 := by
    rw [hbody]; exact List.drop_left' (zeros_length 32)
  have hauth : (((sig0 m).drop 4).drop 32).drop (32 * 67) = zeros 640 := by
    rw [hots, show 32 * 67 = ((List.range' 0 67).flatMap (ots0 m)).length by rw [hlen], List.drop_left]
  have hr : ((sig0 m).drop 4).take 32 = zeros 32 := by rw [hbody]; exact List.take_left' (zeros_length 32)
  have hd : (wotsDigits (digest0 m)).length = 67 := by rw [digits_length, show (digest0 m).length = 32 from shake256_length _]
  have hends : ((wotsDigits (digest0 m)).zipIdx.map fun e =>
      xmssChain (zeros 32) 0 e.2 (15 - e.1) e.1 (part32 ((List.range' 0 67).flatMap (ots0 m) ++ zeros 640) e.2)) =
      (List.range 67).map fun c => xmssChain (zeros 32) 0 c 15 0 (zeros 32) := by
    apply List.ext_getElem
    · simp [hd]
    · intro i h1 h2
      have hi : i < 67 := by simpa using h2
      have hi' : i < (wotsDigits (digest0 m)).length := by omega
      have hlt : (wotsDigits (digest0 m))[i] < 16 := digits_lt _ _ (List.getElem_mem hi')
      simp only [List.getElem_map, List.getElem_zipIdx, List.getElem_range, Nat.zero_add]
      have hp := part32_flatMap (ots0 m) (ots0_length m) (zeros 640) 67 0 i hi
      have ho : ots0 m i = xmssChain (zeros 32) 0 i (wotsDigits (digest0 m))[i] 0 (zeros 32) := by
        rw [ots0, List.getD_eq_getElem?_getD, List.getElem?_eq_getElem hi', Option.getD_some]
      rw [hp, Nat.zero_add, ho]
      have := chain_add (zeros 32) 0 i (wotsDigits (digest0 m))[i] (15 - (wotsDigits (digest0 m))[i]) 0 (zeros 32)
      rw [show (wotsDigits (digest0 m))[i] + (15 - (wotsDigits (digest0 m))[i]) = 15 by omega, Nat.zero_add] at this
      exact this.symm
  have hroot : xmssRoot root0 (zeros 32) (sig0 m) m = root0 := by
    simp only [xmssRoot, hidx, hauth, hr, Nat.zero_div, Nat.zero_mod, if_true]
    rw [show xmssHash 2 (zeros 32 ++ root0 ++ toByte 0 32) m = digest0 m from rfl, hots, hends]
    rfl
  have hl : (sig0 m).length = 4 + 32 * 88 := by simp only [sig0, List.length_append, hlen, zeros_length]
  simp only [xmssVerify, hl, hidx, hroot, beq_self_eq_true, Bool.and_true]
  decide

end Sys2Proof.Laws.Signing
end

