-- ==== Sys2Proof/Laws/Values.lean ====
section
/-! SUPPORT. Laws of results: what a lane reads back after an instruction has written it, elements of a value, and exact
results fitted to an element. -/

namespace Sys2Proof.Machine

/-! ### Reading back -/

/-- A lane that acts, once its instruction has completed: its results are written. -/
theorem Issue.written_lane (x : Issue) (f : Nat → Wr) (l : Nat) (h : x.act.getLsbD l = true) :
    (x.advanced (x.write f)).lane l = (x.c.lane l).write x.c.depth (f l) := by
  have := Crew.lane_of_lanes (Crew.fold_same x.js (x.write f) fun j => x.advance j).2 l
  refine this.trans ?_
  rw [Issue.write, Crew.lane_modLanes, if_pos h]

/-- Crews that differ in lanes and slices have their window at one place. -/
theorem Crew.alike_depth {a b : Crew} (h : a.alike b) : a.depth = b.depth := by
  have := congrArg Crew.depth h
  exact this

/-- The window of a crew stays where it is when results are written. -/
theorem Issue.written_depth (x : Issue) (f : Nat → Wr) : (x.advanced (x.write f)).depth = x.c.depth := by
  have h1 := (Crew.fold_same x.js (x.write f) fun j => x.advance j).1
  have h2 := (Crew.modLanes_same x.c x.act fun l ln => ln.write x.c.depth (f l)).1
  exact Crew.alike_depth (Crew.alike_trans h1 h2)

/-- A register result reads back. -/
@[simp] theorem Lane.get_write_wr1 (ln : Lane) (D : Nat) (d : BitVec 6) (v : Word) :
    (ln.write D (wr1 d v)).get D d.toNat = v := by
  simp [Lane.write, wr1, Lane.get_set]

/-- A pair result reads back. -/
@[simp] theorem Lane.get64_write_wr2 (ln : Lane) (D : Nat) (d : BitVec 6) (v : Dword) :
    (ln.write D (wr2 d v)).get64 D d.toNat = v := by
  have : (d.toNat + 1 = d.toNat) = False := by simp
  simp only [Lane.write, wr2, Lane.get64, List.foldl_cons, List.foldl_nil, Lane.get_set, if_true, this, if_false]
  apply BitVec.eq_of_getLsbD_eq
  intro i hi
  rw [BitVec.getLsbD_append]
  by_cases h : i < 32
  · simp [h]
  · have : i - 32 < 32 := by omega
    have e : 32 + (i - 32) = i := by omega
    simp [h, this, e]

/-- A predicate result reads back; one for p0 is discarded (R38). -/
theorem Lane.pred_write_wrP (ln : Lane) (D : Nat) (d : BitVec 6) (v : Bool) (h : d.toNat < 8) :
    (ln.write D (wrP d v)).pred d.toNat = (d == 0 || v) := by
  simp only [Lane.write, wrP, List.foldl_nil, List.foldl_cons, Lane.pred_setPred _ _ _ _ h]
  by_cases h0 : d = 0
  · subst h0; simp
  · have : d.toNat ≠ 0 := fun e => h0 (BitVec.eq_of_toNat_eq (by simpa using e))
    have h1 : (d == 0) = false := by simpa using h0
    simp only [h1]
    simpa using fun e => absurd e this

/-! ### Elements (R62) -/

theorem etWidth_pos (e : Nat) : 0 < etWidth e := by unfold etWidth; split <;> (try split) <;> (try split) <;> omega

/-- The elements fill the register or pair. -/
theorem etSpan_eq (e : Nat) : etWidth e * (etSpan e / etWidth e) = etSpan e := by
  unfold etSpan etWidth; split <;> (try split) <;> (try split) <;> rfl

theorem elemOf_lt (e v j : Nat) : elemOf e v j < 2 ^ etWidth e := Nat.mod_lt _ (by positivity)

theorem ofElems_fold (w : Nat) (g : Nat → Nat) (hg : ∀ j, g j < 2 ^ w) (n : Nat) :
    (List.range n).foldl (fun v j => v + g j * 2 ^ (w * j)) 0 < 2 ^ (w * n) ∧
      ∀ j < n, (List.range n).foldl (fun v j => v + g j * 2 ^ (w * j)) 0 / 2 ^ (w * j) % 2 ^ w = g j := by
  induction n with
  | zero => simp
  | succ n ih =>
    obtain ⟨hlt, hel⟩ := ih
    rw [List.range_succ, List.foldl_append, List.foldl_cons, List.foldl_nil]
    generalize hS : (List.range n).foldl (fun v j => v + g j * 2 ^ (w * j)) 0 = S at *
    have hp : (2 : Nat) ^ (w * (n + 1)) = 2 ^ (w * n) * 2 ^ w := by rw [Nat.mul_succ, Nat.pow_add]
    refine ⟨?_, fun j hj => ?_⟩
    · have := hg n
      rw [hp]
      calc S + g n * 2 ^ (w * n) < 2 ^ (w * n) + g n * 2 ^ (w * n) := by omega
        _ = (g n + 1) * 2 ^ (w * n) := by ring
        _ ≤ 2 ^ w * 2 ^ (w * n) := Nat.mul_le_mul_right _ (by omega)
        _ = _ := Nat.mul_comm ..
    · rcases Nat.lt_or_ge j n with h | h
      · have : (2 : Nat) ^ (w * n) = 2 ^ (w * j) * (2 ^ w * 2 ^ (w * (n - j - 1))) := by
          rw [← Nat.pow_add, ← Nat.pow_add]; congr 1
          obtain ⟨m, rfl⟩ : ∃ m, n = j + 1 + m := ⟨n - j - 1, by omega⟩
          rw [show j + 1 + m - j - 1 = m by omega]; ring
        rw [this, show g n * (2 ^ (w * j) * (2 ^ w * 2 ^ (w * (n - j - 1)))) =
          2 ^ (w * j) * (2 ^ w * (g n * 2 ^ (w * (n - j - 1)))) by ring, Nat.add_mul_div_left _ _ (by positivity),
          Nat.add_mul_mod_self_left]
        exact hel j h
      · obtain rfl : j = n := by omega
        rw [Nat.add_mul_div_right _ _ (by positivity), Nat.div_eq_of_lt hlt, Nat.zero_add, Nat.mod_eq_of_lt (hg j)]

/-- A value put together from elements that fit has them as its elements, and lies in the register or pair. -/
theorem elemOf_ofElems (e : Nat) (g : Nat → Nat) (hg : ∀ j, g j < 2 ^ etWidth e) :
    ofElems e g < 2 ^ etSpan e ∧ ∀ j < etSpan e / etWidth e, elemOf e (ofElems e g) j = g j := by
  have := ofElems_fold (etWidth e) g hg (etSpan e / etWidth e)
  rw [etSpan_eq] at this
  exact this

/-- The value of a result reads back, at the width of its register or pair. -/
theorem Issue.val_wrVal (x : Issue) (o l D : Nat) (ln : Lane) (d : BitVec 6) (v : Nat) (c' : Crew)
    (hc : c'.lane l = ln.write D (x.wrVal o d v)) (hd : c'.depth = D) :
    c'.val (modeEtype (x.mode o)) l d = v % 2 ^ etSpan (modeEtype (x.mode o)) := by
  unfold Crew.val Issue.wrVal etSpan at *
  rw [hc, hd]
  split <;> simp

/-! ### Exact results (R63) -/

/-- Cutting to w bits gives a number below 2^w that is the result modulo 2^w. -/
theorem wrapNat_spec (w : Nat) (v : Int) : wrapNat w v < 2 ^ w ∧ (wrapNat w v : Int) = v % (2 ^ w : Nat) := by
  have hp : (0 : Int) < (2 ^ w : Nat) := by positivity
  have h1 := Int.emod_nonneg v (ne_of_gt hp)
  have h2 := Int.emod_lt_of_pos v hp
  unfold wrapNat
  omega

theorem fitInt_lt (sat sg : Bool) (w : Nat) (v : Int) : fitInt sat sg w v < 2 ^ w := (wrapNat_spec w _).1

/-- Results that agree modulo 2^w are cut alike. -/
theorem wrapNat_congr {w : Nat} {v u : Int} (h : v % (2 ^ w : Nat) = u % (2 ^ w : Nat)) : wrapNat w v = wrapNat w u := by
  unfold wrapNat; rw [h]

/-! ### The shared bodies -/

/-- A lane-wise instruction that clears the checks completes, and every lane that acts holds its results. -/
theorem scalar_lanes {s : State} {h : Head} {k : Nat} {js : List Nat} {c : Crew} (f : Issue → Nat → Wr)
    (hc : s.clears h.scalar k js c = true) :
    let x := s.issueOf h.scalar k js c
    ∃ c', scalar s h f = .next (s.setCrew k c') ∧ c'.depth = c.depth ∧
      ∀ l, x.act.getLsbD l = true → c'.lane l = (c.lane l).write c.depth (f x (x.source h.u l)) := by
  exact ⟨_, scalar_clears f hc, Issue.written_depth _ _, fun l hl => Issue.written_lane _ _ l hl⟩

/-- The elements an element-wise instruction writes. -/
theorem elementwise_spec {s : State} {u : Bool} {st : BitVec 3} {d a : BitVec 6} {b : SrcB} {rd sat : Bool} {k : Nat}
    {js : List Nat} {c : Crew} (op : ElemOp) (hc : s.clears (intHead u st d a b rd sat).scalar k js c = true) :
    let x := s.issueOf (intHead u st d a b rd sat).scalar k js c
    ∃ c', elementwise s u st d a b rd sat op = .next (s.setCrew k c') ∧ ∀ l, x.act.getLsbD l = true →
      let o := x.source u l
      let e := modeEtype (x.mode o)
      ∀ j < etSpan e / etWidth e,
        elemOf e (c'.val e l d) j = fitInt (sat && modeSat (x.mode o)) (etSigned e) (etWidth e)
          (op (etSigned e) (etWidth e) (elemOf e (x.val o a) j) (x.elemB o b j) (elemOf e (x.val o d) j)) := by
  intro x
  obtain ⟨c', h1, h2, h3⟩ := scalar_lanes (fun x l => x.elementResult l d a b sat op) hc
  refine ⟨c', h1, fun l hl => ?_⟩
  intro o e j hj
  have h := Issue.val_wrVal x o l c.depth (c.lane l) d _ c' (h3 l hl) h2
  have hg := elemOf_ofElems e (fun j => fitInt (sat && modeSat (x.mode o)) (etSigned e) (etWidth e)
          (op (etSigned e) (etWidth e) (elemOf e (x.val o a) j) (x.elemB o b j) (elemOf e (x.val o d) j)))
          fun j => fitInt_lt _ _ _ _
  exact (congrArg (elemOf e · j) (h.trans (Nat.mod_eq_of_lt hg.1))).trans (hg.2 j hj)

/-- The value an instruction on whole registers writes. -/
theorem wholewise_spec {s : State} {u : Bool} {st : BitVec 3} {d a : BitVec 6} {b : SrcB} {rd : Bool} {k : Nat}
    {js : List Nat} {c : Crew} (op : Nat → Nat → Nat → Nat → Nat → Nat)
    (hc : s.clears (intHead u st d a b rd false).scalar k js c = true) :
    let x := s.issueOf (intHead u st d a b rd false).scalar k js c
    ∃ c', wholewise s u st d a b rd op = .next (s.setCrew k c') ∧ c'.depth = c.depth ∧ ∀ l, x.act.getLsbD l = true →
      let o := x.source u l
      let e := modeEtype (x.mode o)
      c'.val e l d = op (etSpan e) e (x.val o a) (x.wholeB o b) (x.val o d) % 2 ^ etSpan e := by
  intro x
  obtain ⟨c', h1, h2, h3⟩ := scalar_lanes (fun x l =>
    let e := modeEtype (x.mode l)
    x.wrVal l d (op (etSpan e) e (x.val l a) (x.wholeB l b) (x.val l d))) hc
  exact ⟨c', h1, h2, fun l hl => Issue.val_wrVal x _ l c.depth (c.lane l) d _ c' (h3 l hl) h2⟩

end Sys2Proof.Machine
end

