-- ==== Sys2Proof/Tests/Slice0.lean ====
section
/-! SUPPORT. Tests. Expected values come from the spec's worked examples where it has one (their rule or program is named) and
else from hand calculation by the rule named. Witnesses show, for each statement with hypotheses, a state and operands
that meet them. -/

set_option Elab.async false

namespace Sys2Proof
open Machine

/-! ### The bench: one crew on core 0 about to issue, its context's first page mapped -/

/-- A crew of n slices at address 0, mode m in each, whose lanes hold the registers listed from x0 up. -/
def Tests.crewOf (n : Nat) (m : BitVec 13) (regs : List Word) : Crew :=
  (newCrew 1 0 0 n 0 128 0 0 regs 0 0 false 0).modSlices (List.range n) fun sl => { sl with mode := m }

/-- A crew of one slice, guard always, with an etype, rounding mode and saturation. -/
def Tests.one (etype : BitVec 5) (rmode : BitVec 3) (sat : Bool) (regs : List Word) : Crew :=
  crewOf 1 (BitVec.ofBool sat ++ rmode ++ etype ++ 8#4) regs

/-- The crew with lane l's register i changed. -/
def Machine.Crew.put (c : Crew) (l i : Nat) (v : Word) : Crew := c.modLanes (1#32 <<< l) fun _ ln => ln.set c.depth i v

/-- The crew with every lane's predicates set. -/
def Machine.Crew.withPreds (c : Crew) (p : BitVec 8) : Crew := c.modLanes 0xFFFFFFFF fun _ ln => { ln with preds := p }

/-- The crew in supervisor mode, as trap entry leaves it. -/
def Machine.Crew.boss (c : Crew) : Crew := { c with sup := some ⟨[0], [0], [8], [], 0, [0], 0⟩ }

/-- The state in which the whole crew issues. -/
def Tests.bench (c : Crew) : State :=
  { State.reset.withFetchWord 32 0 with crews := [(2, c)], cur := some (2, List.range c.nsl) }

/-- The crew after an instruction; the crew of no slices where the machine does not go on. -/
def Tests.ran (i : Instr) (c : Crew) : Crew :=
  match exec i (bench c) with
  | .next t => (tget t.crews 2).getD (crewOf 0 0 [])
  | _ => crewOf 0 0 []

/-- A register of a lane after an instruction. -/
def Tests.reg (i : Instr) (c : Crew) (l r : Nat) : Word := ((ran i c).lane l).get c.depth r

/-- A pair of a lane after an instruction. -/
def Tests.reg64 (i : Instr) (c : Crew) (l r : Nat) : Dword := ((ran i c).lane l).get64 c.depth r

/-- A predicate of a lane after an instruction. -/
def Tests.pred (i : Instr) (c : Crew) (l p : Nat) : Bool := ((ran i c).lane l).pred p

/-- The gang took a trap with this cause: it is in supervisor mode. -/
def Tests.trapped (i : Instr) (s : State) (cause : Cause) : Bool :=
  match exec i s with
  | .next t => (tget t.crews 2).any fun c => c.sup.isSome && c.trap.cause == cause.code
  | _ => false

end Sys2Proof

namespace Sys2Proof.Tests
open Sys2Proof.Machine

/-! ### Terms that break a check of WellFormed -/

theorem test_reserved_mode_is_ill_formed : (Instr.mode ⟨0, 0x00D8⟩).wf = false := by decide
theorem test_predicate_above_7_is_ill_formed : (Instr.cmpEq ⟨false, 0, 8, 0, 0⟩).wf = false ∧
    (Instr.pand ⟨0, 1, 8, 0⟩).wf = false := by decide
theorem test_shift_count_above_63_is_ill_formed : (Instr.shli ⟨false, 0, 0, 0, 64#7⟩).wf = false := by decide
theorem test_slide_above_8_is_ill_formed : (Instr.call ⟨0, 9, 0⟩).wf = false := by decide
theorem test_special_register_above_table_is_ill_formed : (Instr.sreg ⟨false, 0, 0, 40⟩).wf = false := by decide
theorem test_token_above_31_is_ill_formed : (Instr.tkwait ⟨0, 32⟩).wf = false := by decide
theorem test_scope_code_7_is_ill_formed : (Instr.fence ⟨0, 7, 0, false⟩).wf = false := by decide

/-! ### Decoding: words written out from the encodings of the spec -/

theorem test_decode_control : decode 0x00000000#32 = some (.nop ⟨0⟩) ∧ decode 0x02804004#32 = some (.call ⟨0, 2, 4⟩) ∧
    decode 0x0C008008#32 = some (.sreg ⟨false, 0, 4, 8⟩) ∧ decode 0x08000000#32 = some (.exit ⟨0⟩) ∧
    decode 0x00801283#32 = some (.mode ⟨0, 0x1283⟩) := by decide
theorem test_decode_integer : decode 0x27088064#32 = some (.movi ⟨false, 1, 4, 100⟩) ∧
    decode 0x1888A201#32 = some (.addi ⟨false, 1, 5, 4, 1#7⟩) ∧
    decode 0x1A80C28A#32 = some (.mul ⟨false, 0, 6, 5, 5⟩) := by decide
theorem test_decode_memory : decode 0x9200C202#32 = some (.ldB32 ⟨false, 0, 6, 4, 2⟩) ∧
    decode 0xA000C230#32 = some (.atomAdd ⟨0, 6, 4, 3⟩) ∧ decode 0xAF000036#32 = some (.fence ⟨0, 3, 1, true⟩) := by decide
theorem test_decode_sync : decode 0xB8002000#32 = some (.tkwait ⟨0, 1⟩) ∧ decode 0xBD000800#32 = some (.barr ⟨0, 16⟩) ∧
    decode 0xBE800800#32 = some (.bwait ⟨0, 16⟩) := by decide
theorem test_decode_engines : decode 0xC4002C00#32 = some (.cpy ⟨0, 1, 24⟩) ∧ decode 0xC6002C00#32 = some (.cpys ⟨0, 1, 24⟩) ∧
    decode 0xC701C000#32 = some (.seal ⟨0, 14⟩) ∧ decode 0xC7800700#32 = some (.waitb ⟨0, 14⟩) ∧
    decode 0xE0008C00#32 = some (.coll ⟨0, 4, 24⟩) ∧ decode 0xD800B000#32 = some (.mma ⟨0, 5, 32⟩) ∧
    decode 0xD9006C00#32 = some (.mzero ⟨0, 3, 24⟩) := by decide
theorem test_decode_system : decode 0xE8004200#32 = some (.eret ⟨0, 2, 4⟩) ∧ decode 0xEB000005#32 = some (.syscall ⟨0, 5⟩) ∧
    decode 0xEC800000#32 = some (.fclr ⟨0⟩) ∧ decode 0xE8814600#32 = some (.mappg ⟨0, 10, 12⟩) ∧
    decode 0xE9800600#32 = some (.tlbinv ⟨0, 12⟩) ∧ decode 0xED018700#32 = some (.tickq ⟨0, 12, 14⟩) ∧
    decode 0xED804800#32 = some (.msgs ⟨0, 2, 16⟩) ∧ decode 0xEE028000#32 = some (.msgr ⟨0, 20⟩) ∧
    decode 0xF4000800#32 = some (.trace ⟨0, 16⟩) := by decide
theorem test_decode_tree : decode 0xF0000E00#32 = some (.ctenr ⟨0, 28⟩) ∧ decode 0xF1806E00#32 = some (.ctcmp ⟨0, 3, 28⟩) ∧
    decode 0xF2002E00#32 = some (.ctset ⟨0, 1, 28⟩) := by decide
theorem test_unassigned_and_reserved_bits_do_not_decode : decode 0x08000001#32 = none ∧ decode 0x08400000#32 = none ∧
    decode 0xFFFFFFFF#32 = none := by decide

/-! ### Integers -/

-- The worked element example of R104: x0 = 0x7F01_80FF, x1 = 0x0102_FF01 under i8x4 (6) and u8x4 (7).
theorem test_add_packed_wraps : reg (.add ⟨false, 0, 2, 0, 1⟩) (one 6 0 false [0x7F0180FF, 0x0102FF01]) 0 2 = 0x80037F00 := by
  decide +kernel
theorem test_add_packed_saturates :
    reg (.add ⟨false, 0, 2, 0, 1⟩) (one 6 0 true [0x7F0180FF, 0x0102FF01]) 3 2 = 0x7F038000 ∧
    reg (.add ⟨false, 0, 2, 0, 1⟩) (one 7 0 true [0x7F0180FF, 0x0102FF01]) 0 2 = 0x8003FFFF := by decide +kernel
theorem test_addi_sign_extends : reg (.addi ⟨false, 0, 2, 0, 0x7F⟩) (one 0 0 false [0]) 0 2 = 0xFFFFFFFF ∧
    reg64 (.addi ⟨false, 0, 2, 0, 0x7F⟩) (one 2 0 false [0, 1]) 0 2 = 0x00000000FFFFFFFF := by decide +kernel
theorem test_sub_clamps_unsigned : reg (.sub ⟨false, 0, 2, 0, 1⟩) (one 1 0 true [3, 5]) 0 2 = 0 ∧
    reg (.sub ⟨false, 0, 2, 0, 1⟩) (one 0 0 true [0x80000000, 1]) 0 2 = 0x80000000 := by decide +kernel
theorem test_mul_low_half : reg (.mul ⟨false, 0, 2, 0, 1⟩) (one 0 0 false [0x10001, 0x10001]) 0 2 = 0x00020001 := by decide +kernel
theorem test_mulhi_by_sign : reg (.mulhi ⟨false, 0, 2, 0, 1⟩) (one 0 0 false [0xFFFFFFFF, 2]) 0 2 = 0xFFFFFFFF ∧
    reg (.mulhi ⟨false, 0, 2, 0, 1⟩) (one 1 0 false [0xFFFFFFFF, 2]) 0 2 = 1 := by decide +kernel
-- The program of R115: 4 × 4 added to 9.
theorem test_mad_adds_destination : reg (.mad ⟨false, 0, 2, 1, 1⟩) (one 0 0 false [3, 4, 9]) 0 2 = 25 := by decide +kernel
theorem test_min_max_by_sign : reg (.min ⟨false, 0, 2, 0, 1⟩) (one 0 0 false [0xFFFFFFFF, 1]) 0 2 = 0xFFFFFFFF ∧
    reg (.max ⟨false, 0, 2, 0, 1⟩) (one 1 0 false [0xFFFFFFFF, 1]) 0 2 = 0xFFFFFFFF := by decide +kernel
theorem test_abs_of_least : reg (.abs ⟨false, 0, 2, 0⟩) (one 0 0 false [0x80000000]) 0 2 = 0x80000000 ∧
    reg (.abs ⟨false, 0, 2, 0⟩) (one 0 0 true [0x80000000]) 0 2 = 0x7FFFFFFF := by decide +kernel
theorem test_neg_unsigned_saturates : reg (.neg ⟨false, 0, 2, 0⟩) (one 1 0 true [5]) 0 2 = 0 ∧
    reg (.neg ⟨false, 0, 2, 0⟩) (one 1 0 false [5]) 0 2 = 0xFFFFFFFB := by decide +kernel
theorem test_shl_by_width : reg (.shl ⟨false, 0, 2, 0, 1⟩) (one 0 0 false [1, 32]) 0 2 = 0 ∧
    reg (.shl ⟨false, 0, 2, 0, 1⟩) (one 0 0 true [1, 32]) 0 2 = 0x7FFFFFFF := by decide +kernel
theorem test_shr_takes_zeros_in : reg (.shr ⟨false, 0, 2, 0, 1⟩) (one 0 0 false [0x80000000, 31]) 0 2 = 1 ∧
    reg (.shr ⟨false, 0, 2, 0, 1⟩) (one 0 0 false [0x80000000, 32]) 0 2 = 0 := by decide +kernel
theorem test_sar_takes_sign_in : reg (.sar ⟨false, 0, 2, 0, 1⟩) (one 1 0 false [0x80000000, 99]) 0 2 = 0xFFFFFFFF := by decide +kernel
theorem test_shift_immediates : reg (.shli ⟨false, 0, 2, 0, 2⟩) (one 0 0 false [2]) 0 2 = 8 ∧
    reg (.shri ⟨false, 0, 2, 0, 4⟩) (one 0 0 false [0xF0000000]) 0 2 = 0x0F000000 ∧
    reg (.sari ⟨false, 0, 2, 0, 4⟩) (one 0 0 false [0xF0000000]) 0 2 = 0xFF000000 := by decide +kernel
theorem test_rot_left_modulo : reg (.rot ⟨false, 0, 2, 0, 1⟩) (one 0 0 false [0x80000001, 33]) 0 2 = 3 ∧
    reg64 (.rot ⟨false, 0, 4, 0, 2⟩) (one 3 0 false [0, 0x80000000, 1]) 0 4 = 1 := by decide +kernel
theorem test_clz_of_zero : reg (.clz ⟨false, 0, 2, 0⟩) (one 0 0 false [0]) 0 2 = 32 ∧
    reg (.clz ⟨false, 0, 2, 0⟩) (one 4 0 false [0x00010100]) 0 2 = 0x000F0007 := by decide +kernel
theorem test_popc_per_element : reg (.popc ⟨false, 0, 2, 0⟩) (one 6 0 false [0xFF010380]) 0 2 = 0x08010201 := by decide +kernel
theorem test_bitwise : reg (.and ⟨false, 0, 2, 0, 1⟩) (one 0 0 false [0xF0F0, 0xFF00]) 0 2 = 0xF000 ∧
    reg (.or ⟨false, 0, 2, 0, 1⟩) (one 0 0 false [0xF0F0, 0xFF00]) 0 2 = 0xFFF0 ∧
    reg (.xor ⟨false, 0, 2, 0, 1⟩) (one 0 0 false [0xF0F0, 0xFF00]) 0 2 = 0x0FF0 ∧
    reg (.not ⟨false, 0, 2, 0⟩) (one 0 0 false [0xF0F0]) 0 2 = 0xFFFF0F0F := by decide +kernel
-- R100: ANDI x3, x3, -64 clears the six low bits.
theorem test_andi_clears_low_bits : reg (.andi ⟨false, 0, 3, 3, 0x40⟩) (one 0 0 false [0, 0, 0, 0x12345678]) 0 3 = 0x12345640 ∧
    reg (.ori ⟨false, 0, 3, 3, 0x7F⟩) (one 0 0 false [0]) 0 3 = 0xFFFFFFFF := by decide +kernel
theorem test_mov_pair : reg64 (.mov ⟨false, 0, 2, 0⟩) (one 2 0 false [1, 2]) 0 2 = 0x0000000200000001 ∧
    reg (.mov ⟨false, 0, 2, 0⟩) (one 0 0 false [1, 2]) 0 3 = 0 := by decide +kernel
theorem test_movi_sign_extends : reg64 (.movi ⟨false, 0, 2, 0x1FFF⟩) (one 3 0 false []) 0 2 = 0xFFFFFFFFFFFFFFFF ∧
    reg (.movi ⟨false, 0, 2, 0x1000⟩) (one 0 0 false []) 0 2 = 0xFFFFF000 := by decide +kernel
theorem test_lea_wraps : reg64 (.lea ⟨false, 0, 4, 0, 2⟩) (one 0 0 false [0, 0, 0xFFFFFFFF]) 0 4 = 0xFFFFFFFFFFFFFFFF := by decide +kernel
theorem test_bfx_signs : reg (.bfx ⟨false, 0, 2, 0, 1⟩) (one 0 0 false [0x00000F80, 0x0508]) 0 2 = 0x0F ∧
    reg (.bfx ⟨false, 0, 2, 0, 1⟩) (one 0 0 false [0x00001F80, 0x0508]) 0 2 = 0xFFFFFFFF ∧
    reg (.bfx ⟨false, 0, 2, 0, 1⟩) (one 1 0 false [0x80000000, 0xFF1F]) 0 2 = 1 := by decide +kernel
theorem test_bfi_keeps_rest : reg (.bfi ⟨false, 0, 2, 0, 1⟩) (one 0 0 false [0xFFFFFFAB, 0x0808, 0x11111111]) 0 2 = 0x1111AB11 ∧
    reg (.bfi ⟨false, 0, 2, 0, 1⟩) (one 0 0 false [0xFFFFFFAB, 0x0020, 0x11111111]) 0 2 = 0x11111111 := by decide +kernel
theorem test_addc_carries : reg (.addc ⟨false, 0, 2, 0, 1⟩) ((one 0 0 false [0xFFFFFFFF, 0]).withPreds 0x40) 0 2 = 0 ∧
    pred (.addc ⟨false, 0, 2, 0, 1⟩) ((one 0 0 false [0xFFFFFFFF, 0]).withPreds 0x40) 0 6 = true := by decide +kernel
theorem test_subc_borrows : reg (.subc ⟨false, 0, 2, 0, 1⟩) ((one 0 0 false [5, 5]).withPreds 0x40) 0 2 = 0xFFFFFFFF ∧
    pred (.subc ⟨false, 0, 2, 0, 1⟩) ((one 0 0 false [5, 5]).withPreds 0x40) 0 6 = true := by decide +kernel
theorem test_addc_packed_is_illegal : trapped (.addc ⟨false, 0, 2, 0, 1⟩) (bench (one 6 0 false [])) .illegal = true := by
  decide +kernel

/-! ### Comparisons, predicates and lanes -/

theorem test_cmp_by_sign : pred (.cmpLt ⟨false, 0, 1, 0, 1⟩) (one 0 0 false [0xFFFFFFFF, 1]) 0 1 = true ∧
    pred (.cmpLt ⟨false, 0, 1, 0, 1⟩) (one 1 0 false [0xFFFFFFFF, 1]) 0 1 = false ∧
    pred (.cmpGe ⟨false, 0, 1, 0, 1⟩) (one 1 0 false [0xFFFFFFFF, 1]) 0 1 = true ∧
    pred (.cmpNe ⟨false, 0, 1, 0, 1⟩) (one 1 0 false [1, 1]) 0 1 = false := by decide +kernel
theorem test_cmp_equal_values : pred (.cmpEq ⟨false, 0, 1, 0, 1⟩) (one 0 0 false [7, 7]) 0 1 = true ∧
    pred (.cmpLe ⟨false, 0, 1, 0, 1⟩) (one 0 0 false [7, 7]) 0 1 = true ∧
    pred (.cmpGt ⟨false, 0, 1, 0, 1⟩) (one 0 0 false [7, 7]) 0 1 = false := by decide +kernel
-- R104: for an unsigned compare, an immediate of -1 means the largest value.
theorem test_cmpi_minus_one : pred (.cmpiEq ⟨false, 0, 1, 0, 0x7F⟩) (one 1 0 false [0xFFFFFFFF]) 0 1 = true ∧
    pred (.cmpiLt ⟨false, 0, 1, 0, 0x7F⟩) (one 1 0 false [5]) 0 1 = true ∧
    pred (.cmpiLe ⟨false, 0, 1, 0, 0x7F⟩) (one 0 0 false [5]) 0 1 = false ∧
    pred (.cmpiGt ⟨false, 0, 1, 0, 0x7F⟩) (one 0 0 false [5]) 0 1 = true := by decide +kernel
theorem test_cmpi_pair : pred (.cmpiGe ⟨false, 0, 1, 0, 1⟩) (one 2 0 false [0, 1]) 0 1 = true ∧
    pred (.cmpiNe ⟨false, 0, 1, 0, 0⟩) (one 2 0 false [0, 1]) 0 1 = true := by decide +kernel
theorem test_cmp_packed_is_illegal : trapped (.cmpEq ⟨false, 0, 1, 0, 1⟩) (bench (one 4 0 false [])) .illegal = true := by
  decide +kernel
theorem test_sel_by_each_predicate : ([Instr.selP1 ⟨false, 0, 2, 0, 1⟩, .selP3 ⟨false, 0, 2, 0, 1⟩, .selP5 ⟨false, 0, 2, 0, 1⟩,
      .selP7 ⟨false, 0, 2, 0, 1⟩].all fun i => reg i ((one 0 0 false [10, 20]).withPreds 0xAA) 0 2 == 10) = true ∧
    ([Instr.selP2 ⟨false, 0, 2, 0, 1⟩, .selP4 ⟨false, 0, 2, 0, 1⟩, .selP6 ⟨false, 0, 2, 0, 1⟩].all fun i =>
      reg i ((one 0 0 false [10, 20]).withPreds 0xAA) 0 2 == 20) = true := by decide +kernel
theorem test_predicate_logic : pred (.pand ⟨0, 3, 1, 2⟩) ((one 0 0 false []).withPreds 0x02) 0 3 = false ∧
    pred (.por ⟨0, 3, 1, 2⟩) ((one 0 0 false []).withPreds 0x02) 0 3 = true ∧
    pred (.pxor ⟨0, 3, 1, 1⟩) ((one 0 0 false []).withPreds 0x0A) 0 3 = false ∧
    pred (.pnot ⟨0, 3, 1⟩) ((one 0 0 false []).withPreds 0x0A) 0 3 = false := by decide +kernel
theorem test_write_to_p0_is_discarded : pred (.pnot ⟨0, 0, 0⟩) (one 0 0 false []) 0 0 = true ∧
    pred (.cmpEq ⟨false, 0, 0, 0, 1⟩) (one 0 0 false [1, 2]) 0 0 = true := by decide +kernel
theorem test_pset_pget : pred (.pset ⟨0, 5, 0⟩) (one 2 0 false [0, 1]) 0 5 = false ∧
    reg (.pget ⟨0, 2⟩) ((one 0 0 false []).withPreds 0xA4) 0 2 = 0xA5 := by decide +kernel
theorem test_shfl_idx_out_of_gang_keeps_own :
    let c := ((one 0 0 false []).put 0 0 100).put 1 0 101 |>.put 0 1 1 |>.put 1 1 9
    reg (.shflIdx ⟨0, 2, 0, 1⟩) c 0 2 = 101 ∧ reg (.shflIdx ⟨0, 2, 0, 1⟩) c 1 2 = 101 := by decide +kernel
theorem test_shfl_up_down_xor :
    let c := (((one 0 0 false [0, 1]).put 0 0 100).put 1 0 101).put 3 0 103
    reg (.shflUp ⟨0, 2, 0, 1⟩) c 1 2 = 100 ∧ reg (.shflUp ⟨0, 2, 0, 1⟩) c 0 2 = 100 ∧
    reg (.shflDown ⟨0, 2, 0, 1⟩) c 0 2 = 101 ∧ reg (.shflXor ⟨0, 2, 0, 1⟩) c 0 2 = 101 ∧
    reg (.shflXor ⟨0, 2, 0, 1⟩) c 2 2 = 103 := by decide +kernel
theorem test_bcast_of_a_dead_lane_is_zero :
    reg (.bcast ⟨0, 2, 0, 1⟩) ((one 0 0 false [7, 3]).put 3 0 42) 0 2 = 42 ∧
    reg (.bcast ⟨0, 2, 0, 1⟩) (one 0 0 false [7, 5]) 0 2 = 0 := by decide +kernel
theorem test_vote_predicates :
    let c := (one 0 0 false []).modLanes 2 fun _ ln => ln.setPred 1 true
    pred (.voteAny ⟨0, 2, 1⟩) c 3 2 = true ∧ pred (.voteAll ⟨0, 2, 1⟩) c 3 2 = false ∧
    reg (.voteBallot ⟨0, 2, 1⟩) c 0 2 = 2 := by decide +kernel
theorem test_vote_add_wraps : reg (.voteAdd ⟨0, 2, 0⟩) (one 6 0 false [0x01404001]) 0 2 = 0x04000004 := by decide +kernel
-- R77's example: 2^24, 1, 1 and -2^24 under RNE give 1.0 and nothing else.
theorem test_vote_fadd_tree : reg (.voteFadd ⟨0, 2, 0⟩)
    ((((one 8 0 false [0x3F800000]).put 0 0 0x4B800000).put 3 0 0xCB800000)) 0 2 = 0x3F800000 := by decide +kernel
theorem test_guard_off_lane_is_unchanged : reg (.movi ⟨false, 0, 2, 5⟩) ((crewOf 1 0x0009 [0, 0, 77]).withPreds 0) 0 2 = 77 := by
  decide +kernel
theorem test_uniform_writes_lowest_lanes_value :
    reg (.mov ⟨true, 0, 2, 0⟩) ((one 0 0 false [7]).put 0 0 9) 3 2 = 9 := by decide +kernel

/-! ### Floating point -/

theorem test_fadd_rounds_to_even : reg (.fadd ⟨false, 0, 2, 0, 1⟩) (one 8 0 false [0x4B800000, 0x3F800000]) 0 2 = 0x4B800000 ∧
    reg (.fadd ⟨false, 0, 2, 0, 1⟩) (one 8 3 false [0x4B800000, 0x3F800000]) 0 2 = 0x4B800001 := by decide +kernel
theorem test_fsub_of_infinities_is_nan : reg (.fsub ⟨false, 0, 2, 0, 1⟩) (one 8 0 false [0x7F800000, 0x7F800000]) 0 2 = 0x7FC00000 := by
  decide +kernel
theorem test_fmul_overflow : reg (.fmul ⟨false, 0, 2, 0, 1⟩) (one 8 0 false [0x7F7FFFFF, 0x40000000]) 0 2 = 0x7F800000 ∧
    reg (.fmul ⟨false, 0, 2, 0, 1⟩) (one 8 0 true [0x7F7FFFFF, 0x40000000]) 0 2 = 0x7F7FFFFF := by decide +kernel
theorem test_fma_rounds_once : reg (.fma ⟨false, 0, 2, 0, 1⟩) (one 8 0 false [0x3F800001, 0x3F800001, 0xBF800002]) 0 2 = 0x28800000 := by
  decide +kernel
theorem test_fmin_fmax_of_zeros : reg (.fmin ⟨false, 0, 2, 0, 1⟩) (one 8 0 false [0, 0x80000000]) 0 2 = 0x80000000 ∧
    reg (.fmax ⟨false, 0, 2, 0, 1⟩) (one 8 0 false [0x80000000, 0]) 0 2 = 0 := by decide +kernel
theorem test_fabs_fneg : reg (.fabs ⟨false, 0, 2, 0⟩) (one 9 0 false [0xC000FC01]) 0 2 = 0x40007E00 ∧
    reg (.fneg ⟨false, 0, 2, 0⟩) (one 8 0 false [0x80000000]) 0 2 = 0 := by decide +kernel
-- R108: -0.3 gives -0 under RNE.
theorem test_frnd_keeps_sign : reg (.frnd ⟨false, 0, 2, 0⟩) (one 8 0 false [0xBE99999A]) 0 2 = 0x80000000 := by decide +kernel
-- The program of R115: 25 is 0x41C8_0000 and its root 5.0.
theorem test_icvt_sf_and_fsqrt : reg (.icvtSf ⟨false, 0, 2, 0⟩) (one 0 0 false [25]) 0 2 = 0x41C80000 ∧
    reg (.fsqrt ⟨false, 0, 2, 0⟩) (one 0 0 false [0x41C80000]) 0 2 = 0x40A00000 := by decide +kernel
theorem test_frcp_frsq_of_zero : reg (.frcp ⟨false, 0, 2, 0⟩) (one 8 0 false [0x80000000]) 0 2 = 0xFF800000 ∧
    reg (.frsq ⟨false, 0, 2, 0⟩) (one 8 0 false [0x40800000]) 0 2 = 0x3F000000 := by decide +kernel
theorem test_exp_log_tanh_exact_points : reg (.fexp2 ⟨false, 0, 2, 0⟩) (one 8 0 false [0x40400000]) 0 2 = 0x41000000 ∧
    reg (.flog2 ⟨false, 0, 2, 0⟩) (one 8 0 false [0x41000000]) 0 2 = 0x40400000 ∧
    reg (.flog2 ⟨false, 0, 2, 0⟩) (one 8 0 false [0]) 0 2 = 0xFF800000 ∧
    reg (.ftanh ⟨false, 0, 2, 0⟩) (one 8 0 false [0xFF800000]) 0 2 = 0xBF800000 := by decide +kernel
theorem test_fcmp_nan : pred (.fcmpNe ⟨false, 0, 1, 0, 1⟩) (one 8 0 false [0x7FC00000, 0]) 0 1 = true ∧
    pred (.fcmpLe ⟨false, 0, 1, 0, 1⟩) (one 8 0 false [0x7FC00000, 0]) 0 1 = false ∧
    pred (.fcmpGe ⟨false, 0, 1, 0, 1⟩) (one 8 0 false [0x7FC00000, 0]) 0 1 = false ∧
    pred (.fcmpUn ⟨false, 0, 1, 0, 1⟩) (one 8 0 false [0x7FC00000, 0]) 0 1 = true := by decide +kernel
theorem test_fcmp_zeros_and_order : pred (.fcmpEq ⟨false, 0, 1, 0, 1⟩) (one 8 0 false [0x80000000, 0]) 0 1 = true ∧
    pred (.fcmpLt ⟨false, 0, 1, 0, 1⟩) (one 8 0 false [0x80000000, 0]) 0 1 = false ∧
    pred (.fcmpGt ⟨false, 0, 1, 0, 1⟩) (one 8 0 false [0x3F800000, 0xFF800000]) 0 1 = true := by decide +kernel
theorem test_fclass_codes : reg (.fclass ⟨false, 0, 2, 0⟩) (one 8 0 false [0x80000001]) 0 2 = 4 ∧
    reg (.fclass ⟨false, 0, 2, 0⟩) (one 9 0 false [0x7C017C00]) 0 2 = 0x01000080 := by decide +kernel
theorem test_fdot2 : reg (.fdot2 ⟨false, 0, 2, 0, 1⟩) (one 9 0 false [0x40003C00, 0x42003C00, 0x3F800000]) 0 2 = 0x41000000 ∧
    trapped (.fdot2 ⟨false, 0, 2, 0, 1⟩) (bench (one 8 0 false [])) .illegal = true := by decide +kernel
-- R69: 500.0 to E4M3 gives 0x7F with sat 0, 0x7E with sat 1, and 0x7E under RTZ.
theorem test_fcvt_e4m3_of_500 :
    reg (.fcvtE4m3x4 ⟨false, 0, 4, 0⟩) (one 8 0 false [0x43FA0000, 0, 0, 0x7F800000]) 0 4 = 0x7F00007F ∧
    reg (.fcvtE4m3x4 ⟨false, 0, 4, 0⟩) (one 8 0 true [0x43FA0000, 0, 0, 0x7F800000]) 0 4 = 0x7E00007E ∧
    reg (.fcvtE4m3x4 ⟨false, 0, 4, 0⟩) (one 8 1 false [0x43FA0000, 0, 0, 0x7F800000]) 0 4 = 0x7F00007E := by decide +kernel
theorem test_fcvt_widens : reg (.fcvtF32 ⟨false, 0, 2, 0⟩) (one 9 0 false [0x3C000001]) 0 2 = 0x33800000 ∧
    reg (.fcvtF32 ⟨false, 0, 2, 0⟩) (one 9 0 false [0x3C000001]) 0 3 = 0x3F800000 := by decide +kernel
theorem test_fcvt_narrows : reg (.fcvtF16x2 ⟨false, 0, 2, 0⟩) (one 8 0 false [0x3F800000, 0x477FF000]) 0 2 = 0x7C003C00 ∧
    reg (.fcvtBf16x2 ⟨false, 0, 2, 0⟩) (one 8 0 false [0x3F808000, 0x3F818000]) 0 2 = 0x3F823F80 ∧
    reg (.fcvtE5m2x4 ⟨false, 0, 4, 0⟩) (one 9 0 false [0x7C003C00, 0xBC007BFF]) 0 4 = 0xBC7C7C3C := by decide +kernel
-- R115: 3.0e9 and -0.4.
theorem test_icvt_out_of_range : reg (.icvtFs ⟨false, 0, 2, 0⟩) (one 0 0 false [0x4F32D05E]) 0 2 = 0x80000000 ∧
    reg (.icvtFs ⟨false, 0, 2, 0⟩) (one 0 0 true [0x4F32D05E]) 0 2 = 0x7FFFFFFF ∧
    reg (.icvtFu ⟨false, 0, 2, 0⟩) (one 0 0 false [0x4F32D05E]) 0 2 = 0xB2D05E00 ∧
    reg (.icvtFu ⟨false, 0, 2, 0⟩) (one 0 0 false [0xBECCCCCD]) 0 2 = 0 := by decide +kernel
theorem test_icvt_uf_rounds : reg (.icvtUf ⟨false, 0, 2, 0⟩) (one 0 0 false [0xFFFFFFFF]) 0 2 = 0x4F800000 := by decide +kernel
theorem test_fscal_into_subnormals : reg (.fscal ⟨false, 0, 2, 0, 1⟩) (one 8 0 false [0x3F800003, 0xFFFFFF6B]) 0 2 = 0x00000001 ∧
    reg (.fscal ⟨false, 0, 2, 0, 1⟩) (one 8 0 false [0x3FC00000, 0x7FFFFFFF]) 0 2 = 0x7F800000 := by decide +kernel

/-! ### Witnesses of the statements about instructions that compute -/

theorem witness_ElementResults : (∃ F, elementForm (.mad ⟨true, 0, 2, 0, 1⟩) = some F ∧
    (bench (one 6 0 true [1, 2])).clears F.head 2 [0] (one 6 0 true [1, 2]) = true) ∧
    (0 < 8 ∧ minInt true 8 ≤ 5 ∧ 5 ≤ maxInt true 8 ∧ maxInt true 8 < 128 ∧ -129 < minInt true 8) :=
  ⟨⟨_, rfl, by decide +kernel⟩, by decide⟩
theorem witness_WholeRegisters : (∃ F, wholeForm (.andi ⟨false, 0, 2, 0, 0x40⟩) = some F ∧
      (bench (one 2 0 false [1, 2])).clears F.head 2 [0] (one 2 0 false [1, 2]) = true) ∧
    (bench (one 2 0 false [])).clears (moviHead ⟨false, 0, 2, 0x1FFF⟩).scalar 2 [0] (one 2 0 false []) = true :=
  ⟨⟨_, rfl, by decide +kernel⟩, by decide +kernel⟩
theorem test_lea_odd_pair_is_illegal : trapped (.lea ⟨false, 1, 5, 4, 2⟩) (bench (one 0 0 false [])) .illegal = true ∧
    trapped (.lea ⟨false, 1, 6, 3, 2⟩) (bench (one 0 0 false [])) .illegal = true := by decide +kernel
theorem witness_Addresses :
    (bench (one 0 0 false [])).clears (leaHead ⟨false, 0, 4, 0, 2⟩).scalar 2 [0] (one 0 0 false []) = true ∧
    (bench (one 0 0 false [])).cur = some (2, [0]) ∧ gangShape [0] = true := by decide +kernel
theorem witness_Bitfields : ([false, true].all fun d =>
    (bench (one 3 0 false [])).clears (intHead false 0 2 0 (.count 5) d false).scalar 2 [0] (one 3 0 false [])) = true := by
  decide +kernel
theorem witness_CarryChain :
    (bench (one 1 0 false [7])).clears (carryHead ⟨false, 0, 2, 0, 1⟩).scalar 2 [0] (one 1 0 false [7]) = true ∧
    (let s := bench (one 6 0 false [])
     let h := (carryHead ⟨false, 0, 2, 0, 1⟩).scalar
     let x := s.issueOf h 2 [0] (one 6 0 false [])
     s.cur = some (2, [0]) ∧ tget s.crews 2 = some (one 6 0 false []) ∧ x.misnamed h = false ∧ x.waits h = false ∧
       x.split h = 0 ∧ x.act ≠ 0 ∧ 0 ∈ x.actors) := by decide +kernel
theorem witness_ComparisonsAndSelection :
    (∃ F, compareForm (.cmpiLt ⟨false, 0, 7, 0, 0x7F⟩) = some F ∧ (Instr.cmpiLt ⟨false, 0, 7, 0, 0x7F⟩).wf = true ∧
      (bench (one 3 0 false [])).clears F.head 2 [0] (one 3 0 false []) = true ∧
      (let s := bench (one 7 0 false [])
       let x := s.issueOf F.head 2 [0] (one 7 0 false [])
       x.misnamed F.head = false ∧ x.waits F.head = false ∧ x.split F.head = 0 ∧ x.act ≠ 0 ∧ 0 ∈ x.actors)) ∧
    (bench (one 0 0 false [])).clears (selectHead ⟨false, 0, 2, 0, 1⟩ 7).scalar 2 [0] (one 0 0 false []) = true :=
  ⟨⟨_, rfl, by decide +kernel⟩, by decide +kernel⟩
theorem witness_Predicates : (Instr.pxor ⟨0, 7, 7, 0⟩).wf = true ∧ (Instr.pnot ⟨0, 7, 7⟩).wf = true ∧
    (Instr.pset ⟨0, 7, 63⟩).wf = true ∧ predForm (.pxor ⟨0, 7, 7, 0⟩) = some (⟨0, 7, 7, 0⟩, fun p q => p != q) ∧
    ([(predOpHead ⟨0, 7, 7, 0⟩).scalar, (pnotHead ⟨0, 7, 7⟩).scalar, (psetHead ⟨0, 7, 63⟩).scalar, (pgetHead ⟨0, 63⟩).scalar].all
      fun h => (bench (one 0 0 false [])).clears h 2 [0] (one 0 0 false [])) = true :=
  ⟨by decide, by decide, by decide, rfl, by decide +kernel⟩
theorem witness_LaneExchangeAndVotes : (Instr.voteAny ⟨0, 7, 7⟩).wf = true ∧
    (∃ src, shuffleForm (.shflXor ⟨0, 2, 0, 1⟩) = some (⟨0, 2, 0, 1⟩, src) ∧
      (bench (one 0 0 false [])).clears (shuffleHead ⟨0, 2, 0, 1⟩ src).scalar 2 [0] (one 0 0 false []) = true) ∧
    ([(bcastHead ⟨0, 2, 0, 1⟩).scalar, (votePredHead ⟨0, 7, 7⟩).scalar,
      (voteBallotHead ⟨0, 2, 7⟩).scalar, voteAddHead ⟨0, 2, 0⟩].all fun h =>
        (bench (one 0 0 false [])).clears h 2 [0] (one 0 0 false [])) = true :=
  ⟨by decide, ⟨_, rfl, by decide +kernel⟩, by decide +kernel⟩
theorem witness_FloatResults : (0x7FC00000 < 2 ^ fmtWidth .fp32) ∧ ∃ F, floatForm (.fma ⟨false, 0, 2, 0, 1⟩) = some F ∧
    (bench (one 10 4 true [])).clears F.head 2 [0] (one 10 4 true []) = true ∧
    (let x := (bench (one 12 0 false [])).issueOf F.head 2 [0] (one 12 0 false [])
     x.misnamed F.head = false ∧ x.waits F.head = false ∧ x.act ≠ 0 ∧ 0 ∈ x.actors) :=
  ⟨by decide, _, rfl, by decide +kernel⟩
theorem witness_FloatSpecialsAndComparisons :
    (bench (one 9 0 false [])).clears (fscalHead ⟨false, 0, 2, 0, 1⟩).scalar 2 [0] (one 9 0 false []) = true ∧
    (bench (one 10 0 false [])).clears (fclassHead ⟨false, 0, 2, 0⟩).scalar 2 [0] (one 10 0 false []) = true ∧
    (bench (one 9 0 false [])).clears (fdot2Head ⟨false, 0, 2, 0, 1⟩).scalar 2 [0] (one 9 0 false []) = true ∧
    (bench (one 8 0 false [])).clears (floatCompareHead ⟨false, 0, 7, 0, 1⟩).scalar 2 [0] (one 8 0 false []) = true ∧
    (Instr.fcmpUn ⟨false, 0, 7, 0, 1⟩).wf = true ∧
    floatCompareForm (.fcmpUn ⟨false, 0, 7, 0, 1⟩) = some (⟨false, 0, 7, 0, 1⟩, .un) ∧
    (let x := (bench (one 9 0 false [])).issueOf (floatCompareHead ⟨false, 0, 7, 0, 1⟩).scalar 2 [0] (one 9 0 false [])
     x.misnamed (floatCompareHead ⟨false, 0, 7, 0, 1⟩).scalar = false ∧
       x.waits (floatCompareHead ⟨false, 0, 7, 0, 1⟩).scalar = false ∧ x.act ≠ 0 ∧ 0 ∈ x.actors) := by decide +kernel
theorem witness_Conversions : convertForm (.fcvtF32 ⟨false, 0, 4, 0⟩) = some (⟨false, 0, 4, 0⟩, .fp32) ∧
    (bench (one 11 0 false [])).clears (floatConvertHead ⟨false, 0, 4, 0⟩ .fp32).scalar 2 [0] (one 11 0 false []) = true ∧
    (bench (one 2 0 false [])).clears (convertIntHead ⟨false, 0, 4, 0⟩).scalar 2 [0] (one 2 0 false []) = true ∧
    (bench (one 3 0 true [])).clears (convertFloatHead ⟨false, 0, 4, 0⟩).scalar 2 [0] (one 3 0 true []) = true := by decide +kernel

/-- The leaves and levels of VOTE.fadd's tree over these leaves (R77). -/
def treeOf (leaf : Nat → Option Nat) : Nat → Nat → Option Nat
  | 0, i => leaf i
  | n + 1, i => match treeOf leaf n (2 * i), treeOf leaf n (2 * i + 1) with
    | some a, some b => some (roundFl .fp32 0 false (addFl 0 (decodeFl .fp32 a) (decodeFl .fp32 b)))
    | some a, none => some a
    | none, b => b

theorem witness_TreeVote : (bench (one 8 0 false [])).clears (voteFaddHead ⟨0, 2, 0⟩) 2 [0] (one 8 0 false []) = true ∧
    ∃ node : Nat → Nat → Option Nat, (∀ l < 32, node 0 l = if l < 4 then some 0 else none) ∧
      (∀ n, ∀ i < 32, node (n + 1) i = match node n (2 * i), node n (2 * i + 1) with
        | some a, some b => some (roundFl .fp32 0 false (addFl 0 (decodeFl .fp32 a) (decodeFl .fp32 b)))
        | some a, none => some a
        | none, b => b) :=
  ⟨by decide +kernel, treeOf fun l => if l < 4 then some 0 else none, fun _ _ => rfl, fun _ _ _ => rfl⟩
theorem witness_ComputingFrame : ∃ F, laneForm (.addc ⟨false, 0, 2, 0, 1⟩) = some F ∧ (Instr.addc ⟨false, 0, 2, 0, 1⟩).wf = true ∧
    (bench (one 0 0 false [])).clears F.head 2 [0] (one 0 0 false []) = true := ⟨_, rfl, by decide +kernel⟩

/-! ### Reports -/

/-- The state after an instruction on the bench, changed first by f; reset where the machine does not go on. -/
def left (i : Instr) (s : State) : State := match exec i s with | .next t => t | _ => State.reset

/-- A slice of the crew after an instruction. -/
def sl (i : Instr) (c : Crew) (j : Nat) : Slice := (ran i c).slice j

/-- The bench with one tile of one row of 16 bytes at handle 1. -/
def tiled (c : Crew) : State :=
  (bench c).modBlock 1 fun b => { b with tiles := [(1, ⟨9, false, false, 1, 16, [], [], false, []⟩)] }

theorem test_sreg_lane_and_clock : reg (.sreg ⟨false, 0, 2, 0⟩) (crewOf 2 8 []) 6 2 = 6 ∧
    reg (.sreg ⟨false, 0, 2, 1⟩) (crewOf 2 8 []) 6 2 = 1 ∧ reg64 (.sreg ⟨false, 0, 2, 8⟩) (one 0 0 false []) 0 2 = 0 ∧
    reg (.sreg ⟨false, 0, 2, 4⟩) (one 0 0 false []) 0 2 = 0xFFFFFFFF := by decide +kernel
-- R186: rows, and live in bit 31 with the row bytes; zeros for a handle that is not live.
theorem test_tquery : let t := left (.tquery ⟨0, 4, 2⟩) (tiled (one 0 0 false [0, 0, 1]))
    ((t.crews.head?.map fun e => ((e.2.lane 0).get 0 4, (e.2.lane 0).get 0 5)) = some (1, 0x80000010)) ∧
    reg64 (.tquery ⟨0, 4, 2⟩) (one 0 0 false [0, 0, 1, 0, 7, 7]) 0 4 = 0 := by decide +kernel
theorem test_fstat_fclr : reg64 (.fstat ⟨0, 4⟩) { one 0 0 false [] with fab := ⟨3, true, 2, 5⟩, rtimeout := true } 0 4 =
      0x0000080500030003 ∧
    ([(0, true), (1, false)].all fun e =>
      let c := ran (.fclr ⟨0⟩) { one 0 0 false [] with fab := ⟨3, true, 2, 5⟩, rtimeout := true, rtimeoutAt := e.1 }
      c.fab == ⟨0, false, 0, 0⟩ && c.rtimeout == e.2) = true := by decide +kernel
theorem test_tickq_collq_mseqq_of_nothing : reg64 (.tickq ⟨0, 4, 2⟩) (one 0 0 false [0, 0, 0]) 0 4 = 0 ∧
    reg64 (.tickq ⟨0, 4, 2⟩) (one 0 0 false [0, 0, 1]) 0 4 = 0x0000010000000000 ∧
    reg64 (.collq ⟨0, 4, 2⟩) (one 0 0 false [0, 0, 1]) 0 4 = 0 ∧ reg64 (.mseqq ⟨0, 4, 2⟩) (one 0 0 false [0, 0, 1]) 0 4 = 0 := by
  decide +kernel

theorem witness_SpecialReadsAndLiterals : (Instr.sreg ⟨true, 0, 2, 9⟩).wf = true ∧
    (bench (one 0 0 false [])).clears (sregHead ⟨true, 0, 2, 9⟩).scalar 2 [0] (one 0 0 false []) = true ∧
    (bench (one 0 0 false [])).clears (ldcHead ⟨false, 0, 2, 0⟩) 2 [0] (one 0 0 false []) = true ∧
    (bench (one 0 0 false [])).fetch (one 0 0 false []) 0 0 = .word 0 ∧
    (∃ e, (bench (one 0 0 false [])).fetch (one 0 0 false []) 0 0x1000 = .bad e) ∧
    ({ bench (one 0 0 false []) with marks := [0x80] } : State).fetch (one 0 0 false []) 0 0 = .walkMark :=
  ⟨by decide, by decide +kernel, by decide +kernel, by decide +kernel, ⟨.pagefault, by decide +kernel⟩, by decide +kernel⟩
theorem witness_Reports : (tiled (one 0 0 false [0, 0, 1])).clears (tqueryHead ⟨0, 4, 2⟩) 2 [0] (one 0 0 false [0, 0, 1]) = true ∧
    ([mseqqHead ⟨0, 4, 2⟩, collqHead ⟨0, 4, 2⟩, fstatHead ⟨0, 4⟩, fclrHead ⟨0⟩, tickqHead ⟨0, 4, 2⟩].all fun h =>
      (bench (one 0 0 false [0, 0, 1])).clears h 2 [0] (one 0 0 false [0, 0, 1])) = true ∧
    (one 0 0 false []).fab.count < 2 ^ 16 ∧ (one 0 0 false []).fab.cause < 4 ∧ (one 0 0 false []).fab.dev < 1024 := by
  decide +kernel

/-! ### Control -/

theorem test_nop_moves_on : (sl (.nop ⟨3⟩) (one 0 0 false []) 0).pc = 4 ∧ (sl (.nop ⟨3⟩) (one 0 0 false []) 0).readyAt = 4 := by
  decide +kernel
-- R39's example: mode(!p3, f32, rtz, 1) is 0x1283, whatever the guard.
theorem test_mode_ignores_guard : (sl (.mode ⟨0, 0x1283⟩) (crewOf 1 0 []) 0).mode = 0x1283 := by decide +kernel
theorem test_modex_reserved_is_illegal : trapped (.modex ⟨0, 1⟩) (bench (one 0 0 false [0, 0x2000])) .illegal = true ∧
    (sl (.modex ⟨0, 1⟩) (one 0 0 false [0, 0x0098]) 0).mode = 0x0098 := by decide +kernel
theorem test_bra_parts_the_gang : let c := (crewOf 2 9 []).modLanes 0xF fun _ ln => ln.setPred 1 true
    (sl (.bra ⟨0, 4⟩) c 0).pc = 16 ∧ (sl (.bra ⟨0, 4⟩) c 1).pc = 4 ∧ (sl (.bra ⟨0, 4⟩) c 0).gang ≠ (sl (.bra ⟨0, 4⟩) c 1).gang := by
  decide +kernel
theorem test_bra_divergent_guard_is_nonuniform :
    trapped (.bra ⟨0, 4⟩) (bench ((crewOf 1 9 []).modLanes 1 fun _ ln => ln.setPred 1 true)) .nonuniform = true := by decide +kernel
theorem test_brx_ignores_low_bits : (sl (.brx ⟨0, 2⟩) (one 0 0 false [0, 0, 0x1003, 1]) 0).pc = 0x100001000 := by decide +kernel
-- The program of R115: CALL 16 raises D to 16, and the caller's x16 is the callee's x0.
theorem test_call_slides : (ran (.call ⟨0, 2, 4⟩) (one 0 0 false (List.replicate 16 0 ++ [3]))).depth = 16 ∧
    (sl (.call ⟨0, 2, 4⟩) (one 0 0 false []) 0).pc = 16 ∧
    ((ran (.call ⟨0, 2, 4⟩) (one 0 0 false (List.replicate 16 0 ++ [3]))).lane 0).get 16 0 = 3 := by decide +kernel
theorem test_callx_links : (sl (.callx ⟨0, 1, 2⟩) (one 0 0 false [0, 0, 0x41, 0]) 0).pc = 0x40 ∧
    (sl (.callx ⟨0, 1, 2⟩) (one 0 0 false [0, 0, 0x41, 0]) 0).links = [⟨4, 8⟩] := by decide +kernel
theorem test_ret_undoes_call :
    let c := { (one 0 0 false []).modSlice 0 fun sl => { sl with links := [⟨0x84, 16⟩] } with depth := 16 }
    (ran (.ret ⟨0⟩) c).depth = 0 ∧ (sl (.ret ⟨0⟩) c 0).pc = 0x84 ∧ (sl (.ret ⟨0⟩) c 0).links = [] ∧
    trapped (.ret ⟨0⟩) (bench (one 0 0 false [])) .illegal = true := by decide +kernel
theorem test_ldc_reads_the_launch_code :
    reg (.ldc ⟨false, 0, 2, 0⟩) (one 0 0 false []) 3 2 = 0 ∧
    ((left (.ldc ⟨false, 0, 2, 0⟩) { State.reset.withFetchWord 32 0x5A5A0000 with
      crews := [(2, one 0 0 false [])], cur := some (2, [0]) }).crews.head?.map fun e => (e.2.lane 1).get 0 2) = some 0x5A5A0000 := by
  decide +kernel
theorem test_trap_saves : let c := ran (.trap ⟨0, 77⟩) (one 8 1 true [])
    c.sup.map (·.pcs) = some [0] ∧ c.sup.map (·.modes) = some [0x1288] ∧ c.trap.code = 77 ∧ c.depth = 64 ∧
    (c.slice 0).mode = 8 ∧ (c.slice 0).pc = BitVec.ofNat 64 (64 * Cause.brk.code) := by decide +kernel
theorem test_syscall_cause : (ran (.syscall ⟨0, 5⟩) (one 0 0 false [])).trap.cause = Cause.syscall.code ∧
    (ran (.syscall ⟨0, 5⟩) (one 0 0 false [])).trap.mask = 0xF := by decide +kernel
theorem test_eret_1_resumes_after :
    let c := { (one 0 0 false []).boss with depth := 64, sup := some ⟨[0], [0x100], [0x89], [0x02], 0, [0], 0⟩ }
    (sl (.eret ⟨0, 1, 0⟩) c 0).pc = 0x104 ∧ (sl (.eret ⟨0, 1, 0⟩) c 0).mode = 0x89 ∧ (ran (.eret ⟨0, 1, 0⟩) c).sup = none ∧
    (ran (.eret ⟨0, 1, 0⟩) c).depth = 0 ∧ pred (.eret ⟨0, 1, 0⟩) c 0 1 = true := by decide +kernel
theorem test_eret_outside_supervisor_state_protects : trapped (.eret ⟨0, 0, 0⟩) (bench (one 0 0 false [])) .protect = true := by
  decide +kernel
theorem test_exit_of_acting_slices : let c := (crewOf 2 9 []).modLanes 0xF fun _ ln => ln.setPred 1 true
    (sl (.exit ⟨0⟩) c 0).exited = true ∧ (sl (.exit ⟨0⟩) c 1).exited = false ∧ (sl (.exit ⟨0⟩) c 1).pc = 4 := by decide +kernel
theorem test_yield_sleep : (sl (.yield ⟨0⟩) (one 0 0 false []) 0).readyAt = 2 ∧
    (sl (.sleep ⟨0, 3⟩) (one 0 0 false []) 0).wait = .sleep 48 := by decide +kernel
theorem test_regang_syncc_wait : (sl (.regang ⟨0, 3⟩) (crewOf 2 8 []) 1).wait = .regang 3 ∧
    (sl (.syncc ⟨0⟩) (crewOf 2 8 []) 1).wait = .sync := by decide +kernel
theorem test_swreg_clears_poison :
    let c := { one 0 0 false [0, 0, 0x80000001] with poison := true, poisonAt := 9, ucheck := true }
    (ran (.swreg ⟨0, 2, 10⟩) c).poison = false ∧ (ran (.swreg ⟨0, 2, 10⟩) c).stcheck = true ∧
    (ran (.swreg ⟨0, 2, 10⟩) c).ucheck = false := by decide +kernel
theorem test_rolesw_smaller_takes_effect : let c := one 0 0 false [0, 0, 0, 0, 64, 0, 0x80, 0]
    (ran (.rolesw ⟨0, 4⟩) c).allot = 64 ∧ (sl (.rolesw ⟨0, 4⟩) c 0).pc = 0x80 ∧
    trapped (.rolesw ⟨0, 4⟩) (bench (one 0 0 false [0, 0, 0, 0, 256, 0, 0, 0])) .allot = true := by decide +kernel

/-- The heads pass every check on the bench with this crew. -/
def clearAll (c : Crew) (hs : List Head) : Bool := hs.all fun h => (bench c).clears h 2 (List.range c.nsl) c

/-- No slice of the crew has exited or waits. -/
def awakeAll (c : Crew) : Bool := (List.range c.nsl).all fun j => !(c.slice j).exited && decide ((c.slice j).wait = .none)

theorem awake_of {c : Crew} (h : awakeAll c = true) : c.awake (List.range c.nsl) := by
  intro j hj
  have := (List.all_eq_true.mp h) j hj
  simp only [Bool.and_eq_true, Bool.not_eq_true', decide_eq_true_eq] at this
  exact this

/-- A crew that CALL 16 has entered: one link, D = 16. -/
def called : Crew := { (one 0 0 false []).modSlice 0 (fun sl => { sl with links := [⟨0x84, 16⟩] }) with depth := 16 }

/-- The same with a spilled register whose place in memory is marked: a slide that RET must fill. -/
def spilled : Crew :=
  { (newCrew 1 0 0 1 0 16 0 0 [] 0 4096 false 0).modSlice 0 (fun sl => { sl with links := [⟨0x84, 16⟩] }) with
    depth := 16, spillSegs := [(⟨0x6000, 0⟩, 4096)] }

theorem witness_ModeAndStatusWrites : clearAll (one 0 0 false [0, 0x98]) [nopHead ⟨0⟩, modeHead ⟨0, 0x1283⟩, modexHead ⟨0, 1⟩,
    swregHead ⟨0, 2, 10⟩] = true := by decide +kernel
theorem witness_ControlTransfers :
    clearAll (one 0 0 false [0, 0, 0x1003, 1]) [braHead ⟨0, 4⟩, brxHead ⟨0, 2⟩, callHead ⟨0, 8, 4⟩, callxHead ⟨0, 1, 2⟩] = true ∧
    (one 0 0 false [0, 0, 0x1003, 1]).awake [0] ∧ (one 0 0 false []).fits 64 1 = true ∧ (one 0 0 false []).fits 72 1 = false ∧
    clearAll called [retHead ⟨0⟩] = true ∧ called.awake [0] ∧ (bench called).fillMarked called 16 = false ∧
    (let s := bench (one 0 0 false [])
     let x := s.issueOf (retHead ⟨0⟩) 2 [0] (one 0 0 false [])
     x.misnamed (retHead ⟨0⟩) = false ∧ x.waits (retHead ⟨0⟩) = false ∧ x.split (retHead ⟨0⟩) = 0 ∧ x.act ≠ 0 ∧
       ((one 0 0 false []).slice 0).links = []) ∧
    (let s : State := { bench spilled with marks := [0x302] }
     s.clears (retHead ⟨0⟩) 2 [0] spilled = true ∧ s.fillMarked spilled 16 = true) := by
  refine ⟨by decide +kernel, awake_of (by decide +kernel), by decide +kernel, by decide +kernel, by decide +kernel,
    awake_of (c := called) (by decide +kernel), by decide +kernel, by decide +kernel, by decide +kernel⟩
theorem witness_TrapEntry : clearAll (one 0 0 false []) [trapHead ⟨0, 77⟩, syscallHead ⟨0, 5⟩] = true ∧
    tget (bench (one 0 0 false [])).crews 2 = some (one 0 0 false []) ∧ gangShape [0] = true ∧
    (one 0 0 false []).sup = none ∧ (one 0 0 false []).fits 64 0 = true ∧ (one 0 0 false []).boss.sup ≠ none ∧
    called.sup = none ∧ called.fits 80 1 = false := by decide +kernel
theorem witness_TrapReturn :
    let c := { one 0 0 false [] with depth := 64, sup := some ⟨[0], [0x100], [0x89], [0x02], 0, [0], 0⟩ }
    (Instr.eret ⟨0, 2, 4⟩).wf = true ∧ clearAll c [eretHead ⟨0, 0, 0⟩, eretHead ⟨0, 1, 0⟩, eretHead ⟨0, 2, 4⟩, eretHead ⟨0, 3, 0⟩] = true ∧
    clearAll (one 0 0 false []) [eretHead ⟨0, 0, 0⟩] = true ∧ (bench c).fillMarked c c.window = false ∧
    (let d := { c with depth := 72 }
     let x := (bench d).issueOf (eretHead ⟨0, 0, 0⟩) 2 [0] d
     x.misnamed (eretHead ⟨0, 0, 0⟩) = false ∧ x.waits (eretHead ⟨0, 0, 0⟩) = false ∧ x.act ≠ 0 ∧ x.unbalanced = true) := by
  decide +kernel
theorem witness_SliceControl :
    clearAll (crewOf 2 8 [0, 0, 0, 0, 64, 0, 0x80, 0]) [exitHead ⟨0⟩, regangHead ⟨0, 3⟩, synccHead ⟨0⟩, yieldHead ⟨0⟩,
      sleepHead ⟨0, 3⟩, sleepHead ⟨0, 0⟩, roleswHead ⟨0, 4⟩] = true ∧ (crewOf 2 8 []).awake [0, 1] ∧
    (bench (one 0 0 false [])).otherClaims 1 2 + 64 ≤ 128 ∧ 128 < (bench (one 0 0 false [])).otherClaims 1 2 + 256 ∧
    (((tget (bench (one 0 0 false [])).blocks 1).map fun b => (bench (one 0 0 false [])).eff b.node 6) = some 0) ∧
    (bench (one 0 0 false [])).pends = [] :=
  ⟨by decide +kernel, awake_of (c := crewOf 2 8 []) (by decide +kernel), by decide +kernel, by decide +kernel, by decide +kernel,
    by decide +kernel⟩

/-! ### Global memory: the first page lies at physical 0x6000 -/

/-- The bench with n bytes of v at physical address pa. -/
def withMem (s : State) (pa v n : Nat) : State := { s with mem := memWrite s.mem pa (natBytes v n) }

/-- The crew of the bench. -/
def crewIn (s : State) : Crew := (tget s.crews 2).getD (crewOf 0 0 [])

/-- A register of a lane of a state's crew. -/
def regIn (s : State) (l r : Nat) : Word := ((crewIn s).lane l).get (crewIn s).depth r

/-- A crew with the address 0x100 in x0 and the registers from x2 on listed. -/
def at100 (etype : BitVec 5) (regs : List Word) : Crew := one etype 0 false ([0x100, 0] ++ regs)

theorem test_ld_extends : let s := withMem (bench (at100 0 [])) 0x6100 0x80FF 4
    regIn (left (.ldU8 ⟨false, 0, 4, 0, 0⟩) s) 0 4 = 0xFF ∧ regIn (left (.ldS8 ⟨false, 0, 4, 0, 1⟩) s) 0 4 = 0xFFFFFF80 ∧
    regIn (left (.ldU16 ⟨false, 0, 4, 0, 0⟩) s) 0 4 = 0x80FF ∧ regIn (left (.ldS16 ⟨false, 0, 4, 0, 0⟩) s) 0 4 = 0xFFFF80FF := by
  decide +kernel
theorem test_ld_scales_offset : let s := withMem (bench (at100 0 [])) 0x6110 0x0123456789ABCDEF 8
    regIn (left (.ldB32 ⟨false, 0, 4, 0, 4⟩) s) 0 4 = 0x89ABCDEF ∧ regIn (left (.ldB64 ⟨false, 0, 4, 0, 2⟩) s) 3 5 = 0x01234567 ∧
    regIn (left (.ldB128 ⟨false, 0, 4, 0, 1⟩) s) 3 5 = 0x01234567 ∧ regIn (left (.ldB128 ⟨false, 0, 4, 0, 1⟩) s) 3 6 = 0 := by
  decide +kernel
theorem test_ld_misaligned_and_unmapped : trapped (.ldB32 ⟨false, 0, 4, 0, 0⟩) (bench (one 0 0 false [0x102, 0])) .misalign = true ∧
    trapped (.ldB32 ⟨false, 0, 4, 0, 0⟩) (bench (one 0 0 false [0x1000, 0])) .pagefault = true := by decide +kernel
theorem test_ld_of_a_mark_is_dataerr :
    trapped (.ldB32 ⟨false, 0, 4, 0, 0⟩) { bench (at100 0 []) with marks := [0x6100 / 32] } .dataerr = true := by decide +kernel
theorem test_st_lanes_ascend : let s := bench ((at100 0 [0x11111111]).put 3 2 0x99999999)
    memNat (left (.stB32 ⟨0, 2, 0, 0⟩) s).mem 0x6100 4 = 0x99999999 ∧ memNat (left (.stB8 ⟨0, 2, 0, 0x7F⟩) s).mem 0x60FF 2 = 0x99 := by
  decide +kernel
theorem test_st_widths : let s := bench (at100 0 [0x11111111, 0x22222222, 0x33333333, 0x44444444])
    memNat (left (.stB16 ⟨0, 2, 0, 1⟩) s).mem 0x6100 8 = 0x11110000 ∧
    memNat (left (.stB64 ⟨0, 2, 0, 0⟩) s).mem 0x6100 8 = 0x2222222211111111 ∧
    memNat (left (.stB128 ⟨0, 4, 0, 0⟩) s).mem 0x6100 8 = 0x4444444433333333 := by decide +kernel
theorem test_atom_add_lanes_see_each_other : let s := withMem (bench (at100 0 [5])) 0x6100 0xFFFFFFFE 4
    memNat (left (.atomAdd ⟨0, 4, 0, 3⟩) { s with crews := [(2, (at100 0 [5, 0, 1]))] }).mem 0x6100 4 = 2 ∧
    regIn (left (.atomAdd ⟨0, 4, 0, 3⟩) { s with crews := [(2, (at100 0 [5, 0, 1]))] }) 0 4 = 0xFFFFFFFE ∧
    regIn (left (.atomAdd ⟨0, 4, 0, 3⟩) { s with crews := [(2, (at100 0 [5, 0, 1]))] }) 3 4 = 1 := by decide +kernel
theorem test_atom_min_max_by_sign : let s := withMem (bench (at100 1 [0, 0, 0xFFFFFFFF])) 0x6100 1 4
    memNat (left (.atomMax ⟨0, 4, 0, 3⟩) s).mem 0x6100 4 = 0xFFFFFFFF ∧ memNat (left (.atomMin ⟨0, 4, 0, 3⟩) s).mem 0x6100 4 = 1 ∧
    memNat (left (.redMin ⟨0, 4, 0, 3⟩) { s with crews := [(2, at100 0 [0, 0, 0xFFFFFFFF])] }).mem 0x6100 4 = 0xFFFFFFFF ∧
    memNat (left (.redMax ⟨0, 4, 0, 3⟩) s).mem 0x6100 4 = 0xFFFFFFFF := by decide +kernel
theorem test_atom_bitwise : let s := withMem (bench (at100 0 [0, 0, 0x0FF0])) 0x6100 0xFF00 4
    memNat (left (.atomAnd ⟨0, 4, 0, 3⟩) s).mem 0x6100 4 = 0x0F00 ∧ memNat (left (.atomOr ⟨0, 4, 0, 3⟩) s).mem 0x6100 4 = 0xFFF0 ∧
    memNat (left (.redAnd ⟨0, 4, 0, 3⟩) s).mem 0x6100 4 = 0x0F00 ∧ memNat (left (.redOr ⟨0, 4, 0, 3⟩) s).mem 0x6100 4 = 0xFFF0 := by
  decide +kernel
theorem test_atom_xor_exch : let s := withMem (bench ((at100 0 [0, 0, 0x0FF0]).put 3 0 0x104)) 0x6100 0xFF00 4
    memNat (left (.atomXor ⟨0, 4, 0, 3⟩) s).mem 0x6100 8 = 0x00000FF00000F0F0 ∧
    memNat (left (.redXor ⟨0, 4, 0, 3⟩) s).mem 0x6100 8 = 0x00000FF00000F0F0 ∧
    memNat (left (.atomExch ⟨0, 4, 0, 3⟩) s).mem 0x6100 4 = 0x0FF0 := by decide +kernel
theorem test_red_add_64 : memNat (left (.redAdd ⟨0, 4, 0, 3⟩) (withMem (bench (at100 3 [0, 0, 1, 1])) 0x6100 0xFFFFFFFF 8)).mem 0x6100 8 =
    0x500000003 := by decide +kernel
theorem test_atomcas_one_lane_wins : let s := withMem (bench (at100 0 [0, 0, 9, 7])) 0x6100 9 4
    memNat (left (.atomcas ⟨0, 4, 0, 3⟩) s).mem 0x6100 4 = 7 ∧ regIn (left (.atomcas ⟨0, 4, 0, 3⟩) s) 0 4 = 9 ∧
    regIn (left (.atomcas ⟨0, 4, 0, 3⟩) s) 1 4 = 7 := by decide +kernel
theorem test_red_streams_send : ([Instr.redfAdd ⟨0, 4, 0, 3⟩, .redfMin ⟨0, 4, 0, 3⟩, .redfMax ⟨0, 4, 0, 3⟩].all fun i =>
      ((left i (bench (at100 8 [5, 0, 0x3F800000]))).due.map fun e => match e with
        | .reductionContribution r => r.lanes.length
        | _ => 0).sum == 4) = true ∧
    ((left (.reds ⟨0, 4, 0, 3⟩) (bench (at100 0 [0, 0, 32]))).due.map fun e => match e with
        | .reductionContribution r => r.lanes.length
        | _ => 0).sum = 4 := by decide +kernel
theorem test_atomic_packed_is_illegal : trapped (.atomAdd ⟨0, 4, 0, 3⟩) (bench (at100 6 [])) .illegal = true := by decide +kernel

/-- Where the first page's address 0x100 lies. -/
def place : Loc := ⟨0x6100, 0⟩

theorem witness_AccessTraps : ∃ F, accessForm (.ldB32 ⟨false, 0, 4, 0, 0⟩) = some F ∧
    (let s := bench (one 0 0 false [0x102, 0])
     let x := s.issueOf F.head 2 [0] (one 0 0 false [0x102, 0])
     s.clears F.head 2 [0] (one 0 0 false [0x102, 0]) = true ∧
       (∀ l ∈ F.lanes x, x.check F.kind (F.width x l) l (F.addr x l) = .bad .misalign)) ∧
    (let c := { at100 0 [] with spillBase := 0x100, spillSize := 64 }
     let s := bench c
     let x := s.issueOf F.head 2 [0] c
     s.clears F.head 2 [0] c = true ∧ (F.addr x 0).toNat % F.width x 0 = 0 ∧ c.inSpill (F.addr x 0) (F.width x 0) = true) ∧
    (let s : State := { bench (at100 0 []) with marks := [0x80] }
     let x := s.issueOf F.head 2 [0] (at100 0 [])
     s.clears F.head 2 [0] (at100 0 []) = true ∧ 0 ∈ F.lanes x ∧
       x.check F.kind (F.width x 0) 0 (F.addr x 0) = .walkMark) :=
  ⟨_, rfl, by decide +kernel, by decide +kernel, by decide +kernel⟩
theorem witness_Loads : loadForm (.ldS16 ⟨false, 0, 4, 0, 0⟩) = some (⟨false, 0, 4, 0, 0⟩, 2, true) ∧
    (let s := withMem (bench (at100 0 [])) 0x6100 0x80FF 4
     let F := loadAccess ⟨false, 0, 4, 0, 0⟩ 2
     let x := s.issueOf (loadHead ⟨false, 0, 4, 0, 0⟩ 2) 2 [0] (at100 0 [])
     s.clears (loadHead ⟨false, 0, 4, 0, 0⟩ 2) 2 [0] (at100 0 []) = true ∧ F.passes x (fun _ => place) ∧ F.near x (fun _ => place) ∧
       F.clean x (fun _ => place) ∧ F.oneKey x (fun _ => place) ∧ (s.core 0).lcache = []) := by
  unfold AccessForm.passes AccessForm.near AccessForm.clean AccessForm.oneKey
  refine ⟨rfl, by decide +kernel, by decide +kernel, by decide +kernel, by decide +kernel, ⟨fun _ _ _ _ => rfl, ?_⟩, by decide +kernel⟩
  intro l _ g _ w h
  exact nomatch h
/-- The bench with the second page that of device 1, and its address 0x1100 in x0. -/
def peered : State := (withMem (bench (one 0 0 false [0x1100, 0])) 0x5008 (2 ^ 51 + 2 ^ 41 + 0x3007) 8).modPart 0 0
  fun p => { p with route := [(1, 0x80000000)] }

/-- Where that address lies. -/
def away : Loc := ⟨2 ^ 51 + 2 ^ 41 + 0x3100, 0⟩

theorem witness_Loads_of_a_peer : let f : FUSDAI := ⟨false, 0, 4, 0, 0⟩
    let x := peered.issueOf (loadHead f 4) 2 [0] (one 0 0 false [0x1100, 0])
    peered.clears (loadHead f 4) 2 [0] (one 0 0 false [0x1100, 0]) = true ∧ (loadAccess f 4).passes x (fun _ => away) ∧
    ¬ (loadAccess f 4).near x (fun _ => away) ∧ x.ticketed (((loadAccess f 4).lanes x).map fun l => (l, away)) = false ∧
    ∀ l, x.s.peerCopy 0 away.pa 4 l = none := by
  unfold AccessForm.passes AccessForm.near
  refine ⟨by decide +kernel, by decide +kernel, by decide +kernel, by decide +kernel, fun l => ?_⟩
  have h : (peered.core 0).peers.held = [] := by decide +kernel
  show peered.peerCopy 0 away.pa 4 l = none
  unfold State.peerCopy
  rw [h]
  split <;> rfl
theorem witness_Stores : storeForm (.stB32 ⟨0, 2, 0, 0⟩) = some (⟨0, 2, 0, 0⟩, 4) ∧
    (let s := bench (at100 0 [5])
     let F := storeAccess ⟨0, 2, 0, 0⟩ 4
     let x := s.issueOf (storeHead ⟨0, 2, 0, 0⟩ 4) 2 [0] (at100 0 [5])
     s.clears (storeHead ⟨0, 2, 0, 0⟩ 4) 2 [0] (at100 0 [5]) = true ∧ F.passes x (fun _ => place) ∧ F.near x (fun _ => place) ∧
       F.oneKey x (fun _ => place) ∧ F.unscrubbed x (fun _ => place) ∧ lanesOf x.act = [0, 1, 2, 3] ∧
       s.marked place.pa 4 = false) := by
  unfold AccessForm.passes AccessForm.near AccessForm.oneKey AccessForm.unscrubbed
  refine ⟨rfl, by decide +kernel, by decide +kernel, by decide +kernel, ⟨fun _ _ _ _ => rfl, ?_⟩, by decide +kernel,
    by decide +kernel, by decide +kernel⟩
  intro l _ g _ w h
  exact nomatch h
theorem witness_Atomics : atomForm (.atomcas ⟨0, 4, 0, 3⟩) = some (⟨0, 4, 0, 3⟩, .cas) ∧
    redForm (.redAdd ⟨0, 4, 0, 0⟩) = some (⟨0, 4, 0, 0⟩, .add) ∧
    (let s := bench (at100 0 [0, 0, 9, 7])
     ([(atomicHead ⟨0, 4, 0, 3⟩ .cas, (⟨0, 4, 0, 3⟩ : FSDAC)), (reduceHead ⟨0, 4, 0, 0⟩, ⟨0, 4, 0, 0⟩)].all fun e =>
       let F := atomicAccess e.1 e.2
       let x := s.issueOf e.1 2 [0] (at100 0 [0, 0, 9, 7])
       s.clears e.1 2 [0] (at100 0 [0, 0, 9, 7]) && (F.lanes x).all fun l =>
         x.check F.kind (F.width x l) l (F.addr x l) == .ok place && !isPeer place.pa && !s.marked place.pa (F.width x l) &&
           !s.scrubbed place.pa (F.width x l) (fun _ => true)) = true ∧
       s.gkeys = [] ∧ (s.core 0).lcache = []) := ⟨rfl, rfl, by decide +kernel⟩
theorem witness_ReductionStreams : (∃ kind bad, streamForm (.redfAdd ⟨0, 4, 0, 3⟩) = some (⟨0, 4, 0, 3⟩, kind, bad, true) ∧
    (let c := at100 8 [5, 0, 0x3F800000]
     let s := bench c
     let h := reduceStreamHead ⟨0, 4, 0, 3⟩ kind bad true
     let F := { atomicAccess h ⟨0, 4, 0, 3⟩ with width := fun x l => redWidth (kind (modeEtype (x.mode l))) false }
     let x := s.issueOf h 2 [0] c
     s.clears h 2 [0] c = true ∧ F.passes x (fun _ => place) ∧ F.near x (fun _ => place))) := by
  unfold AccessForm.passes AccessForm.near
  exact ⟨_, _, rfl, by decide +kernel, by decide +kernel, by decide +kernel⟩
/-! ### Tiles, waits, fences -/

/-- The tile under a handle of block 1 in a state. -/
def tileIn (s : State) (h : Nat) : Option Tile := (tget s.blocks 1).bind fun b => tget b.tiles h

/-- A crew with handle 1 in x10, offset o in x3 and v in x5 of every lane. -/
def forTile (etype : BitVec 5) (o v : Word) : Crew := one etype 0 false [0, 0, 0, o, 0, v, 0x77, 0, 0, 0, 1]

-- The program of R282: lanes store 0x5A5A_000L at tile offsets 4L.
theorem test_stt_lanes : let c := ((((forTile 0 0 0x5A5A0000).put 1 3 4).put 2 3 8).put 2 5 0x5A5A0002).put 3 3 12
    (tileIn (left (.sttB32 ⟨0, 5, 10, 3⟩) (tiled c)) 1).map (fun t => (memNat t.data 8 4, memNat t.data 0 4)) =
      some (0x5A5A0002, 0x5A5A0000) := by decide +kernel
theorem test_stt_narrow_and_wide :
    (tileIn (left (.sttB8 ⟨0, 5, 10, 3⟩) (tiled (forTile 0 15 0x1234))) 1).map (fun t => memNat t.data 12 4) = some 0x34000000 ∧
    (tileIn (left (.sttB16 ⟨0, 5, 10, 3⟩) (tiled (forTile 0 2 0x1234))) 1).map (fun t => memNat t.data 0 4) = some 0x12340000 ∧
    (tileIn (left (.sttB64 ⟨0, 4, 10, 3⟩) (tiled (forTile 0 8 0x1234))) 1).map (fun t => memNat t.data 8 8) = some 0x0000123400000000 ∧
    (tileIn (left (.sttB128 ⟨0, 4, 10, 3⟩) (tiled (forTile 0 0 0x1234))) 1).map (fun t => memNat t.data 8 4) = some 0x77 := by
  decide +kernel

/-- The bench with the tile at handle 1 holding sixteen bytes of v. -/
def filled (c : Crew) (v : Nat) : State :=
  (bench c).modBlock 1 fun b => { b with tiles := [(1, ⟨9, false, false, 1, 16, memWrite [] 0 (natBytes v 16), [], false, []⟩)] }

theorem test_ldt_extends : let s := filled (forTile 0 0 0) 0x000000000000000080FF
    regIn (left (.ldtU8 ⟨false, 0, 4, 10, 3⟩) s) 0 4 = 0xFF ∧ regIn (left (.ldtS8 ⟨false, 0, 4, 10, 3⟩) s) 0 4 = 0xFFFFFFFF ∧
    regIn (left (.ldtU16 ⟨false, 0, 4, 10, 3⟩) s) 0 4 = 0x80FF ∧ regIn (left (.ldtS16 ⟨false, 0, 4, 10, 3⟩) s) 0 4 = 0xFFFF80FF := by
  decide +kernel
theorem test_ldt_wide : let s := filled (forTile 0 8 0) 0x0123456789ABCDEF0000000000000000
    regIn (left (.ldtB32 ⟨false, 0, 4, 10, 3⟩) s) 0 4 = 0x89ABCDEF ∧ regIn (left (.ldtB64 ⟨false, 0, 4, 10, 3⟩) s) 0 5 = 0x01234567 ∧
    trapped (.ldtB128 ⟨false, 0, 4, 10, 3⟩) s .tilebound = true := by decide +kernel
theorem test_tile_handle_and_mark : trapped (.ldtB32 ⟨false, 0, 4, 9, 3⟩) (tiled (forTile 0 0 0)) .tilehandle = true ∧
    trapped (.ldtB32 ⟨false, 0, 4, 10, 3⟩) ((tiled (forTile 0 4 0)).modTile 1 1 fun t => { t with marks := [1] }) .dataerr = true := by
  decide +kernel
theorem test_tatom_add_counts_lanes : let s := filled (forTile 0 0 3) 1
    ((tileIn (left (.tatomAdd ⟨0, 5, 10, 3⟩) s) 1).map fun t => memNat t.data 0 4) = some 13 ∧
    regIn (left (.tatomAdd ⟨0, 5, 10, 3⟩) s) 1 5 = 4 := by decide +kernel
theorem test_tatom_others : let s := filled (forTile 0 0 0x0F) 0x3C
    ([(Instr.tatomAnd ⟨0, 5, 10, 3⟩, 0x0C), (.tatomOr ⟨0, 5, 10, 3⟩, 0x3F), (.tatomXor ⟨0, 5, 10, 3⟩, 0x3C), (.tatomMin ⟨0, 5, 10, 3⟩, 0x0F),
      (.tatomMax ⟨0, 5, 10, 3⟩, 0x3C), (.tatomExch ⟨0, 5, 10, 3⟩, 0x0F)].all fun e =>
        ((tileIn (left e.1 s) 1).map fun t => memNat t.data 0 4) == some e.2) = true := by decide +kernel
theorem test_tatom_cas : ((tileIn (left (.tatomCas ⟨0, 6, 10, 3⟩) (filled (forTile 0 0 0) 0x77)) 1).map fun t => memNat t.data 0 4) =
    some 0 := by decide +kernel
-- The program of R282: 1 row of 16 bytes, the lowest free number 1; the handle comes with the clear.
theorem test_talloc : let c := one 0 0 false [0, 0, 0, 0, 0, 0, 0, 0, 1, 16]
    ([Instr.tallocTm ⟨0, 10, 8, 9⟩, .tallocTmz ⟨0, 10, 8, 9⟩].all fun i =>
      (tileIn (left i (bench c)) 1).isSome && (left i (bench c)).due == [.tileClearDone 3]) = true ∧
    (regIn (match exec .tileClearDone { left (.tallocTm ⟨0, 10, 8, 9⟩) (bench c) with ev := some (.tileClearDone 3) } with
      | .next t => t
      | _ => State.reset) 2 10) = 1 := by decide +kernel
theorem test_talloc_os_by_quota : let s := bench (one 0 0 false [0, 0, 0, 0, 0, 0, 0, 0, 32, 256])
    tileIn (left (.tallocOsz ⟨0, 10, 8, 9⟩) s) 1 = none ∧ (left (.tallocOsz ⟨0, 10, 8, 9⟩) s).due = [.tileClearDone 3] ∧
    tileIn (left (.tallocOs ⟨0, 10, 8, 9⟩) (s.modBlock 1 fun b => { b with osquota := 32 })) 1 =
      some ⟨3, true, false, 32, 256, [], [], false, []⟩ := by decide +kernel
theorem test_tfree : tileIn (left (.tfree ⟨0, 10⟩) (tiled (forTile 0 0 0))) 1 = none ∧
    trapped (.tfree ⟨0, 9⟩) (tiled (forTile 0 0 0)) .tilehandle = true := by decide +kernel
theorem test_waita_true_completes : let s := withMem (bench (at100 0 [7])) 0x6100 7 4
    ([Instr.waitaEq ⟨0, 2, 0, 3⟩, .waitaGe ⟨0, 2, 0, 3⟩].all fun i => regIn (left i s) 2 3 == 7 &&
      ((crewIn (left i s)).slice 0).wait == .none) = true := by decide +kernel
theorem test_waita_false_sleeps : let s := withMem (bench (at100 0 [7])) 0x6100 7 4
    ([Instr.waitaNe ⟨0, 2, 0, 3⟩, .waitaLt ⟨0, 2, 0, 3⟩].all fun i => ((crewIn (left i s)).slice 0).pc == 0 &&
      ((crewIn (left i s)).slice 0).wait != .none) = true := by decide +kernel
theorem test_fence_engines_orders_tile_writes :
    let s := left (.sttB32 ⟨0, 5, 10, 3⟩) (tiled (forTile 0 0 9))
    ((tileIn s 1).map fun t => t.shadows.isEmpty) = some false ∧
    ((tileIn (left (.fence ⟨0, 0, 1, true⟩) { s with cur := some (2, [0]) }) 1).map fun t => t.shadows) = some [] := by decide +kernel
theorem test_pref_and_cctl_move_on : ([Instr.pref ⟨0, 1, 0, 0⟩, .cctlInv ⟨0, 0, 2⟩, .cctlClean ⟨0, 0, 2⟩, .cctlFlush ⟨0, 0, 2⟩].all fun i =>
    (sl i (at100 0 [128]) 0).pc == 4) = true := by decide +kernel

theorem witness_WaitsAndFences : ([7, 8].all fun v =>
    let c := at100 0 [v]
    let s := withMem (bench c) 0x6100 7 4
    let x := s.issueOf (waitAHead ⟨0, 2, 0, 3⟩) 2 [0] c
    s.clears (waitAHead ⟨0, 2, 0, 3⟩) 2 [0] c && x.check (.watch false) 4 0 0x100 == .ok place && !isPeer place.pa &&
      !s.marked place.pa 4) = true ∧
    (let s : State := { bench (at100 0 [7]) with marks := [0x6100 / 32] }
     s.clears (waitAHead ⟨0, 2, 0, 3⟩) 2 [0] (at100 0 [7]) = true ∧ s.marked place.pa 4 = true) ∧
    clearAll (at100 0 [128]) [fenceHead ⟨0, 3, 1, true⟩, prefHead ⟨0, 1, 0, 0⟩, cacheControlHead ⟨0, 0, 2⟩] = true ∧
    (bench (at100 0 [])).owed 2 [0] 1 true = false ∧
    (left (.redfAdd ⟨0, 4, 0, 3⟩) (bench (at100 8 [5, 0, 0]))).owed 2 [0] 1 true = true ∧
    lineAddrs 0x100 128 = [0x100] ∧ (bench (at100 0 [128])).translate 0 false .read 0 0x100 = .ok place := by decide +kernel
theorem witness_TileAccesses : (∃ F, tileForm (.tatomAdd ⟨0, 5, 10, 3⟩) = some F ∧ ∃ b t,
      tget (tiled (forTile 0 0 0)).blocks 1 = some b ∧
      (tiled (forTile 0 0 0)).clears F.head 2 [0] (forTile 0 0 0) = true ∧
      (let x := (tiled (forTile 0 0 0)).issueOf F.head 2 [0] (forTile 0 0 0)
       b.tileMem (F.named x) t ∧ (∀ l ∈ F.lanes x, F.inside x t l) ∧ t.badAt 0 4 = false ∧ Memory.wf t.data = true)) ∧
    (∃ F, tileForm (.ldtB32 ⟨false, 0, 4, 10, 3⟩) = some F ∧
      (let c := forTile 0 16 0
       let x := (tiled c).issueOf F.head 2 [0] c
       (tiled c).clears F.head 2 [0] c = true ∧ (F.lanes x).all (fun l => decide (16 < (x.reg l 3).toNat + F.width x l)) = true) ∧
      (bench (forTile 0 0 0)).clears F.head 2 [0] (forTile 0 0 0) = true) := by
  refine ⟨⟨_, rfl, _, ⟨9, false, false, 1, 16, [], [], false, []⟩, rfl, by decide +kernel, ?_⟩, ⟨_, rfl, by decide +kernel, by decide +kernel⟩⟩
  unfold Block.tileMem TileForm.inside
  decide +kernel
theorem witness_TileLife : clearAll (one 0 0 false [0, 0, 0, 0, 0, 0, 0, 0, 1, 16]) [allocateHead ⟨0, 10, 8, 9⟩ false false] = true ∧
    (tiled (forTile 0 0 0)).clears (tfreeHead ⟨0, 10⟩) 2 [0] (forTile 0 0 0) = true ∧
    ((tget (tiled (forTile 0 0 0)).blocks 1).map fun b => (tget b.tiles 1).map (·.freeing)) = some (some false) := by decide +kernel

/-- A Morton tile of 4 rows of 32 bytes. -/
def mortonTile : Tile := ⟨1, false, true, 4, 32, [], [], false, []⟩

theorem witness_TileLayout : mortonTile.morton = true ∧ isPow2 mortonTile.rows = true ∧ isPow2 mortonTile.rowBytes = true ∧
    16 ≤ mortonTile.rowBytes ∧ mortonTile.size = 128 ∧ [0, 16, 32, 48, 64, 127].map mortonTile.place = [0, 16, 32, 48, 64, 127] ∧
    [32, 64].map ({ mortonTile with rowBytes := 64 } : Tile).place = [64, 32] := by decide +kernel
/-! ### Tokens, task nodes, batches -/

/-- A crew with token n in a state. -/
def withTok (c : Crew) (n : Nat) (st : TokState) : Crew := c.modTok n fun t => { t with st := st }

/-- The state with another crew in place of the bench's, about to issue. -/
def again (s : State) (c : Crew) : State := { s with crews := [(2, c)], cur := some (2, List.range c.nsl) }

theorem test_tkwait_poisoned_reports : let c := withTok (one 0 0 false [0, 0, 2]) 1 .poisoned
    pred (.tkwait ⟨0, 1⟩) c 0 7 = true ∧ (ran (.tkwait ⟨0, 1⟩) c).poison = true ∧
    pred (.tkwaitMask ⟨0, 2⟩) c 0 7 = true ∧ (sl (.tkwait ⟨0, 2⟩) c 0).pc = 4 := by decide +kernel
theorem test_tkwait_pending_sleeps : let c := withTok (one 0 0 false [0, 0, 2]) 1 (.pending 9)
    (sl (.tkwait ⟨0, 1⟩) c 0).pc = 0 ∧ (sl (.tkwait ⟨0, 1⟩) c 0).wait = .tokens 2 false 0 0xF ∧
    (sl (.tkwaitMask ⟨0, 2⟩) c 0).wait = .tokens 2 false 0 0xF := by decide +kernel
theorem test_tkany_and_tktest_masks : let c := withTok (withTok (one 0 0 false [0, 0, 6]) 1 (.pending 9)) 2 .poisoned
    reg64 (.tkany ⟨0, 4, 2⟩) c 0 4 = 0x0000000400000004 ∧ reg64 (.tktest ⟨0, 4, 2⟩) c 0 4 = 0x0000000400000004 ∧
    (sl (.tkany ⟨0, 4, 3⟩) c 0).pc = 4 := by decide +kernel
theorem test_tkfree : let c := withTok (withTok (one 0 0 false [0, 0, 6]) 1 .done) 2 .poisoned
    ((ran (.tkfree ⟨0, 1⟩) c).tok 1).st = .free ∧ ((ran (.tkfree ⟨0, 1⟩) c).tok 2).st = .poisoned ∧
    ((ran (.tkfreeMask ⟨0, 2⟩) c).tok 2).st = .free ∧
    trapped (.tkfree ⟨0, 1⟩) (bench (withTok c 1 (.pending 9))) .illegal = true := by decide +kernel

/-- The bench with a task node at 0x200 (physical 0x6200), its counter 5, for a crew with 0x200 in x0 and 2 in x2. -/
def tasked (c : Crew) : State := withMem (withMem (bench c) 0x6200 5 1) (0x6200 + 116) 5 4

theorem test_taskd_lowers_counter : let s := tasked (one 0 0 false [0x200, 0, 2])
    memNat (left (.taskd ⟨0, 0, 2⟩) s).mem (0x6200 + 116) 4 = 3 ∧
    trapped (.taskd ⟨0, 0, 2⟩) (bench (one 0 0 false [0x200, 0, 2])) .illegal = true := by decide +kernel
theorem test_tkexp_task : let c := withTok (one 0 0 false [0x200, 0, 2]) 1 (.pending 9)
    ((crewIn (left (.tkexpTask ⟨0, 1, 0⟩) (tasked c))).tok 1).exports = [.task 0x6200] ∧
    (left (.tkexpTask ⟨0, 1, 0⟩) (tasked (withTok c 1 .done))).due = [.taskDepcountDecrement 0x6200 1 false] ∧
    trapped (.tkexpTask ⟨0, 2, 0⟩) (tasked c) .illegal = true := by decide +kernel

/-- A crew whose slice 0 has one open copy and a sealed batch 1 of one copy. -/
def batched : Crew := (one 0 0 false [0, 0, 1]).modSlice 0 fun sl =>
  { sl with batch := ⟨1, [7], false, [⟨1, [6], false⟩]⟩ }

theorem test_seal_numbers : reg (.seal ⟨0, 14⟩) batched 2 14 = 2 ∧
    (sl (.seal ⟨0, 14⟩) batched 0).batch.recs = [⟨1, [6], false⟩, ⟨2, [7], false⟩] ∧
    (sl (.seal ⟨0, 14⟩) batched 0).batch.opened = [] := by decide +kernel
theorem test_waitb : (sl (.waitb ⟨0, 2⟩) batched 0).wait = .batch 1 0xF ∧
    (let c := batched.modSlice 0 fun sl => { sl with batch := ⟨1, [7], false, [⟨1, [], true⟩]⟩ }
     pred (.waitb ⟨0, 2⟩) c 0 7 = true ∧ (sl (.waitb ⟨0, 2⟩) c 0).batch.recs = []) := by decide +kernel

theorem witness_TokenWaitsAndFrees : (∃ h m any dst,
      (let c := withTok (one 0 0 false [0, 0, 6]) 1 (.pending 9)
       tokenWaitForm ((bench c).issueOf h 2 [0] c) (.tkany ⟨0, 4, 2⟩) = some (h, m, any, dst) ∧
       (bench c).clears h 2 [0] c = true) ∧ m.getLsbD 1 = true ∧ m.getLsbD 2 = true) ∧
    clearAll (withTok (one 0 0 false [0, 0, 2]) 1 (.pending 9)) [tkwaitMaskHead ⟨0, 2⟩, tktestHead ⟨0, 4, 2⟩, tkfreeHead ⟨0, 3⟩,
      tkfreeMaskHead ⟨0, 3⟩] = true ∧
    (let c := withTok (one 0 0 false [0, 0, 2]) 1 (.pending 9)
     let x := (bench c).issueOf (tkfreeHead ⟨0, 1⟩) 2 [0] c
     x.misnamed (tkfreeHead ⟨0, 1⟩) = false ∧ x.waits (tkfreeHead ⟨0, 1⟩) = false ∧ x.act ≠ 0 ∧ (c.tok 1).st = .pending 9) ∧
    (Instr.tkfree ⟨0, 31⟩).wf = true :=
  ⟨⟨tkanyHead ⟨0, 4, 2⟩, 6, true, some 4, ⟨rfl, by decide +kernel⟩, by decide, by decide⟩, by decide +kernel, by decide +kernel, by decide⟩
theorem witness_TaskNodes : let c := withTok (one 0 0 false [0x200, 0, 2]) 1 (.pending 9)
    ([tkexpTaskHead ⟨0, 1, 0⟩, taskdHead ⟨0, 0, 2⟩].all fun h => (tasked c).clears h 2 [0] c) = true ∧
    ((tasked c).issueOf (taskdHead ⟨0, 0, 2⟩) 2 [0] c).taskAt 0x200 ⟨0x6200, 0⟩ ∧
    ((tasked c).issueOf (taskdHead ⟨0, 0, 2⟩) 2 [0] c).owes = false ∧ memGet (bench c).mem 0x6200 ≠ 5 := by
  unfold Issue.taskAt
  decide +kernel
theorem witness_Batches : clearAll batched [sealHead ⟨0, 14⟩, waitbHead ⟨0, 2⟩] = true ∧
    (batched.slice 0).batch.recs.length < 32 ∧ covers 1 1 = true ∧
    ((bench batched).issueOf (waitbHead ⟨0, 2⟩) 2 [0] batched).batchNum ⟨0, 2⟩ 0 = 1 := by decide +kernel

/-! ### Barriers: one at 0x140 (physical 0x6140), named by x16 and up -/

/-- A crew with a barrier's group from x16: the object, W2, W3 and two registers more; the registers from x24 listed. -/
def forBar (w2 w3 : Word) (more : List Word) : Crew :=
  one 0 0 false (List.replicate 16 0 ++ [0x140, 0, w2, w3, 0, 0, 0, 0] ++ more)

/-- The bench after BINIT of an object that expects n arrivals, about to issue with another crew. -/
def armed (n : Word) (c : Crew) : State := again (left (.binit ⟨0, 16⟩) (bench (forBar n 0 []))) c

/-- The object in a state. -/
def bar (s : State) : BarObj := s.barObj 0x6140

theorem test_binit_first_phase : bar (armed 2 (forBar 0 0 [])) = ⟨0, 2, 2, 0, true, false, false, 0, 0, 0, 0⟩ ∧
    trapped (.binit ⟨0, 16⟩) (armed 2 (forBar 2 0 [])) .illegal = true := by decide +kernel
theorem test_barr_completes_the_phase : let s := left (.barr ⟨0, 16⟩) (armed 1 (forBar 0 0 []))
    bar s = ⟨1, 1, 1, 0, true, false, false, 0, 0, 0, 0⟩ ∧
    (bar (left (.barr ⟨0, 16⟩) (armed 2 (forBar 0 0 [])))).parr = 1 ∧
    trapped (.barr ⟨0, 16⟩) (bench (forBar 0 0 [])) .illegal = true := by decide +kernel
theorem test_bexp_adds_bytes : (bar (left (.bexp ⟨0, 16⟩) (armed 1 (forBar 64 0 [])))).pbytes = 64 := by decide +kernel
theorem test_barrd_defers : let c := { (forBar 16 1 []) with slices := batched.slices }
    ((crewIn (left (.barrd ⟨0, 16⟩) (armed 1 c))).deferred.map fun d => (d.pa, d.bytes, d.copies)) = [(0x6140, 16, [6])] := by
  decide +kernel
theorem test_tkexp_bar : ((crewIn (left (.tkexpBar ⟨0, 1, 16⟩) (armed 1 (withTok (forBar 0 0 []) 1 (.pending 9))))).tok 1).exports =
      [.bar 0x6140 0x140] ∧
    (left (.tkexpBar ⟨0, 1, 16⟩) (armed 1 (withTok (forBar 0 0 []) 1 .done))).due =
      [.barrierUpdate ⟨0, 0x6140, 0x140, true, 0, false, 1, 0⟩] := by decide +kernel
theorem test_bwait_past_and_not : let c := forBar 0 0 []
    ((crewIn (left (.bwait ⟨0, 16⟩) (again (left (.barr ⟨0, 16⟩) (armed 1 c)) c))).slice 0).pc = 4 ∧
    ((crewIn (left (.bwait ⟨0, 16⟩) (armed 1 c))).slice 0).wait = .barrier 0x6140 0 0xF := by decide +kernel
theorem test_btest_status : let s := left (.btest ⟨0, 4, 16⟩) (armed 3 (forBar 0 0 []))
    regIn s 1 4 = 0 ∧ regIn s 1 5 = 0x00030000 ∧
    regIn (left (.btest ⟨0, 4, 16⟩) (again (left (.barr ⟨0, 16⟩) (armed 1 (forBar 0 0 []))) (forBar 0 0 []))) 0 5 = 0x00010001 := by
  decide +kernel

/-- The bench after BINIT with a region table at 0x300. -/
def bound (c : Crew) : State :=
  again (left (.binit ⟨0, 16⟩) (bench (one 0 0 false (List.replicate 16 0 ++ [0x140, 0, 1, 0, 0x300, 0, 0, 0])))) c

theorem test_bbind_appends : let s := left (.bbind ⟨0, 16, 24⟩) (bound (forBar 0 0 [0x400, 0, 128, 0]))
    (bar s).nbound = 1 ∧ memNat s.mem 0x6300 8 = 0x400 ∧ memNat s.mem 0x6308 4 = 128 ∧
    trapped (.bbind ⟨0, 16, 24⟩) (armed 1 (forBar 0 0 [0x400, 0, 128, 0])) .illegal = true := by decide +kernel
theorem test_bcont : let c := { (forBar 0 0 [0x80, 0, 0, 0, 1, 2, 3, 4]) with spillBase := 0x800, spillSize := 64 }
    let s := left (.bcont ⟨0, 28, 16, 24⟩) (armed 1 c)
    ((tget s.bars 0x6140).map fun b => b.conts.map fun t => (t.phase, t.entry, t.args)) = some [(0, 0x80, [1, 2, 3, 4])] ∧
    ((crewIn s).slice 0).exited = true ∧
    trapped (.bcont ⟨0, 28, 16, 24⟩) (armed 1 { c with spillSize := 32 }) .spill = true := by decide +kernel

/-- The checks of R246 pass for a head at the object, as an access of kind k: what barrierAt says. -/
def atBar (s : State) (c : Crew) (k : AccKind) (h : Head) : Bool :=
  let x := s.issueOf h 2 [0] c
  s.clears h 2 [0] c && x.check k 64 (lowest x.act) 0x140 == .ok ⟨0x6140, 0⟩ && isLocal 0x6140 &&
    (match s.barSee 0x6140 with | .ok o => o == bar s | _ => false) &&
    (tget s.bars 0x6140).all fun b => s.inScope c b (bar s).scope

theorem witness_BarrierUpdates : let s := armed 1 (forBar 0 0 [])
    ((tget s.bars 0x6140).map fun b => (b.cached.isSome, b.conts, b.remotes)) = some (true, [], []) ∧
    (bar s).parr = 1 ∧ (bar s).pbytes = 0 := by decide +kernel
theorem witness_BarrierOperations :
    (let c := withTok (forBar 1 0 [0x400, 0, 128, 0]) 1 .done
     let d := { (forBar 16 1 []) with slices := batched.slices }
     let e := forBar 0 0 [0x400, 0, 128, 0]
     ([barrHead ⟨0, 16⟩, bexpHead ⟨0, 16⟩, tkexpBarHead ⟨0, 1, 16⟩].all
        fun h => atBar (bound c) c .read h && atBar (bench c) c .read h) = true ∧
       (atBar (bound d) d .read (barrdHead ⟨0, 16⟩) && atBar (bench d) d .read (barrdHead ⟨0, 16⟩)) = true ∧
       (atBar (bound e) e .read (bbindHead ⟨0, 16, 24⟩) && atBar (armed 1 e) e .read (bbindHead ⟨0, 16, 24⟩)) = true ∧
       (bar (bound c)).valid = true ∧ (bar (bound c)).nbound = 0 ∧ (bar (bound c)).regions = 0x300 ∧ (bar (bench c)).valid = false ∧
       ((bound c).barApply 0x6140 (bar (bound c)) true 1 false).isSome = true ∧
       ((bound c).barApply 0x6140 (bar (bound c)) false 1 false).isSome = true ∧ c.deferred.length < 16) ∧
    (let c := forBar 1 0 []
     atBar (bench c) c .write (binitHead ⟨0, 16⟩) = true ∧ atBar (armed 1 c) c .write (binitHead ⟨0, 16⟩) = true ∧
       (bar (bench c)).valid = false ∧ (bar (armed 1 c)).valid = true) ∧
    (let c := forBar 0 0 []
     atBar (bench c) c .write (binitHead ⟨0, 16⟩) = true ∧ atBar (armed 1 c) c .write (binitHead ⟨0, 16⟩) = true ∧
       ((armed 1 c).invalidate 0x6140 (bar (armed 1 c))).isSome = true) := by decide +kernel
theorem witness_BarrierWaits : let c := forBar 0 0 []
    let past := again (left (.barr ⟨0, 16⟩) (armed 1 c)) c
    ([bwaitHead ⟨0, 16⟩, btestHead ⟨0, 4, 16⟩].all fun h => atBar (armed 1 c) c .read h && atBar past c .read h) = true ∧
    phaseDone (bar past).phase 0 = true ∧ phaseDone (bar (armed 1 c)).phase 0 = false ∧ (bar past).parr < 2 ^ 16 := by
  decide +kernel
theorem witness_ContinuationsRegistered :
    let c := { (forBar 0 0 [0x80, 0, 0, 0, 1, 2, 3, 4]) with spillBase := 0x800, spillSize := 64 }
    atBar (armed 1 c) c .read (bcontHead ⟨0, 28, 16, 24⟩) = true ∧
    (armed 1 c).translate 0 false .write 1 0x800 = .ok ⟨0x6800, 0⟩ ∧ (bar (armed 1 c)).valid = true := by decide +kernel
/-! ### Engines -/

/-- The state after a step of hardware; reset where the machine does not go on. -/
def come (s : State) (e : Event) : State := left e.row (s.coming e)

/-- The state after the n steps due, oldest first. -/
def flow : Nat → State → State
  | 0, s => s
  | n + 1, s => match s.due with
    | e :: _ => flow n (come s e)
    | [] => s

/-- Operation 3's copy reads the word at a byte of its destination, and writes it: one of the orders that are open. -/
def carryWord (s : State) (pos : Nat) : State :=
  let copy := fun (s : State) => (tget s.ops 3).bind fun o => match o.body with | .copy c => some (o, c) | _ => none
  match copy s with
  | some (o, c) =>
    let t := s.copyRead 3 o c pos 4
    (match copy t with
     | some (p, d) => (match d.held with | h :: _ => t.copyWrite 3 p d h.1 | [] => t)
     | none => t)
  | none => s

/-- Operation 3's copy of n bytes from its start to its completion. -/
def carried (n : Nat) (s : State) : State :=
  let s := (List.range (n / 4)).foldl (fun s i => carryWord s (4 * i)) (come s (.copyStart 3))
  come (come s (.copyStart 3)) (.copyComplete 3)

/-- A crew with a group from x24. -/
def forEngine (g : List Word) : Crew := one 0 0 false (List.replicate 24 0 ++ g)

/-- The bench with a tile of rows of rb bytes at handle 1, holding bytes v. -/
def tileOf (c : Crew) (os : Bool) (rows rb v n : Nat) : State :=
  (bench c).modBlock 1 fun b => { b with tiles := [(1, ⟨9, os, false, rows, rb, memWrite [] 0 (natBytes v n), [], false, []⟩)] }

/-- Bytes of a tile as a number. -/
def tileNat (s : State) (off n : Nat) : Nat := ((tileIn s 1).map fun t => memNat t.data off n).getD 0

-- The feed of R281's chapter: CPYW t3 of 5 positions of 8 bytes, position x holding x + 1 in its first byte.
theorem test_cpyw_feed : let c := forEngine [0, 0, 0x100, 0, 1, 0, 0x00090004, 5, 0xFFFFFFFF, 5, 8, 0]
    let s := carried 120 (left (.cpyw ⟨0, 3, 24⟩) (withMem (tileOf c false 5 32 0 0) 0x6100 (1 + 2 * 2 ^ 64 + 3 * 2 ^ 128 + 4 * 2 ^ 192 + 5 * 2 ^ 256) 40))
    ([0, 1, 2].map fun k => tileNat s (8 * k) 8) = [0, 1, 2] ∧ ([0, 1, 2].map fun k => tileNat s (96 + 8 * k) 8) = [3, 4, 5] ∧
    ([0, 1, 2].map fun k => tileNat s (128 + 8 * k) 8) = [4, 5, 0] ∧ ((crewIn s).tok 3).st = .done := by decide +kernel
-- The program of R282: CPYS carries the tile's words to the buffer; t1 completes.
theorem test_cpys_carries_the_tile : let c := forEngine [0, 0, 1, 0, 0x100, 0, 16, 0]
    let s := carried 16 (left (.cpys ⟨0, 1, 24⟩) (tileOf c false 1 16 0x5A5A00035A5A00025A5A00015A5A0000 16))
    memNat s.mem 0x6108 4 = 0x5A5A0002 ∧ ((crewIn s).tok 1).st = .done ∧ ((crewIn s).tok 1).bytes = 16 := by decide +kernel
theorem test_cpy_and_cpyx : let c := forEngine [0, 0, 0x100, 0, 1, 4, 8, 0]
    let s := carried 8 (left (.cpy ⟨0, 1, 24⟩) (withMem (tileOf c false 1 16 0 0) 0x6100 0x1122334455667788 8))
    tileNat s 0 16 = 0x112233445566778800000000 ∧
    (let d := forEngine [0, 0, 1, 0, 1, 8, 8, 0]
     tileNat (carried 8 (left (.cpyx ⟨0, 1, 24⟩) (tileOf d false 1 16 0x1122334455667788 16))) 8 8 = 0x1122334455667788) := by
  decide +kernel
-- R268: two rows of 4 bytes, 8 bytes apart in memory, to rows of 16 bytes.
theorem test_cpyt_box : let c := forEngine [0, 0, 0x100, 0, 1, 0, 0x00020004, 1, 8, 0, 0, 0]
    let s := carried 8 (left (.cpyt ⟨0, 1, 24⟩) (withMem (tileOf c false 2 16 0 0) 0x6100 0x00000000BBBBBBBB00000000AAAAAAAA 16))
    tileNat s 0 4 = 0xAAAAAAAA ∧ tileNat s 16 4 = 0xBBBBBBBB := by decide +kernel
-- R269: row 1 of the source, chosen by the index at tile offset 32.
theorem test_cpyg_gathers : let c := forEngine [0, 0, 0x100, 0, 1, 0, 1, 32, 0x00010004, 0, 8, 0]
    let s := carried 4 (left (.cpyg ⟨0, 1, 24⟩) (withMem (tileOf c false 4 16 (2 ^ 256) 33) 0x6100 0x00000000BBBBBBBB00000000AAAAAAAA 16))
    tileNat s 0 4 = 0xBBBBBBBB := by decide +kernel
theorem test_copy_group_checks : trapped (.cpys ⟨0, 1, 24⟩) (bench (forEngine [0, 0, 1, 0, 0x102, 0, 16, 0])) .illegal = true ∧
    trapped (.cpy ⟨0, 1, 24⟩) (bench (withTok (forEngine [0, 0, 0, 0, 0, 0, 0, 0]) 1 (.pending 9))) .illegal = true := by
  decide +kernel
theorem test_copy_of_marks_poisons : let c := forEngine [0, 0, 0x100, 0, 1, 0, 8, 0]
    let s := carried 8 (left (.cpy ⟨0, 1, 24⟩) { tileOf c false 1 16 0 0 with marks := [0x6100 / 32] })
    ((crewIn s).tok 1).st = .poisoned ∧ ((tileIn s 1).map (·.marks)) = some [0, 1] := by decide +kernel
-- R157, R161: no copy reaches the operand store.
theorem test_copy_of_an_accumulator_tile : let c := forEngine [0, 0, 0x100, 0, 1, 0, 8, 0]
    let s := carried 4 (left (.cpy ⟨0, 1, 24⟩) (tileOf c true 32 256 0 0))
    ((crewIn s).tok 1).st = .poisoned ∧ (crewIn s).efr.map (·.cause) = [0x08] ∧ (tileIn s 1).map (·.marks) = some [] := by
  decide +kernel
-- The promotion example of R75: 2^14 then 0.5, k-steps of 16, promoted each k-step or after both.
theorem test_mma_promotion :
    let a : List Fl := [decodeFl .bf16 0x4300] ++ List.replicate 15 (decodeFl .bf16 0) ++ [decodeFl .bf16 0x3F00] ++ List.replicate 15 (decodeFl .bf16 0)
    let b : List Fl := [decodeFl .bf16 0x4300] ++ List.replicate 15 (decodeFl .bf16 0) ++ [decodeFl .bf16 0x3F80] ++ List.replicate 15 (decodeFl .bf16 0)
    mmaElem 16 1 a b [] (.fin false 0 0) = 0x46800100 ∧ mmaElem 16 2 a b [] (.fin false 0 0) = 0x46800000 := by decide +kernel
-- R299: 1.5 × 0.625 = 0.9375 exactly; R70's values.
theorem test_dp8_values : mulFl (elemVal 2 0x3C) (elemVal 5 0x13) = .fin false 480 (-9) ∧ elemVal 5 0x00 = .fin false 128 (-6) ∧
    elemVal 5 0xE7 = .fin true 1 (-6) ∧ elemVal 5 0x77 = .fin false 0 (-6) := by decide +kernel
theorem test_mzero_clears_rows : let c := forEngine [0, 1, 0x00010001, 0]
    let s := come (come (come (left (.mzero ⟨0, 3, 24⟩) (tileOf c true 32 256 (2 ^ 2056 + 1) 264)) (.matrixOpStart 3))
      (.matrixOpStart 3)) (.matrixOpComplete 3)
    tileNat s 0 4 = 1 ∧ tileNat s 256 4 = 0 ∧ ((crewIn s).tok 3).st = .done := by decide +kernel

/-- A crew of a team of one. -/
def teamed (g : List Word) : Crew := { forEngine g with team := 1 }

/-- A group of MMA: N = 64, A and B in tiles, K = 16, and of MMAO with an empty list word group. -/
def mmaGroup : List Word := [0, 0x200, 16, 1, 0, 1, 0, 1, 0, 0, 0x140, 0, 0, 0, 0, 0, 0x300, 0, 1, 0]

theorem test_issues_are_pending : ([Instr.mscal ⟨0, 3, 24⟩, .mcvt ⟨0, 3, 24⟩, .mload ⟨0, 3, 24⟩].all fun i =>
      ((crewIn (left i (bench (forEngine [0, 1, 0x00010000, 0, 1, 0, 0, 0])))).tok 3).st == .pending 3) = true ∧
    ([Instr.mma ⟨0, 3, 24⟩, .mmao ⟨0, 3, 24⟩].all fun i => ((crewIn (left i (bench (teamed mmaGroup)))).tok 3).st == .pending 3) = true := by
  decide +kernel
theorem test_mma_without_team : trapped (.mma ⟨0, 3, 24⟩) (bench (forEngine mmaGroup)) .team = true := by decide +kernel
theorem test_mseq_and_coll_issue : ((crewIn (left (.mseq ⟨0, 4, 24⟩) (bench (teamed [0, 1, 0x80, 0])))).tok 4).st = .pending 3 ∧
    ((crewIn (left (.coll ⟨0, 4, 24⟩) (bench (forEngine [0, 0, 0x80, 0])))).tok 4).st = .pending 3 ∧
    trapped (.coll ⟨0, 4, 24⟩) (bench (forEngine [0, 0, 0x40, 0])) .illegal = true := by decide +kernel

/-- The bench in owner mode, with an owner. -/
def owned (c : Crew) (o : Option Nat) : State := (bench c).modCore 0 fun k => { k with mown := true, owner := o }

theorem test_macq_mrel : let s := left (.macq ⟨0, 5⟩) (owned (one 0 0 false []) none)
    (s.core 0).owner = some 2 ∧ ((crewIn s).tok 5).st = .done ∧
    ((left (.mrel ⟨0⟩) (owned (one 0 0 false []) (some 2))).core 0).owner = none ∧
    trapped (.mrel ⟨0⟩) (owned (one 0 0 false []) none) .illegal = true := by decide +kernel

theorem witness_OperationsIssued : copyForm (.cpys ⟨0, 1, 24⟩) = some (⟨0, 1, 24⟩, .cpys) ∧
    accForm (.mload ⟨0, 3, 24⟩) = some (⟨0, 3, 24⟩, .mload) ∧ (Instr.cpys ⟨0, 31, 24⟩).wf = true ∧
    clearAll (forEngine [0, 0, 1, 0, 0x100, 0, 16, 0]) [copyInstrHead ⟨0, 1, 24⟩ .cpys] = true ∧
    clearAll (forEngine [0, 1, 0x00010000, 0, 1, 0, 0, 0]) [accInstrHead ⟨0, 3, 24⟩ .mload] = true ∧
    clearAll (forEngine [0, 0, 0x80, 0]) [collHead ⟨0, 4, 24⟩] = true ∧
    (∃ h, treeForm (.ctset ⟨0, 1, 24⟩) = some (⟨0, 1, 24⟩, .settle, 4, h) ∧ clearAll (forEngine [0x100, 0, 0, 0]) [h] = true ∧
      (let c := forEngine [0x100, 0, 0, 0]
       ((bench c).issueOf h 2 [0] c).check .write 64 0 0x100 = .ok place)) ∧
    (bench (forEngine [])).copiesOn 0 = 0 ∧ (bench (forEngine [])).matsOn 0 = 0 ∧ isLocal 0x613F = true := by
  refine ⟨rfl, rfl, by decide, by decide +kernel, by decide +kernel, by decide +kernel, ⟨_, rfl, by decide +kernel, by decide +kernel⟩, by decide +kernel⟩
theorem witness_CollectivesAndOwnership : multiplyForm (.mma ⟨0, 3, 24⟩) = some (⟨0, 3, 24⟩, .mma) ∧
    (let c := teamed mmaGroup
     (bench c).clears (multiplyInstrHead (bench c) ⟨0, 3, 24⟩ .mma) 2 [0] c = true ∧ ctlA (gw mmaGroup 1) ≠ 0 ∧
       ((bench c).issueOf (multiplyInstrHead (bench c) ⟨0, 3, 24⟩ .mma) 2 [0] c).teamFails (fun _ => true) mmaShared mmaGroup = false) ∧
    (let c := forEngine mmaGroup
     ((bench c).issueOf (multiplyInstrHead (bench c) ⟨0, 3, 24⟩ .mma) 2 [0] c).teamFails (fun _ => true) mmaShared mmaGroup = true) ∧
    (let c := teamed [0, 1, 0x80, 0]
     (bench c).clears (mseqHead (bench c) ⟨0, 4, 24⟩) 2 [0] c = true) ∧
    (owned (one 0 0 false []) none).clears (macqHead ⟨0, 5⟩) 2 [0] (one 0 0 false []) = true ∧
    (owned (one 0 0 false []) (some 7)).clears (macqHead ⟨0, 5⟩) 2 [0] (one 0 0 false []) = true ∧
    (owned (one 0 0 false []) (some 2)).clears (mrelHead ⟨0⟩) 2 [0] (one 0 0 false []) = true ∧
    ((owned (one 0 0 false []) none).core 0).ownq = [] := by decide +kernel
/-! ### Launches, messages, trace records, the commit tree -/

/-- The bench with a node of a kind, one crew of one slice and 16 registers, at 0x200 whose parent, a linked queue node, is at
0x700. -/
def withQueue (c : Crew) (kind : Nat) : State :=
  let s := withMem (withMem (withMem (withMem (bench c) 0x6200 kind 1) 0x6208 0x700 8) 0x6254 0x001001000101 8) 0x6700 3 1
  { s with nodes := tset s.nodes 0x6700 ⟨0x700, 0, 3, 0, 2, 0, 0, 2, List.replicate 88 0, [], 0, 0, 0, false, false, false, false, [], none⟩ }

theorem test_launch_links : let s := left (.launch ⟨0, 4, 0⟩) (withQueue (one 0 0 false [0x200, 0]) 4)
    ((tget s.nodes 0x6200).map fun n => (n.kind, n.parent, n.depth, n.status)) = some (4, 0x6700, 3, 1) ∧
    ((crewIn s).tok 4).st = .pending 4 := by decide +kernel
theorem test_launch_rejects_kind : let s := left (.launch ⟨0, 4, 0⟩) (withQueue (one 0 0 false [0x200, 0]) 2)
    tget s.nodes 0x6200 = none ∧ memNat s.mem 0x6204 4 = 0x10 ∧ ((crewIn s).tok 4).st = .poisoned ∧ ((crewIn s).slice 0).pc = 4 := by
  decide +kernel
theorem test_launch_release : let s := left (.launchRelease ⟨0⟩) (bench (one 0 0 false []))
    memGet s.mem 0x10064 = 2 ∧ (tget s.nodes 0x10000).map (·.released) = some true := by decide +kernel

/-- A message group: type typ to partition 0 of device 1. -/
def toDevice1 (typ : Nat) : List Word := [0, BitVec.ofNat 32 (1 + typ * 2 ^ 16), 1, 2, 3, 4, 5, 6, 7, 8, 0, 0]

theorem test_msgs : ((crewIn (left (.msgs ⟨0, 2, 24⟩) (bench (forEngine (toDevice1 7))))).tok 2).st = .pending 3 ∧
    trapped (.msgs ⟨0, 2, 24⟩) (bench (forEngine (toDevice1 1))) .protect = true ∧
    trapped (.msgs ⟨0, 2, 24⟩) (bench (forEngine (toDevice1 4))) .illegal = true := by decide +kernel

/-- The bench with a software queue at physical 0x7000, of 16 slots at 0x8000, holding one message. -/
def queued (c : Crew) : State :=
  (withMem (withMem (withMem (withMem (bench c) 0x7000 0x8000 8) 0x7008 16 4) 0x7010 1 4) 0x8000
    (5 + 6 * 2 ^ 32 + 7 * 2 ^ 128) 64).modPart 0 0 fun p => { p with msgq := 0x7001 }

theorem test_msgr : let s := left (.msgr ⟨0, 20⟩) (queued (one 0 0 false []))
    regIn s 2 20 = 0x80000005 ∧ regIn s 2 21 = 6 ∧ regIn s 2 22 = 7 ∧ regIn s 2 30 = 0 ∧ memNat s.mem 0x700C 4 = 1 ∧
    reg (.msgr ⟨0, 20⟩) (one 0 0 false (List.replicate 32 9)) 0 20 = 0 := by decide +kernel

/-- The bench with its node traced and a ring of 16 records at physical 0x9000. -/
def tracing (c : Crew) : State :=
  ((bench c).modBlock c.block fun b => { b with effs := List.replicate 9 0 ++ [1] }).modPart 0 0 fun p =>
    { p with trcEn := true, trcK := 4, trcBase := 0x480 }

theorem test_trace_record : let s := left (.trace ⟨0, 24⟩) (tracing (forEngine [7, 8, 9, 10]))
    (s.part 0 0).widx = 1 ∧ memNat s.mem 0x9010 4 = 7 ∧ memNat s.mem 0x901C 4 = 10 ∧
    (left (.trace ⟨0, 24⟩) (bench (forEngine [7, 8, 9, 10]))).mem = (bench (forEngine [7, 8, 9, 10])).mem := by decide +kernel

/-- The bench with an object of count n enrolled at 0x100. -/
def counted (n : Nat) (c : Crew) : State :=
  let s := left (.ctenr ⟨0, 0⟩) (bench (at100 0 []))
  again (s.putNode 0x6100 { s.treeNode 0x6100 with count := n }) c

theorem test_ctenr : let s := counted 0 (at100 0 [])
    (s.treeNode 0x6100).valid = true ∧ (s.treeNode 0x6100).count = 0 ∧
    trapped (.ctread ⟨0, 4, 0⟩) (bench (at100 0 [])) .illegal = true := by decide +kernel
theorem test_ctread_ctcmp : let s := counted 5 (at100 0 [5, 0])
    regIn (left (.ctread ⟨0, 4, 0⟩) s) 1 4 = 5 ∧ ((crewIn (left (.ctcmp ⟨0, 3, 0⟩) s)).lane 0).pred 3 = false ∧
    ((crewIn (left (.ctcmp ⟨0, 3, 0⟩) (again s (at100 0 [6, 0])))).lane 2).pred 3 = true := by decide +kernel
theorem test_tree_operations_are_pending : ([Instr.ctleaf ⟨0, 1, 24⟩, .ctset ⟨0, 1, 24⟩, .ctmove ⟨0, 1, 24⟩, .ctdrop ⟨0, 1, 24⟩].all fun i =>
    let s := bench (forEngine [0x100, 0, 0, 0, 0, 0, if i == .ctleaf ⟨0, 1, 24⟩ then 1 else 0, 0])
    ((crewIn (left i s)).tok 1).st == .pending 3) = true := by decide +kernel

theorem witness_Launches : let c := one 0 0 false [0x200, 0]
    (withQueue c 4).clears (launchHead ⟨0, 4, 0⟩) 2 [0] c = true ∧ (Instr.launch ⟨0, 31, 0⟩).wf = true ∧
    (let x := (withQueue c 4).issueOf (launchHead ⟨0, 4, 0⟩) 2 [0] c
     x.check .write 256 0 0x200 = .ok ⟨0x6200, 0⟩ ∧ x.check .write 256 0 0x700 = .ok ⟨0x6700, 0⟩ ∧ x.owes = false) ∧
    (withQueue c 4).nodeTainted 0x6700 = false ∧ (withQueue c 4).linkCode 0x6200 0 (some 0x6700) false = 0 ∧
    (withQueue c 2).linkCode 0x6200 0 (some 0x6700) false = 0x10 ∧ clearAll c [launchReleaseHead ⟨0⟩] = true ∧
    ({ withQueue c 4 with marks := [0x6200 / 32] } : State).marked 0x6200 256 = true := by decide +kernel
theorem witness_MessagesAndTraces : clearAll (forEngine (toDevice1 7)) [msgsHead ⟨0, 2, 24⟩, msgrHead ⟨0, 20⟩] = true ∧
    clearAll (forEngine (toDevice1 1)) [msgsHead ⟨0, 2, 24⟩] = true ∧ clearAll (forEngine [7, 8, 9, 10]) [traceHead ⟨0, 24⟩] = true ∧
    (let s := queued (one 0 0 false [])
     s.clears (msgrHead ⟨0, 20⟩) 2 [0] (one 0 0 false []) = true ∧
       s.queueAt 0 (s.part 0 (s.partOf (s.ctxOf (one 0 0 false [])))).msgq = some ⟨0x7000, 0x8000, 16, 0, 1⟩ ∧
       s.marked 0x7000 32 = false ∧ s.marked (s.slotOf 0 ⟨0x7000, 0x8000, 16, 0, 1⟩ 0) 64 = false ∧
       ({ s with marks := [0x7000 / 32] } : State).marked 0x7000 32 = true) ∧
    (bench (one 0 0 false [])).queueAt 0 0 = none ∧
    (let c := forEngine [7, 8, 9, 10]
     (tracing c).clears (traceHead ⟨0, 24⟩) 2 [0] c = true ∧ (tracing c).traced c = true ∧ (bench c).traced c = false) := by
  decide +kernel
/-- A crew with the pairs 0x100 and u in x0 and x2. -/
def under (u : Word) : Crew := one 0 0 false [0x100, 0, u, 0]

/-- The bench with a node of given bits at 0x200 (physical 0x6200), about to issue with another crew. -/
def above (n : TNode) (c : Crew) : State := (bench c).putNode 0x6200 n

/-- The access checks of a CTENR pass for the node at 0x100 and, where it names one, its parent at 0x200. -/
def enrols (s : State) (c : Crew) (up : Bool) : Bool :=
  let x := s.issueOf (ctenrHead ⟨0, 0⟩) 2 [0] c
  s.clears (ctenrHead ⟨0, 0⟩) 2 [0] c && x.nodeAcc .write 0x100 == .ok place && (!up || x.nodeAcc .write 0x200 == .ok ⟨0x6200, 0⟩) &&
    s.tainted == [] && !s.marked 0x6100 64 && !s.marked 0x6200 64

theorem witness_TreeNodes :
    (let s := bench (under 0)
     enrols s (under 0) false = true ∧ s.structBusy 0x6100 = false ∧ (s.treeNode 0x6100).valid = false ∧
       (let b : State := { s with ops := [(9, ⟨2, some 4, none, 0, 1, [0], false, 0, ⟨[], false⟩, none, .tree ⟨.drop, [], 0x6100, none, true, false, [], false, []⟩⟩)] }
        enrols b (under 0) false = true ∧ b.structBusy 0x6100 = true)) ∧
    (let s := counted 5 (under 0)
     enrols s (under 0) false = true ∧ s.structBusy 0x6100 = false ∧ (s.treeNode 0x6100).valid = true) ∧
    (let s := counted 5 (under 0x200)
     enrols s (under 0x200) true = true ∧ s.structBusy 0x6100 = false ∧ s.treeLost 0x6200 = false ∧ (s.treeNode 0x6100).valid = true) ∧
    ([⟨0, 0, true, false, 0, 0⟩, ⟨0, 0, true, true, 0, 0⟩, ⟨0, 0, false, false, 0, 0⟩].all fun n =>
      let s := above n (under 0x200)
      enrols s (under 0x200) true && !s.structBusy 0x6100 && !s.treeLost 0x6200 && !(s.treeNode 0x6100).valid &&
        s.treeNode 0x6200 == n) = true :=
  ⟨by decide +kernel, by decide +kernel, by decide +kernel, by decide +kernel⟩
theorem witness_TreeCounts : let c := at100 0 [5, 0]
    [counted 5 c, bench c].map (fun s => (s.treeNode 0x6100).valid) = [true, false] ∧
    ([counted 5 c, bench c].all fun s => s.clears (ctreadHead ⟨0, 4, 0⟩) 2 [0] c && s.clears (ctcmpHead ⟨0, 3, 0⟩) 2 [0] c &&
      (s.issueOf (ctreadHead ⟨0, 4, 0⟩) 2 [0] c).nodeAcc .read 0x100 == .ok place &&
      (s.issueOf (ctcmpHead ⟨0, 3, 0⟩) 2 [0] c).nodeAcc .read 0x100 == .ok place && !s.marked 0x6100 64 && !s.treeLost 0x6100) = true ∧
    (Instr.ctread ⟨0, 4, 0⟩).wf = true ∧ (Instr.ctcmp ⟨0, 7, 0⟩).wf = true := by
  decide +kernel
/-! ### The system instructions -/

/-- The bench with a pool object at 0xA000 that holds the frames 0x100000 and 0x101000 (size 4 KiB, room for cap). -/
def pooled (count cap : Nat) (c : Crew) : State :=
  (withMem (withMem (withMem (withMem (withMem (bench c) 0xA000 0xB000 8) 0xA008 count 4) 0xA00C cap 4) 0xB000 0x100000 8) 0xB008
    0x101000 8).modCore 0 fun k => { k with fpool := 0xA000 }

/-- A supervisor crew that names address a, attributes t in its group at x24. -/
def mapper (a t : Word) : Crew := (forEngine [a, 0, t, 0]).boss

theorem test_mappg_maps : let s := left (.mappg ⟨0, 10, 24⟩) (pooled 2 16 (mapper 0x1000 0x1C))
    regIn s 3 10 = 0 ∧ regIn s 3 11 = 1 ∧ memNat s.mem 0x5008 8 = 0x10101F ∧ memNat s.mem 0xA008 4 = 1 := by decide +kernel
theorem test_mappg_statuses : regIn (left (.mappg ⟨0, 10, 24⟩) (pooled 2 16 (mapper 0 0x1C))) 0 10 = 1 ∧
    regIn (left (.mappg ⟨0, 10, 24⟩) (pooled 0 16 (mapper 0x1000 0x1C))) 0 10 = 2 ∧
    trapped (.mappg ⟨0, 10, 24⟩) (pooled 2 16 (forEngine [0x1000, 0, 0x1C, 0])) .protect = true := by decide +kernel
theorem test_unmappg_returns_the_entry : let s := left (.unmappg ⟨0, 10, 24⟩) (pooled 2 16 (mapper 0 1))
    regIn s 0 10 = 0x601F ∧ regIn s 0 11 = 0 ∧ memNat s.mem 0x5000 8 = 0 ∧ memNat s.mem 0xA008 4 = 3 ∧ memNat s.mem 0xB010 8 = 0x6000 ∧
    regIn (left (.unmappg ⟨0, 10, 24⟩) (pooled 2 2 (mapper 0 1))) 0 10 = 0x681F := by decide +kernel
theorem test_tlbinv_drops : let s := (bench (mapper 0 1)).tlbFill 0 true .read 0 0
    (s.core 0).tlb.length = 1 ∧ ((left (.tlbinv ⟨0, 24⟩) s).core 0).tlb = [] := by decide +kernel
theorem test_fltinfo_0 : let c := { (one 0 0 false [0, 0, 0]).boss with trap := ⟨7, 0xA, 5, 0x40, [(1, 0x123456789)], 0x2⟩ }
    reg (.fltinfo ⟨0, 4, 2⟩) c 1 4 = 0x1707 ∧ reg (.fltinfo ⟨0, 4, 2⟩) c 0 4 = 0x1407 ∧ reg (.fltinfo ⟨0, 4, 2⟩) c 0 5 = 0xA ∧
    reg64 (.fltinfo ⟨0, 4, 2⟩) c 1 6 = 0x123456789 := by decide +kernel
theorem test_fltinfo_2_removes_one_entry : let c := { (one 0 0 false [0, 0, 2]).boss with efr := [⟨9, 3, true, 17, 0x55⟩], efrLost := true }
    reg (.fltinfo ⟨0, 4, 2⟩) c 1 4 = 0x0011E309 ∧ reg64 (.fltinfo ⟨0, 4, 2⟩) c 1 6 = 0x55 ∧ (ran (.fltinfo ⟨0, 4, 2⟩) c).efr = [] ∧
    (ran (.fltinfo ⟨0, 4, 2⟩) c).efrLost = false := by decide +kernel
theorem test_srd_swr_core_ctl : let c := (one 0 0 false [0, 0, 0, 0, 3, 0]).boss
    ((left (.swr ⟨0, 4, 2⟩) (bench c)).core 0).check = true ∧
    reg64 (.srd ⟨0, 6, 2⟩) c 1 6 = 0 ∧
    regIn (left (.srd ⟨0, 6, 2⟩) ((bench c).modCore 0 fun k => { k with check := true })) 1 6 = 1 := by decide +kernel
theorem test_swr_of_another_core_protects : trapped (.swr ⟨0, 4, 2⟩) (bench (one 0 0 false [0, 0, 0x00100000, 0, 3, 0])) .protect = true ∧
    trapped (.srd ⟨0, 6, 2⟩) (bench (one 0 0 false [0, 0, 0x00000007])) .illegal = true := by decide +kernel

theorem witness_Privileged : privilegedForm (.tlbinv ⟨0, 24⟩) = some (tlbinvHead ⟨0, 24⟩) ∧
    clearAll (forEngine [0, 0, 1, 0]) [tlbinvHead ⟨0, 24⟩] = true ∧ (forEngine [0, 0, 1, 0]).sup = none :=
  ⟨rfl, by decide +kernel, by decide +kernel⟩
theorem witness_FaultReports : ([0, 1, 2].all fun n => clearAll (one 0 0 false [0, 0, n]).boss [fltinfoHead ⟨0, 4, 2⟩]) = true ∧
    (one 0 0 false []).boss.sup.isSome = true ∧ (one 0 0 false []).trap.cause < 256 := by decide +kernel
theorem witness_PagesMapped : let s := pooled 2 16 (mapper 0x1000 0x1C)
    (s.clears (mappgHead ⟨0, 10, 24⟩) 2 [0] (mapper 0x1000 0x1C) = true ∧ (mapper 0x1000 0x1C).sup.isSome = true ∧
      s.marked (s.pool 0).pa 32 = false ∧ canonical 0x1000 = true) ∧
    s.makeTables 0 1 0x1000 5 (s.core 0).ptroot = (s, .table 0x5000) ∧
    ((s.pool 0).size = 0 ∧ s.leafSlots 0 0 1 0x1000 0x5000 = [0x5008] ∧ s.leafSlots 0 0 1 0 0x5000 = [0x5000] ∧
      s.marked 0x5008 8 = false ∧ memGet s.mem 0x5008 % 2 = 0 ∧ memGet s.mem 0x5000 % 2 = 1 ∧ (s.pool 0).count ≠ 0 ∧
      s.marked (s.poolSlot 0 (s.pool 0) 1) 8 = false ∧ s.scrubbed 0x5008 8 (fun _ => true) = false ∧
      (pooled 0 16 (mapper 0x1000 0x1C)).pool 0 = ⟨0xA000, 0xB000, 0, 16, 0, false⟩) ∧
    (s.mapPage 0 0 0x1C).2 = .status 1 :=
  ⟨by decide +kernel, rfl, by decide +kernel, by decide +kernel⟩
theorem witness_PagesUnmapped : let s := pooled 2 16 (mapper 0 1)
    (s.clears (unmappgHead ⟨0, 10, 24⟩) 2 [0] (mapper 0 1) = true ∧ s.walk 0 5 0x1000 0 = .leaf 1 0x5000 0x601F ∧
      s.walk 0 5 0x1000 0x1000 = .fault ∧ s.invals = [] ∧
      s.invalOut (s.accessesOut (s.ctxOf (mapper 0 1)) 0 0x1000 [(0x6000, 0x1000)] 0x601F) = false ∧
      s.scrubbed 0x5000 8 (fun _ => true) = false ∧ (0x601F#64).getLsbD 5 = false ∧ s.marked (s.pool 0).pa 32 = false ∧
      (s.pool 0).pa = 0xA000) ∧
    (pooled 2 16 (mapper 0 0)).clears (unmappgHead ⟨0, 10, 24⟩) 2 [0] (mapper 0 0) = true ∧
    s.clears (tlbinvHead ⟨0, 24⟩) 2 [0] (mapper 0 1) = true :=
  ⟨by decide +kernel, by decide +kernel, by decide +kernel⟩
theorem witness_DeviceRegisters : let c := (one 0 0 false [0, 0, 0, 0, 3, 0]).boss
    clearAll c [srdHead ⟨0, 6, 2⟩, swrHead ⟨0, 4, 2⟩] = true ∧ regOf 0 = some ⟨.coreCtl, 0, 0⟩ ∧
    ((bench c).issueOf (swrHead ⟨0, 4, 2⟩) 2 [0] c).mayUse ⟨.coreCtl, 0, 0⟩ true = true ∧
    ((bench c).issueOf (swrHead ⟨0, 4, 2⟩) 2 [0] c).mayUse ⟨.coreTvec, 0, 0⟩ true = false := by decide +kernel
/-! ### Steps of hardware: waits, meetings of gangs, arrivals, failing words -/

/-- The crew whose slice 0 waits. -/
def waiting (w : Wait) (c : Crew) : Crew := c.modSlice 0 fun sl => { sl with wait := w }

theorem test_token_wait_wakes : let c := waiting (.tokens 2 false 0 0xF) (withTok (one 0 0 false []) 1 .poisoned)
    let d := crewIn (come (bench c) (.tokenWaitWake 2 0))
    (d.slice 0).pc = 4 ∧ (d.slice 0).wait = .none ∧ (d.lane 3).pred 7 = true := by decide +kernel
theorem test_batch_wait_wakes : let c := waiting (.batch 1 0xF) (one 0 0 false [])
    ((crewIn (come (bench c) (.batchWaitWake 2 0))).slice 0).pc = 4 := by decide +kernel
theorem test_barrier_wait_wakes : let c := waiting (.barrier 0x6140 0 0xF) (forBar 0 0 [])
    ((crewIn (come (again (left (.barr ⟨0, 16⟩) (armed 1 (forBar 0 0 []))) c) (.barrierWaitWake 2 0))).slice 0).pc = 4 := by
  decide +kernel

/-- A WAITA of one word at 0x100 for a value other than 0, the result to x4. -/
def watch (armed : Bool) : WaitA := ⟨place, 4, false, .ne, 0, 4, armed, false, 0xF, .device, 0x100⟩

theorem test_waita_polls : let c := waiting (.waita (watch false)) (one 0 0 false [])
    let s := come (withMem (bench c) 0x6100 9 4) (.waitaPoll 2 0)
    regIn s 1 4 = 9 ∧ ((crewIn s).slice 0).pc = 4 := by decide +kernel
theorem test_sleep_ends : let c := waiting (.sleep 0) (one 0 0 false [])
    let d := crewIn (come (bench c) (.sleepExpiry 2 0))
    (d.slice 0).wait = .none ∧ (d.slice 0).pc = 0 := by decide +kernel
theorem test_gang_aged : ((crewIn (come { bench (one 0 0 false []) with clk := 32768 } (.gangAged 2 0))).slice 0).aged = true := by
  decide +kernel

/-- The bench with one result still to land, a tile's handle 7 for x4. -/
def clearing : State :=
  let p : Pend := ⟨2, [0], 0xF, none, .handle 7, [4], false, [], [], [], [], [], none, true⟩
  { bench (one 0 0 false []) with pends := [(5, p)] }

theorem test_tile_clear_writes_the_handle : regIn (come clearing (.tileClearDone 5)) 3 4 = 7 := by decide +kernel

/-- No token of a mask is pending. -/
def settled (c : Crew) (m : Word) : Bool := (List.range 32).all fun n =>
  !m.getLsbD n || match (c.tok n).st with | .pending _ => false | _ => true

theorem witness_WaitsEnd :
    (let c := waiting (.tokens 2 false 0 0xF) (withTok (one 0 0 false []) 1 .done)
     (c.slice 0).wait = .tokens 2 false 0 0xF ∧ settled c 2 = true) ∧
    (let c := waiting (.tokens 6 true 0 0xF) (withTok (one 0 0 false []) 1 (.pending 9))
     settled c 6 = false ∧ settled c 4 = true) ∧
    (let c := waiting (.batch 0 0xF) batched
     c.gangOf 0 = [0] ∧ (c.slice 0).wait = .batch 0 0xF ∧ (c.slice 0).batch.recs.map (·.num) = [1] ∧ covers 0 1 = false) ∧
    (let c := waiting (.barrier 0x6140 0 0xF) (forBar 0 0 [])
     let s := again (left (.barr ⟨0, 16⟩) (armed 1 (forBar 0 0 []))) c
     s.isOut c = false ∧ phaseDone (bar s).phase 0 = true ∧ (bar (bench c)).valid = false ∧
       (match s.barSee 0x6140, (bench c).barSee 0x6140 with | .ok o, .ok p => o == bar s && p == bar (bench c) | _, _ => false) = true) ∧
    (let c := waiting (.waita (watch false)) (one 0 0 false [])
     let s := withMem (bench c) 0x6100 9 4
     isPeer 0x6100 = false ∧ s.marked 0x6100 4 = false ∧ (watch false).holds (s.waitaRead c.core (watch false)) = true) ∧
    (let c := one 0 0 false []
     c.ready 32768 0 = true ∧ (c.slice 0).aged = false ∧ (c.slice 0).since + 32768 ≤ 32768 ∧
       ((waiting (.sleep 7) c).slice 0).wait = .sleep 7) ∧
    ((tget clearing.pends 5).map fun p => (p.dst, p.causes, p.complete)) = some ([4], [], true) := 
  ⟨by decide +kernel, by decide +kernel, by decide +kernel, by decide +kernel, by decide +kernel, by decide +kernel, by decide +kernel⟩

/-- A crew of two slices that wait. -/
def waiting2 (v w : Wait) (c : Crew) : Crew := (c.modSlice 0 fun sl => { sl with wait := v }).modSlice 1 fun sl => { sl with wait := w }

/-- Two gangs, one a slice. -/
def apart : Crew := (crewOf 2 8 []).modSlice 1 fun sl => { sl with gang := 1 }

theorem test_regang_joins : let d := crewIn (come (bench (waiting2 (.regang 3) (.regang 3) apart)) (.regangComplete 2 3))
    (d.slice 0).gang = (d.slice 1).gang ∧ (d.slice 0).pc = 4 ∧ (d.slice 1).pc = 4 := by decide +kernel
theorem test_syncc_meets : let d := crewIn (come (bench (waiting2 .sync .sync apart)) (.synccComplete 2))
    (d.slice 0).pc = 4 ∧ (d.slice 1).pc = 4 ∧ (d.slice 0).gang ≠ (d.slice 1).gang := by decide +kernel
theorem test_deadlock_raises_illegal : let d := crewIn (come (bench (waiting2 (.regang 3) .sync apart)) (.crewDeadlock 2))
    d.sup.isSome = true ∧ d.trap.cause = Cause.illegal.code ∧ (d.slice 1).wait = .none := by decide +kernel

/-- A crew that waits for 96 registers and prio 9 at address 0x80. -/
def growing : Crew := { waiting .rolesw (one 0 0 false [5]) with allot := 64, role := some ⟨96, 9, 0x80, 1⟩ }

theorem test_role_switch_grants : let d := crewIn (come (bench growing) (.roleswGrant 2))
    d.allot = 96 ∧ d.prio = 9 ∧ (d.slice 0).pc = 0x80 ∧ (d.lane 0).regs = [(0, 5)] := by decide +kernel
theorem test_crew_retires : let s := come (bench ((one 0 0 false []).modSlice 0 fun sl => { sl with exited := true })) (.crewRetire 2)
    tget s.crews 2 = none ∧ s.crews = [] := by decide +kernel

theorem witness_GangsMeet : (waiting2 (.regang 3) (.regang 3) apart).present = [0, 1] ∧
    ((waiting2 (.regang 3) (.regang 3) apart).present.all fun j =>
      ((waiting2 (.regang 3) (.regang 3) apart).slice j).wait == .regang 3) = true ∧
    ((waiting2 .sync .sync apart).present.all fun j => ((waiting2 .sync .sync apart).slice j).wait == .sync) = true ∧
    (waiting2 (.regang 3) .sync apart).deadlocked = true ∧ (bench growing).roleSteps growing.block = [.roleswGrant 2] ∧
    ((one 0 0 false []).modSlice 0 fun sl => { sl with exited := true }).present = [] ∧
    settled (one 0 0 false []) 0xFFFFFFFF = true := by decide +kernel

/-- An update that arrives once and takes 16 bytes away. -/
def arrival : BarUpd := ⟨0, 0x6140, 0x140, true, -16, false, 1, 0⟩

theorem test_barrier_update_arrives : let s := left (.bexp ⟨0, 16⟩) (armed 1 (forBar 16 0 []))
    (bar (come s (.barrierUpdate arrival))).phase = 1 ∧
    (come (bench (forBar 0 0 [])) (.barrierUpdate arrival)).mem = (bench (forBar 0 0 [])).mem := by decide +kernel

/-- A crew that holds a deferred arrival whose copies have ended. -/
def deferring : Crew := { forBar 0 0 [] with deferred := [⟨0x6140, 0x140, 0, [], [], 0⟩] }

theorem test_deferred_arrival_is_made : let s := come (armed 1 deferring) (.deferredArrival 2)
    (bar s).phase = 1 ∧ (crewIn s).deferred = [] := by decide +kernel
theorem test_dependence_count_falls : let s := tasked (one 0 0 false [])
    memNat (come s (.taskDepcountDecrement 0x6200 6 true)).mem (0x6200 + 116) 4 = 2 ^ 32 - 1 ∧
    memGet (come s (.taskDepcountDecrement 0x6200 1 true)).mem (0x6200 + 120) = 1 := by decide +kernel

/-- The bench without blocks, its node of n blocks, st its status, all of them created and retired. -/
def spent (n st : Nat) : State := (({ bench (one 0 0 false []) with crews := [], blocks := [] } : State).modNode 0x10000 fun d =>
  { d with status := st, retired := n, created := n, bound := n, kept := (List.replicate 88 0).set 48 (BitVec.ofNat 8 n) })

theorem test_node_ends : let s := come (spent 1 2) (.launchNodeRetire 0x10000)
    tget s.nodes 0x10000 = none ∧ memNat s.mem 0x10004 4 = 3 ∧
    memNat (come ((spent 1 2).modNode 0x10000 fun d => { d with faulted := true }) (.launchNodeRetire 0x10000)).mem 0x10004 4 = 4 := by
  decide +kernel

theorem witness_UpdatesArrive :
    isPeer arrival.pa = false ∧ (bar (armed 1 (forBar 0 0 []))).valid = true ∧ (bar (bench (forBar 0 0 []))).valid = false ∧
    ((armed 1 (forBar 0 0 [])).barApply 0x6140 (bar (armed 1 (forBar 0 0 []))) true (-16) false).isSome = true ∧
    (armed 1 deferring).crews = [(2, deferring)] ∧ (deferring.deferred.all ((armed 1 deferring).arrivalDue 2)) = true ∧ ((armed 1 deferring).barApply 0x6140 (bar (armed 1 deferring)) true 0 false).isSome = true ∧
    ((tget (spent 1 2).nodes 0x10000).map ((spent 1 2).nodeOver 0x10000)) = some true ∧
    ((tget (spent 0 1).nodes 0x10000).map ((spent 0 1).nodeEmpty 0x10000)) = some true ∧
    (tasked (one 0 0 false [])).scrubbed (0x6200 + 116) 5 (fun _ => true) = false ∧
    (spent 1 2).scrubbed 0x10004 4 (fun _ => true) = false := by
  decide +kernel

/-- The bench that has fetched a word that does not decode. -/
def badWord : State := { bench (one 0 0 false []) with ev := some (.illegalInstructionWord 0xFFFFFFFF) }

theorem test_illegal_word : let s := left .illegalInstructionWord badWord
    (crewIn s).trap.cause = Cause.illegal.code ∧ (crewIn s).trap.mask = 0xF := by decide +kernel

/-- The bench about to fetch at an address that its tables do not map. -/
def lostCode : State := let s := bench ((one 0 0 false []).modSlice 0 fun sl => { sl with pc := 0x1000 })
  { s with ev := some .fetchFault }

theorem test_fetch_fault : (crewIn (left .fetchFault lostCode)).trap.cause = Cause.pagefault.code ∧
    (crewIn (left .fetchFault lostCode)).trap.addrs = [(0, 0x1000), (1, 0x1000), (2, 0x1000), (3, 0x1000)] := by decide +kernel
theorem test_register_write : ((come State.reset (.registerWrite 0 3)).core 0).check = true ∧
    ((come State.reset (.registerWrite 1 5)).core 0).tmkey = 5 ∧ (come State.reset (.registerWrite 0x30000421 9)).pkg = Pkg.reset ∧
    ((come State.reset (.registerWrite 0x30000421 9)).die 0).xdto = 9 := by
  decide +kernel
theorem witness_WordsThatFail :
    (match lostCode.fetch (crewIn lostCode) fetchChoice 0x1000 with | .bad e => e == .pagefault | _ => false) = true ∧
    lostCode.cur = some (2, [0]) ∧ regOf 0 = some ⟨.coreCtl, 0, 0⟩ ∧ State.reset.occupied 0 = false := by decide +kernel
/-! ### Steps of the engines and the commit tree -/

/-- A property of operation 3 of a state. -/
def op3 (s : State) (p : Op → Bool) : Bool := (tget s.ops 3).any p

/-- The copy in an operation, if it is one, has a property. -/
def copyIs (p : CopyOp → Bool) (o : Op) : Bool := match o.body with | .copy c => p c | _ => false
/-- The matrix operation in an operation, if it is one, has a property. -/
def matIs (p : MatOp → Bool) (o : Op) : Bool := match o.body with | .mat c => p c | _ => false
/-- The macro in an operation, if it is one, has a property. -/
def macroIs (p : FurlongOp → Bool) (o : Op) : Bool := match o.body with | OpBody.furlong c => p c | _ => false

/-- The state with operation 3's preconditions poisoned. -/
def soured (s : State) : State := s.modOp 3 fun o => { o with pre := ⟨[], true⟩ }

/-- A copy of 16 bytes issued, operation 3. -/
def copying : State := left (.cpys ⟨0, 1, 24⟩) (tileOf (forEngine [0, 0, 1, 0, 0x100, 0, 16, 0]) false 1 16 5 16)
/-- An accumulator cleared, operation 3, issued. -/
def clearing0 : State := left (.mzero ⟨0, 3, 24⟩) (tileOf (forEngine [0, 1, 0x00010001, 0]) true 32 256 1 264)
/-- A multiplication issued, operation 3; its accumulator tile is not there. -/
def multiplying : State := left (.mma ⟨0, 3, 24⟩) (bench (teamed mmaGroup))
/-- The same with an accumulator of the shape it needs. -/
def shaped : State := left (.mma ⟨0, 3, 24⟩) (tileOf (teamed mmaGroup) true 32 256 0 0)
/-- A macro issued, operation 3; its parameter block reads 0. -/
def macroing : State := left (.mseq ⟨0, 4, 24⟩) (bench (teamed [0, 1, 0x80, 0]))

/-- A GEMM without a store whose block gives one chunk of 16 rows, operation 3: the actions issued and done. -/
def gemm (issued done : List Nat) : State := macroing.modOp 3 fun o => match o.body with
  | OpBody.furlong f => { o with body := OpBody.furlong { f with started := true, issued := issued, doneSteps := done, fb := List.replicate 64 0
                                                                 pb := some (natBytes (16 * 2 ^ (8 * 0x48) + 16 * 2 ^ (8 * 0x4C)) 128) } }
  | _ => o

theorem test_poisoned_copy_writes_nothing : let s := come (come (soured copying) (.copyStart 3)) (.copyComplete 3)
    ((crewIn s).tok 1).st = .poisoned ∧ memNat s.mem 0x6100 16 = 0 ∧ s.marks = [0x6100 / 32] := by decide +kernel
/-- The macro with n bytes of 0 fetched from an address. -/
def stocked (s : State) (va : Dword) (n : Nat) : State := s.modOp 3 fun o => match o.body with
  | OpBody.furlong f => { o with body := OpBody.furlong { f with got := Got.add [] va (List.replicate n (0, false)) } }
  | _ => o

theorem test_macro_with_bad_block_fails :
    let go := fun (s : State) => come s (.furlongStep 3)
    let s := go (go (go (stocked (go (stocked (go macroing) 0x80 128)) 0 64)))
    ((crewIn s).tok 4).st = .poisoned ∧ ((crewIn s).efr.map (·.cause)) = [Cause.illegal.code] ∧ tget s.ops 3 = none := by decide +kernel
theorem test_macro_ends_after_its_chunk : let s := come (gemm [0, 1, 2] [0, 1, 2]) (.furlongStep 3)
    ((crewIn s).tok 4).st = .done ∧ tget (crewIn s).macros 4 = some (false, 2, 0) := by decide +kernel

theorem witness_EngineSteps :
    op3 copying (fun o => copyIs (fun c => copying.copyReady 3 o c && (soured copying).copyReady 3 { o with pre := ⟨[], true⟩ } c && !copying.crossesRow { c with started := true }) o && !o.poisonedPre &&
      (soured copying).ops.all fun e => e.2.poisonedPre) = true ∧
    (let s := come ((List.range 4).foldl (fun s i => carryWord s (4 * i)) (come copying (.copyStart 3))) (.copyStart 3)
     op3 (come copying (.copyStart 3)) (copyIs fun c => copying.copyRuns 0 c) = true ∧ op3 s (fun o => copyIs (fun c => c.finished && !s.copyRuns 0 c) o && o.parent.isNone && o.token == some 1 && o.crew == 2) = true ∧
       ((crewIn s).tok 1).st = .pending 3) ∧
    (op3 clearing0 (fun o => matIs (fun m => clearing0.matReady 3 o m && !m.kind.multiply) o && !o.poisonedPre) = true ∧
      op3 (soured clearing0) (fun o => matIs ((soured clearing0).matReady 3 o) o && o.poisonedPre) = true) ∧
    (op3 multiplying (fun o => matIs (fun m => m.kind.multiply && multiplying.matReady 3 o m && m.fmt.isNone &&
      (match multiplying.accShape { m with started := true } with | .error _ => true | _ => false)) o && !o.poisonedPre) = true ∧
      op3 shaped (fun o => matIs (fun m => m.kind.multiply && shaped.matReady 3 o m && m.fmt.isNone &&
      (match shaped.accShape { m with started := true } with | .ok _ => true | _ => false)) o && !o.poisonedPre) = true) ∧
    (let s := come clearing0 (.matrixOpStart 3)
     op3 s (matIs fun m => m.running) = true ∧ op3 (come s (.matrixOpStart 3)) (matIs fun m => m.ended) = true ∧
     op3 (come (soured clearing0) (.matrixOpStart 3)) (fun o => matIs (fun m => m.started && m.ended) o) = true) ∧
    op3 macroing (fun o => macroIs (fun f => !macroing.macroGoes o f && macroing.macroReady 3 o f) o) = true ∧
    (let s := gemm [] []
     op3 s (fun o => macroIs (fun f => s.macroGoes o f && f.started && f.wait.isNone && !f.over_ && f.failed.isNone && f.wants == []) o &&
       o.plan.any fun p => !p.complete && p.ready == [0, 1] && (s.nextAction o p).any fun a => p.scaleAt a == []) = true) ∧
    (let s := (gemm [0] [0]).modOp 3 fun o => match o.body with
       | OpBody.furlong f => { o with body := OpBody.furlong { f with over_ := true, marking := true } }
       | _ => o
     op3 s (macroIs fun f => f.started && f.wait.isNone && f.over_ && f.marking && f.peers.isEmpty && f.issued.all f.doneSteps.contains) =
       true) ∧
    op3 (gemm [0, 1, 2] [0, 1, 2]) (fun o => macroIs (fun f => f.started && !f.over_ && f.failed.isNone && f.wants == []) o && o.plan.any Plan.complete) =
      true := by
  refine ⟨?_, ?_, ?_, ?_, ?_, ?_, ?_, ?_, ?_⟩ <;> decide +kernel

/-- A collective of 4 elements of FP32 on stream 1 over P members, before it begins: its block, member 0's and 1's receive
buffers at 0x400 of their first pages, its own in frame 6. -/
def coll0 (op rank P : Nat) : CollOp :=
  { die := 0, blockVa := 0x80, started := false
    pb := natBytes (op + 2 ^ 48 + rank * 2 ^ 64 + P * 2 ^ 80 + 4 * 2 ^ 128 + 0x100 * 2 ^ 256) 128
    gtab := [0x400, 0x400], frames := [(6, 0)], ready := [], done := [], flying := [], staged := [], finals := [], counted := []
    marked := [], lines := [], poisoned := false, failed := false, stopped := false, lastData := 0, lastMove := 0 }

/-- The bench with a collective as operation 9 of token 4. -/
def collIn (c : CollOp) : State :=
  { bench (withTok (one 0 0 false []) 4 (.pending 9)) with ops := [(9, ⟨2, some 4, none, 0, 1, [0], false, 0, ⟨[], false⟩, some 1, .coll c⟩)] }

/-- A collective begun. -/
def begun (c : CollOp) : CollOp := { c with started := true }

/-- The collective of operation 9. -/
def coll9 (s : State) (p : CollOp → Bool) : Bool := (tget s.ops 9).any fun o => match o.body with | .coll c => p c | _ => false

-- R412: a broadcast of one member carries its own send buffer to its receive buffer.
theorem test_coll_step_own : let s := come (withMem (collIn (begun (coll0 3 0 1))) 0x6100 0x55667788 4) (.collStep 9)
    memNat s.mem 0x6400 4 = 0x55667788 ∧ coll9 s (fun c => c.done == [0] && c.allFinal && c.over) = true := by decide +kernel
theorem test_coll_complete : let s := come (collIn { begun (coll0 3 0 1) with done := [0], finals := [(0, 16)] }) (.collComplete 9)
    ((crewIn s).tok 4).st = .done ∧ ((crewIn s).tok 4).bytes = 16 ∧ s.ops = [] := by decide +kernel
theorem test_coll_notice_held_then_taken : let c := begun (coll0 3 0 2)
    let r : Ready := ⟨0, 1, 0, 0x6400, 1, c.sig, 0⟩
    ((come (collIn (coll0 3 0 2)) (.collectiveReady r)).die 0).notices = [r] ∧
    coll9 (come (collIn c) (.collectiveReady r)) (fun c => c.ready == [1]) = true := by decide +kernel

/-- A chunk of rank 0's contribution to part 0, for member 1 of a reduction to root 0: 4 elements as sent raw. -/
def bundle : CollChunk := ⟨0, 1, 1, 0x6400, true, 0, [0], 0, 0, 4, encodeChunk false 4 4 (natBytes 7 16)⟩

theorem test_coll_chunk_staged : coll9 (come (collIn (begun (coll0 4 1 2))) (.collChunkReceive bundle)) (fun c =>
      c.staged == [⟨0, 0, 0, 4, natBytes 7 16, false⟩]) = true := by decide +kernel
theorem test_coll_timeout_drops : let c := { begun (coll0 3 0 2) with done := [0], finals := [(0, 16)] }
    let s := { collIn c with timers := [] }.modDie 0 fun d => { d with refclk := 180000000 }
    coll9 (come s (.collTimeout 9)) (fun c => c.stopped && c.poisoned) = true := by decide +kernel

theorem witness_CollectiveSteps :
    (collIn (coll0 3 0 1)).collOwes ⟨2, some 4, none, 0, 1, [0], false, 0, ⟨[], false⟩, some 1, .coll (coll0 3 0 1)⟩ = false ∧
    ((bench (one 0 0 false [])).die 0).notices.length < 256 ∧ (bench (one 0 0 false [])).ops = [] ∧
    (let c := begun (coll0 3 0 2)
     c.stream = 1 ∧ c.rank = 0 ∧ c.failed = false ∧ c.steps.length = 2) ∧
    (let c := begun (coll0 3 0 1)
     c.busy = true ∧ c.nextTile = none ∧ c.nextStep = some (0, ⟨false, 0, 0, []⟩)) ∧
    (let c := { begun (coll0 3 0 1) with pb := natBytes (3 + 2 ^ 35 + 2 ^ 48 + 2 ^ 80 + 32 * 2 ^ 128 + 32 * 2 ^ 160) 128, finals := [(0, 128)] }
     c.busy = true ∧ c.nextTile = some 0) ∧
    (let c := begun (coll0 4 1 2)
     (collIn c).memberOf 0 1 1 0x6400 = (tget (collIn c).ops 9).map (fun o => (9, o, c)) ∧ c.ownerOf bundle.part ≠ c.rank ∧
       chunkLen (c.part bundle.part).2.2 bundle.first = 4 ∧ decodeChunk c.es 4 bundle.wire = (some (natBytes 7 16), false)) ∧
    (let c := { begun (coll0 3 0 1) with done := [0], finals := [(0, 16)] }
     c.over = true ∧ ((crewIn (collIn c)).tok 4).st = .pending 9) ∧
    (let c := { begun (coll0 3 0 2) with done := [0], finals := [(0, 16)] }
     (Die.reset.rto ≠ 0 ∧ c.allFinal = true ∧ c.stopped = false ∧ 1 < c.steps.length ∧ 1 ∉ c.done ∧
       c.lastMove + Die.reset.rto.toNat ≤ 10000000)) := by
  refine ⟨?_, ?_, ?_, ?_, ?_, ?_, ?_, ?_, ?_⟩ <;> decide +kernel

/-- The counted object with a delta of 6 for it, in home slice 0. -/
def owing : State := (counted 5 (at100 0 [])).modHome 0 fun h => { h with deltas := [⟨0x6100, 6, 0⟩] }

theorem test_delta_flushes_and_rolls_up :
    let s := come (owing.modDie 0 fun d => { d with refclk := 180000 }) (.ctDeltaFlush 0 0x6100)
    (s.home 0).deltas = [] ∧ ((come s (.ctRollup 3)).treeNode 0x6100).count = 11 ∧ (come s (.ctRollup 3)).rollups = [] := by
  decide +kernel

/-- A settle that has flushed and whose roll-ups have passed, operation 9 of token 4. -/
def settled9 (lost : Bool) : State :=
  { bench (withTok (one 0 0 false []) 4 (.pending 9)) with
    ops := [(9, ⟨2, some 4, none, 0, 1, [0], false, 0, ⟨[], false⟩, none, .tree ⟨.settle, [0x100, 0, 0, 0], 0x6100, none, true, true, [], lost, []⟩⟩)] }

theorem test_settle_completes : ((crewIn (come (settled9 false) (.treeOpComplete 9))).tok 4).st = .done ∧
    ((crewIn (come (settled9 true) (.treeOpComplete 9))).tok 4).st = .poisoned := by decide +kernel
theorem witness_TreeSteps :
    (owing.home 0).deltas.find? (fun d => d.leaf == 0x6100) = some ⟨0x6100, 6, 0⟩ ∧
    (0 : Nat) + max 100 (owing.die 0).ctlag.toNat ≤ (owing.modDie 0 fun d => { d with refclk := 180000 }).ticks 0 ∧
    owing.marked 0x6100 64 = false ∧ owing.treeLost 0x6100 = false ∧
    ({ owing with marks := [0x6100 / 32] } : State).marked 0x6100 64 = true ∧ ((crewIn (settled9 true)).tok 4).st = .pending 9 := by
  decide +kernel
/-! ### Steps of the fabric -/

/-- A software message from device 1 for partition 0. -/
def hello : Msg := ⟨0, 0, 7, 0, 1, 3, 77, 0, [0x11, 0x22, 0, 0, 0, 0, 0, 0]⟩

/-- The bench with a software queue that holds n messages of its 16. -/
def mailbox (n : Nat) : State :=
  (withMem (withMem (withMem (bench (one 0 0 false [])) 0x7000 0x8000 8) 0x7008 16 4) 0x7010 n 4).modPart 0 0 fun p => { p with msgq := 0x7001 }

theorem test_message_is_queued : let s := come (mailbox 1) (.softwareMessage hello)
    memNat s.mem 0x7010 4 = 2 ∧ memNat s.mem 0x8040 4 = 0x00070001 ∧ memNat s.mem 0x8050 4 = 0x11 ∧
    (come s (.softwareMessage hello)).mem = s.mem ∧ (come (mailbox 16) (.softwareMessage hello)).out = [.refused 1 0 77] := by
  decide +kernel
theorem test_bad_message_counts : ((come State.reset (.badMessage 1)).die 1).badmsg = 1 ∧
    (come State.reset (.badMessage 1)).die 0 = Die.reset := by decide +kernel

/-- A MSGS to device dev, operation 3, issued by a crew; w is the routing entry of that device. -/
def sending (dev : Word) (w : Word) : State :=
  left (.msgs ⟨0, 2, 24⟩) ((bench (forEngine [0, 0x00070000 + dev, 9, 0, 0, 0, 0, 0, 0, 0, 0, 0])).modPart 0 0 fun p =>
    { p with route := tset p.route dev.toNat w })

theorem test_msgs_is_sent : let s := come (sending 1 0x80000001) (.messageResend 3)
    (s.out.map fun o => match o with | .message 1 _ m => m == ⟨0, 0, 7, 0, 0, 0, 3, 0, [9, 0, 0, 0, 0, 0, 0, 0]⟩ | _ => false) = [true] ∧
    ((crewIn (come (sending 1 0) (.messageResend 3))).tok 2).st = .poisoned := by decide +kernel

theorem witness_MessagesArrive :
    (mailbox 1).heldFor 0 0 1 0 77 = none ∧ (come (mailbox 1) (.softwareMessage hello)).heldFor 0 0 1 0 77 = some .done ∧
    hello.reserved = 0 ∧ ((mailbox 1).append 0 0 false hello).isSome = true ∧ (mailbox 16).append 0 0 false hello = none ∧
    (mailbox 1).queueAt 0 0x7001 = some ⟨0x7000, 0x8000, 16, 0, 1⟩ ∧ (Queue.mk 0x7000 0x8000 16 0 1).ok = true ∧
    (mailbox 1).marked 0x7000 32 = false ∧ (mailbox 1).slotOf 0 ⟨0x7000, 0x8000, 16, 0, 1⟩ 1 = 0x8040 ∧
    (mailbox 1).append 0 0 true hello = none ∧ (mailbox 1).scrubbed 0x8040 64 (fun _ => true) = false ∧
    (mailbox 1).scrubbed 0x7010 4 (fun _ => true) = false ∧
    ([(sending 1 0x80000001, true), (sending 1 0, false)].all fun e => op3 e.1 (fun o =>
      (match o.body with | .send 1 0 7 _ false => true | _ => false) && e.1.msgReady 3 o && !o.poisonedPre &&
        e.1.routed 0 0 1 == e.2 && o.token == some 2)) = true ∧
    ((crewIn (sending 1 0)).tok 2).st = .pending 3 ∧ (sending 1 0).devOf 0 ≠ 1 ∧ (sending 1 0).dieOfDev 1 = none := by
  decide +kernel

/-- A contribution of 5 to the word at physical 0x6100, of a stream and index. -/
def addFive (stream index : Nat) (last : Bool) : Contribution :=
  ⟨0, 0x6100 / 128, stream, index, last, false, 0, .hardware 0, [⟨.wrap .add .u32, 0x6100 % 128, 5, false⟩]⟩

theorem test_stream_waits_for_its_order : let r := come (bench (one 0 0 false [])) (.reductionContribution (addFive 4 1 true))
    let s := come r (.reductionContribution (addFive 4 0 false))
    memNat r.mem 0x6100 4 = 0 ∧
    memNat s.mem 0x6100 4 = 10 ∧ (s.home 0).entries = [] ∧
    memNat (come (bench (one 0 0 false [])) (.reductionContribution (addFive 0 0 false))).mem 0x6100 4 = 5 := by decide +kernel

/-- The bench with an entry of stream 4 that waits for index 0 with index 1 in hand. -/
def holding : State := (bench (one 0 0 false [])).modHome 0 fun h => { h with entries := [⟨4, 0x6100 / 128, 0, [addFive 4 1 true], 0⟩] }

theorem test_reorder_times_out : let s := come (holding.modDie 0 fun d => { d with refclk := 7200000 }) (.reorderTimeout 0 4 (0x6100 / 128))
    (s.home 0).entries = [] ∧ (s.home 0).lost = true ∧ s.marks = [0x6100 / 32] ∧
    ((come holding (.reductionContribution (addFive 4 1 true))).home 0).dups = 1 := by decide +kernel
theorem test_retry_is_performed :
    memNat (come { bench (one 0 0 false []) with retries := [(9, ⟨addFive 0 0 true, 1⟩)] } (.reductionRetry 9)).mem 0x6100 4 = 5 := by
  decide +kernel

/-- A reduction message of one part through export frame 0. -/
def onePart : RedMsg := ⟨0, 1, 0, 7, 0, 0, 0, 0, 0, true, addFive 0 0 true⟩

theorem witness_ReductionsArrive :
    ((bench (one 0 0 false [])).home 0).entry 4 (0x6100 / 128) = none ∧ (addFive 4 0 true).index = 0 ∧
    (holding.home 0).entry 4 (0x6100 / 128) = some ⟨4, 0x6100 / 128, 0, [addFive 4 1 true], 0⟩ ∧ 16 ≤ (addFive 4 16 true).index ∧
    (holding.home 0).hold ≠ 0 ∧ 0 + (holding.home 0).hold.toNat ≤ (holding.modDie 0 fun d => { d with refclk := 7200000 }).ticks 0 ∧
    onePart.final = true ∧ onePart.partNo = 0 ∧ ((bench (one 0 0 false [])).die 0).parts = [] ∧
    (((bench (one 0 0 false [])).modDie 0 fun d => { d with parts := d.parts }).servePeer
      ⟨0, 1, 0, 7, 0, [], [], 0, 0, 0, 128, .reduce { addFive 0 0 true with issuer := .hardware 0 }⟩ false).isSome = true := by decide +kernel

/-- The bench with export frame 5 in frame 0x20 of memory, device 1's partition 0 given code c; the tables at 0xA000, 0xB000
and the grant map at 0xC000. -/
def exporting (c : Nat) : State :=
  (withMem (withMem (withMem (bench (one 0 0 false [])) 0xA000 0xB001 8) (0xB000 + 80) (0x20007 + 0xC * 2 ^ 76) 16) 0xC004 c 1).modPart 0 0
    fun p => { p with exproot := 0xA001 }

/-- A request of device 1, partition 0, at offset 8 of frame 5. -/
def ask1 (kind : PeerKind) : PeerIn := ⟨0, 1, 0, 7, 0, [], [], 0, 5, 8, 4, kind⟩

theorem test_peer_reads_and_writes : let s := withMem (exporting 2) 0x20008 0x99 1
    (come s (.peerRequest (ask1 .read))).out = [.answer 1 0 7 (.data [0x99, 0, 0, 0] [])] ∧
    memNat (come s (.peerRequest (ask1 (.write [1, 2, 3, 4] [])))).mem 0x20008 4 = 0x04030201 ∧
    (come (exporting 1) (.peerRequest (ask1 (.write [1, 2, 3, 4] [])))).out = [.answer 1 0 7 .protect] ∧
    (come (exporting 3) (.peerRequest (ask1 .read))).out = [.answer 1 0 7 .revoked] := by decide +kernel

/-- The bench with one posted store to device 1 out under tag 9. -/
def posted : State := { bench (one 0 0 false []) with reqs := [(9, ⟨0, 0, ⟨0, 0, 0x10000, 2, [0], 0⟩, .posted 2 [0] 0, 0x100, 2 ^ 51, 4, .write [1, 2, 3, 4] [], some 0, true, false, 0, 0, none, false, false, []⟩)] }

theorem test_answers_and_tickets : (come posted (.requestResponse 9 .done)).reqs = [] ∧
    ((tget (come posted (.faultTicket 9)).reqs 9).map (·.ticket)) = some true ∧
    (come (posted.modDie 0 fun d => { d with refclk := 180000000 }) (.peerTimeout 9)).reqs = [] ∧
    ((come posted (.replayNotice 0 3 1 0 5 0)).die 0).stale = 1 := by decide +kernel

/-- A load of x4 in lane 0 that a peer has not answered. -/
def lands : Pend := ⟨2, [0], 1, none, .load 4 false, [4], false, [], [], [], [], [], none, false⟩
/-- The bench whose gang waits for it; its request has tag 9. -/
def loadingFar : State :=
  { bench ((one 0 0 false []).modSlice 0 fun sl => { sl with wait := .peer 5 }) with
    pends := [(5, lands)]
    reqs := [(9, ⟨0, 0, ⟨0, 0, 0x10000, 2, [0], 0⟩, .pend 5 0, 0x1100, 2 ^ 51, 4, .read, some 0, true, false, 0, 0, none, false, false, []⟩)] }

theorem test_answer_lands_a_load : let t := come loadingFar (.requestResponse 9 (.data [1, 2, 3, 4] []))
    regIn t 0 4 = 0x04030201 ∧ ((crewIn t).slice 0).pc = 4 ∧ t.pends = [] ∧ t.reqs = [] := by decide +kernel
theorem witness_PeersAndLinks_load : (loadingFar.pendReqs 5).map (·.1) = [9] ∧ tget loadingFar.pends 5 = some lands ∧
    lands.locals = [] ∧ lands.causes = [] ∧ lands.failed = [] ∧ lands.loss = none ∧ lands.complete = false ∧ lands.slices.Nodup ∧
    (tget loadingFar.crews lands.crew).isSome = true := by decide +kernel

/-- Partition 0 holds the answer to tag 7, has cached frame 5's entry and logged a miss of it. -/
def remembers : State := (exporting 2).modPart 0 0 fun p =>
  { p with held := [⟨1, 0, 7, .done⟩], xcache := [⟨5, 16, 0, 2⟩], misses := [ask1 .read] }

theorem test_tags_and_exports : ((come remembers (.tagExpiry 1 0 7)).part 0 0).held = [] ∧
    ((come remembers (.exportInvalidate 0 0 5)).part 0 0).xcache = [] ∧
    ((come remembers (.exportServiced 0 0 5)).part 0 0).misses = [] := by decide +kernel
/-- The bench with a window of partition 0 at address 0 of context 0. -/
def windowed : State := come (withMem (bench (one 0 0 false [])) 0x6100 0x77 1) (.hostRequest (.window 0 0 0))

theorem test_host_reads : (come windowed (.hostRequest (.bar2 0 0x100 2 none))).out = [.hostData [0x77, 0]] ∧
    (come windowed (.hostRequest (.bar2 0 0x1000 2 none))).out = [.hostFail Cause.pagefault.code] ∧
    (come windowed (.hostRequest (.bar2 0 (2 ^ 36) 2 none))).out = [.hostFail Cause.protect.code] := by decide +kernel

/-- Two lanes of one instruction, at 8 and 12 of frame 5, the second on its way. -/
def lane1 (tag off : Nat) : PeerIn := ⟨0, 1, 0, tag, 0, [], [1], 0, 5, off, 4, .read⟩

theorem test_lanes_of_an_instruction_are_served_together :
    let s : State := { exporting 2 with due := [.peerRequest (lane1 8 12), .peerRequest (ask1 .read)] }
    s.mates (lane1 7 8) = [lane1 8 12] ∧ (come s (.peerRequest (lane1 7 8))).due = [.peerRequest (ask1 .read)] ∧
    (come s (.peerRequest (lane1 7 8))).out.length = 2 := by decide +kernel

theorem witness_PagesInUse : let s : State := { pooled 2 16 (mapper 0 1) with reqs := posted.reqs }
    s.invalOut (s.accessesOut (s.ctxOf (mapper 0 1)) 0 0x1000 [(0x6000, 0x1000)] 0x601F) = true ∧ s.invals = [] ∧ s.clears (unmappgHead ⟨0, 10, 24⟩) 2 [0] (mapper 0 1) = true ∧
    s.walk 0 5 0x1000 0 = .leaf 1 0x5000 0x601F ∧ s.clears (tlbinvHead ⟨0, 24⟩) 2 [0] (mapper 0 1) = true := by decide +kernel
theorem witness_PeersServed :
    ((ask1 .read).efn < 0x1FFFFF0 ∧ portCarries (ask1 .read) = true ∧ (exporting 2).heldFor 0 0 1 0 7 = none ∧
      ((exporting 2).part 0 0).xcache = [] ∧
      (exporting 2).judge 0 ((exporting 2).exportEntry 0 0 5 16) false 8 = .perform ⟨0x20008, 0⟩ ∧
      (exporting 3).judge 0 ((exporting 3).exportEntry 0 0 5 16) false 8 = .revoked ∧
      (exporting 1).judge 0 ((exporting 1).exportEntry 0 0 5 16) true 8 = .protect ∧ (exporting 2).badBytes 0x20008 4 = [] ∧
      (exporting 2).dieOfDev 1 = none ∧ (exporting 2).mates (ask1 .read) = [] ∧ (exporting 2).ownPend (ask1 .read) = none ∧
      (exporting 2).judge 0 ((exporting 2).exportEntry 0 0 5 16) true 8 = .perform ⟨0x20008, 0⟩ ∧
      (exporting 2).scrubbed 0x20008 4 (fun _ => true) = false ∧ (exporting 2).marks = [] ∧ (exporting 2).gkeys = [] ∧ (exporting 2).enrols = [] ∧
      (exporting 2).bars = []) ∧
    ((windowed.part 0 0).bar2 = some (0, 0) ∧ posted.dieOfDev (peerDev (2 ^ 51)) = none) ∧
    ((tget posted.reqs 9).map fun r => (r.who == .posted 2 [0] 0, r.ticket, r.since)) = some (true, false, 0) ∧
    ((tget posted.reqs 9).map posted.reqOut) = some none ∧ Die.reset.rto ≠ 0 ∧ posted.ticketFor 0 3 1 0 5 = none ∧
    (bench (one 0 0 false [])).ctxTranslate 0 false .read 0x100 0x100 = .ok ⟨0x6100, 0⟩ ∧ isLocal 0x6100 = true ∧
    (bench (one 0 0 false [])).marked 0x6100 2 = false ∧
    (bench (one 0 0 false [])).ctxTranslate 0 false .read 0x1000 0x1000 = .bad .pagefault := by
  refine ⟨?_, ?_, ?_, ?_, ?_, ?_, ?_, ?_, ?_, ?_⟩ <;> decide +kernel

/-- The posted store after a fault ticket, and that with an older ticket of its page. -/
def ticketed : State := come posted (.faultTicket 9)
/-- The same with an older ticket of the same slice and page. -/
def behind : State := { ticketed with reqs := (ticketed.reqs.map fun e => (8, { e.2 with entry := some 1, issuer := { e.2.issuer with born := 7 } })) ++ ticketed.reqs }

theorem test_replay_notice_replays : let s := come ticketed (.replayNotice 0 0 0 0 0 0)
    ((tget s.reqs 9).map fun r => (r.sent, r.ticket)) = some (true, true) ∧ s.out.length = 1 ∧
    ((tget (come behind (.replayNotice 0 0 0 0 0 0)).reqs 9).map (·.noticed)) = some true ∧
    (come ticketed (.replayNotice 0 0 0 0 0 1)).reqs = [] := by decide +kernel
/-- The ticket that a notice of entry 0 names: its tag, whether its context is out, whether it comes after an older one. -/
def noticed0 (s : State) : Option (Nat × Option Nat × Bool × Option Nat × Bool) := (s.ticketFor 0 0 0 0 0).map fun e =>
  (e.1, s.reqOut e.2, s.behindTicket e.1 e.2, s.dieOfDev (peerDev e.2.pa), e.2.who == .posted 2 [0] 0)
theorem witness_PeersAndLinks_replay : noticed0 ticketed = some (9, none, false, none, true) ∧
    noticed0 behind = some (9, none, true, none, true) ∧
    (let s := posted.modDie 0 fun d => { d with refclk := 180000000 }
     (tget s.reqs 9).map (fun r => (s.ticketOut r, r.loss.isNone, r.issuer.crew, decide (r.since + (s.die 0).rto.toNat ≤ s.ticks 0))) =
       some (false, true, 2, true)) ∧
    (let s := loadingFar.modDie 0 fun d => { d with refclk := 180000000 }
     (tget s.reqs 9).map (fun r => (s.ticketOut r, decide (r.since + (s.die 0).rto.toNat ≤ s.ticks 0))) = some (false, true) ∧
       (crewIn s).efr.isEmpty = true) := by
  refine ⟨?_, ?_, ?_, ?_, ?_⟩ <;> decide +kernel

/-- Home slice 0 with 64 trackers taken. -/
def fullHome : State := State.reset.modHome 0 fun h => { h with trackers := List.range 64 }

theorem test_tracker_refuses_then_reserves : let s := come fullHome (.xdieRequest 1 99 0)
    ((tget s.xreqs 99).map fun x => (x.refusals, x.accepted)) = some (1, false) ∧
    ((come s (.xdieRetry 99)).home 0).reserved = [99] ∧
    ((come (come s (.xdieRetry 99)) (.reservationRelease 99)).home 0).reserved = [] ∧
    ((come State.reset (.xdieRequest 1 99 0)).home 0).trackers = [99] ∧
    ((come ((come State.reset (.xdieRequest 1 99 0)).modDie 1 fun d => { d with refclk := 180000000 }) (.xdieTimeout 99)).home 0).trackers = [] := by decide +kernel

/-- A packet of two flits, the seq-th of die 0's channel 1. -/
def packet (seq : Nat) (ok : Bool) : BridgePkt := ⟨0, 1, seq, 2, true, ok, false⟩

theorem test_bridge_packets : let s := come (come State.reset (.bridgePacket (packet 0 true))) (.bridgePacket (packet 1 false))
    tget s.pkg.bridge.next 1 = some 1 ∧ s.pkg.bridge.failed 1 = 1 ∧ (s.die 0).crcerr = 1 ∧
    ((come s (.bridgeReplay 0 1)).die 0).replays = 1 ∧ (come State.reset .bridgeDown).pkg.held = true ∧
    (come { State.reset with pkg := { Pkg.reset with split := true } } .bridgeDown).pkg.held = false := by decide +kernel
/-- A package in split mode with one step on its way to die 0 by channel 1. -/
def crossing : State := ({ State.reset with pkg := { Pkg.reset with split := true } } : State).cross 0 1 8 (.tagExpiry 1 0 7)

theorem test_bridge_brings_and_retrains : (come crossing (.bridgePacket (packet 0 true))).due = [.tagExpiry 1 0 7] ∧
    (come crossing (.bridgePacket (packet 1 true))).due = crossing.due ∧
    (let s := { crossing with pkg := { crossing.pkg with bridge := { crossing.pkg.bridge with retraining := true } } }
     (come s (.bridgePacket (packet 0 true))).due = s.due) := by decide +kernel
theorem test_port_failure_clears_masks : let s := State.reset.modPart 0 0 fun p => { p with route := [(1, 0x80000003)] }
    (((come s (.portFailure 0)).part 0 0).route) = [(1, 0x80000002)] ∧ ((come s (.portFailure 0)).port 0 0).failed = true := by
  decide +kernel
theorem witness_BridgeAndPorts : (State.reset.home 0).trackerFree = true ∧ (fullHome.home 0).trackerFree = false ∧
    tget State.reset.xreqs 99 = none ∧ ((tget (come fullHome (.xdieRequest 1 99 0)).xreqs 99).map (·.refusals)) = some 1 ∧
    Die.reset.xdto ≠ 0 ∧ State.reset.pkg.bridge.down = false ∧ State.reset.pkg.bridge.retraining = false ∧
    (packet 0 true).seq = (tget State.reset.pkg.bridge.next 1).getD 0 ∧ (packet 0 false).flitOk = false ∧
    (0, 1) ∈ (come State.reset (.bridgePacket (packet 0 false))).pkg.bridge.replaying ∧ (crossing.pkg.bridge.head 1).isSome = true ∧
    (let s := { crossing with reqs := posted.reqs }
     s.pkg.split = true ∧ (tget s.reqs 9).isSome = true ∧ (s.reqs.all fun e => e.2.sent) = true) ∧ State.reset.pkg.split = false := by
  decide +kernel
/-! ### Steps of launches, pre-emption and the platform -/

/-- A node put in memory and linked: kind, parent, order, status and its bits [959:256]. -/
def linked (s : State) (pa kind parent order st kept : Nat) : State :=
  let s := withMem (withMem s pa kind 1) (pa + 32) kept 88
  { s with nodes := tset s.nodes pa ⟨pa - 0x6000, 0, kind, parent, 0, order, 0, st, natBytes kept 88, [], 0, 0, 0, false, false, false, false, [], none⟩ }

/-- The bench with a root, a queue at 0x6800 and, in it, a launch at 0x6900 of n blocks at address 0x40, one crew of one slice
of 64 registers each; budgets as large as the fields allow. -/
def queueing (n : Nat) : State :=
  let s := linked (bench (one 0 0 false [])) 0x6700 1 0 0 2 (256 + (2 ^ 112 - 1) * 2 ^ 16)
  let s := linked (linked s 0x6800 3 0x6700 1 1 0) 0x6900 4 0x6800 2 1
    (0x40 * 2 ^ 256 + n * 2 ^ 384 + 2 ^ 416 + 2 ^ 424 + 2 ^ 440 + 64 * 2 ^ 448)
  { s with queues := [⟨0, 0, 0x6800, 0, 0, false⟩] }

/-- Core 0 after a bind round and the four words of its record. -/
def recorded : State := flow 4 (come (queueing 1) (.bindRound 0x6800))

theorem test_bind_round_writes_a_record : (come (queueing 1) (.bindRound 0x6800)).due.length = 4 ∧
    ((recorded.core 0).slots.map fun x => Rec.ofNat x.bits.toNat) = [⟨0x6900, 0, 1, 1, 1, 1, 0, 64, 0, 0, 0, false⟩] ∧
    ((tget recorded.nodes 0x6900).map (·.bound)) = some 1 := by decide +kernel
theorem test_dispatch_creates_a_block : let s := come recorded (.dispatchBlock 0)
    (s.blocks.map fun e => (e.2.node, e.2.core, e.2.regs)) = [(0x10000, 0, 128), (0x6900, 0, 64)] ∧
    (s.crews.map fun e => (e.2.slice 0).pc) = [0, 0x40] ∧ memNat s.mem 0x6904 4 = 2 ∧ (s.core 0).slots = [] := by decide +kernel

/-- The bench, not yet running a partition, with a root node at 0x200; kind its kind. -/
def rooting (kind : Nat) : State := withMem (bench (one 0 0 false [])) 0x6200 kind 1

theorem test_link_call : (come (rooting 1) (.linkCall 0 0x200)).out = [.linkStatus 0 2] ∧
    memNat (come (rooting 1) (.linkCall 0 0x200)).mem 0x6204 4 = 2 ∧
    (come (withMem (rooting 1) 0x6203 0xFC 1) (.linkCall 0 0x200)).out = [.linkStatus 0 0x15] := by decide +kernel

theorem witness_LaunchSteps :
    ((rooting 1).ctxTranslate 0 true .write 0 0x200 = .ok ⟨0x6200, 0⟩ ∧ (rooting 1).marked 0x6200 256 = false ∧
      memGet (rooting 1).mem 0x6200 = 1 ∧ ((rooting 1).nodes.all fun e => e.2.kind != 1) = true ∧
      (rooting 1).linkCode 0x6200 0 none true = 0 ∧ (withMem (rooting 1) 0x6203 0xFC 1).linkCode 0x6200 0 none true = 0x15) ∧
    ((recorded.core 0).slotin = [] ∧ ((flow 3 (come (queueing 1) (.bindRound 0x6800))).core 0).slotin.length = 3 ∧
      (flow 3 (come (queueing 1) (.bindRound 0x6800))).recOk 0 ⟨0x6900, 0, 1, 1, 1, 1, 0, 64, 0, 0, 0, false⟩ = true ∧
      (queueing 1).recOk 0 ⟨0x6900, 0, 2, 3, 1, 1, 0, 64, 0, 0, 0, false⟩ = false) ∧
    ((queueing 1).queueWork 0x6800 = true ∧ (queueing 1).bindable 0x6800 = [0x6900] ∧ (queueing 1).nodeTainted 0x6900 = false ∧
      (queueing 1).chain 0x6900 = [0x6900, 0x6800, 0x6700] ∧ (queueing 1).marks = []) ∧
    (recorded.headRec 0 = some (⟨0x6900, 0, 1, 1, 1, 1, 0, 64, 0, 0, 0, false⟩, 0) ∧ recorded.dispatchOk 0 = true ∧
      (tget recorded.ctxs 0).map (·.stopped) = some false ∧ recorded.marked 0x6900 256 = false) := by
  refine ⟨?_, ?_, ?_, ?_⟩ <;> decide +kernel

/-- The bench with core 0 in a drain whose limit is reference tick 0. -/
def draining (saving : Bool) : State := (bench (one 0 0 false [])).modCore 0 fun k =>
  { k with draining := true, saving := saving, limit := some 0, drainSet := [0], tlb := [⟨0, 4096, 0, 0x601F⟩] }

/-- The bench after its block's forced save. -/
def heldOut : State := come (draining true) (.forcedSaveWrite 0)

theorem test_drain : ((come (bench (one 0 0 false [])) (.drainRequest 0)).core 0).draining = true ∧
    ((come (draining false) (.drainLimit 0)).core 0).saving = true ∧
    ((come { draining false with blocks := [] } (.drainEnd 0)).core 0).draining = false := by decide +kernel
theorem test_forced_save_and_restore : (heldOut.core 0).saved = true ∧ (heldOut.core 0).tlb = [] ∧
    (heldOut.blocks.map (·.2.out)) = [true] ∧
    ((come heldOut (.contextRestore 0 0)).blocks.map (·.2.out)) = [false] ∧ (come heldOut (.contextRestore 0 0)).hogs = [] := by
  decide +kernel
theorem witness_Preemption : ((bench (one 0 0 false [])).core 0).draining = false ∧ ((bench (one 0 0 false [])).core 0).saving = false ∧
    ((draining false).core 0).draining = true ∧ ({ draining false with blocks := [] } : State).blocksOn [0] = [] ∧
    ((draining false).core 0).limit = some 0 ∧ (draining false).blocksOn [0] ≠ [] ∧ (draining true).saveReady 0 = true ∧
    (heldOut.hogs.map (·.1)) = [0] ∧ heldOut.blocksOn [0] = [] := by decide +kernel

theorem test_scrub : let s := come State.reset (.scrubRead 0 (.granule 5) .uncorrectable)
    (s.die 0).scrub = some (5, .uncorrectable) ∧ s.marks = [] ∧ (come s (.scrubWriteback 0)).marks = [5] ∧
    ((come s (.scrubWriteback 0)).die 0).marked = 1 ∧
    ((come (come State.reset (.scrubRead 0 (.granule 5) .correctable)) (.scrubWriteback 0)).die 0).fixed = 1 := by decide +kernel
theorem test_errors_in_tiles_and_registers : let s := bench (one 0 0 false [])
    ((crewIn (come s (.scrubRead 0 (.reg 2 1 4) .uncorrectable))).lane 1).bad = [4] ∧ (crewIn (come s (.scrubRead 0 (.reg 2 1 4) .clean))).lanes = (crewIn s).lanes ∧
    (let t := come (tileOf (one 0 0 false []) false 1 16 0 0) (.scrubRead 0 (.tile 1 1 2) .uncorrectable)
     (tileIn t 1).map (·.marks) = some [2]) := by decide +kernel
theorem test_power : let s : State := { State.reset with pkg := { Pkg.reset with budget := 3000 } }
    s.pkg.limit = 2200 ∧ ((s.granted (.core 3) 7 true).core 3).grant = 7 ∧ ((s.granted (.core 3) 7 true).granted (.ports 1 2) 5 false).grantSum = 12 := by
  decide +kernel
/-- A grant takes effect or does nothing, as the package's sum stands to its limit. -/
theorem witness_PlatformSteps_power : let s : State := { State.reset with ev := some (.powerGrant (.stack 0 1) 9 false) }
    exec .powerGrant s = .next s ∨ exec .powerGrant s = .next (s.granted (.stack 0 1) 9 false) := by
  simp only [exec, execPowerGrant]
  split <;> simp
theorem test_monitors :
    (come State.reset (.wearEstimate 1 2 9)).readReg ⟨.pwrWear 2, 1, 0⟩ = 9 := by decide +kernel
theorem test_time : (come State.reset (.ptpMessage 2000000)).pkg.tai = 9000000 * 2000000 ∧
    (come State.reset (.ptpMessage (-5))).pkg.tai = 0 ∧ (come State.reset (.ptpMessage (-5))).pkg.offs = 0xFFFFFFFB ∧
    (come State.reset (.ppsInput 1000000)).pkg.synced = false := by decide +kernel
theorem test_trace_reader : let s := State.reset.modPart 0 2 fun p => { p with widx := 9, ridx := 3 }
    ((come s (.trcRidx 0 2 9)).part 0 2).ridx = 9 ∧ ((come s (.trcRidx 0 2 10)).part 0 2).ridx = 3 := by decide +kernel
theorem test_keys : let s := come State.reset (.loadGeneratedKey none 6)
    tget s.pkg.keys 6 = some 2 ∧ tget s.pkg.keys 0 = some 0 ∧ tget (come s (.unload none 6)).pkg.keys 6 = none ∧
    tget (come s (.loadWrappedKey none 7 9)).pkg.keys 7 = some 19 ∧ (come s (.unload (some 0) 6)).pkg.keys = s.pkg.keys ∧
    (s.modPart 0 0 fun p => { p with keyIds := (4, 8) }).mayKey (some 0) 6 = true := by decide +kernel
theorem test_attestation : (come State.reset (.attestationRequest 0 [])).pkg.attctr = 1 ∧
    (let s : State := { State.reset with pkg := { Pkg.reset with attctr := 2 ^ 20 } }
     (come s (.attestationRequest 0 [])).out = [.attRefused]) := by decide +kernel

/-- An image signed by the key whose chains start at 0. -/
def signed (m : List Byte) : Image := ⟨m, Laws.Signing.root0, Laws.Signing.zeros 32, Laws.Signing.sig0 m⟩

/-- A boot that verifies against that key, with n channels a die, unified. -/
def good (n : Nat) : BootInfo :=
  ⟨signed [1], signed [2], signed [3], [signed [4]], false, [4], [List.range n, List.range n], [0],
    [⟨0, 0, 0x1000, 0x20, 0, false, [], [], []⟩], [0b0100], [(4, 8)]⟩

/-- What that boot leaves. -/
def started : State := State.reset.bootWith (good 256)

theorem test_shake256_of_nothing : shake256 [] = natBytes 0x2f76d56e64270cb5821bb862ea52cd3f24eb3e74eb3f3b23138da80b2bddb946 32 := by
  decide +kernel
theorem test_boot : started.pkg.booted = true ∧ started.pkg.devs = [4] ∧ ((tget started.ctxs 0).map (·.info.tvec)) = some 0x20 := by
  decide +kernel
theorem test_boot_under_another_root_fails :
    (come State.reset (.boot { good 256 with firmware := ⟨[1], [9], [], []⟩ })).out = [.bootFailed] := by decide +kernel
theorem test_debug : ((come started (.debugHalt 0 0)).die 0).halted = true ∧ ((come started (.debugHalt 1 0)).die 1).halted = false ∧
    ((come (come started (.debugHalt 0 0)) (.debugResume 0 0 true false)).die 0).halted = false ∧
    ((come started (.debugResume 0 0 true false)).die 0).stepping = [0] := by decide +kernel
theorem test_power_loss : (come { bench (one 0 0 false []) with pkg := { Pkg.reset with attctr := 9 } } .powerLoss).pkg.attctr = 9 := by
  decide +kernel

theorem witness_Boot : let s : State := { State.reset with pkg := { Pkg.reset with fuses := Laws.Signing.root0 } }
    s.pkg.booted = false ∧ bootUp (good 256) = [0, 1] ∧
    (∀ i ∈ [(good 256).firmware, (good 256).binder, (good 256).monitor], i.root = s.pkg.fuses) ∧
    (∀ i ∈ bootImages (good 256), xmssVerify i.root i.seed i.sig i.bytes = true) ∧
    (⟨[1], [9], [], []⟩ : Image).root ≠ State.reset.pkg.fuses := by
  refine ⟨rfl, by decide +kernel, ?_, ?_, by decide⟩
  · simp [good, signed]
  · simp [bootImages, good, signed, Laws.Signing.sig0_verifies]
theorem witness_PlatformSteps : (State.reset.die 0).scrubEn = true ∧ (State.reset.die 0).scrub = none ∧ isLocal (32 * 5) = true ∧
    State.reset.memDie (32 * 5) = 0 ∧ State.reset.marked (32 * 5) 32 = false ∧ State.reset.pkg.booted = false ∧
    (started.part 0 0).dbgGrant.getLsbD 0 = true ∧ started.othersOn 0 0 = false ∧ State.reset.pkg.attctr < 2 ^ 20 := by decide +kernel
/-! ### Checks, words, steps -/

/-- What the checks before an instruction's effect say, and which lanes act: misnamed, waiting, forbidden, early, bad registers,
non-uniform operands, a split guard, lanes that act. -/
def checksOf (i : Instr) (s : State) : List Nat :=
  match wordHead s i with
  | some h =>
    let x := s.issueOf h 2 (List.range (crewIn s).nsl) (crewIn s)
    [(x.misnamed h).toNat, (x.waits h).toNat, (x.forbidden h).toNat, (x.early h).toNat, (x.badRegs h).toNat, (x.nonuniform h).toNat,
      (x.split h).toNat, x.act.toNat]
  | none => []

/-- A crew with a shortfall of x4 open in slice 0. -/
def tooSoon : Crew := { (one 0 0 false []) with stcheck := true }.modSlice 0 fun sl => { sl with shorts := [⟨false, 4, 2, 0xF, [0, 0, 0, 0]⟩] }

/-- A crew with x4 in parity error in lane 2. -/
def flipped : Crew := (one 0 0 false []).modLanes 4 fun _ ln => { ln with bad := [4] }

/-- The bench with a load of x4 still out. -/
def loading : State :=
  let p : Pend := ⟨2, [0], 0xF, none, .load 4 false, [4], false, [], [], [], [], [], none, true⟩
  { bench (one 0 0 false []) with pends := [(5, p)] }

/-- A crew whose guard is p1, true in lane 0 alone. -/
def splitGuard : Crew := (crewOf 1 9 []).modLanes 1 fun _ ln => { ln with preds := 2 }

/-- ADDI x5 = x4 + 1, not under U. -/
def addOne : Instr := .addi ⟨false, 1, 5, 4, 1⟩

theorem test_checks_stop : trapped addOne (bench tooSoon) .stallshort = true ∧ trapped addOne (bench flipped) .regerr = true ∧
    trapped (.addi ⟨true, 1, 5, 4, 1⟩) (bench ({ (one 0 0 false []) with ucheck := true }.put 2 4 1)) .nonuniform = true ∧
    (crewIn (left addOne loading)).lanes = (one 0 0 false []).lanes := by decide +kernel
theorem witness_ChecksInOrder : checksOf (.addi ⟨false, 1, 5, 63, 1⟩) (bench { one 0 0 false [] with allot := 32 }) = [1, 0, 0, 0, 0, 0, 0, 15] ∧
    checksOf addOne loading = [0, 1, 0, 0, 0, 0, 0, 15] ∧ checksOf (.tkfree ⟨0, 1⟩) (bench (withTok (one 0 0 false []) 1 (.pending 9))) = [0, 0, 1, 0, 0, 0, 0, 15] ∧
    checksOf addOne (bench tooSoon) = [0, 0, 0, 1, 0, 0, 0, 15] ∧ checksOf addOne (bench flipped) = [0, 0, 0, 0, 4, 0, 0, 15] ∧
    checksOf (.addi ⟨true, 1, 5, 4, 1⟩) (bench ({ (one 0 0 false []) with ucheck := true }.put 2 4 1)) = [0, 0, 0, 0, 0, 4, 0, 15] ∧
    checksOf (.bra ⟨1, 4⟩) (bench splitGuard) = [0, 0, 0, 0, 0, 0, 14, 1] ∧
    checksOf addOne (bench (crewOf 1 9 [])) = [0, 0, 0, 0, 0, 0, 0, 0] := by decide +kernel

/-- An ADDI with every field at its highest value. -/
def topAddi : Instr := .addi ⟨true, 15, 63, 63, 0x1FFF⟩

theorem witness_EncodeDecode : topAddi.wf = true ∧ (encode topAddi).isSome = true ∧ (decode 0x1888A201#32).isSome = true := by
  decide +kernel

theorem test_first_step : (match step (State.reset.withFetchWord 32 0x1888A201) with
    | .next t => regIn t 2 5 == 1 && ((crewIn t).slice 0).pc == 4
    | _ => false) = true := by decide +kernel
theorem test_first_step_bad_word : (match step (State.reset.withFetchWord 32 0xFFFFFFFF) with
    | .next t => (crewIn t).trap.cause == Cause.illegal.code
    | _ => false) = true := by decide +kernel
theorem test_held : step { State.reset with pkg := { Pkg.reset with held := true } } = .fault .deviceHeld := rfl

/-- The bench whose gang has run a word under a single step. -/
def stepped : State := { bench ((one 0 0 false []).modSlice 0 fun sl => { sl with stepped := true }) with cur := none }

/-- A first word to fetch on die 0, where partition 0's debug link has armed a single step. -/
def stepping : State :=
  ((State.reset.withFetchWord 32 0x1888A201).modDie 0 fun d => { d with stepping := [0] }).modPart 0 0 fun p => { p with dbgGrant := 1 }

theorem test_single_step_is_noted_and_traps : (match step stepping with
    | .next t => ((crewIn t).slice 0).stepped && (crewIn t).sup.isNone
    | _ => false) = true ∧
    (match step stepped with
    | .next t => (crewIn t).trap.cause == Cause.monitor.code && (crewIn t).trap.pc == 0 && !((crewIn t).slice 0).stepped
    | _ => false) = true := by decide +kernel

theorem witness_StepRuns : (State.reset.withFetchWord 32 0x1888A201).turn = .issue 2 [0] ∧
    (State.reset.withFetchWord 32 0x1888A201).pkg.held = false ∧
    ((State.reset.withFetchWord 32 0x1888A201).issuing 2 [0]).fetched 2 [0] = .word 0x1888A201 ∧
    ((State.reset.withFetchWord 32 0xFFFFFFFF).issuing 2 [0]).fetched 2 [0] = .word 0xFFFFFFFF ∧ decode 0xFFFFFFFF#32 = none ∧
    lostCode.turn = .issue 2 [0] ∧ (lostCode.issuing 2 [0]).fetched 2 [0] = .bad .pagefault ∧
    State.reset.turn = .clock ∧ ({ bench (one 0 0 false []) with clk := 32768 } : State).turn = .event (.gangAged 2 0) ∧
    stepped.turn = .monitor 2 [0] ∧
    (State.reset.withFetchWord 32 0).translate 0 false .fetch fetchChoice 0 = .ok ⟨0x6000, 0⟩ := by
  refine ⟨?_, ?_, ?_, ?_, ?_, ?_, ?_, ?_, ?_, ?_, ?_⟩ <;> decide +kernel
theorem witness_MemoryKept : State.reset.memOk ∧ (bench (one 0 0 false [])).memOk ∧ step State.reset = .next State.reset.clock :=
  ⟨by unfold State.memOk; decide, by unfold State.memOk; decide +kernel, rfl⟩
/-! ### What the engines move and compute -/

/-- A copy of 16 bytes from 0x100 to tile 1, and one of tile 1 to 0x100, operation 3, started. -/
def fetching : State := come (left (.cpy ⟨0, 1, 24⟩) (withMem (tileOf (forEngine [0, 0, 0x100, 0, 1, 0, 16, 0]) false 1 16 0 0) 0x6100 0x77 16)) (.copyStart 3)
/-- That of tile 1 to 0x100, started, with its first two words held. -/
def putting : State := (come copying (.copyStart 3)).modOp 3 fun o => match o.body with
  | .copy c => { o with body := .copy { c with todo := [(8, 8)], held := [(0, (5, false)), (4, (6, false))] } }
  | _ => o

/-- The same with all four words held. -/
def allHeld : State := putting.modOp 3 fun o => match o.body with
  | .copy c => { o with body := .copy { c with held := (List.range 4).map fun i => (4 * i, (5, false)) } }
  | _ => o

theorem witness_CopiedBytes :
    op3 fetching (fun o => copyIs (fun c => (match (fetching.copyRow c 0).1 with | .glob a => a == 0x100 | _ => false) &&
      (copyShape c.kind c.g).2 == 16 && (List.range 33).all (fun m => fetching.reach o .read 0 m 0x100 == .here ⟨0x6100, 0⟩) && o.core == 0 &&
      (match (fetching.copyRow c 0).2 with | .tile t => t == 0 | _ => false) && fetching.bound c.dst == tileIn fetching 1) o) = true ∧
    fetching.gkeys = [] ∧ (fetching.core 0).olds = [] ∧ (tileIn fetching 1).map (fun x => (x.morton, x.size)) = some (false, 16) ∧
    op3 putting (fun o => copyIs (fun c => (match (putting.copyRow c 0).1 with | .tile t => t == 0 | _ => false) &&
      putting.bound c.src == tileIn putting 1 && c.shadows.isEmpty && (match (putting.copyRow c 0).2 with | .glob a => a == 0x100 | _ => false) &&
      (List.range 33).all (fun m => putting.reach o .write 1 m 0x100 == .here ⟨0x6100, 0⟩) &&
      putting.runAt c 32 0x100 == (List.range 4).map fun i => (0x100 + BitVec.ofNat 64 (4 * i), [4 * i])) o) = true ∧
    op3 allHeld (copyIs fun c => (List.range 4).all fun i => tget c.held (4 * i) == some (5, false)) = true ∧
    putting.marked 0x6100 16 = false ∧ putting.scrubbed 0x6100 16 (fun _ => true) = false ∧ putting.enrols = [] ∧ putting.bars = [] := by
  refine ⟨?_, ?_, ?_, ?_, ?_, ?_, ?_, ?_, ?_, ?_⟩ <;> decide +kernel

theorem test_a_piece_of_a_marked_granule_is_dropped : let s : State := { bench (one 0 0 false []) with marks := [0x6100 / 32] }
    (s.enginePut ⟨0x6104, 0⟩ [1, 2, 3, 4] false false).2 = false ∧ (s.enginePut ⟨0x6100, 0⟩ (List.replicate 32 1) true false).1.marks = [] := by
  decide +kernel

-- R215, R221: what an engine's write replaced may still be read by another engine, until an acquire.
theorem test_a_replaced_value_stays_readable : let s := ((withMem (bench (one 0 0 false [])) 0x6100 9 4).enginePut ⟨0x6100, 0⟩ [1, 0, 0, 0] false false).1
    tget (s.core 0).olds (0x6100 / 4) = some [(0, 9)] ∧ ((s.core 0).emptied 0).olds = [] ∧ (s.wordsRead 1 ⟨0x6100, 0⟩ 4) = [1, 0, 0, 0] := by
  decide +kernel

/-- The bench with an accumulator tile 1 of rows of rb bytes holding v and a tile 2 of tile memory holding w, and an operation on
them, 3, running. -/
def running (i : Instr) (g : List Word) (v w rb : Nat) : State :=
  come (left i ((bench (forEngine g)).modBlock 1 fun b => { b with tiles :=
    [(1, ⟨9, true, false, 2, rb, memWrite [] 0 (natBytes v 8), [], false, []⟩), (2, ⟨10, false, false, 2, 16, memWrite [] 0 (natBytes w 16), [1], false, []⟩)] }))
    (.matrixOpStart 3)

/-- MZERO of row 0, MSCAL by 2 and MLOAD of BF16 to it, and MCVT of it to BF16. -/
def runs : List State :=
  [running (.mzero ⟨0, 3, 24⟩) [0, 1, 0x00010000, 0] 0x3F800000 0 8, running (.mscal ⟨0, 3, 24⟩) [0, 1, 0x00010000, 0x40000000] 0x3F800000 0 8,
    running (.mload ⟨0, 3, 24⟩) [0, 1, 0x00010000, 1, 2, 0, 0, 0] 0 0x40403F80 8,
    running (.mcvt ⟨0, 3, 24⟩) [0, 1, 0x00010000, 1, 2, 8, 0, 0] 0x404000003F800000 0 8]

/-- The word at an offset of tile 1. -/
def accNat (s : State) (off : Nat) : Nat := ((tileIn s 1).map fun t => memNat t.data off 4).getD 0

theorem test_accumulator_instructions : (runs.map fun s => accNat (come s (.matrixOpStart 3)) 0) = [0, 0x40000000, 0x3F800000, 0x3F800000] ∧
    ((runs.drop 2).map fun s => accNat (come s (.matrixOpStart 3)) 4) = [0x40400000, 0x40400000] ∧
    ((runs[3]?).map fun s => op3 (come s (.matrixOpStart 3)) (matIs fun m => m.outs.flatMap (·.bs) == natBytes 0x40403F80 4)) = some true := by
  decide +kernel

/-- An MMA of K = 16 from tiles 2 and 3 to 32 rows of tile 1, its format block as read; A[0][0] is 2, B[0][0] is 3. -/
def multiplying2 : State :=
  (come (left (.mma ⟨0, 3, 24⟩) ((bench (teamed [0, 0x201, 16, 1, 0, 2, 0, 3, 0, 0, 0x140, 0, 0, 0, 0, 0])).modBlock 1 fun b => { b with tiles :=
    [(1, ⟨9, true, false, 32, 256, [], [], false, []⟩), (2, ⟨10, false, false, 32, 32, memWrite [] 0 [0, 0x40], [], false, []⟩),
      (3, ⟨11, false, false, 16, 128, memWrite [] 0 [0x40, 0x40], [], false, []⟩)] })) (.matrixOpStart 3)).modOp 3 fun o => match o.body with
  | .mat m => { o with body := .mat { m with fmt := some (List.replicate 64 0) } }
  | _ => o

/-- The MCVT with one poison part of a word left to write. -/
def owing1 : State := (running (.mcvt ⟨0, 3, 24⟩) [0, 1, 0x00010000, 1, 2, 8, 0, 0] 0 0 8).modOp 3 fun o => match o.body with
  | .mat m => { o with body := .mat { m with outs := [⟨m.bTile, 2, 8, 2, [0x80, 0x3F], true⟩] } }
  | _ => o

theorem witness_MatrixResults :
    (runs.all fun s => op3 s fun o => o.olds.isEmpty && matIs (fun m => m.running && m.outs.isEmpty && s.level m.acc true == tileIn s 1) o) = true ∧
    ((runs.drop 2).all fun s => op3 s (matIs fun m => s.level m.bTile false == tileIn s 2)) = true ∧
    op3 multiplying2 (fun o => o.olds.isEmpty && matIs (fun m => m.running && m.outs.isEmpty && m.kind.multiply && m.fmt.isSome && !m.wantsList && m.list.isEmpty &&
      m.step == 0 && (Got.missing m.got m.wants).isEmpty && (match multiplying2.promote o m with | .ok rs => rs.length == 32 && rs.all (·.length == 64) | _ => false) &&
      m.members.all fun x => ctlA (gw x.g 1) == 1 && multiplying2.level x.aTile false == tileIn multiplying2 2) o) = true ∧
    (let s := owing1
     op3 s (matIs fun m => m.running && m.outs.length == 1 && s.level m.bTile false == tileIn s 2) = true ∧
       (tileIn (come s (.matrixOpStart 3)) 2).map (fun t => (memNat t.data 8 2, t.marks)) = some (0x3F80, [1, 2])) := by
  refine ⟨?_, ?_, ?_, ?_, ?_⟩ <;> decide +kernel

/-- The example of R69. -/
theorem test_e4m3_overflow : roundFl .e4m3 0 false (.fin false 500 0) = 0x7F ∧ roundFl .e4m3 0 true (.fin false 500 0) = 0x7E ∧
    roundFl .e4m3 1 false (.fin false 500 0) = 0x7E ∧ roundFl .e4m3 0 false (.inf false) = 0x7F := by decide +kernel

/-- R193, R195: index 1 waits, and is refused from a full home; the third coming is accepted. -/
def fullRob : State := (bench (one 0 0 false [])).modHome 0 fun h => { h with entries := (List.range 256).map fun i => ⟨9, i, 0, [], 0⟩ }

theorem test_reorder_buffer : let s := come (bench (one 0 0 false [])) (.reductionContribution (addFive 4 1 false))
    ((s.home 0).entries.map fun e => (e.next, e.waiting.length)) = [(0, 1)] ∧ memNat s.mem 0x6100 4 = 0 ∧
    (let t := come s (.reductionContribution (addFive 4 0 false))
     ((t.home 0).entries.map fun e => (e.next, e.waiting.length)) = [(2, 0)] ∧ memNat t.mem 0x6100 4 = 10) ∧
    ((come s (.reductionContribution (addFive 4 16 false))).retries.map fun e => e.2.refusals) = [1] ∧
    ((come fullRob (.reductionContribution (addFive 4 1 false))).retries.map fun e => e.2.refusals) = [1] ∧
    ((come { fullRob with retries := [(0, ⟨addFive 4 16 false, 2⟩)] } (.reductionRetry 0)).home 0).entries.length = 257 := by decide +kernel
theorem witness_MessagesAndReductionsArrive : (fullRob.home 0).entry 4 (0x6100 / 128) = none ∧ 256 ≤ (fullRob.home 0).entries.length ∧
    0 < fullRob.nextId ∧ (addFive 4 16 false).stream ≠ 0 ∧ (holding.home 0).entry 4 (0x6100 / 128) ≠ none ∧
    (addFive 4 2 false).index < 0 + 16 ∧ (addFive 4 1 true).index = 0 + 1 ∧
    (let s := bench (one 0 0 false [])
     s.gkeys = [] ∧ s.enrols = [] ∧ s.bars = [] ∧ s.scrubbed 0x6100 4 (fun _ => true) = false ∧ s.marked 0x6100 4 = false ∧
       redWidth (.wrap .add .u32) false = 4 ∧ (addFive 4 0 true).lanes.length = 1 ∧ 0x6100 % 4 = 0) := by decide +kernel

/-- The bench with a barrier in the core's cache, in a drain that has become a save. -/
def savingBar : State := { draining true with bars := (armed 1 (forBar 0 0 [])).bars }

theorem witness_LaunchAndPreemptionSteps : savingBar.saveReady 0 = true ∧ (savingBar.bars.map fun e => (e.1, e.2.core, e.2.cached.isSome)) = [(0x6140, 0, true)] ∧
    savingBar.scrubbed 0x6140 64 (fun _ => true) = false ∧ savingBar.gkeys = [] ∧ savingBar.hogRegion 0 0 = none ∧
    ((come savingBar (.forcedSaveWrite 0)).bars.map fun e => e.2.cached.isNone) = [true] ∧
    memNat (come savingBar (.forcedSaveWrite 0)).mem 0x6140 64 = (bar (armed 1 (forBar 0 0 []))).toNat := by
  refine ⟨?_, ?_, ?_, ?_, ?_, ?_, ?_⟩ <;> decide +kernel

/-- A move to a new parent at v, with its state as it issues. -/
def movingTo (v : Word) : Crew := forEngine [0x100, 0, 0, 0, v, 0, 0, 0]
theorem witness_OperationsIssued_move : (∃ h, treeForm (.ctmove ⟨0, 1, 24⟩) = some (⟨0, 1, 24⟩, .move, 8, h) ∧
      (again peered (movingTo 0x1100)).clears h 2 [0] (movingTo 0x1100) = true ∧
      ((again peered (movingTo 0x1100)).issueOf h 2 [0] (movingTo 0x1100)).elsewhere 0x1100 = true ∧
      ((again peered (movingTo 0x200)).issueOf h 2 [0] (movingTo 0x200)).elsewhere 0x200 = false) ∧
    trapped (.ctmove ⟨0, 1, 24⟩) (again peered (movingTo 0x1100)) .protect = true := by
  refine ⟨⟨_, rfl, by decide +kernel, by decide +kernel, by decide +kernel⟩, by decide +kernel⟩
theorem witness_ReductionStreams_illegal : (∃ kind bad, streamForm (.redfAdd ⟨0, 4, 0, 3⟩) = some (⟨0, 4, 0, 3⟩, kind, bad, true) ∧
    (let c := at100 0 [0, 0, 0x3F800000]
     let h := reduceStreamHead ⟨0, 4, 0, 3⟩ kind bad true
     let x := (bench c).issueOf h 2 [0] c
     x.misnamed h = false ∧ x.waits h = false ∧ x.act ≠ 0 ∧ (x.reg (lowest x.act) 2).extractLsb' 0 16 = 0)) ∧
    trapped (.redfAdd ⟨0, 4, 0, 3⟩) (bench (at100 0 [0, 0, 0x3F800000])) .illegal = true := by
  exact ⟨⟨_, _, rfl, by decide +kernel, by decide +kernel, by decide +kernel, by decide +kernel⟩, by decide +kernel⟩

end Sys2Proof.Tests
end

section
/-! SUPPORT. What a write by the unit that keeps an object leaves of the state when no error that the scrubber found is
pending there (R346), and what completing an operation leaves of memory and of the nodes. -/

namespace Sys2Proof.Machine

/-- A fold keeps what each of its steps keeps. -/
theorem foldl_keeps {σ α β : Type} (p : σ → β) (f : σ → α → σ) (h : ∀ s a, p (f s a) = p s) (l : List α) (s : σ) :
    p (l.foldl f s) = p s := by
  induction l generalizing s with
  | nil => rfl
  | cons a r ih => exact (ih _).trans (h s a)

/-- Two memories that agree on a range hold the same bytes there. -/
theorem memBytes_congr {m m' : Table Byte} {a n : Nat} (h : ∀ k, a ≤ k → k < a + n → memGet m k = memGet m' k) :
    memBytes m a n = memBytes m' a n := by
  induction n generalizing a with
  | zero => rfl
  | succ n ih =>
    simp only [memBytes]
    rw [h a (Nat.le_refl a) (by omega), ih fun k h1 h2 => h k (by omega) (by omega)]

/-- A number in memory reads as before when the bytes written lie outside it. -/
theorem memNat_memWrite_out (m : Table Byte) {a b n : Nat} (bs : List Byte) (h : b + n ≤ a ∨ a + bs.length ≤ b) :
    memNat (memWrite m a bs) b n = memNat m b n := by
  unfold memNat
  rw [memBytes_congr fun k h1 h2 => memGet_memWrite_out m a bs k (by omega)]

/-! ### Granules and the scrubber -/

/-- The granules that meet a range. -/
theorem mem_granules {a n g : Nat} : g ∈ granules a n ↔ 0 < n ∧ a / 32 ≤ g ∧ g ≤ (a + n - 1) / 32 := by
  unfold granules
  split
  · simp_all
  · simp only [List.mem_map, List.mem_range]
    constructor
    · rintro ⟨i, hi, rfl⟩
      omega
    · rintro ⟨_, h1, h2⟩
      exact ⟨g - a / 32, by omega, by omega⟩

/-- A range within another meets no more granules. -/
theorem granules_subset {a b m n : Nat} (h1 : a ≤ b) (h2 : b + m ≤ a + n) {g : Nat} (h : g ∈ granules b m) :
    g ∈ granules a n := by
  rw [mem_granules] at h ⊢
  omega

/-- No write of the scrubber is pending where none is pending in a wider range. -/
theorem State.scrubbed_mono {s : State} {a b m n : Nat} {p : ScrubFound → Bool} (h1 : a ≤ b) (h2 : b + m ≤ a + n)
    (h : s.scrubbed a n p = false) : s.scrubbed b m p = false := by
  unfold State.scrubbed at h ⊢
  rw [List.any_eq_false] at h ⊢
  intro e he
  have := h e he
  cases hs : e.2.scrub with
  | none => simp
  | some gf =>
    simp only [hs, Bool.and_eq_true, List.contains_iff_mem, not_and] at this ⊢
    exact fun hp hg => this hp (granules_subset h1 h2 hg)

/-- What the scrubber has pending depends on the dies alone. -/
theorem State.scrubbed_congr {s t : State} (h : t.dies = s.dies) (a n : Nat) (p : ScrubFound → Bool) :
    t.scrubbed a n p = s.scrubbed a n p := by
  simp only [State.scrubbed, h]

/-- Where the scrubber has nothing pending a write merges with no error. -/
theorem State.mergeBad_eq_nil {s : State} {a n : Nat} (h : s.scrubbed a n (fun _ => true) = false) : s.mergeBad a n = [] := by
  unfold State.scrubbed at h
  rw [List.any_eq_false] at h
  unfold State.mergeBad
  rw [List.filterMap_eq_nil_iff]
  intro e he
  have := h e he
  cases hs : e.2.scrub with
  | none => rfl
  | some gf =>
    obtain ⟨g, f⟩ := gf
    have hg : (granules a n).contains g = false := by simpa [hs] using this
    cases f <;> simp only [hg, Bool.false_and, Bool.false_eq_true, if_false]

/-! ### Bytes put in memory -/

theorem State.spillHit_dies (s : State) (a n : Nat) : (s.spillHit a n).dies = s.dies := by
  unfold State.spillHit; split <;> rfl

theorem State.cancelScrub_mem (s : State) (a n : Nat) : (s.cancelScrub a n).mem = s.mem := by
  unfold State.cancelScrub; split <;> rfl

theorem State.cancelScrub_dies {s : State} {a n : Nat} (h : s.scrubbed a n (fun _ => true) = false) :
    (s.cancelScrub a n).dies = s.dies := by
  unfold State.cancelScrub; rw [h]; rfl

theorem State.taskHit_mem (s : State) (a n : Nat) : (s.taskHit a n).mem = s.mem := by
  unfold State.taskHit
  dsimp only
  split
  · refine foldl_keeps State.mem _ (fun t e => ?_) _ _; rfl
  · rfl

theorem State.taskHit_dies (s : State) (a n : Nat) : (s.taskHit a n).dies = s.dies := by
  unfold State.taskHit
  dsimp only
  split
  · refine foldl_keeps State.dies _ (fun t e => ?_) _ _; rfl
  · rfl

/-- Bytes put in memory are written there, and nothing else of it changes. -/
theorem State.put_mem (s : State) (a : Nat) (bs : List Byte) : (s.put a bs).mem = memWrite s.mem a bs := by
  unfold State.put State.monitorHit
  rw [State.pushAll_mem, State.taskHit_mem, State.cancelScrub_mem]

/-- Bytes put where the scrubber has nothing pending leave the dies as they are. -/
theorem State.put_dies {s : State} {a : Nat} {bs : List Byte} (h : s.scrubbed a bs.length (fun _ => true) = false) :
    (s.put a bs).dies = s.dies := by
  have hd := s.spillHit_dies a bs.length
  unfold State.put State.monitorHit
  rw [State.pushAll_dies, State.taskHit_dies, State.cancelScrub_dies ((State.scrubbed_congr (by exact hd) ..).trans h)]
  exact hd

/-- A write by the unit that keeps an object, where the scrubber has nothing pending. -/
theorem State.hwPoke_of_clean {s : State} {a : Nat} {bs : List Byte} (h : s.scrubbed a bs.length (fun _ => true) = false) :
    s.hwPoke a bs = (s.put a bs).unmarkWhole a bs.length := by
  unfold State.hwPoke; rw [State.mergeBad_eq_nil h]

theorem State.hwPoke_mem {s : State} {a : Nat} {bs : List Byte} (h : s.scrubbed a bs.length (fun _ => true) = false) :
    (s.hwPoke a bs).mem = memWrite s.mem a bs := by
  rw [State.hwPoke_of_clean h]; exact s.put_mem a bs

theorem State.hwPoke_dies {s : State} {a : Nat} {bs : List Byte} (h : s.scrubbed a bs.length (fun _ => true) = false) :
    (s.hwPoke a bs).dies = s.dies := by
  rw [State.hwPoke_of_clean h]; exact State.put_dies h

/-! ### Completing an operation -/

theorem State.completeToken_mem (s : State) (k tok id bytes : Nat) (poison : Bool) :
    (s.completeToken k tok id bytes poison).mem = s.mem := by
  unfold State.completeToken
  split
  · exact State.pushAll_mem ..
  · rfl

theorem State.completeToken_nodes (s : State) (k tok id bytes : Nat) (poison : Bool) :
    (s.completeToken k tok id bytes poison).nodes = s.nodes := by
  unfold State.completeToken
  split
  · exact State.pushAll_nodes ..
  · rfl

theorem State.settleOps_mem (s : State) (id : Nat) (poison : Bool) : (s.settleOps id poison).mem = s.mem := by
  refine foldl_keeps State.mem _ (fun t e => ?_) _ _
  dsimp only
  split
  · rfl
  · split
    · split <;> simp
    · rfl

theorem State.settleOps_nodes (s : State) (id : Nat) (poison : Bool) : (s.settleOps id poison).nodes = s.nodes := by
  refine foldl_keeps State.nodes _ (fun t e => ?_) _ _
  dsimp only
  split
  · rfl
  · split
    · split <;> simp
    · rfl

/-- An operation's completion leaves memory as it is. -/
theorem State.completeOp_mem (s : State) (id : Nat) (toks : List (Nat × Nat)) (bytes : Nat) (poison : Bool) :
    (s.completeOp id toks bytes poison).mem = s.mem := by
  unfold State.completeOp
  split
  · dsimp only
    rw [State.pushAll_mem, State.reapTiles, State.settleOps_mem,
      foldl_keeps State.mem _ fun t (e : Nat × Nat) => t.completeToken_mem e.1 e.2 id bytes poison]
    rfl
  · rfl

/-- An operation's completion leaves the linked nodes as they are. -/
theorem State.completeOp_nodes (s : State) (id : Nat) (toks : List (Nat × Nat)) (bytes : Nat) (poison : Bool) :
    (s.completeOp id toks bytes poison).nodes = s.nodes := by
  unfold State.completeOp
  split
  · dsimp only
    rw [State.pushAll_nodes, State.reapTiles, State.settleOps_nodes,
      foldl_keeps State.nodes _ fun t (e : Nat × Nat) => t.completeToken_nodes e.1 e.2 id bytes poison]
    rfl
  · rfl

end Sys2Proof.Machine
end

section
/-! PROOF. Steps by which updates, arrivals and the ends of nodes come, and words that fail (R60, R146, R155, R237, R243,
R250 and R329). -/

namespace Sys2Proof.Machine

/-! ### Barriers -/

/-- What a barrier's level finds does not depend on the crews. -/
theorem State.barSee_setCrew (s : State) (k : Nat) (c : Crew) (pa : Nat) : (s.setCrew k c).barSee pa = s.barSee pa := rfl

/-- An update of an object of this device that its level sees: discarded when the object is not valid (R237), else
applied. -/
theorem State.barUpdate_seen {s : State} {u : BarUpd} {o : BarObj} (hp : isPeer u.pa = false) (ho : s.barSee u.pa = .ok o) :
    s.barUpdate u = if o.valid then s.barApply u.pa o u.arrive u.bytes u.poison else some s := by
  unfold State.barUpdate; rw [hp, ho]; rfl

theorem execBarrierUpdate_of_ev {s : State} {u : BarUpd} (h : s.ev = some (.barrierUpdate u)) :
    exec .barrierUpdate s = orUndefined (s.barUpdate u) := by
  show execBarrierUpdate s = _
  unfold execBarrierUpdate; rw [h]

/-- The oldest deferred arrival of a crew, once it is due, is what DEFERRED_ARRIVAL makes. -/
theorem execDeferredArrival_head {s : State} {k : Nat} {c : Crew} {d : Deferred} {r : List Deferred}
    (h : s.ev = some (.deferredArrival k)) (hc : tget s.crews k = some c) (hd : c.deferred = d :: r)
    (hdue : s.arrivalDue k d = true) :
    let c1 := d.covers.foldl (fun (q : Crew) e => q.modSlice e.1 fun sl => { sl with batch := sl.batch.retire e.2 }) c
    exec .deferredArrival s = orUndefined (((s.setCrew k { c1 with deferred := r }).barUpdate
      ⟨dieOfCore c.core, d.pa, d.va, true, d.bytes.toInt, d.covers.any fun e => (c.slice e.1).batch.poisonedBy e.2, c.block,
        s.ctxOf c⟩).map fun t => t.pushAll (t.crewSteps k)) := by
  intro c1
  have hfind : c.deferred.find? (fun d => s.arrivalDue k d) = some d := by simp [hd, hdue]
  show execDeferredArrival s = _
  unfold execDeferredArrival
  simp only [h, hc, hfind]
  rw [hd, List.erase_cons_head]

/-! ### Task counters -/

/-- The signed counter less a count is the counter's word less the count (R146). -/
theorem ofNat_wrapNat_sub (x n : Nat) :
    BitVec.ofNat 32 (wrapNat 32 (signedOf 32 x - n)) = BitVec.ofNat 32 x - BitVec.ofNat 32 n := by
  apply BitVec.eq_of_toNat_eq
  simp only [wrapNat, signedOf, BitVec.toNat_ofNat, BitVec.toNat_sub]
  split <;> omega

theorem State.putStatus_mem {s : State} {pa : Nat} (st : Nat) (h : s.scrubbed (pa + 4) 4 (fun _ => true) = false) :
    (s.putStatus pa st).mem = memWrite s.mem (pa + 4) (natBytes st 4) :=
  State.hwPoke_mem (by simpa using h)

/-- A counter decremented: its four bytes are written, and with poison the byte that holds dpoison. -/
theorem State.decrement_mem {s : State} {pa : Nat} (n : Nat) (poison : Bool)
    (h : s.scrubbed (pa + 116) 5 (fun _ => true) = false) :
    let m := memWrite s.mem (pa + 116) (natBytes (wrapNat 32 (s.depcount pa - n)) 4)
    (s.decrement pa n poison).mem =
      if poison then memWrite m (pa + 120) [memGet s.mem (pa + 120) ||| 1] else m := by
  intro m
  have h4 : s.scrubbed (pa + 116) (natBytes (wrapNat 32 (s.depcount pa - n)) 4).length (fun _ => true) = false := by
    rw [natBytes_length]; exact State.scrubbed_mono (by omega) (by omega) h
  have hm : (s.hwPoke (pa + 116) (natBytes (wrapNat 32 (s.depcount pa - n)) 4)).mem = m := State.hwPoke_mem h4
  cases poison with
  | false => exact hm
  | true =>
    have h1 : (s.hwPoke (pa + 116) (natBytes (wrapNat 32 (s.depcount pa - n)) 4)).scrubbed (pa + 120) 1 (fun _ => true) = false :=
      (State.scrubbed_congr (State.hwPoke_dies h4) ..).trans (State.scrubbed_mono (by omega) (by omega) h)
    have hb : memGet m (pa + 120) = memGet s.mem (pa + 120) :=
      memGet_memWrite_out _ _ _ _ (by simp)
    show (State.hwPoke _ (pa + 120) [memGet _ (pa + 120) ||| 1]).mem = _
    rw [State.hwPoke_mem h1, hm, hb]
    rfl

/-- A counter decremented (R146, R238): it falls modulo 2^32, poison sets dpoison, and no other byte changes. -/
theorem State.decrement_spec {s : State} {pa : Nat} (n : Nat) (poison : Bool)
    (h : s.scrubbed (pa + 116) 5 (fun _ => true) = false) :
    BitVec.ofNat 32 (memNat (s.decrement pa n poison).mem (pa + 116) 4) =
        BitVec.ofNat 32 (memNat s.mem (pa + 116) 4) - BitVec.ofNat 32 n ∧
      memGet (s.decrement pa n poison).mem (pa + 120) =
        (if poison then memGet s.mem (pa + 120) ||| 1 else memGet s.mem (pa + 120)) ∧
      ∀ a, a < pa + 116 ∨ pa + 121 ≤ a → memGet (s.decrement pa n poison).mem a = memGet s.mem a := by
  have hmem := State.decrement_mem n poison h
  dsimp only at hmem
  have hcount : BitVec.ofNat 32 (memNat (memWrite s.mem (pa + 116) (natBytes (wrapNat 32 (s.depcount pa - n)) 4)) (pa + 116) 4) =
      BitVec.ofNat 32 (memNat s.mem (pa + 116) 4) - BitVec.ofNat 32 n := by
    rw [memNat_memWrite, ← ofNat_wrapNat_sub, State.depcount, wrapNat]
    congr 1
    omega
  have hout (a : Nat) (ha : a < pa + 116 ∨ pa + 120 ≤ a) :
      memGet (memWrite s.mem (pa + 116) (natBytes (wrapNat 32 (s.depcount pa - n)) 4)) a = memGet s.mem a :=
    memGet_memWrite_out _ _ _ _ (by rw [natBytes_length]; omega)
  rw [hmem]
  cases poison with
  | false => exact ⟨hcount, hout _ (by omega), fun a ha => hout a (by omega)⟩
  | true =>
    refine ⟨?_, ?_, fun a ha => ?_⟩
    · rw [if_pos rfl, memNat_memWrite_out _ _ (by simp), hcount]
    · simpa using memGet_memWrite_in _ (pa + 120) [memGet s.mem (pa + 120) ||| 1] 0 (by simp)
    · rw [if_pos rfl, memGet_memWrite_out _ _ _ _ (by simp only [List.length_singleton]; omega), hout a (by omega)]

/-! ### The end of a node -/

/-- A linked node ends (R155): it is linked no more, its status word is written, and no other byte changes. -/
theorem State.endNode_spec {s : State} {pa : Nat} {n : Node} (hn : tget s.nodes pa = some n)
    (h : s.scrubbed (pa + 4) 4 (fun _ => true) = false) :
    tget (s.endNode pa).nodes pa = none ∧
      (s.endNode pa).mem = memWrite s.mem (pa + 4) (natBytes (if n.faulted then 4 else 3) 4) := by
  have hmem := State.putStatus_mem (if n.faulted then 4 else 3) h
  unfold State.endNode
  simp only [hn]
  split
  · rw [State.completeOp_nodes, State.completeOp_mem]
    exact ⟨tget_tdel_self .., hmem⟩
  · exact ⟨tget_tdel_self .., hmem⟩

/-- What the status word reads as once a node has ended, and what else of memory is as before. -/
theorem State.endNode_status {s : State} {pa : Nat} {n : Node} (hn : tget s.nodes pa = some n)
    (h : s.scrubbed (pa + 4) 4 (fun _ => true) = false) :
    tget (s.endNode pa).nodes pa = none ∧ memNat (s.endNode pa).mem (pa + 4) 4 = (if n.faulted then 4 else 3) ∧
      ∀ a, a < pa + 4 ∨ pa + 8 ≤ a → memGet (s.endNode pa).mem a = memGet s.mem a := by
  obtain ⟨hnone, hmem⟩ := State.endNode_spec hn h
  refine ⟨hnone, ?_, fun a ha => ?_⟩
  · rw [hmem, memNat_memWrite]; split <;> rfl
  · rw [hmem]; exact memGet_memWrite_out _ _ _ _ (by rw [natBytes_length]; omega)

theorem execLaunchNodeRetire_over {s : State} {pa : Nat} {n : Node} (h : s.ev = some (.launchNodeRetire pa))
    (hn : tget s.nodes pa = some n) (ho : s.nodeOver pa n = true) : exec .launchNodeRetire s = .next (s.endNode pa) := by
  show execLaunchNodeRetire s = _
  unfold execLaunchNodeRetire; simp only [h, hn, ho, if_true]

theorem execZeroBlockNode_empty {s : State} {pa : Nat} {n : Node} (h : s.ev = some (.zeroBlockNode pa))
    (hn : tget s.nodes pa = some n) (ho : s.nodeEmpty pa n = true) : exec .zeroBlockNode s = .next (s.endNode pa) := by
  show execZeroBlockNode s = _
  unfold execZeroBlockNode; simp only [h, hn, ho, if_true]

/-! ### Words and fetches that fail -/

/-- The lanes of a mask. -/
theorem mem_lanesOf {m : BitVec 32} {l : Nat} : l ∈ lanesOf m ↔ l < 32 ∧ m.getLsbD l = true := by
  simp [lanesOf]

theorem execFetchFault_bad {s : State} {k j : Nat} {js : List Nat} {c : Crew} {e : Cause} (h : s.ev = some .fetchFault)
    (hcur : s.cur = some (k, j :: js)) (hc : tget s.crews k = some c) (hf : s.fetch c fetchChoice (c.slice j).pc = .bad e) :
    exec .fetchFault s = .next (s.takeTrap k (j :: js) e (c.live (j :: js)) 0
      ((lanesOf (c.live (j :: js))).map fun l => (l, (c.slice j).pc)) 0) := by
  show execFetchFault s = _
  unfold execFetchFault
  simp only [h, hcur, hc, List.headD_cons, hf]

theorem execIllegalInstructionWord_of_cur {s : State} {w : Word} {k : Nat} {js : List Nat} {c : Crew}
    (h : s.ev = some (.illegalInstructionWord w)) (hcur : s.cur = some (k, js)) (hc : tget s.crews k = some c) :
    exec .illegalInstructionWord s = .next (s.takeTrap k js .illegal (c.live js) 0 [] 0) := by
  show execIllegalInstructionWord s = _
  unfold execIllegalInstructionWord; simp only [h, hcur, hc]

end Sys2Proof.Machine
end

section
/-! SUPPORT. Device registers: what a register reads as after a write to it, by the access codes of its fields (R5, R6,
R384, R453), and what such a write leaves of the machine. -/

namespace Sys2Proof.Machine

/-! ### Steps set to come anew -/

/-- A state that differs from another at most in the steps set to come at a clock or tick. -/
def OnlyTimers (s t : State) : Prop := t = { s with timers := t.timers }

theorem OnlyTimers.refl (s : State) : OnlyTimers s s := rfl

theorem OnlyTimers.trans {s t u : State} (h : OnlyTimers s t) (g : OnlyTimers t u) : OnlyTimers s u := by
  unfold OnlyTimers at h g ⊢
  rw [g, h]

theorem OnlyTimers.foldl {α : Type} {f : State → α → State} (h : ∀ s a, OnlyTimers s (f s a)) (l : List α) (s : State) :
    OnlyTimers s (l.foldl f s) := by
  induction l generalizing s with
  | nil => exact .refl s
  | cons a r ih => exact (h s a).trans (ih _)

theorem OnlyTimers.redRearm (s : State) (h : Nat) : OnlyTimers s (s.redRearm h) := by
  refine .foldl (fun t e => ?_) _ _
  split <;> rfl

theorem OnlyTimers.lagRearm (s : State) (die : Nat) : OnlyTimers s (s.lagRearm die) := by
  refine .foldl (fun t h => ?_) _ _
  split
  · refine .foldl (fun u d => ?_) _ _
    rfl
  · rfl

theorem OnlyTimers.xdtoRearm (s : State) (die : Nat) : OnlyTimers s (s.xdtoRearm die) := by
  unfold State.xdtoRearm
  dsimp only
  split
  · rfl
  · refine .foldl (fun t e => ?_) _ _
    split <;> rfl

theorem OnlyTimers.rtoRearm (s : State) (die : Nat) : OnlyTimers s (s.rtoRearm die) := by
  unfold State.rtoRearm
  dsimp only
  split
  · rfl
  · refine .trans (.trans (.foldl (fun t e => ?_) _ _) (.foldl (fun t e => ?_) _ _)) (.foldl (fun t e => ?_) _ _)
    · split <;> rfl
    · split <;> rfl
    · split
      · split <;> rfl
      · rfl

/-- Registers read alike where only timers differ. -/
theorem OnlyTimers.readReg {s t : State} (h : OnlyTimers s t) (r : RegAt) : t.readReg r = s.readReg r := by
  unfold OnlyTimers at h
  rw [h]
  rfl

theorem OnlyTimers.crews {s t : State} (h : OnlyTimers s t) : t.crews = s.crews := by
  unfold OnlyTimers at h; rw [h]

theorem OnlyTimers.mem {s t : State} (h : OnlyTimers s t) : t.mem = s.mem := by
  unfold OnlyTimers at h; rw [h]

/-! ### What a register write leaves -/

/-- A write to a device register changes no crew and no memory. -/
theorem State.writeReg_crews_mem (s : State) (r : RegAt) (v : Nat) :
    (s.writeReg r v).crews = s.crews ∧ (s.writeReg r v).mem = s.mem := by
  obtain ⟨reg, die, inst⟩ := r
  cases reg
  case redhold => exact ⟨(OnlyTimers.redRearm ..).crews, (OnlyTimers.redRearm ..).mem⟩
  case ctlag => exact ⟨(OnlyTimers.lagRearm ..).crews, (OnlyTimers.lagRearm ..).mem⟩
  case xdto => exact ⟨(OnlyTimers.xdtoRearm ..).crews, (OnlyTimers.xdtoRearm ..).mem⟩
  case rto => exact ⟨(OnlyTimers.rtoRearm ..).crews, (OnlyTimers.rtoRearm ..).mem⟩
  case coreTmkey | coreMxctl | coreDrain => simp only [State.writeReg]; split <;> simp
  case xcmd | keycmd =>
    simp only [State.writeReg]
    split
    · simp
    · split <;> simp
  all_goals exact ⟨rfl, rfl⟩

/-! ### What a register reads as after a write to it -/

theorem bit_eq_testBit (v i : Nat) : bit v i = v.testBit i := by
  rw [bit, Nat.testBit_eq_decide_div_mod_eq]; rfl

theorem toNat_bit (v i : Nat) : (bit v i).toNat = v / 2 ^ i % 2 := by
  unfold bit
  obtain h | h := Nat.mod_two_eq_zero_or_one (v / 2 ^ i) <;> simp [h]

theorem testBit_of_toNat {n i : Nat} {b : Bool} (h : n / 2 ^ i % 2 = b.toNat) : n.testBit i = b := by
  rw [← bit_eq_testBit, bit, h]
  cases b <;> rfl

/-- The registers of a partition right after they are changed. -/
theorem State.part_modPart_self (s : State) (d p : Nat) (f : Part → Part) : (s.modPart d p f).part d p = f (s.part d p) := by
  rw [State.part_modPart, if_pos rfl]

theorem State.die_modDie_self (s : State) (d : Nat) (f : Die → Die) : (s.modDie d f).die d = f (s.die d) := by
  rw [State.die_modDie, if_pos rfl]

theorem State.home_modHome_self (s : State) (k : Nat) (f : Home → Home) : (s.modHome k f).home k = f (s.home k) := by
  rw [State.home_modHome, if_pos rfl]

theorem State.core_modCore_self (s : State) (k : Nat) (f : Core → Core) : (s.modCore k f).core k = f (s.core k) := by
  rw [State.core_modCore, if_pos rfl]

variable {s : State} {r : RegAt} {v : Nat}

/-- L2H_REDSTAT: its counts are written, its two flags fall where a 1 is written. -/
theorem State.readReg_redstat (h : r.reg = .redstat) :
    let new := (s.writeReg r v).readReg r
    new % 2 ^ 30 = v % 2 ^ 30 ∧ new.testBit 30 = ((s.home r.slice).refused && !v.testBit 30) ∧
      new.testBit 31 = ((s.home r.slice).lost && !v.testBit 31) := by
  intro new
  have hnew : new = (s.home r.slice).lostline.toNat * 2 ^ 32 + ((s.home r.slice).lost && !bit v 31).toNat * 2 ^ 31 +
      ((s.home r.slice).refused && !bit v 30).toNat * 2 ^ 30 + bits v 29 16 * 2 ^ 16 + bits v 15 0 := by
    simp only [new, State.readReg, State.writeReg, h, State.home_modHome_self]
  have hl := Bool.toNat_le ((s.home r.slice).lost && !bit v 31)
  have hr := Bool.toNat_le ((s.home r.slice).refused && !bit v 30)
  rw [← bit_eq_testBit v, ← bit_eq_testBit v]
  refine ⟨?_, testBit_of_toNat ?_, testBit_of_toNat ?_⟩ <;> rw [hnew] <;> simp only [bits] <;> omega

theorem State.readReg_trcRidx (h : r.reg = .trcRidx) :
    (s.writeReg r v).readReg r = if (BitVec.ofNat 32 v - (s.part r.die r.inst).ridx).toNat ≤
      ((s.part r.die r.inst).widx - (s.part r.die r.inst).ridx).toNat then v % 2 ^ 32 else s.readReg r := by
  simp only [State.readReg, State.writeReg, h, State.part_modPart_self]
  split <;> simp

theorem State.readReg_trcCtl (h : r.reg = .trcCtl) : (s.writeReg r v).readReg r = v % 2 ^ 6 := by
  simp only [State.readReg, State.writeReg, h, State.part_modPart_self, toNat_bit, BitVec.toNat_ofNat]
  omega

theorem State.readReg_trcBase (h : r.reg = .trcBase) : (s.writeReg r v).readReg r = v / 2 ^ 5 % 2 ^ 47 * 2 ^ 5 := by
  simp only [State.readReg, State.writeReg, h, State.part_modPart_self, bits]
  omega

/-- TRC_WIDX and TRC_TSTAT are read-only. -/
theorem State.writeReg_readOnly (h : r.reg = .trcWidx ∨ r.reg = .trcTstat) : s.writeReg r v = s := by
  obtain h | h := h <;> simp only [State.writeReg, h]

/-- The fields of FAB_ROUTE that are not reserved: its valid bit and its mask of ports. -/
theorem and_routeMask (x : Nat) : x &&& 0x80FFFFFF = x / 2 ^ 31 % 2 * 2 ^ 31 + x % 2 ^ 24 := by
  have hor : 2 ^ 31 * (x / 2 ^ 31 % 2) ||| x % 2 ^ 24 = 2 ^ 31 * (x / 2 ^ 31 % 2) + x % 2 ^ 24 :=
    (Nat.two_pow_add_eq_or_of_lt (by omega) _).symm
  calc x &&& 0x80FFFFFF = x &&& (2 ^ 31 ||| (2 ^ 24 - 1)) := rfl
    _ = (x &&& 2 ^ 31) ||| (x &&& (2 ^ 24 - 1)) := Nat.and_or_distrib_left ..
    _ = 2 ^ 31 * (x / 2 ^ 31 % 2) ||| x % 2 ^ 24 := by
      rw [Nat.and_two_pow_sub_one_eq_mod, Nat.and_two_pow, ← bit_eq_testBit, toNat_bit, Nat.mul_comm]
    _ = x / 2 ^ 31 % 2 * 2 ^ 31 + x % 2 ^ 24 := by rw [hor, Nat.mul_comm]

theorem State.readReg_route {i : Nat} (h : r.reg = .route i) :
    (s.writeReg r v).readReg r = v % 2 ^ 32 - v / 2 ^ 24 % 2 ^ 7 * 2 ^ 24 := by
  have hw : (BitVec.ofNat 32 v &&& (0x80FFFFFF : Word)).toNat = v % 2 ^ 32 &&& 0x80FFFFFF := by
    rw [BitVec.toNat_and, BitVec.toNat_ofNat]; rfl
  simp only [State.readReg, State.writeReg, h, State.part_modPart_self, tget_tset_self, Option.map_some, Option.getD_some]
  rw [hw, and_routeMask]
  omega

/-- FAB_PORTSTAT: its count is written, failed falls where a 1 is written, up is read-only. -/
theorem State.readReg_portstat {i : Nat} (h : r.reg = .portstat i) :
    let new := (s.writeReg r v).readReg r
    new % 2 ^ 16 = v % 2 ^ 16 ∧ new.testBit 31 = (s.port r.die i).up ∧
      new.testBit 30 = ((s.port r.die i).failed && !v.testBit 30) := by
  intro new
  have hport : (s.writeReg r v).port r.die i =
      ⟨(s.port r.die i).up, (s.port r.die i).failed && !bit v 30, cut16 v 0⟩ := by
    simp only [State.writeReg, h]
    show (tget (tset s.pkg.ports (s.portKey r.die i) _) (s.portKey r.die i)).getD _ = _
    rw [tget_tset_self]; rfl
  have hnew : new = (s.port r.die i).up.toNat * 2 ^ 31 + ((s.port r.die i).failed && !bit v 30).toNat * 2 ^ 30 + v % 2 ^ 16 := by
    simp only [new, State.readReg, h, hport, cut16, BitVec.toNat_ofNat, Nat.pow_zero, Nat.div_one]
  have hu := Bool.toNat_le (s.port r.die i).up
  have hf := Bool.toNat_le ((s.port r.die i).failed && !bit v 30)
  rw [← bit_eq_testBit v]
  refine ⟨?_, testBit_of_toNat ?_, testBit_of_toNat ?_⟩ <;> rw [hnew] <;> omega

theorem State.readReg_brstat (h : r.reg = .brstat) : (s.writeReg r v).readReg r = v % 2 ^ 48 := by
  simp only [State.readReg, State.writeReg, h, State.die_modDie_self, cut16, BitVec.toNat_ofNat]
  omega

/-- The ticket-table entries that requests name do not depend on the dies' registers. -/
theorem State.entriesUsed_modDie (s : State) (d e : Nat) (f : Die → Die) : (s.modDie d f).entriesUsed e = s.entriesUsed e := rfl

/-- FAB_TICKSTAT: its three counts are written, the number of tickets is read-only. -/
theorem State.readReg_tickstat (h : r.reg = .tickstat) (hn : (s.entriesUsed r.die).length < 2 ^ 16) :
    let new := (s.writeReg r v).readReg r
    new / 2 ^ 16 = v / 2 ^ 16 % 2 ^ 48 ∧ new % 2 ^ 16 = (s.entriesUsed r.die).length := by
  intro new
  have hnew : new = v / 2 ^ 48 % 2 ^ 16 * 2 ^ 48 + v / 2 ^ 32 % 2 ^ 16 * 2 ^ 32 + v / 2 ^ 16 % 2 ^ 16 * 2 ^ 16 +
      (s.entriesUsed r.die).length := by
    simp only [new, State.readReg, State.writeReg, h, State.die_modDie_self, State.entriesUsed_modDie, cut16, BitVec.toNat_ofNat]
  rw [hnew]
  omega

theorem State.readReg_exproot (h : r.reg = .exproot) :
    (s.writeReg r v).readReg r = v / 2 ^ 12 % 2 ^ 40 * 2 ^ 12 + v % 2 := by
  simp only [State.readReg, State.writeReg, h, State.part_modPart_self, bits, BitVec.toNat_ofNat]
  omega

theorem State.readReg_xmlog (h : r.reg = .xmlog) :
    (s.writeReg r v).readReg r = v / 2 ^ 16 % 2 ^ 36 * 2 ^ 16 + v % 2 := by
  simp only [State.readReg, State.writeReg, h, State.part_modPart_self, bits, BitVec.toNat_ofNat]
  omega

theorem State.readReg_queue (h : r.reg = .msgq ∨ r.reg = .ctlq) :
    (s.writeReg r v).readReg r = v / 2 ^ 6 % 2 ^ 46 * 2 ^ 6 + v % 2 := by
  obtain h | h := h <;>
    simp only [State.readReg, State.writeReg, h, State.part_modPart_self, bits, BitVec.toNat_ofNat] <;> omega

/-- The partition registers do not depend on the steps to come. -/
theorem State.part_push (s : State) (e : Event) (d p : Nat) : (s.push e).part d p = s.part d p := by
  unfold State.part State.partKey; rw [State.push_parts, State.push_pkg]

/-- FAB_XCMD reads busy while a command is under way, as a write of either command makes it (R372). -/
theorem State.readReg_xcmd (h : r.reg = .xcmd) :
    (s.writeReg r v).readReg r = if (s.part r.die r.inst).xbusy ∨ v / 2 ^ 32 % 4 < 2 then 2 ^ 63 else 0 := by
  have hb : bits v 33 32 = v / 2 ^ 32 % 4 := rfl
  have hpush (e : Event) : ((s.modPart r.die r.inst fun p => { p with xbusy := true }).push e).part r.die r.inst =
      { s.part r.die r.inst with xbusy := true } := by rw [State.part_push, State.part_modPart_self]
  simp only [State.readReg, State.writeReg, h, hb]
  split
  next hx => simp [hx]
  next hx =>
    split
    next h0 => rw [if_pos (.inr (by omega)), hpush, Bool.toNat_true, Nat.one_mul]
    next h1 => rw [if_pos (.inr (by omega)), hpush, Bool.toNat_true, Nat.one_mul]
    next h0 h1 =>
      have hge : ¬ v / 2 ^ 32 % 4 < 2 := fun hlt => by
        obtain hv | hv : v / 2 ^ 32 % 4 = 0 ∨ v / 2 ^ 32 % 4 = 1 := by omega
        · exact h0 hv
        · exact h1 hv
      rw [if_neg (not_or.mpr ⟨hx, hge⟩), Bool.eq_false_of_not_eq_true hx]
      rfl

/-- A write to a device register, by the access codes of the registers L2H_REDSTAT, FAB_ and TRC_. -/
theorem State.writeReg_wroteReg (s : State) (r : RegAt) (v : Nat) : s.wroteReg (s.writeReg r v) r v :=
  ⟨State.readReg_redstat, State.readReg_trcRidx, State.readReg_trcCtl, State.readReg_trcBase,
    fun h => by rw [State.writeReg_readOnly h], fun _ => State.readReg_route, fun _ => State.readReg_portstat,
    State.readReg_brstat, State.readReg_tickstat, State.readReg_exproot, State.readReg_xmlog, State.readReg_queue,
    State.readReg_xcmd⟩

theorem State.readReg_coreCtl (h : r.reg = .coreCtl) : (s.writeReg r v).readReg r = v % 2 := by
  simp only [State.readReg, State.writeReg, h, State.core_modCore_self, toNat_bit, Nat.pow_zero, Nat.div_one]

theorem State.readReg_coreTmkey (h : r.reg = .coreTmkey) (ho : s.occupied r.core = false) :
    (s.writeReg r v).readReg r = v % 2 ^ 12 := by
  simp [State.readReg, State.writeReg, h, ho, State.core_modCore_self]

/-- The registers of 32 bits that are written whole. -/
theorem State.readReg_whole (h : r.reg = .xdto ∨ r.reg = .rto ∨ r.reg = .trcDrop ∨ r.reg = .redhold ∨ r.reg = .ctlag) :
    (s.writeReg r v).readReg r = v % 2 ^ 32 := by
  obtain h | h | h | h | h := h <;> simp only [State.writeReg, h]
  · rw [(OnlyTimers.xdtoRearm ..).readReg]
    simp only [State.readReg, h, State.die_modDie_self, BitVec.toNat_ofNat]
  · rw [(OnlyTimers.rtoRearm ..).readReg]
    simp only [State.readReg, h, State.die_modDie_self, BitVec.toNat_ofNat]
  · simp only [State.readReg, h, State.part_modPart_self, BitVec.toNat_ofNat]
  · rw [(OnlyTimers.redRearm ..).readReg]
    simp only [State.readReg, h, State.home_modHome_self, BitVec.toNat_ofNat]
  · rw [(OnlyTimers.lagRearm ..).readReg]
    simp only [State.readReg, h, State.die_modDie_self, BitVec.toNat_ofNat]

theorem State.readReg_pwrBudget (h : r.reg = .pwrBudget) : (s.writeReg r v).readReg r = v % 2 ^ 12 := by
  simp only [State.readReg, State.writeReg, h, BitVec.toNat_ofNat]

/-- SEC_ESCAL: the lowest row's two bits stay 1 (R345). -/
theorem State.readReg_escal (h : r.reg = .escal) : (s.writeReg r v).readReg r = (v ||| 3) % 2 ^ 12 := by
  simp only [State.readReg, State.writeReg, h, BitVec.or_assoc, BitVec.or_self]
  rw [BitVec.toNat_or, BitVec.toNat_ofNat, Nat.or_mod_two_pow]
  rfl

theorem execRegisterWrite_of_reg {a : Word} {w : Dword} (h : s.ev = some (.registerWrite a w)) (hr : regOf a = some r) :
    exec .registerWrite s = .next (s.writeReg r w.toNat) := by
  show execRegisterWrite s = _
  unfold execRegisterWrite; simp only [h, hr]

end Sys2Proof.Machine
end

section
/-! PROOF. The steps of the sections above, put together: O48. -/

namespace Sys2Proof.Machine

/-- Settles O48: each step is its own lemma above; the writes to memory are those of the hardware to its own objects where
the scrubber has nothing pending, and a register reads back by the access codes of its fields. -/
theorem updatesArrive : Obligations.UpdatesArrive := by
  refine ⟨⟨?update, ?deferred, ?counter, ?node⟩, ?word, ?fetch, ?register⟩
  case update =>
    intro s u o hev hp ho
    rw [execBarrierUpdate_of_ev hev, State.barUpdate_seen hp ho]
    refine ⟨fun hv => ?_, fun hv t ht => ?_⟩
    · rw [hv]; rfl
    · rw [hv, if_pos rfl, ht]; rfl
  case deferred =>
    intro s k c d r o hev hc hd hdue hp ho hv c1 t ht
    refine ⟨t.pushAll (t.crewSteps k), ?_, State.pushAll_crews .., State.pushAll_mem .., State.pushAll_bars ..⟩
    rw [execDeferredArrival_head hev hc hd hdue, State.barUpdate_seen hp ((s.barSee_setCrew ..).trans ho), hv, if_pos rfl, ht]
    rfl
  case counter =>
    intro s pa n poison hev hclean
    refine ⟨s.decrement pa n poison, ?_, State.decrement_spec n poison hclean⟩
    show execTaskDepcountDecrement s = _
    unfold execTaskDepcountDecrement
    rw [hev]
  case node =>
    rintro i s pa n (⟨rfl, hev, ho⟩ | ⟨rfl, hev, ho⟩) hn hclean
    · exact ⟨s.endNode pa, execLaunchNodeRetire_over hev hn ho, State.endNode_status hn hclean⟩
    · exact ⟨s.endNode pa, execZeroBlockNode_empty hev hn ho, State.endNode_status hn hclean⟩
  case word =>
    intro s w k js c hev hcur hc
    exact execIllegalInstructionWord_of_cur hev hcur hc
  case fetch =>
    intro s k j js c e hev hcur hc hf
    refine ⟨_, execFetchFault_bad hev hcur hc hf, fun l a => ?_⟩
    simp only [List.mem_map, mem_lanesOf, Prod.mk.injEq]
    constructor
    · rintro ⟨i, ⟨hi, hl⟩, rfl, rfl⟩
      exact ⟨hi, hl, rfl⟩
    · rintro ⟨hi, hl, rfl⟩
      exact ⟨l, ⟨hi, hl⟩, rfl, rfl⟩
  case register =>
    intro s a v r hev hr
    obtain ⟨hcrews, hmem⟩ := s.writeReg_crews_mem r v.toNat
    exact ⟨s.writeReg r v.toNat, execRegisterWrite_of_reg hev hr, hcrews, hmem, s.writeReg_wroteReg r v.toNat,
      State.readReg_coreCtl, State.readReg_coreTmkey, State.readReg_whole, State.readReg_pwrBudget, State.readReg_escal⟩

end Sys2Proof.Machine
end

section
/-! PROOF. A load of fewer than 4 bytes from a peer whose address is no multiple of 4 takes its bytes out of the word that
its request asks for (R363), so that its register does not hold what the whole word's bytes would give. -/

namespace Sys2Proof.Machine

/-- A load of one byte at 0x1101 into x4 of lane 0, by the crew 2, that a peer has not answered. -/
def byteLoad : Pend :=
  { crew := 2, slices := [0], act := 1, uni := none, land := .load 1 false, dst := [4], dp := false
    addrs := [(0, 0x1101)], locals := [], vals := [], causes := [], failed := [], loss := none, complete := false }

/-- Its request, of the word that holds the byte. -/
def byteLoadReq : PeerReq :=
  { die := 0, part := 0, issuer := ⟨0, 0, 0, 2, [0], 0⟩, who := .pend 5 0, va := 0x1101, pa := 2 ^ 51, n := 4, kind := .read
    entry := some 0, sent := true, ticket := false, took := 0, since := 0, loss := none, noticed := false, published := false
    known := [] }

/-- The crew that waits for it. -/
def byteLoader : Crew := (newCrew 1 0 0 1 0 128 0 0 [] 0 0 false 0).modSlice 0 fun sl => { sl with wait := .peer 5 }

/-- The machine as the answer comes: the word's bytes are 1, 2, 3 and 4. -/
def byteAnswered : State :=
  { State.reset with
    crews := [(2, byteLoader)], pends := [(5, byteLoad)], reqs := [(9, byteLoadReq)]
    ev := some (.requestResponse 9 (.data [1, 2, 3, 4] [])) }

/-- A register of lane 0 of crew 2 once a step without a word has been taken. -/
def State.registerAfter (s : State) (i : Instr) (d : Nat) : Option Word :=
  match exec i s with
  | .next t => (tget t.crews 2).bind fun c => tget (c.lane 0).regs d
  | _ => none

theorem State.registerAfter_next {s t : State} {i : Instr} {c : Crew} (h : exec i s = .next t) (hc : tget t.crews 2 = some c)
    (d : Nat) : s.registerAfter i d = tget (c.lane 0).regs d := by
  unfold State.registerAfter; rw [h]; simp only [hc, Option.bind_some]

/-- The byte at 0x1101 is the second of the word: the register holds 2. -/
theorem byteAnswered_register : byteAnswered.registerAfter .requestResponse 4 = some 2 := by decide +kernel

/-- Refutes O51: of an answered load it says that the register holds `loadRegs n sg bs` of the answer's bytes `bs`, for every
width n and address. A load narrower than 4 bytes has asked for the word that holds its bytes (R363), and when its address
is no multiple of 4 they are not the word's first: the byte loaded from 0x1101 out of the word 1, 2, 3, 4 is 2, not 1. -/
theorem not_peersAndLinks : ¬ Obligations.PeersAndLinks := by
  rintro ⟨⟨-, -, -, -, -, -, answered, -⟩, -⟩
  obtain ⟨t, c, hexec, -, hcrew, -, -, hreg⟩ := answered byteAnswered 9 5 0 1 4 false byteLoadReq byteLoad byteLoader
    [1, 2, 3, 4] rfl rfl rfl rfl rfl rfl rfl rfl rfl rfl rfl rfl (List.nodup_singleton 0) rfl
  have hclaimed : tget (c.lane 0).regs 4 = some 1 := hreg 0 (by decide) (by decide) rfl
  have hheld := State.registerAfter_next hexec hcrew 4
  rw [byteAnswered_register, hclaimed] at hheld
  exact absurd hheld (by decide)

end Sys2Proof.Machine
end

section
/-! PROOF. Rounding to a format (R66 to R69): what `roundFl` gives by the codes whose values lie around a magnitude. -/

namespace Sys2Proof.Machine

/-! ### Codes and their magnitudes -/

/-- The exponent of a format's least step: every finite value is a multiple of 2 to it. -/
def leastExp (g : FFmt) : Int := 1 - (expBias g : Int) - fracBits g

/-- The magnitude of a code in units of the least step, the codes past the largest finite one counted on alike. -/
def codeMag (g : FFmt) (c : Nat) : Nat :=
  if c / 2 ^ fracBits g = 0 then c else (2 ^ fracBits g + c % 2 ^ fracBits g) * 2 ^ (c / 2 ^ fracBits g - 1)

theorem fracBits_pos (g : FFmt) : 0 < fracBits g := by cases g <;> decide

/-- n steps of 2^d are the magnitude of the code d × 2^f + n, where n is a full significand or d is 0. -/
theorem codeMag_of_step (g : FFmt) {d n : Nat} (hn : n ≤ 2 * 2 ^ fracBits g) (hd : d = 0 ∨ 2 ^ fracBits g ≤ n) :
    codeMag g (d * 2 ^ fracBits g + n) = n * 2 ^ d := by
  unfold codeMag
  have hp : 0 < 2 ^ fracBits g := by positivity
  generalize 2 ^ fracBits g = p at *
  rcases Nat.lt_or_ge n p with h | h
  · obtain rfl : d = 0 := by omega
    simp [Nat.div_eq_of_lt h]
  · rcases Nat.lt_or_eq_of_le hn with h2 | rfl
    · have hq : (d * p + n) / p = d + 1 := by
        rw [Nat.add_comm, Nat.add_mul_div_right _ _ hp, Nat.div_eq_of_lt_le (k := 1) (by omega) (by omega), Nat.add_comm]
      have hr : (d * p + n) % p = n - p := by
        rw [Nat.mul_comm, Nat.mul_add_mod, Nat.mod_eq_sub_mod h, Nat.mod_eq_of_lt (by omega)]
      rw [hq, hr, if_neg (by omega), Nat.add_sub_cancel' h, Nat.add_sub_cancel]
    · have hq : (d * p + 2 * p) / p = d + 2 := by rw [← Nat.add_mul, Nat.mul_div_cancel _ hp]
      have hr : (d * p + 2 * p) % p = 0 := by rw [← Nat.add_mul, Nat.mul_mod_left]
      rw [hq, hr, if_neg (by omega), show d + 2 - 1 = d + 1 by omega, Nat.pow_succ]
      ring

/-- Every code is some steps of one size, as `codeMag_of_step` counts them. -/
theorem exists_step (g : FFmt) (c : Nat) :
    ∃ d n, c = d * 2 ^ fracBits g + n ∧ n < 2 * 2 ^ fracBits g ∧ (d = 0 ∨ 2 ^ fracBits g ≤ n) := by
  have hp : 0 < 2 ^ fracBits g := by positivity
  generalize 2 ^ fracBits g = p at *
  have hm := Nat.mod_lt c hp
  have hc := Nat.div_add_mod c p
  cases h : c / p with
  | zero => exact ⟨0, c, by simp, by rw [h] at hc; omega, .inl rfl⟩
  | succ d =>
    refine ⟨d, p + c % p, ?_, by omega, .inr (by omega)⟩
    rw [← Nat.add_assoc, ← Nat.succ_mul, Nat.succ_eq_add_one, ← h, Nat.mul_comm, hc]

theorem codeMag_lt_succ (g : FFmt) (c : Nat) : codeMag g c < codeMag g (c + 1) := by
  obtain ⟨d, n, rfl, hn, hd⟩ := exists_step g c
  rw [Nat.add_assoc, codeMag_of_step g hn.le hd, codeMag_of_step g hn (by omega)]
  exact Nat.mul_lt_mul_of_pos_right (by omega) (by positivity)

theorem codeMag_strictMono (g : FFmt) : StrictMono (codeMag g) := strictMono_nat_of_lt_succ (codeMag_lt_succ g)

/-- A magnitude lies at or above one code's and below the next one's for one code only. -/
theorem code_unique {g : FFmt} {k X a c : Nat} (ha : k * codeMag g a ≤ X) (ha' : X < k * codeMag g (a + 1))
    (hc : k * codeMag g c ≤ X) (hc' : X < k * codeMag g (c + 1)) : a = c := by
  have h1 := (codeMag_strictMono g).lt_iff_lt.mp (Nat.lt_of_mul_lt_mul_left (ha.trans_lt hc'))
  have h2 := (codeMag_strictMono g).lt_iff_lt.mp (Nat.lt_of_mul_lt_mul_left (hc.trans_lt ha'))
  omega

/-! ### Steps counted -/

/-- The exponent of the step in which a magnitude m × 2^e is rounded. -/
def stepExp (g : FFmt) (m : Nat) (e : Int) : Int := max ((m.log2 : Int) + e) (1 - (expBias g : Int)) - fracBits g

theorem leastExp_le_stepExp (g : FFmt) (m : Nat) (e : Int) : leastExp g ≤ stepExp g m e := by
  unfold leastExp stepExp; omega

/-- What rounding adds to N ÷ D: whether the quotient is raised. -/
def raised (rm : Nat) (neg : Bool) (N D : Nat) : Bool :=
  roundUp rm neg (N / D % 2 == 1) (Ord.compare (2 * (N % D)) D) (N % D == 0)

theorem compare_mul_right {t : Nat} (ht : 0 < t) (a b : Nat) : Ord.compare (a * t) (b * t) = Ord.compare a b := by
  simp only [Ord.compare, compareOfLessAndEq, Nat.mul_lt_mul_right ht, Nat.mul_left_inj ht.ne']

theorem raised_mul_right (rm : Nat) (neg : Bool) (N D : Nat) {t : Nat} (ht : 0 < t) :
    raised rm neg (N * t) (D * t) = raised rm neg N D := by
  unfold raised
  rw [Nat.mul_div_mul_right _ _ ht, Nat.mul_mod_mul_right, ← Nat.mul_assoc, compare_mul_right ht]
  have : (N % D * t == 0) = (N % D == 0) := by
    rw [Bool.eq_iff_iff]; simp [ht.ne']
  rw [this]

theorem two_pow_toNat_add {a b c : Int} (h1 : a ≤ b) (h2 : b ≤ c) :
    2 ^ (c - a).toNat = 2 ^ (c - b).toNat * 2 ^ (b - a).toNat := by
  rw [← Nat.pow_add]; congr 1; omega

/-- Rounding in units of 2^q is rounding a quotient, both of its numbers counted in any unit below. -/
theorem roundUnits_eq (rm : Nat) (neg : Bool) {m : Nat} {e q q0 : Int} (he : q0 ≤ e) (hq : q0 ≤ q) :
    let N := m * 2 ^ (e - q0).toNat
    let D := 2 ^ (q - q0).toNat
    roundUnits rm neg m e q = if raised rm neg N D then N / D + 1 else N / D := by
  intro N D
  unfold roundUnits
  by_cases h : q ≤ e
  · rw [if_pos h]
    have hN : N = m * 2 ^ (e - q).toNat * D := by
      simp only [N, D]; rw [two_pow_toNat_add hq h, Nat.mul_assoc]
    have hD : 0 < D := by positivity
    have : raised rm neg N D = false := by
      unfold raised roundUp
      rw [hN, Nat.mul_mod_left]; rfl
    rw [this, hN, Nat.mul_div_cancel _ hD]
    rfl
  · rw [if_neg h]
    dsimp only
    have ht : 0 < 2 ^ (e - q0).toNat := by positivity
    have hD : D = 2 ^ (q - e).toNat * 2 ^ (e - q0).toNat := two_pow_toNat_add he (by omega)
    rw [hD, raised_mul_right _ _ _ _ ht, Nat.mul_div_mul_right _ _ ht]
    rcases Nat.le_total (q - e).toNat (m.log2 + 2) with hk | hk
    · rw [Nat.min_eq_left hk]; rfl
    · rw [Nat.min_eq_right hk]
      have hm : m < 2 ^ (m.log2 + 1) := Nat.lt_log2_self
      have h2 : 2 * m < 2 ^ (m.log2 + 2) := by rw [Nat.pow_succ]; omega
      have h3 : 2 ^ (m.log2 + 2) ≤ 2 ^ (q - e).toNat := Nat.pow_le_pow_right (by omega) hk
      unfold raised
      rw [Nat.div_eq_of_lt (b := 2 ^ (m.log2 + 2)) (by omega), Nat.div_eq_of_lt (b := 2 ^ (q - e).toNat) (by omega),
        Nat.mod_eq_of_lt (b := 2 ^ (m.log2 + 2)) (by omega), Nat.mod_eq_of_lt (b := 2 ^ (q - e).toNat) (by omega),
        show Ord.compare (2 * m) (2 ^ (m.log2 + 2)) = .lt from Nat.compare_eq_lt.mpr h2,
        show Ord.compare (2 * m) (2 ^ (q - e).toNat) = .lt from Nat.compare_eq_lt.mpr (by omega)]

/-- A magnitude is less than twice 2^f of its steps, and at least 2^f of them where they are not the least. -/
theorem quotient_bounds (g : FFmt) {m : Nat} {e q0 : Int} (hm : 0 < m) (he : q0 ≤ e) (hu : q0 ≤ leastExp g) :
    let D := 2 ^ (stepExp g m e - q0).toNat
    m * 2 ^ (e - q0).toNat < 2 * 2 ^ fracBits g * D ∧
      (leastExp g < stepExp g m e → 2 ^ fracBits g * D ≤ m * 2 ^ (e - q0).toNat) := by
  intro D
  have hle := leastExp_le_stepExp g m e
  have hD : ∀ i, 2 ^ i * D = 2 ^ (i + (stepExp g m e - q0).toNat) := fun i => (Nat.pow_add ..).symm
  constructor
  · calc m * 2 ^ (e - q0).toNat < 2 ^ (m.log2 + 1) * 2 ^ (e - q0).toNat :=
          Nat.mul_lt_mul_of_pos_right Nat.lt_log2_self (by positivity)
      _ = 2 ^ (m.log2 + 1 + (e - q0).toNat) := (Nat.pow_add ..).symm
      _ ≤ 2 ^ (fracBits g + 1 + (stepExp g m e - q0).toNat) := by
          apply Nat.pow_le_pow_right (by omega)
          unfold stepExp leastExp at *; omega
      _ = 2 * 2 ^ fracBits g * D := by rw [← hD, Nat.pow_succ]; ring
  · intro h
    calc 2 ^ fracBits g * D = 2 ^ (fracBits g + (stepExp g m e - q0).toNat) := hD _
      _ = 2 ^ (m.log2 + (e - q0).toNat) := by
          congr 1
          unfold stepExp leastExp at *; omega
      _ = 2 ^ m.log2 * 2 ^ (e - q0).toNat := Nat.pow_add ..
      _ ≤ m * 2 ^ (e - q0).toNat := Nat.mul_le_mul_right _ (Nat.log2_self_le hm.ne')

/-! ### A finite value rounded -/

/-- The sign bit of a format. -/
def signCode (g : FFmt) (neg : Bool) : Nat := if neg then 2 ^ (fmtWidth g - 1) else 0

/-- The code of an infinity, in E4M3 that of its NaN (R68). -/
def inftyCode (g : FFmt) (neg : Bool) : Nat := if g = .e4m3 then canonNan g else signCode g neg + infCode g

/-- The code of a result that overflows (R68). -/
def overflowCode (g : FFmt) (rm : Nat) (neg : Bool) : Nat :=
  if overflowInf rm neg then inftyCode g neg else signCode g neg + maxCode g

/-- The steps that rounding gives: at most two full significands, and one at least where the step is not the least. -/
theorem roundUnits_bounds (g : FFmt) (rm : Nat) (neg : Bool) {m : Nat} (e : Int) (hm : 0 < m) :
    roundUnits rm neg m e (stepExp g m e) ≤ 2 * 2 ^ fracBits g ∧
      (stepExp g m e = leastExp g ∨ 2 ^ fracBits g ≤ roundUnits rm neg m e (stepExp g m e)) := by
  have hle := leastExp_le_stepExp g m e
  have hq := roundUnits_eq rm neg (m := m) (e := e) (q := stepExp g m e) (q0 := min e (leastExp g)) (by omega) (by omega)
  obtain ⟨hlt, hge⟩ := quotient_bounds g (e := e) (q0 := min e (leastExp g)) hm (by omega) (by omega)
  dsimp only at hq hlt hge
  have hD : 0 < 2 ^ (stepExp g m e - min e (leastExp g)).toNat := by positivity
  have hlt' := (Nat.div_lt_iff_lt_mul hD).mpr hlt
  rw [hq]
  refine ⟨by split <;> omega, ?_⟩
  rcases eq_or_lt_of_le hle with h | h
  · exact .inl h.symm
  · have hge' := (Nat.le_div_iff_mul_le hD).mpr (hge h)
    exact .inr (by split <;> omega)

/-- The code of the rounded steps, the codes past the largest finite one counted on alike. -/
def roundedCode (g : FFmt) (rm : Nat) (neg : Bool) (m : Nat) (e : Int) : Nat :=
  (stepExp g m e - leastExp g).toNat * 2 ^ fracBits g + roundUnits rm neg m e (stepExp g m e)

/-- An exponent and a fraction put together: the exponent's own overflow is the code's. -/
theorem packed_overflow (g : FFmt) (E F a : Nat) (b : Nat → Nat) :
    (if (E : Int) > (maxCode g : Int) / 2 ^ fracBits g then a
      else if E * 2 ^ fracBits g + F > maxCode g then a else b (E * 2 ^ fracBits g + F)) =
      if maxCode g < E * 2 ^ fracBits g + F then a else b (E * 2 ^ fracBits g + F) := by
  split
  next h =>
    have h1 : maxCode g / 2 ^ fracBits g < E := by
      have : ((maxCode g / 2 ^ fracBits g : Nat) : Int) < E := by push_cast; exact h
      exact_mod_cast this
    have h2 := (Nat.div_lt_iff_lt_mul (by positivity)).mp h1
    rw [if_pos (by omega)]
  next => rfl

/-- A finite value that does not saturate rounds to the code of its rounded steps, or overflows. -/
theorem roundFl_fin (g : FFmt) (rm : Nat) (neg sat : Bool) {m : Nat} {e : Int} (hm : 0 < m)
    (hs : (sat && exceeds g m e) = false) :
    roundFl g rm sat (.fin neg m e) =
      if maxCode g < roundedCode g rm neg m e then overflowCode g rm neg else signCode g neg + roundedCode g rm neg m e := by
  obtain ⟨hn, hd⟩ := roundUnits_bounds g rm neg e hm
  have hle := leastExp_le_stepExp g m e
  have hq : max ((m.log2 : Int) + e) (1 - (expBias g : Int)) - fracBits g = stepExp g m e := rfl
  unfold roundFl roundedCode
  simp only [if_neg hm.ne', hs, Bool.false_eq_true, if_false, hq]
  generalize roundUnits rm neg m e (stepExp g m e) = n at *
  obtain ⟨d, hdq⟩ : ∃ d : Nat, stepExp g m e - leastExp g = d := ⟨_, (Int.toNat_of_nonneg (by omega)).symm⟩
  have hstep : stepExp g m e = d + (1 - (expBias g : Int) - fracBits g) := by rw [← hdq, leastExp]; omega
  replace hd : d = 0 ∨ 2 ^ fracBits g ≤ n := hd.imp_left (by omega)
  have hp : 0 < 2 ^ fracBits g := by positivity
  have pack := fun E F => packed_overflow g E F (overflowCode g rm neg) (signCode g neg + ·)
  simp only [hdq, Int.toNat_natCast, Nat.pow_succ, Nat.mul_comm _ 2]
  rcases Nat.lt_or_ge n (2 ^ fracBits g) with h | h
  · obtain rfl : d = 0 := by omega
    have h2 : ¬ 2 * 2 ^ fracBits g ≤ n := by omega
    simp only [h2, decide_false, Bool.false_eq_true, if_false, if_pos h, Nat.mod_eq_of_lt h]
    split
    next h0 => subst h0; simp [signCode]
    next => exact pack 0 n
  rw [if_neg (by omega)]
  rcases Nat.lt_or_eq_of_le hn with h2 | h2
  · have hE : stepExp g m e + fracBits g + expBias g = (d + 1 : Nat) := by omega
    have hc : d * 2 ^ fracBits g + n = (d + 1) * 2 ^ fracBits g + n % 2 ^ fracBits g := by
      rw [Nat.mod_eq_sub_mod h, Nat.mod_eq_of_lt (by omega), Nat.succ_mul]; omega
    simp only [show ¬ 2 * 2 ^ fracBits g ≤ n by omega, show ¬ n < 2 ^ fracBits g by omega, decide_false, Bool.false_eq_true,
      if_false, hE]
    rw [hc]
    exact pack (d + 1) _
  · have hE : stepExp g m e + 1 + fracBits g + expBias g = (d + 2 : Nat) := by omega
    have hc : d * 2 ^ fracBits g + n = (d + 2) * 2 ^ fracBits g + 2 ^ fracBits g % 2 ^ fracBits g := by
      rw [Nat.mod_self, h2, Nat.add_mul]; omega
    simp only [h2, Nat.le_refl, decide_true, if_true, show ¬ 2 ^ fracBits g < 2 ^ fracBits g by omega, if_false, hE]
    rw [← h2, hc]
    exact pack (d + 2) _

/-! ### The codes around a value -/

/-- The unit in which a value and the codes of a format are both counted. -/
def unitExp (g : FFmt) (e : Int) : Int := min e (leastExp g)

/-- A value m × 2^e in its unit. -/
def units (g : FFmt) (m : Nat) (e : Int) : Nat := m * 2 ^ (e - unitExp g e).toNat

/-- The magnitude of a code in the unit of a value of exponent e. -/
def codeUnits (g : FFmt) (e : Int) (c : Nat) : Nat := 2 ^ (leastExp g - unitExp g e).toNat * codeMag g c

theorem codeUnits_strictMono (g : FFmt) (e : Int) : StrictMono (codeUnits g e) := fun _ _ h =>
  Nat.mul_lt_mul_of_pos_left (codeMag_strictMono g h) (by positivity)

/-- The step in which a value is rounded, in its unit. -/
def stepUnits (g : FFmt) (m : Nat) (e : Int) : Nat := 2 ^ (stepExp g m e - unitExp g e).toNat

/-- The code at or below a value. -/
def floorCode (g : FFmt) (m : Nat) (e : Int) : Nat :=
  (stepExp g m e - leastExp g).toNat * 2 ^ fracBits g + units g m e / stepUnits g m e

variable {g : FFmt} {m : Nat} {e : Int}

theorem floorCode_units (hm : 0 < m) :
    codeUnits g e (floorCode g m e) = units g m e / stepUnits g m e * stepUnits g m e ∧
      codeUnits g e (floorCode g m e + 1) = (units g m e / stepUnits g m e + 1) * stepUnits g m e := by
  have hle := leastExp_le_stepExp g m e
  obtain ⟨hlt, hge⟩ := quotient_bounds g (e := e) (q0 := unitExp g e) hm (min_le_left ..) (min_le_right ..)
  have hD : 0 < stepUnits g m e := by unfold stepUnits; positivity
  have hlt' : units g m e / stepUnits g m e < 2 * 2 ^ fracBits g := (Nat.div_lt_iff_lt_mul hD).mpr hlt
  have hd : (stepExp g m e - leastExp g).toNat = 0 ∨ 2 ^ fracBits g ≤ units g m e / stepUnits g m e := by
    rcases eq_or_lt_of_le hle with h | h
    · exact .inl (by omega)
    · exact .inr ((Nat.le_div_iff_mul_le hD).mpr (hge h))
  have hS : stepUnits g m e = 2 ^ (stepExp g m e - leastExp g).toNat * 2 ^ (leastExp g - unitExp g e).toNat :=
    two_pow_toNat_add (min_le_right ..) hle
  unfold codeUnits floorCode
  rw [Nat.add_assoc, codeMag_of_step g hlt'.le hd, codeMag_of_step g hlt' (by omega)]
  generalize units g m e / stepUnits g m e = n
  rw [hS]
  exact ⟨by ring, by rw [Nat.succ_eq_add_one]; ring⟩

/-- A value lies at or above its floor code, and below the next one. -/
theorem floorCode_bounds (hm : 0 < m) :
    codeUnits g e (floorCode g m e) ≤ units g m e ∧ units g m e < codeUnits g e (floorCode g m e + 1) := by
  obtain ⟨h1, h2⟩ := floorCode_units (g := g) (e := e) hm
  have hD : 0 < stepUnits g m e := by unfold stepUnits; positivity
  rw [h1, h2]
  exact ⟨Nat.div_mul_le_self .., by rw [Nat.mul_comm]; exact Nat.lt_mul_div_succ _ hD⟩

/-- The floor code is the only one that a value lies so at. -/
theorem floorCode_eq (hm : 0 < m) {c : Nat} (h : codeUnits g e c ≤ units g m e) (h' : units g m e < codeUnits g e (c + 1)) :
    floorCode g m e = c :=
  code_unique (floorCode_bounds hm).1 (floorCode_bounds hm).2 h h'

/-- Whether rounding goes up from a code, by the magnitudes of the code and the next: never from the value itself, and else as
the mode says, on a tie to the even code or the larger (R68). -/
def goesUp (rm : Nat) (neg : Bool) (c lo hi X : Nat) : Prop :=
  match rm with
  | 0 => lo + hi < 2 * X ∨ (lo + hi = 2 * X ∧ c % 2 = 1)
  | 1 => False
  | 2 => neg = true
  | 3 => neg = false
  | _ => lo + hi ≤ 2 * X

theorem raised_iff_goesUp (rm : Nat) (neg : Bool) (hm : 0 < m) (hne : codeUnits g e (floorCode g m e) ≠ units g m e) :
    raised rm neg (units g m e) (stepUnits g m e) = true ↔
      goesUp rm neg (floorCode g m e) (codeUnits g e (floorCode g m e)) (codeUnits g e (floorCode g m e + 1)) (units g m e) := by
  obtain ⟨h1, h2⟩ := floorCode_units (g := g) (e := e) hm
  have hpar : floorCode g m e % 2 = units g m e / stepUnits g m e % 2 := by
    obtain ⟨b, hb⟩ : ∃ b, 2 ^ fracBits g = 2 * b :=
      ⟨2 ^ (fracBits g - 1), by rw [← Nat.pow_succ']; congr 1; have := fracBits_pos g; omega⟩
    unfold floorCode
    rw [hb, Nat.mul_left_comm, Nat.mul_add_mod]
  rw [h1] at hne
  rw [h1, h2]
  unfold raised goesUp
  rw [hpar]
  have hmod := Nat.div_add_mod' (units g m e) (stepUnits g m e)
  generalize units g m e % stepUnits g m e = r at *
  generalize units g m e / stepUnits g m e = n at *
  have hr : (r == 0) = false := by simpa using fun h => hne (by omega)
  rw [Nat.add_mul, Nat.one_mul]
  unfold roundUp
  rw [hr]
  generalize n * stepUnits g m e = N at *
  simp only [Bool.false_eq_true, if_false]
  match rm with
  | 0 =>
    have hgt : Ord.compare (2 * r) (stepUnits g m e) = .gt ↔ stepUnits g m e < 2 * r := Nat.compare_eq_gt
    have heq : Ord.compare (2 * r) (stepUnits g m e) = .eq ↔ 2 * r = stepUnits g m e := Nat.compare_eq_eq
    simp only [Bool.or_eq_true, Bool.and_eq_true, beq_iff_eq, hgt, heq]
    omega
  | 1 => simp
  | 2 => simp
  | 3 => simp
  | _ + 4 =>
    have hlt : Ord.compare (2 * r) (stepUnits g m e) = .lt ↔ 2 * r < stepUnits g m e := Nat.compare_eq_lt
    simp only [bne_iff_ne, ne_eq, hlt]
    omega

/-- Rounding takes the floor code or the next. -/
theorem roundedCode_eq (rm : Nat) (neg : Bool) :
    roundedCode g rm neg m e =
      if raised rm neg (units g m e) (stepUnits g m e) then floorCode g m e + 1 else floorCode g m e := by
  have h := roundUnits_eq rm neg (m := m) (e := e) (q := stepExp g m e) (q0 := unitExp g e) (min_le_left ..)
    ((min_le_right ..).trans (leastExp_le_stepExp g m e))
  unfold roundedCode floorCode
  dsimp only at h
  rw [h]
  unfold units stepUnits
  split <;> omega

/-- A value that a code has rounds to that code. -/
theorem roundedCode_of_eq (rm : Nat) (neg : Bool) (hm : 0 < m) {c : Nat} (h : codeUnits g e c = units g m e) :
    roundedCode g rm neg m e = c := by
  have hc : floorCode g m e = c := floorCode_eq hm h.le (h ▸ codeUnits_strictMono g e (Nat.lt_succ_self c))
  have hmul := (floorCode_units (g := g) (e := e) hm).1
  rw [hc, h] at hmul
  have hr : raised rm neg (units g m e) (stepUnits g m e) = false := by
    unfold raised roundUp
    rw [hmul, Nat.mul_mod_left]
    rfl
  rw [roundedCode_eq, hr, hc]
  rfl

/-- A value between two codes rounds to the next one where the mode goes up, and to the first where not. -/
theorem roundedCode_between (rm : Nat) (neg : Bool) (hm : 0 < m) {c : Nat} (h : codeUnits g e c < units g m e)
    (h' : units g m e < codeUnits g e (c + 1)) :
    let up := goesUp rm neg c (codeUnits g e c) (codeUnits g e (c + 1)) (units g m e)
    (up → roundedCode g rm neg m e = c + 1) ∧ (¬ up → roundedCode g rm neg m e = c) := by
  intro up
  have hc : floorCode g m e = c := floorCode_eq hm h.le h'
  have hup := raised_iff_goesUp rm neg (g := g) (e := e) hm (by rw [hc]; exact h.ne)
  rw [hc] at hup
  rw [roundedCode_eq, hc]
  exact ⟨fun hu => if_pos (hup.mpr hu), fun hu => if_neg fun hr => hu (hup.mp hr)⟩

/-- A value at or above a code rounds to it or above. -/
theorem le_roundedCode (rm : Nat) (neg : Bool) (hm : 0 < m) {c : Nat} (h : codeUnits g e c ≤ units g m e) :
    c ≤ roundedCode g rm neg m e := by
  have h1 := (codeUnits_strictMono g e).lt_iff_lt.mp (h.trans_lt (floorCode_bounds hm).2)
  rw [roundedCode_eq]
  split <;> omega

/-! ### Saturation -/

theorem log2_mul_two_pow (hm : 0 < m) (i : Nat) : (m * 2 ^ i).log2 = m.log2 + i := by
  rw [Nat.log2_eq_log_two, Nat.log2_eq_log_two]
  induction i with
  | zero => simp
  | succ i ih => rw [Nat.pow_succ, ← Nat.mul_assoc, Nat.log_mul_base (by omega) (by positivity), ih]; rfl

/-- Numbers are ordered by their leading bits first. -/
theorem lt_iff_log2 (a b : Nat) : a < b ↔ a.log2 < b.log2 ∨ (b.log2 = a.log2 ∧ a < b) := by
  have mono : ∀ {x y : Nat}, x ≤ y → x.log2 ≤ y.log2 := fun h => by
    rw [Nat.log2_eq_log_two, Nat.log2_eq_log_two]; exact Nat.log_mono_right h
  constructor
  · intro h
    have := mono h.le
    omega
  · rintro (h | h)
    · by_contra hn
      have := mono (Nat.le_of_not_lt hn)
      omega
    · exact h.2

/-- The largest finite value of a format: a full significand at the largest exponent but that of E4M3's NaN. -/
theorem decodeFl_maxCode (g : FFmt) :
    decodeFl g (maxCode g) = .fin false (2 ^ fracBits g + maxCode g % 2 ^ fracBits g)
      (leastExp g + (maxCode g / 2 ^ fracBits g - 1 : Nat)) := by
  cases g <;> rfl

theorem codeMag_maxCode (g : FFmt) : codeMag g (maxCode g) =
    (2 ^ fracBits g + maxCode g % 2 ^ fracBits g) * 2 ^ (maxCode g / 2 ^ fracBits g - 1) := by
  cases g <;> rfl

/-- A value exceeds the largest finite one when it does so counted in their unit. -/
theorem exceeds_iff (hm : 0 < m) : exceeds g m e = true ↔ codeUnits g e (maxCode g) < units g m e := by
  unfold exceeds codeUnits units
  rw [decodeFl_maxCode, codeMag_maxCode]
  have hM : 0 < 2 ^ fracBits g + maxCode g % 2 ^ fracBits g := by positivity
  generalize 2 ^ fracBits g + maxCode g % 2 ^ fracBits g = M at *
  generalize maxCode g / 2 ^ fracBits g - 1 = x
  have hu : unitExp g e ≤ e := min_le_left ..
  have hl : unitExp g e ≤ leastExp g := min_le_right ..
  have hA : 2 ^ (leastExp g - unitExp g e).toNat * (M * 2 ^ x) = M * 2 ^ (leastExp g + x - unitExp g e).toNat := by
    rw [Nat.mul_left_comm, ← Nat.pow_add]; congr 2; omega
  generalize hE : leastExp g + (x : Int) = E at *
  have hs : ∀ (n : Nat) {k : Int}, min e E ≤ k →
      n * 2 ^ (k - unitExp g e).toNat = n * 2 ^ (k - min e E).toNat * 2 ^ (min e E - unitExp g e).toNat := fun n k hk => by
    rw [Nat.mul_assoc, ← two_pow_toNat_add (by omega) hk]
  rw [hA, lt_iff_log2, log2_mul_two_pow hM, log2_mul_two_pow hm, hs M (min_le_right ..), hs m (min_le_left ..),
    Nat.mul_lt_mul_right (by positivity)]
  simp only [bne_iff_ne.mpr hm.ne', Bool.true_and, Bool.or_eq_true, Bool.and_eq_true, decide_eq_true_eq, beq_iff_eq]
  have h1 : ((M.log2 : Int) + E < m.log2 + e) ↔ M.log2 + (E - unitExp g e).toNat < m.log2 + (e - unitExp g e).toNat := by omega
  have h2 : ((m.log2 : Int) + e = M.log2 + E) ↔ m.log2 + (e - unitExp g e).toNat = M.log2 + (E - unitExp g e).toNat := by omega
  rw [h1, h2]

/-! ### Codes that come back -/

/-- A code of a format is its sign and the rest. -/
theorem signCode_add_mod {v : Nat} (hv : v < 2 ^ fmtWidth g) :
    signCode g (bit v (fmtWidth g - 1)) + v % 2 ^ (fmtWidth g - 1) = v := by
  have hw : 2 ^ fmtWidth g = 2 * 2 ^ (fmtWidth g - 1) := by
    rw [← Nat.pow_succ']; congr 1; unfold fmtWidth; omega
  have hp : 0 < 2 ^ (fmtWidth g - 1) := by positivity
  have hdiv : v / 2 ^ (fmtWidth g - 1) < 2 := (Nat.div_lt_iff_lt_mul hp).mpr (by omega)
  have hmod := Nat.div_add_mod v (2 ^ (fmtWidth g - 1))
  unfold signCode bit
  generalize v / 2 ^ (fmtWidth g - 1) = b at *
  obtain rfl | rfl : b = 0 ∨ b = 1 := by omega
  · simpa using hmod
  · simpa using hmod

/-- A code up to the largest finite one decodes to its magnitude. -/
theorem decodeFl_of_le {v : Nat} (h : v % 2 ^ (fmtWidth g - 1) ≤ maxCode g) :
    ∃ M k : Nat, decodeFl g v = .fin (bit v (fmtWidth g - 1)) M (leastExp g + k) ∧
      codeMag g (v % 2 ^ (fmtWidth g - 1)) = M * 2 ^ k := by
  unfold decodeFl codeMag
  simp only [if_neg (Nat.not_lt.mpr h)]
  generalize v % 2 ^ (fmtWidth g - 1) = c
  by_cases hE : c / 2 ^ fracBits g = 0
  · have hc : c < 2 ^ fracBits g := by
      rwa [Nat.div_eq_zero_iff_lt (by positivity)] at hE
    exact ⟨c, 0, by simp only [hE, if_pos, Nat.mod_eq_of_lt hc]; simp [leastExp], by simp [hE]⟩
  · refine ⟨2 ^ fracBits g + c % 2 ^ fracBits g, c / 2 ^ fracBits g - 1, ?_, by rw [if_neg hE]⟩
    generalize c / 2 ^ fracBits g = E at *
    rw [if_neg hE]
    congr 1
    unfold leastExp
    omega

/-- A code above the largest finite one is an infinity's, or decodes to NaN. -/
theorem decodeFl_of_gt {v : Nat} (h : maxCode g < v % 2 ^ (fmtWidth g - 1)) :
    decodeFl g v = if v % 2 ^ (fmtWidth g - 1) = infCode g ∧ g ≠ .e4m3 then .inf (bit v (fmtWidth g - 1)) else .nan := by
  unfold decodeFl
  simp only [if_pos h]

/-- Rounding the value of a finite code gives the code. -/
theorem roundFl_decodeFl_fin (rm : Nat) (sat : Bool) {v : Nat} (hv : v < 2 ^ fmtWidth g)
    (h : v % 2 ^ (fmtWidth g - 1) ≤ maxCode g) : roundFl g rm sat (decodeFl g v) = v := by
  obtain ⟨M, k, hd, hmag⟩ := decodeFl_of_le h
  have hv' := signCode_add_mod hv
  rw [hd]
  generalize hs : bit v (fmtWidth g - 1) = s at *
  generalize v % 2 ^ (fmtWidth g - 1) = c at *
  rcases Nat.eq_zero_or_pos M with rfl | hM
  · obtain rfl : c = 0 := by
      by_contra hc
      have := codeMag_strictMono g (Nat.pos_of_ne_zero hc)
      omega
    simpa [roundFl, signCode] using hv'
  · have hu : unitExp g (leastExp g + k) = leastExp g := min_eq_right (by omega)
    have hunits : codeUnits g (leastExp g + k) c = units g M (leastExp g + k) := by
      unfold codeUnits units
      rw [hu, hmag]
      simp
    have hex : exceeds g M (leastExp g + k) = false := by
      rw [Bool.eq_false_iff, ne_eq, exceeds_iff hM, ← hunits, (codeUnits_strictMono g _).lt_iff_lt]
      omega
    rw [roundFl_fin g rm s sat hM (by rw [hex, Bool.and_false]), roundedCode_of_eq rm s hM hunits, if_neg (by omega), hv']

/-- Rounding the value of an infinity's code without saturation gives the code. -/
theorem roundFl_decodeFl_inf (rm : Nat) {v : Nat} {neg : Bool} (hv : v < 2 ^ fmtWidth g) (h : decodeFl g v = .inf neg) :
    roundFl g rm false (.inf neg) = v := by
  rcases Nat.lt_or_ge (maxCode g) (v % 2 ^ (fmtWidth g - 1)) with hc | hc
  · rw [decodeFl_of_gt hc] at h
    split at h
    next hi =>
      obtain ⟨hi, hg⟩ := hi
      cases h
      have hv' := signCode_add_mod hv
      rw [hi] at hv'
      simpa [roundFl, hg, signCode] using hv'
    next => cases h
  · obtain ⟨M, k, hd, -⟩ := decodeFl_of_le hc
    rw [hd] at h
    cases h

/-- Rounding the value of a code gives the code, but for a NaN, whose canonical code it gives, and an infinity saturated. -/
theorem roundFl_decodeFl (rm : Nat) {v : Nat} (hv : v < 2 ^ fmtWidth g) :
    match decodeFl g v with
    | .nan => ∀ sat, roundFl g rm sat (decodeFl g v) = canonNan g
    | .inf _ => roundFl g rm false (decodeFl g v) = v
    | .fin .. => ∀ sat, roundFl g rm sat (decodeFl g v) = v := by
  rcases Nat.lt_or_ge (maxCode g) (v % 2 ^ (fmtWidth g - 1)) with hc | hc
  · have hd := decodeFl_of_gt hc
    split
    next h => exact fun _ => by rw [h]; rfl
    next h => rw [h]; exact roundFl_decodeFl_inf rm hv h
    next h =>
      rw [h] at hd
      split at hd <;> cases hd
  · have hround := fun sat => roundFl_decodeFl_fin rm sat hv hc
    obtain ⟨M, k, hd, -⟩ := decodeFl_of_le hc
    rw [hd] at hround ⊢
    exact hround

/-! ### Every result is a code -/

theorem two_mul_signBit (g : FFmt) : 2 ^ fmtWidth g = 2 ^ (fmtWidth g - 1) + 2 ^ (fmtWidth g - 1) := by cases g <;> rfl

theorem maxCode_lt (g : FFmt) : maxCode g < 2 ^ (fmtWidth g - 1) := by cases g <;> decide

theorem canonNan_lt (g : FFmt) : canonNan g < 2 ^ fmtWidth g := by cases g <;> decide

theorem signCode_add_lt {c : Nat} (neg : Bool) (h : c < 2 ^ (fmtWidth g - 1)) : signCode g neg + c < 2 ^ fmtWidth g := by
  rw [two_mul_signBit]
  unfold signCode
  split <;> omega

theorem inftyCode_lt (g : FFmt) (neg : Bool) : inftyCode g neg < 2 ^ fmtWidth g := by
  unfold inftyCode
  split
  · exact canonNan_lt g
  · exact signCode_add_lt neg (by cases g <;> decide)

theorem overflowCode_lt (g : FFmt) (rm : Nat) (neg : Bool) : overflowCode g rm neg < 2 ^ fmtWidth g := by
  unfold overflowCode
  split
  · exact inftyCode_lt g neg
  · exact signCode_add_lt neg (maxCode_lt g)

/-- Where a value saturates, rounding gives the largest finite value of its sign. -/
theorem roundFl_of_exceeds (rm : Nat) (neg : Bool) (hm : 0 < m) (h : exceeds g m e = true) :
    roundFl g rm true (.fin neg m e) = signCode g neg + maxCode g := by
  unfold roundFl
  simp only [if_neg hm.ne', h, Bool.and_self, if_true]
  rfl

theorem roundFl_lt (g : FFmt) (rm : Nat) (sat : Bool) (x : Fl) : roundFl g rm sat x < 2 ^ fmtWidth g := by
  match x with
  | .nan => exact canonNan_lt g
  | .inf neg =>
    cases sat with
    | false => exact inftyCode_lt g neg
    | true => exact signCode_add_lt neg (maxCode_lt g)
  | .fin neg m e =>
    rcases Nat.eq_zero_or_pos m with rfl | hm
    · have h0 : roundFl g rm sat (.fin neg 0 e) = signCode g neg + 0 := rfl
      rw [h0]
      exact signCode_add_lt neg (by positivity)
    by_cases hs : sat && exceeds g m e
    · obtain ⟨rfl, hex⟩ := Bool.and_eq_true_iff.mp hs
      rw [roundFl_of_exceeds rm neg hm hex]
      exact signCode_add_lt neg (maxCode_lt g)
    · rw [roundFl_fin g rm neg sat hm (by simpa using hs)]
      split
      · exact overflowCode_lt g rm neg
      · exact signCode_add_lt neg (by have := maxCode_lt g; omega)

/-- Decoding a rounded value and rounding it again changes nothing. -/
theorem decodeFl_roundFl_decodeFl (rm : Nat) {v : Nat} (hv : v < 2 ^ fmtWidth g) :
    decodeFl g (roundFl g rm false (decodeFl g v)) = decodeFl g v := by
  have h := roundFl_decodeFl rm hv
  cases hd : decodeFl g v with
  | nan => exact (show decodeFl g (canonNan g) = .nan by cases g <;> rfl)
  | inf neg => rw [hd] at h; rw [h, hd]
  | fin neg m e => rw [hd] at h; rw [h, hd]

/-! ### The neighbour that the mode names (R68, R69) -/

/-- A value that does not exceed the largest finite one, or does not saturate, rounds to its rounded code or overflows. -/
theorem roundFl_of_le (rm : Nat) (neg sat : Bool) (hm : 0 < m)
    (h : sat = false ∨ units g m e ≤ codeUnits g e (maxCode g)) :
    roundFl g rm sat (.fin neg m e) =
      if maxCode g < roundedCode g rm neg m e then overflowCode g rm neg else signCode g neg + roundedCode g rm neg m e := by
  refine roundFl_fin g rm neg sat hm ?_
  rcases h with rfl | h
  · rfl
  · have : exceeds g m e = false := by rw [Bool.eq_false_iff, ne_eq, exceeds_iff hm]; omega
    rw [this, Bool.and_false]

/-- A value that a finite code has. -/
theorem roundFl_exact (rm : Nat) (neg sat : Bool) (hm : 0 < m) {c : Nat} (hc : c ≤ maxCode g)
    (h : codeUnits g e c = units g m e) : roundFl g rm sat (.fin neg m e) = signCode g neg + c := by
  rw [roundFl_of_le rm neg sat hm (.inr (h ▸ (codeUnits_strictMono g e).monotone hc)), roundedCode_of_eq rm neg hm h,
    if_neg (by omega)]

/-- A value between two finite codes. -/
theorem roundFl_between (rm : Nat) (neg sat : Bool) (hm : 0 < m) {c : Nat} (hc : c < maxCode g)
    (h : codeUnits g e c < units g m e) (h' : units g m e < codeUnits g e (c + 1)) :
    let up := goesUp rm neg c (codeUnits g e c) (codeUnits g e (c + 1)) (units g m e)
    (up → roundFl g rm sat (.fin neg m e) = signCode g neg + (c + 1)) ∧
      (¬ up → roundFl g rm sat (.fin neg m e) = signCode g neg + c) := by
  intro up
  obtain ⟨h1, h2⟩ := roundedCode_between rm neg hm h h'
  rw [roundFl_of_le rm neg sat hm (.inr (h'.le.trans ((codeUnits_strictMono g e).monotone hc)))]
  refine ⟨fun hu => ?_, fun hu => ?_⟩
  · rw [h1 hu, if_neg (by omega)]
  · rw [h2 hu, if_neg (by omega)]

/-- A value between the largest finite one and what the next code would have. -/
theorem roundFl_past (rm : Nat) (neg : Bool) (hm : 0 < m) (h : codeUnits g e (maxCode g) < units g m e)
    (h' : units g m e < codeUnits g e (maxCode g + 1)) :
    let up := goesUp rm neg (maxCode g) (codeUnits g e (maxCode g)) (codeUnits g e (maxCode g + 1)) (units g m e)
    (up → roundFl g rm false (.fin neg m e) = overflowCode g rm neg) ∧
      (¬ up → roundFl g rm false (.fin neg m e) = signCode g neg + maxCode g) := by
  intro up
  obtain ⟨h1, h2⟩ := roundedCode_between rm neg hm h h'
  rw [roundFl_of_le rm neg false hm (.inl rfl)]
  refine ⟨fun hu => ?_, fun hu => ?_⟩
  · rw [h1 hu, if_pos (by omega)]
  · rw [h2 hu, if_neg (by omega)]

/-- A value at or above what the code past the largest finite one would have. -/
theorem roundFl_overflow (rm : Nat) (neg : Bool) (hm : 0 < m) (h : codeUnits g e (maxCode g + 1) ≤ units g m e) :
    roundFl g rm false (.fin neg m e) = overflowCode g rm neg := by
  rw [roundFl_of_le rm neg false hm (.inl rfl), if_pos (Nat.lt_of_succ_le (le_roundedCode rm neg hm h))]

/-- The modes that overflow to the infinity. -/
theorem overflowInf_iff {rm : Nat} (neg : Bool) (h : rm < 5) :
    overflowInf rm neg = true ↔ rm = 0 ∨ rm = 4 ∨ (rm = 2 ∧ neg = true) ∨ (rm = 3 ∧ neg = false) := by
  match rm, h with
  | 0, _ | 1, _ | 2, _ | 3, _ | 4, _ => simp [overflowInf]

/-! ### Functions with codes of their own (R109) -/

theorem encloseFl_lt (f : FFmt) (rm : Nat) (sat neg : Bool) (lo hi : Nat) (q : Int) :
    encloseFl f rm sat neg lo hi q < 2 ^ fmtWidth f := by
  unfold encloseFl
  dsimp only
  split
  · exact roundFl_lt ..
  · exact Nat.mod_lt _ (by positivity)

theorem exp2Code_lt (f : FFmt) (rm : Nat) (sat : Bool) (x : Fl) : exp2Code f rm sat x < 2 ^ fmtWidth f := by
  unfold exp2Code
  match x with
  | .nan => exact canonNan_lt f
  | .inf n =>
    dsimp only
    split
    · positivity
    · exact roundFl_lt ..
  | .fin n m e =>
    dsimp only
    split
    · exact roundFl_lt ..
    · exact encloseFl_lt ..

theorem log2Code_lt (f : FFmt) (rm : Nat) (sat : Bool) (x : Fl) : log2Code f rm sat x < 2 ^ fmtWidth f := by
  unfold log2Code
  match x with
  | .nan => exact canonNan_lt f
  | .inf n =>
    dsimp only
    split
    · exact canonNan_lt f
    · exact roundFl_lt ..
  | .fin n m e =>
    dsimp only
    split
    · exact roundFl_lt ..
    · split
      · exact canonNan_lt f
      · split
        · exact roundFl_lt ..
        · split <;> exact encloseFl_lt ..

theorem tanhCode_lt (f : FFmt) (rm : Nat) (sat : Bool) (x : Fl) : tanhCode f rm sat x < 2 ^ fmtWidth f := by
  unfold tanhCode
  match x with
  | .nan => exact canonNan_lt f
  | .inf n => exact roundFl_lt ..
  | .fin n m e =>
    dsimp only
    split
    · exact roundFl_lt ..
    · split
      · exact encloseFl_lt ..
      · split <;> exact encloseFl_lt ..

/-! ### The element-wise float instructions (R107 to R109) -/

/-- A register put together from elements that fit has them as its elements. -/
theorem elemFl_ofElemsFl (f : FFmt) (c : Nat → Nat) (hc : ∀ j, c j < 2 ^ fmtWidth f) {j : Nat} (hj : j < perReg f) :
    elemFl f (ofElemsFl f c) j = c j := by
  obtain ⟨hlt, hel⟩ := ofElems_fold (fmtWidth f) c hc (perReg f)
  have h32 : fmtWidth f * perReg f = 32 := by cases f <;> rfl
  rw [h32] at hlt
  unfold elemFl ofElemsFl
  rw [BitVec.toNat_ofNat, Nat.mod_eq_of_lt hlt]
  exact hel j hj

/-- What ILLEGAL from registers and state does, where the gang acts and no check before it stops the instruction (R58). -/
theorem issue_forbidden {s : State} {h : Head} {k : Nat} {js : List Nat} {c : Crew} (hcur : s.cur = some (k, js))
    (hc : tget s.crews k = some c) (hm : (s.issueOf h k js c).misnamed h = false)
    (hw : (s.issueOf h k js c).waits h = false) (hf : (s.issueOf h k js c).forbidden h = true) (body : Issue → Res) :
    issue s h body = .next (s.takeTrap k js .illegal (h.dynMask (s.issueOf h k js c)) 0 [] 0) := by
  unfold issue
  simp only [hcur, hc, hm, hw, hf, Bool.false_eq_true, if_false, if_true]
  rfl

/-- An instruction guarded lane by lane is forbidden when it acts and its registers or state make it ILLEGAL. -/
theorem Issue.forbidden_of_dyn {x : Issue} {h : Head} (hg : h.guard = .lane) (ha : x.act ≠ 0) (hd : h.dyn x = true) :
    x.forbidden h = true := by
  have hs : x.split h = 0 := by unfold Issue.split; rw [hg]
  unfold Issue.forbidden
  rw [hs, hd]
  simpa using ha

theorem scalar_forbidden {s : State} {h : Head} {k : Nat} {js : List Nat} {c : Crew} (hcur : s.cur = some (k, js))
    (hc : tget s.crews k = some c) (hm : (s.issueOf h.scalar k js c).misnamed h.scalar = false)
    (hw : (s.issueOf h.scalar k js c).waits h.scalar = false) (hf : (s.issueOf h.scalar k js c).forbidden h.scalar = true)
    (f : Issue → Nat → Wr) :
    scalar s h f = .next (s.takeTrap k js .illegal (h.dynMask (s.issueOf h.scalar k js c)) 0 [] 0) :=
  issue_forbidden hcur hc hm hw hf _

/-- An element-wise float instruction is the body of R107 with its fields and code. -/
theorem exec_floatForm {i : Instr} {F : FloatForm} (h : floatForm i = some F) (s : State) :
    exec i s = floatOp F.cons s F.u F.st F.d F.a F.b F.readsD F.lat F.code := by
  unfold floatForm at h
  split at h <;> cases h <;> rfl

/-- The codes that float instructions write fit their format. -/
theorem floatForm_code_lt {i : Instr} {F : FloatForm} (h : floatForm i = some F) (g : FFmt) (rm : Nat) (sat : Bool)
    (a b d : Fl) : F.code g rm sat a b d < 2 ^ fmtWidth g := by
  unfold floatForm at h
  split at h
  case h_13 => cases h; exact exp2Code_lt ..
  case h_14 => cases h; exact log2Code_lt ..
  case h_15 => cases h; exact tanhCode_lt ..
  case h_16 => cases h
  all_goals cases h; exact roundFl_lt ..

/-- What the body of R107 writes in every lane that acts. -/
theorem floatOp_spec {F : FloatForm} {s : State} {k : Nat} {js : List Nat} {c : Crew}
    (hlt : ∀ g rm sat a b d, F.code g rm sat a b d < 2 ^ fmtWidth g) (hc : s.clears F.head k js c = true) :
    let x := s.issueOf F.head k js c
    ∃ c', floatOp F.cons s F.u F.st F.d F.a F.b F.readsD F.lat F.code = .next (s.setCrew k c') ∧
      ∀ l, x.act.getLsbD l = true →
        let o := x.source F.u l
        let m := x.mode o
        let g := etFmt (modeEtype m)
        ∀ j < perReg g, elemFl g ((c'.lane l).get c.depth F.d.toNat) j =
          F.code g (modeRmode m) (modeSat m) (decodeFl g (elemFl g (x.reg o F.a.toNat) j))
            (decodeFl g (elemFl g ((F.b.map fun b => x.reg o b.toNat).getD 0) j))
            (decodeFl g (elemFl g (x.reg o F.d.toNat) j)) := by
  intro x
  obtain ⟨c', hexec, -, hlane⟩ := scalar_lanes _ hc
  refine ⟨c', hexec, fun l hl => ?_⟩
  intro o m g j hj
  rw [hlane l hl, Lane.get_write_wr1]
  refine (elemFl_ofElemsFl g _ (fun _ => hlt ..) hj).trans ?_
  cases F.b <;> rfl

/-- Settles O9: a value and the codes of its format are counted in one unit, in which rounding takes the code at or below the
value or the next one; an instruction writes its code, which fits the element, in every lane that acts. -/
theorem floatResults : Obligations.FloatResults := by
  refine ⟨⟨fun g rm v hv => roundFl_decodeFl rm hv, ?neighbours⟩, ?instructions⟩
  case neighbours =>
    intro g rm m neg sat e hrm hm unit q X V sign up past top r
    have hpast : past = overflowCode g rm neg := by
      unfold overflowCode
      simp only [overflowInf_iff neg hrm]
      rfl
    rw [hpast]
    refine ⟨fun c hc h => roundFl_exact rm neg sat hm hc h, fun c hc h h' => roundFl_between rm neg sat hm hc h h',
      fun h hs => ?_, fun h hs h' => ?_, fun hs h => ?_⟩
    · subst hs; exact roundFl_of_exceeds rm neg hm ((exceeds_iff hm).mpr h)
    · subst hs; exact roundFl_past rm neg hm h h'
    · subst hs; exact roundFl_overflow rm neg hm h
  case instructions =>
    intro i F s k js c hF x
    rw [exec_floatForm hF]
    refine ⟨fun hc => floatOp_spec (floatForm_code_lt hF) hc, fun hcur hc hm hw ha hfp8 => ?_⟩
    obtain ⟨j, hj, he⟩ := hfp8
    have hd : F.head.dyn x = true := List.any_eq_true.mpr
      ⟨j, hj, show etFp8 (modeEtype (c.slice j).mode) = true by simpa [etFp8] using he⟩
    exact scalar_forbidden hcur hc hm hw (Issue.forbidden_of_dyn rfl ha hd) _

end Sys2Proof.Machine
end

section
/-! PROOF. The tree sum of VOTE.fadd (R77, R132): its levels as lists of nodes, and what the root holds. -/

namespace Sys2Proof.Machine

/-- Two neighbours of the tree combined: their rounded sum, or the one that is not empty. -/
def faddNode (rm : Nat) : Option Nat → Option Nat → Option Nat
  | some a, some b => some (roundFl .fp32 rm false (addFl rm (decodeFl .fp32 a) (decodeFl .fp32 b)))
  | some a, none => some a
  | none, b => b

theorem faddLevel_cons (rm : Nat) (a b : Option Nat) (r : List (Option Nat)) :
    faddLevel rm (a :: b :: r) = faddNode rm a b :: faddLevel rm r := by
  cases a <;> cases b <;> rfl

/-- A level over 2k nodes has k nodes, each of two neighbours. -/
theorem faddLevel_range (rm k : Nat) (f : Nat → Option Nat) :
    faddLevel rm ((List.range (2 * k)).map f) = (List.range k).map fun i => faddNode rm (f (2 * i)) (f (2 * i + 1)) := by
  induction k generalizing f with
  | zero => rfl
  | succ k ih =>
    rw [show 2 * (k + 1) = 2 * k + 1 + 1 by omega, List.range_succ_eq_map, List.range_succ_eq_map, List.range_succ_eq_map]
    simp only [List.map_cons, List.map_map, faddLevel_cons]
    congr 1
    exact (ih _).trans (List.map_congr_left fun i _ => by simp [Function.comp, Nat.mul_add])

theorem faddNode_isSome {rm : Nat} {a b : Option Nat} (h : a.isSome ∨ b.isSome) : (faddNode rm a b).isSome := by
  cases a <;> cases b <;> simp_all [faddNode]

theorem faddNode_lt {rm v : Nat} {a b : Option Nat} (ha : ∀ u, a = some u → u < 2 ^ 32) (hb : ∀ u, b = some u → u < 2 ^ 32)
    (h : faddNode rm a b = some v) : v < 2 ^ 32 := by
  cases a with
  | none => exact hb v h
  | some a =>
    cases b with
    | none => exact ha v h
    | some b => cases h; exact roundFl_lt .fp32 ..

/-- The nodes of a tree over 32 leaves: level 0 holds the leaves, and each level above combines neighbours. -/
structure FaddTree (rm : Nat) (leaf : Nat → Option Nat) (node : Nat → Nat → Option Nat) : Prop where
  leaves : ∀ l < 32, node 0 l = leaf l
  levels : ∀ n, ∀ i < 32, node (n + 1) i = faddNode rm (node n (2 * i)) (node n (2 * i + 1))

section
variable {rm : Nat} {leaf : Nat → Option Nat} {node : Nat → Nat → Option Nat} (ht : FaddTree rm leaf node)
include ht

/-- The folds that the model makes over the leaves are the tree's levels. -/
theorem FaddTree.level_eq (n : Nat) (hn : n ≤ 5) :
    (List.range n).foldl (fun t _ => faddLevel rm t) ((List.range 32).map leaf) =
      (List.range (2 ^ (5 - n))).map (node n) := by
  induction n with
  | zero => exact List.map_congr_left fun l hl => (ht.leaves l (List.mem_range.mp hl)).symm
  | succ n ih =>
    have h2 : 2 ^ (5 - n) = 2 * 2 ^ (5 - (n + 1)) := by rw [← Nat.pow_succ']; congr 1; omega
    have h32 : 2 ^ (5 - (n + 1)) ≤ 2 ^ 5 := Nat.pow_le_pow_right (by omega) (by omega)
    rw [List.range_succ (n := n), List.foldl_append, ih (by omega), h2]
    simp only [List.foldl_cons, List.foldl_nil, faddLevel_range]
    refine List.map_congr_left fun i hi => (ht.levels n i ?_).symm
    have := List.mem_range.mp hi
    omega

/-- Above a leaf that is not empty no node is. -/
theorem FaddTree.isSome_above {l : Nat} (hl : l < 32) (h : (leaf l).isSome) (n : Nat) : (node n (l / 2 ^ n)).isSome := by
  induction n with
  | zero => simpa [ht.leaves l hl] using h
  | succ n ih =>
    have hd : l / 2 ^ (n + 1) = l / 2 ^ n / 2 := by rw [Nat.pow_succ, Nat.div_div_eq_div_mul]
    have hlt : l / 2 ^ n < 32 := (Nat.div_le_self ..).trans_lt hl
    rw [hd, ht.levels n _ (by omega)]
    apply faddNode_isSome
    rcases Nat.mod_two_eq_zero_or_one (l / 2 ^ n) with hp | hp
    · exact .inl (by rwa [show 2 * (l / 2 ^ n / 2) = l / 2 ^ n by omega])
    · exact .inr (by rwa [show 2 * (l / 2 ^ n / 2) + 1 = l / 2 ^ n by omega])

/-- Every node of the tree holds an FP32 code. -/
theorem FaddTree.node_lt (hleaf : ∀ l v, leaf l = some v → v < 2 ^ 32) (n : Nat) (hn : n ≤ 5) {i v : Nat}
    (hi : i < 2 ^ (5 - n)) (h : node n i = some v) : v < 2 ^ 32 := by
  induction n generalizing i v with
  | zero => exact hleaf i v ((ht.leaves i hi).symm.trans h)
  | succ n ih =>
    have h2 : 2 ^ (5 - n) = 2 * 2 ^ (5 - (n + 1)) := by rw [← Nat.pow_succ']; congr 1; omega
    have h32 : 2 ^ (5 - (n + 1)) ≤ 2 ^ 5 := Nat.pow_le_pow_right (by omega) (by omega)
    rw [ht.levels n i (by omega)] at h
    exact faddNode_lt (fun u hu => ih (by omega) (by omega) hu) (fun u hu => ih (by omega) (by omega) hu) h

/-- The model's tree sum is the root, its NaN canonical. -/
theorem FaddTree.faddTree_eq (hleaf : ∀ l v, leaf l = some v → v < 2 ^ 32) {v : Nat} (hv : node 5 0 = some v) :
    faddTree rm ((List.range 32).map leaf) = if decodeFl .fp32 v = .nan then canonNan .fp32 else v := by
  have hround := roundFl_decodeFl (g := .fp32) rm (ht.node_lt hleaf 5 (Nat.le_refl 5) (by decide) hv)
  unfold faddTree
  rw [ht.level_eq 5 (Nat.le_refl 5)]
  simp only [Nat.sub_self, Nat.pow_zero, List.range_one, List.map_cons, List.map_nil, hv]
  cases hd : decodeFl .fp32 v with
  | nan => simp [roundFl]
  | inf neg => rw [hd] at hround; simpa using hround
  | fin neg m e => rw [hd] at hround; simpa using hround false

end

/-- A lane's leaf of VOTE.fadd's tree: its register, empty where the lane does not act. -/
def Issue.faddLeaf (x : Issue) (f : FSDA) (l : Nat) : Option Nat :=
  if x.act.getLsbD l then some (x.reg l f.a.toNat).toNat else none

/-- The sum VOTE.fadd forms. -/
def Issue.faddSum (x : Issue) (f : FSDA) : Nat :=
  faddTree (modeRmode (x.mode (lowest x.act))) ((List.range 32).map (x.faddLeaf f))

/-- VOTE.fadd writes its sum to the destination of every lane that acts. -/
theorem execVoteFadd_spec {f : FSDA} {s : State} {k : Nat} {js : List Nat} {c : Crew} (hc : s.clears (voteFaddHead f) k js c = true) :
    let x := s.issueOf (voteFaddHead f) k js c
    ∃ c', exec (.voteFadd f) s = .next (s.setCrew k c') ∧ ∀ l, x.act.getLsbD l = true →
      (c'.lane l).get c.depth f.d.toNat = BitVec.ofNat 32 (x.faddSum f) := by
  intro x
  refine ⟨x.advanced (x.write fun _ => wr1 f.d (BitVec.ofNat 32 (x.faddSum f))), ?_, fun l hl => ?_⟩
  · show execVoteFadd f s = _
    unfold execVoteFadd
    rw [issue_clears hc]
    rfl
  · rw [Issue.written_lane _ _ l hl]
    exact Lane.get_write_wr1 ..

/-- Settles O12: the nodes given are those of the model's tree; one is not empty, since some lane acts, and the root's code
rounds to itself. -/
theorem treeVote : Obligations.TreeVote := by
  intro f s k js c hc x rm node hleaves hlevels
  have ht : FaddTree rm (x.faddLeaf f) node :=
    ⟨hleaves, fun n i hi => by
      rw [hlevels n i hi]
      cases node n (2 * i) <;> cases node n (2 * i + 1) <;> rfl⟩
  have hact : x.act.getLsbD (lowest x.act) = true := by
    obtain ⟨-, -, -, -, -, -, -, -, -, -, hact⟩ := State.clears_iff.mp hc
    exact getLsbD_lowest hact
  have hlow : lowest x.act < 32 := BitVec.lt_of_getLsbD hact
  have hleaf : ∀ l v, x.faddLeaf f l = some v → v < 2 ^ 32 := by
    intro l v h
    unfold Issue.faddLeaf at h
    split at h <;> cases h
    exact (x.reg l f.a.toNat).isLt
  have hroot := ht.isSome_above hlow (by unfold Issue.faddLeaf; rw [hact]; rfl) 5
  rw [Nat.div_eq_of_lt (by simpa using hlow)] at hroot
  obtain ⟨v, hv⟩ := Option.isSome_iff_exists.mp hroot
  obtain ⟨c', hexec, hreg⟩ := execVoteFadd_spec hc
  refine ⟨c', v, hv, hexec, fun l hl => ?_⟩
  rw [hreg l hl]
  refine (congrArg (fun n => (BitVec.ofNat 32 n).toNat) (ht.faddTree_eq hleaf hv)).trans ?_
  have hlt := ht.node_lt hleaf 5 (Nat.le_refl 5) (by decide) hv
  split
  · rfl
  · exact Nat.mod_eq_of_lt hlt

end Sys2Proof.Machine
end

section
/-! PROOF. Reduction streams (R191 to R194): the contributions that an instruction's lanes are gathered into, and what REDF and
REDS leave of the state. -/

namespace Sys2Proof.Machine

/-! ### Lanes gathered by line and index (R193) -/

/-- A contribution is to a lane's line and of its index. -/
def takesPart (p : RedPart) (c : Contribution) : Bool := c.line == p.loc.pa / 128 && c.index == p.index

theorem takesPart_iff {p : RedPart} {c : Contribution} :
    takesPart p c = true ↔ c.line = p.loc.pa / 128 ∧ c.index = p.index := by
  simp [takesPart]

/-- A contribution with one more lane of its line and index. -/
def joinPart (by_ : List Nat → Issuer) (p : RedPart) (c : Contribution) : Contribution :=
  if takesPart p c then
    { c with lanes := p.lane :: c.lanes, last := c.last || p.last, issuer := by_ (sins p.slice c.issuer.slices) }
  else c

/-- The contribution of one lane. -/
def newContribution (by_ : List Nat → Issuer) (stream : Nat) (slice : Nat → Nat) (p : RedPart) : Contribution :=
  { slice := slice p.loc.pa, line := p.loc.pa / 128, stream := stream, index := p.index, last := p.last, coll := false
    key := p.loc.key, issuer := by_ [p.slice], lanes := [p.lane] }

section
variable (by_ : List Nat → Issuer) (stream : Nat) (slice : Nat → Nat)

theorem gather_cons (p : RedPart) (r : List RedPart) :
    gather by_ stream slice (p :: r) =
      if (gather by_ stream slice r).any (takesPart p) then (gather by_ stream slice r).map (joinPart by_ p)
      else newContribution by_ stream slice p :: gather by_ stream slice r := rfl

/-- Joining a lane changes neither where a contribution goes nor in which stream. -/
theorem joinPart_keeps (p : RedPart) (c : Contribution) :
    (joinPart by_ p c).line = c.line ∧ (joinPart by_ p c).index = c.index ∧ (joinPart by_ p c).slice = c.slice ∧
      (joinPart by_ p c).coll = c.coll ∧ (joinPart by_ p c).stream = c.stream := by
  unfold joinPart
  split <;> exact ⟨rfl, rfl, rfl, rfl, rfl⟩

/-- No two contributions are to one line and of one index. -/
theorem gather_pairwise (ps : List RedPart) :
    (gather by_ stream slice ps).Pairwise fun p q => p.line ≠ q.line ∨ p.index ≠ q.index := by
  induction ps with
  | nil => exact .nil
  | cons p r ih =>
    rw [gather_cons]
    split
    · refine List.pairwise_map.mpr (ih.imp fun {a b} h => ?_)
      obtain ⟨la, ia, -⟩ := joinPart_keeps by_ p a
      obtain ⟨lb, ib, -⟩ := joinPart_keeps by_ p b
      rwa [la, ia, lb, ib]
    next hany =>
      refine List.pairwise_cons.mpr ⟨fun c hc => ?_, ih⟩
      by_contra h
      push Not at h
      exact hany (List.any_eq_true.mpr ⟨c, hc, takesPart_iff.mpr ⟨h.1.symm, h.2.symm⟩⟩)

/-- Where a contribution goes, and in which stream. -/
theorem gather_where {home : Nat → Nat} (hs : ∀ pa, slice pa = home (pa / 128)) (ps : List RedPart) :
    ∀ q ∈ gather by_ stream slice ps, q.slice = home q.line ∧ q.coll = false ∧ q.stream = stream := by
  induction ps with
  | nil => simp [gather]
  | cons p r ih =>
    rw [gather_cons]
    split
    · rw [List.forall_mem_map]
      intro c hc
      obtain ⟨hl, -, hsl, hco, hst⟩ := joinPart_keeps by_ p c
      rw [hl, hsl, hco, hst]
      exact ih c hc
    · exact List.forall_mem_cons.mpr ⟨⟨hs _, rfl, rfl⟩, ih⟩

/-- Every lane's operand is in the contribution to its line and of its index. -/
theorem gather_covers (ps : List RedPart) :
    ∀ p ∈ ps, ∃ q ∈ gather by_ stream slice ps, takesPart p q = true ∧ p.lane ∈ q.lanes := by
  induction ps with
  | nil => simp
  | cons p r ih =>
    rw [gather_cons]
    split
    next hany =>
      refine List.forall_mem_cons.mpr ⟨?_, fun p' hp' => ?_⟩
      · obtain ⟨c, hc, hat⟩ := List.any_eq_true.mp hany
        refine ⟨joinPart by_ p c, List.mem_map_of_mem hc, ?_⟩
        unfold joinPart
        rw [if_pos hat]
        exact ⟨hat, List.mem_cons_self⟩
      · obtain ⟨c, hc, hat, hlane⟩ := ih p' hp'
        obtain ⟨hl, hi, -⟩ := joinPart_keeps by_ p c
        refine ⟨joinPart by_ p c, List.mem_map_of_mem hc, by rwa [takesPart, hl, hi], ?_⟩
        unfold joinPart
        split
        · exact List.mem_cons_of_mem _ hlane
        · exact hlane
    next =>
      refine List.forall_mem_cons.mpr ⟨⟨_, List.mem_cons_self, takesPart_iff.mpr ⟨rfl, rfl⟩, List.mem_singleton_self _⟩, ?_⟩
      intro p' hp'
      obtain ⟨c, hc, h⟩ := ih p' hp'
      exact ⟨c, List.mem_cons_of_mem _ hc, h⟩

/-- Every operand is a lane's, and a contribution is the last when a lane of it is. -/
theorem gather_lanes (ps : List RedPart) :
    ∀ q ∈ gather by_ stream slice ps, (∀ e ∈ q.lanes, ∃ p ∈ ps, p.lane = e) ∧
      (q.last = true ↔ ∃ p ∈ ps, takesPart p q = true ∧ p.last = true) := by
  induction ps with
  | nil => simp [gather]
  | cons p r ih =>
    have older : ∀ {e}, (∃ p ∈ r, p.lane = e) → ∃ p' ∈ p :: r, p'.lane = e := fun ⟨p', hp', he⟩ =>
      ⟨p', List.mem_cons_of_mem _ hp', he⟩
    rw [gather_cons]
    split
    next =>
      rw [List.forall_mem_map]
      intro c hc
      obtain ⟨hlanes, hlast⟩ := ih c hc
      obtain ⟨hl, hi, -⟩ := joinPart_keeps by_ p c
      have htakes : ∀ p', takesPart p' (joinPart by_ p c) = takesPart p' c := fun p' => by rw [takesPart, hl, hi]; rfl
      simp only [htakes, List.exists_mem_cons_iff, ← hlast]
      unfold joinPart
      split
      next hat =>
        exact ⟨List.forall_mem_cons.mpr ⟨.inl rfl, fun e he => .inr (hlanes e he)⟩, by simp [hat, or_comm]⟩
      next hat => exact ⟨fun e he => .inr (hlanes e he), by simp [hat]⟩
    next hany =>
      refine List.forall_mem_cons.mpr ⟨⟨?_, ?_⟩, fun c hc => ?_⟩
      · exact fun e he => ⟨p, List.mem_cons_self, (List.mem_singleton.mp he).symm⟩
      · refine ⟨fun h => ⟨p, List.mem_cons_self, takesPart_iff.mpr ⟨rfl, rfl⟩, h⟩, fun ⟨p', hp', hat, hlast⟩ => ?_⟩
        rcases List.mem_cons.mp hp' with rfl | hr
        · exact hlast
        · obtain ⟨c, hc, hat', -⟩ := gather_covers by_ stream slice r p' hr
          obtain ⟨h1, h2⟩ := takesPart_iff.mp hat
          obtain ⟨h3, h4⟩ := takesPart_iff.mp hat'
          exact absurd (List.any_eq_true.mpr ⟨c, hc, takesPart_iff.mpr ⟨h3.trans h1.symm, h4.trans h2.symm⟩⟩) hany
      · obtain ⟨hlanes, hlast⟩ := ih c hc
        refine ⟨fun e he => older (hlanes e he), ?_⟩
        rw [List.exists_mem_cons_iff, ← hlast]
        exact ⟨.inr, fun h => h.resolve_left fun ⟨hat, _⟩ => hany (List.any_eq_true.mpr ⟨c, hc, hat⟩)⟩

/-- A lane joins one contribution, where there is one to join. -/
theorem sum_lanes_join (p : RedPart) {cs : List Contribution}
    (hp : cs.Pairwise fun a b => a.line ≠ b.line ∨ a.index ≠ b.index) (hany : cs.any (takesPart p) = true) :
    ((cs.map (joinPart by_ p)).map fun q => q.lanes.length).sum = (cs.map fun q => q.lanes.length).sum + 1 := by
  induction cs with
  | nil => simp at hany
  | cons c r ih =>
    obtain ⟨hc, hr⟩ := List.pairwise_cons.mp hp
    simp only [List.map_cons, List.sum_cons]
    by_cases hat : takesPart p c = true
    · have hrest : r.map (joinPart by_ p) = r := by
        refine (List.map_congr_left fun d hd => ?_).trans (List.map_id r)
        obtain ⟨h1, h2⟩ := takesPart_iff.mp hat
        refine if_neg fun hat' => ?_
        obtain ⟨h3, h4⟩ := takesPart_iff.mp hat'
        exact (hc d hd).elim (fun h => h (h1.trans h3.symm)) fun h => h (h2.trans h4.symm)
      rw [hrest, joinPart, if_pos hat, List.length_cons]
      omega
    · rw [List.any_cons, Bool.eq_false_of_not_eq_true hat, Bool.false_or] at hany
      rw [ih hr hany, joinPart, if_neg hat]
      omega

/-- The contributions hold as many operands as there are lanes. -/
theorem gather_sum (ps : List RedPart) : ((gather by_ stream slice ps).map fun q => q.lanes.length).sum = ps.length := by
  induction ps with
  | nil => rfl
  | cons p r ih =>
    rw [gather_cons]
    split
    next hany => rw [sum_lanes_join by_ p (gather_pairwise by_ stream slice r) hany, ih]; rfl
    next =>
      rw [List.map_cons, List.sum_cons, ih]
      exact Nat.add_comm ..

end

/-! ### Accesses whose lanes all pass (R179) -/

/-- An access whose lanes all pass their checks is made, at their places. -/
theorem Issue.access_ok (x : Issue) (k : AccKind) (w : Bool) {n : Nat → Nat} {lanes : List Nat} {ea : Nat → Dword} {at_ : Nat → Loc}
    (h : ∀ l ∈ lanes, x.check k (n l) l (ea l) = .ok (at_ l)) (body : Table Loc → Res) :
    x.access k w n lanes ea body = body (lanes.map fun l => (l, at_ l)) := by
  have hr : lanes.map (fun l => (l, x.check k (n l) l (ea l))) = lanes.map fun l => (l, Acc.ok (at_ l)) :=
    List.map_congr_left fun l hl => by rw [h l hl]
  unfold Issue.access
  simp only [hr]
  have hmark : (lanes.map fun l => (l, Acc.ok (at_ l))).any (fun e => e.2 == .walkMark) = false := by
    simp [List.any_eq_false]
  have hcauses : Checked.causes (lanes.map fun l => (l, Acc.ok (at_ l))) = [] := by simp [Checked.causes]
  have hplaces : Checked.places (lanes.map fun l => (l, Acc.ok (at_ l))) = lanes.map fun l => (l, at_ l) := by
    simp [Checked.places, List.filterMap_map]
  rw [hmark, hcauses, hplaces]
  rfl

/-- Filling the translation cache changes the cores' records alone. -/
theorem Issue.tlbFills_eq (x : Issue) (k : AccKind) (ps : Table Loc) (ea : Nat → Dword) :
    x.tlbFills k ps ea = { x.s with cores := (x.tlbFills k ps ea).cores } := by
  unfold Issue.tlbFills
  generalize x.s = s
  induction ps generalizing s with
  | nil => rfl
  | cons e r ih =>
    rw [List.foldl_cons]
    generalize ht : s.tlbFill x.c.core x.c.sup.isSome k e.1 (ea e.1) = t
    have hcores : t = { s with cores := t.cores } := by
      rw [← ht]
      unfold State.tlbFill
      dsimp only
      split
      · rfl
      · split <;> rfl
    rw [ih t, hcores]

/-- No lane whose place is not a peer's waits for a ticket. -/
theorem Issue.ticketed_near (x : Issue) {ps : Table Loc} (h : ∀ e ∈ ps, isPeer e.2.pa = false) : x.ticketed ps = false :=
  List.any_eq_false.mpr fun e he => by simp [h e he]

/-- Bits from 7 up are those of the line. -/
theorem bits_of_line {a b : Nat} (h : a / 128 = b / 128) (hi : Nat) {lo : Nat} (hlo : 7 ≤ lo) : bits a hi lo = bits b hi lo := by
  have hdiv : ∀ n : Nat, n / 2 ^ lo = n / 128 / 2 ^ (lo - 7) := fun n => by
    rw [Nat.div_div_eq_div_mul, show 128 = 2 ^ 7 from rfl, ← Nat.pow_add, Nat.add_sub_cancel' hlo]
  unfold bits
  rw [hdiv a, hdiv b, h]

/-- Addresses of one line have one home slice (R173). -/
theorem State.homeOf_of_line (s : State) {a b : Nat} (h : a / 128 = b / 128) : s.homeOf a = s.homeOf b := by
  have hdie : s.memDie a = s.memDie b := by
    unfold State.memDie
    split
    · omega
    · simp only [bits_of_line h _ (show 7 ≤ 12 by omega), bits_of_line h _ (show 7 ≤ 17 by omega),
        bits_of_line h _ (show 7 ≤ 22 by omega), bits_of_line h _ (show 7 ≤ 27 by omega),
        bits_of_line h _ (show 7 ≤ 32 by omega), bits_of_line h _ (show 7 ≤ 37 by omega)]
  have haddr : s.dieAddr a / 128 = s.dieAddr b / 128 := by
    unfold State.dieAddr
    split
    · omega
    · rw [bits_of_line h 38 (show 7 ≤ 13 by omega)]; omega
  unfold State.homeOf
  simp only [hdie, bits_of_line haddr _ (Nat.le_refl 7), bits_of_line haddr _ (show 7 ≤ 13 by omega),
    bits_of_line haddr _ (show 7 ≤ 19 by omega), bits_of_line haddr _ (show 7 ≤ 25 by omega),
    bits_of_line haddr _ (show 7 ≤ 31 by omega), bits_of_line haddr _ (show 7 ≤ 37 by omega)]

/-- The home slice of an address is its line's. -/
theorem State.homeOf_line (s : State) (pa : Nat) : s.homeOf pa = s.homeOf (pa / 128 * 128) := s.homeOf_of_line (by omega)

/-! ### REDF and REDS -/

/-- Contributions sent stand in order behind what is to come. -/
theorem foldl_sent (cs : List Contribution) (s : State) :
    cs.foldl (fun (s : State) c => { s with due := s.due ++ [.reductionContribution c] }) s =
      { s with due := s.due ++ cs.map .reductionContribution } := by
  induction cs generalizing s with
  | nil => simp
  | cons c r ih =>
    rw [List.foldl_cons, ih]
    simp

/-- What a lane of a reduction stream instruction contributes at a place. -/
def Issue.redPart (x : Issue) (f : FSDAC) (kind : Nat → RedKind) (e : Nat × Loc) : RedPart :=
  let w := x.reg e.1 (f.a.toNat + 3)
  { loc := e.2, slice := e.1 / 4, index := w.toNat % 2 ^ 31, last := w.getLsbD 31
    lane := ⟨kind (modeEtype (x.mode e.1)), e.2.pa % 128, match kind (modeEtype (x.mode e.1)) with
      | .float .. => (x.reg e.1 f.d.toNat).zeroExtend 64
      | _ => (x.atomArg e.1 false f.d).val, false⟩ }

/-- The stream that a reduction stream instruction names (R191). -/
def Issue.redStream (x : Issue) (f : FSDAC) : Nat := ((x.reg (lowest x.act) (f.a.toNat + 2)).extractLsb' 0 16).toNat

/-- The contributions of a reduction stream instruction whose lanes are at places of the own package. -/
def Issue.redSent (x : Issue) (f : FSDAC) (kind : Nat → RedKind) (at_ : Nat → Loc) : List Contribution :=
  gather x.issuer (x.redStream f) x.s.homeOf ((lanesOf x.act).map fun l => x.redPart f kind (l, at_ l))

/-- A reduction stream instruction whose lanes pass, at places of the own package, sends its contributions and completes. -/
theorem reduceStream_near {s : State} {f : FSDAC} {kind : Nat → RedKind} {bad : Nat → Bool} {need : Bool} {k : Nat}
    {js : List Nat} {c : Crew} {at_ : Nat → Loc} (hc : s.clears (reduceStreamHead f kind bad need) k js c = true) :
    let x := s.issueOf (reduceStreamHead f kind bad need) k js c
    (∀ l ∈ lanesOf x.act, x.check (.atomic (f.c == 4)) (redWidth (kind (modeEtype (x.mode l))) false) l (x.reg64 l f.a.toNat) =
      .ok (at_ l)) →
    (∀ l ∈ lanesOf x.act, isPeer (at_ l).pa = false) →
    ∃ cores, reduceStream s f kind bad need = .next (({ s with
      cores := cores, due := s.due ++ (x.redSent f kind at_).map .reductionContribution } : State).setCrew k (x.advanced c)) := by
  intro x hpass hnear
  have hps : ∀ e ∈ (lanesOf x.act).map fun l => (l, at_ l), isPeer e.2.pa = false := by
    rw [List.forall_mem_map]; exact hnear
  have hown : ((lanesOf x.act).map fun l => (l, at_ l)).filter (fun e => !isPeer e.2.pa) = (lanesOf x.act).map fun l => (l, at_ l) :=
    List.filter_eq_self.mpr fun e he => by rw [hps e he]; rfl
  have hpeer : ((lanesOf x.act).map fun l => (l, at_ l)).filter (fun e => isPeer e.2.pa) = [] :=
    List.filter_eq_nil_iff.mpr fun e he => by rw [hps e he]; exact Bool.false_ne_true
  have hfill := x.tlbFills_eq (.atomic (f.c == 4)) ((lanesOf x.act).map fun l => (l, at_ l)) fun l => x.reg64 l f.a.toNat
  unfold reduceStream
  rw [issue_clears hc]
  refine ⟨(x.tlbFills (.atomic (f.c == 4)) ((lanesOf x.act).map fun l => (l, at_ l)) fun l => x.reg64 l f.a.toNat).cores, ?_⟩
  dsimp only
  rw [Issue.access_ok _ _ _ hpass]
  rw [x.ticketed_near hps, hown, hpeer, hfill, List.map_map, foldl_sent]
  obtain ⟨-, hcrew, -⟩ := State.clears_iff.mp hc
  simp only [Bool.false_eq_true, if_false, List.map_nil, Issue.askReduce, gather, List.foldl_nil, Issue.doneIn, Issue.done]
  rw [show x.s.crews = s.crews from rfl, show x.k = k from rfl, hcrew]
  rfl

theorem exec_streamForm {i : Instr} {f : FSDAC} {kind : Nat → RedKind} {bad : Nat → Bool} {need : Bool}
    (h : streamForm i = some (f, kind, bad, need)) (s : State) : exec i s = reduceStream s f kind bad need := by
  unfold streamForm at h
  split at h <;> cases h <;> rfl

/-- Settles O25: the lanes are gathered one by one into the contribution to their line and of their index, and a gang that the
checks let through sends what is gathered and moves on. -/
theorem reductionStreams : Obligations.ReductionStreams := by
  intro i f kind bad need s k js c at_ hform h F x
  rw [exec_streamForm hform]
  refine ⟨fun hcur hcrew hm hw ha hbad => ?_, fun hc hpass hnear => ?_⟩
  · refine issue_forbidden hcur hcrew hm hw (Issue.forbidden_of_dyn rfl ha ?_) _
    rcases hbad with ⟨j, hj, hj'⟩ | ⟨rfl, h0⟩
    · exact Bool.or_eq_true_iff.mpr (.inl (List.any_eq_true.mpr ⟨j, hj, hj'⟩))
    · exact Bool.or_eq_true_iff.mpr (.inr (Bool.and_eq_true_iff.mpr ⟨rfl, beq_iff_eq.mpr h0⟩))
  · obtain ⟨cores, hexec⟩ := reduceStream_near hc hpass hnear
    obtain ⟨-, -, hshape, -⟩ := State.clears_iff.mp hc
    obtain ⟨hmoved, halike, hlanes⟩ := x.advanced_spec c hshape fun _ => rfl
    refine ⟨_, x.advanced c, x.redSent f kind at_, hexec, tget_tset_self .., hmoved, halike, hlanes, rfl, rfl, rfl,
      gather_pairwise .., ?_, ?_, ?_, ?_⟩
    · intro q hq
      obtain ⟨hslice, hcoll, hstream⟩ := gather_where _ _ _ (home := fun line => s.homeOf (line * 128)) s.homeOf_line _ q hq
      refine ⟨hslice, hcoll, fun e he => ?_, hstream⟩
      obtain ⟨p, hp, rfl⟩ := (gather_lanes _ _ _ _ q hq).1 e he
      obtain ⟨l, -, rfl⟩ := List.mem_map.mp hp
      rfl
    · intro l hl
      obtain ⟨q, hq, htakes, hlane⟩ := gather_covers x.issuer (x.redStream f) s.homeOf _ _ (List.mem_map_of_mem hl)
      obtain ⟨hline, hindex⟩ := takesPart_iff.mp htakes
      exact ⟨q, hq, hline, hindex, hlane⟩
    · intro q hq
      rw [(gather_lanes _ _ _ _ q hq).2]
      constructor
      · rintro ⟨p, hp, htakes, hlast⟩
        obtain ⟨l, hl, rfl⟩ := List.mem_map.mp hp
        obtain ⟨hline, hindex⟩ := takesPart_iff.mp htakes
        exact ⟨l, hl, hline, hindex, hlast⟩
      · rintro ⟨l, hl, hline, hindex, hlast⟩
        exact ⟨_, List.mem_map_of_mem hl, takesPart_iff.mpr ⟨hline, hindex⟩, hlast⟩
    · exact (gather_sum ..).trans (List.length_map _)

end Sys2Proof.Machine
end

section
/-! SUPPORT. The bytes and marks of a tile: what reads give, and what the writes of engines leave (R159, R161, R183, R305). -/

namespace Sys2Proof.Machine

/-! ### Lists over ranges -/

/-- Runs of one length put one after another are one longer run. -/
theorem flatMap_range_mul {α : Type} (n k : Nat) (f : Nat → α) :
    (List.range n).flatMap (fun i => (List.range k).map fun j => f (k * i + j)) = (List.range (k * n)).map f := by
  induction n with
  | zero => rfl
  | succ n ih =>
    rw [List.range_succ, List.flatMap_append, ih, Nat.mul_succ, List.range_add, List.map_append, List.flatMap_singleton,
      List.map_map]
    rfl

/-- A part of a run is a run. -/
theorem take_drop_map_range {α : Type} (a n k : Nat) (f : Nat → α) (h : a + n ≤ k) :
    (((List.range k).map f).drop a).take n = (List.range n).map fun i => f (a + i) := by
  refine List.ext_getElem (by simp; omega) fun i h1 h2 => ?_
  simp

theorem memBytes_eq_map (m : Table Byte) (a n : Nat) : memBytes m a n = (List.range n).map fun i => memGet m (a + i) := by
  induction n generalizing a with
  | zero => rfl
  | succ n ih =>
    rw [memBytes, ih, List.range_succ_eq_map, List.map_cons, List.map_map]
    congr 1
    exact List.map_congr_left fun i _ => by simp only [Function.comp, Nat.succ_eq_add_one]; congr 1; omega

/-! ### Sorted sets of words -/

theorem mem_sins {k j : Nat} (t : List Nat) : j ∈ sins k t ↔ j = k ∨ j ∈ t := by
  induction t with
  | nil => simp [sins]
  | cons i r ih =>
    unfold sins
    split
    · simp
    · split
      · subst_vars; simp
      · simp only [List.mem_cons, ih]; tauto

theorem mem_foldl_sins {j : Nat} (ws t : List Nat) : j ∈ ws.foldl (fun m w => sins w m) t ↔ j ∈ ws ∨ j ∈ t := by
  induction ws generalizing t with
  | nil => simp
  | cons w r ih => rw [List.foldl_cons, ih, mem_sins, List.mem_cons]; tauto

theorem mem_wordsIn {off n w : Nat} : w ∈ wordsIn off n ↔ 0 < n ∧ off / 4 ≤ w ∧ w ≤ (off + n - 1) / 4 := by
  unfold wordsIn
  split
  · simp_all
  · simp only [List.mem_map, List.mem_range]
    constructor
    · rintro ⟨i, hi, rfl⟩; omega
    · rintro ⟨_, h1, h2⟩; exact ⟨w - off / 4, by omega, by omega⟩

/-- The words that a range of whole words meets. -/
theorem wordsIn_aligned {off : Nat} (h : off % 4 = 0) (k : Nat) : wordsIn off (4 * k) = (List.range k).map (off / 4 + ·) := by
  unfold wordsIn
  split
  next h0 => obtain rfl : k = 0 := by omega
             rfl
  next h0 => rw [show (off + 4 * k - 1) / 4 + 1 - off / 4 = k by omega]

theorem wordsIn_word {off : Nat} (h : off % 4 = 0) : wordsIn off 4 = [off / 4] := by
  simpa using wordsIn_aligned h 1

/-! ### Reading a tile -/

/-- The byte at a logical offset of a tile. -/
def Tile.byteAt (t : Tile) (a : Nat) : Byte := memGet t.data (t.place a)

theorem Tile.read_eq (t : Tile) (off n : Nat) : t.read off n = (List.range n).map fun i => t.byteAt (off + i) := by
  unfold Tile.read
  split
  · rfl
  next h =>
    rw [memBytes_eq_map]
    exact List.map_congr_left fun i _ => by
      unfold Tile.byteAt Tile.place; rw [Bool.eq_false_of_not_eq_true h]; rfl

/-- Reads of tiles that hold alike bytes are alike. -/
theorem Tile.read_congr {t u : Tile} {off n : Nat} (h : ∀ a, off ≤ a → a < off + n → t.byteAt a = u.byteAt a) :
    t.read off n = u.read off n := by
  rw [t.read_eq, u.read_eq]
  exact List.map_congr_left fun i hi => h _ (by omega) (by have := List.mem_range.mp hi; omega)

theorem Tile.badAt_iff (t : Tile) (off n : Nat) : t.badAt off n = true ↔ ∃ w ∈ wordsIn off n, w ∈ t.marks := by
  unfold Tile.badAt wordsIn
  split
  next h => simp [h]
  next h => simp [bne_iff_ne.mpr h]

/-- A range is marked when the word of a byte of it is. -/
theorem Tile.badAt_eq_any (t : Tile) (off n : Nat) :
    t.badAt off n = (List.range n).any fun i => t.marks.contains ((off + i) / 4) := by
  rw [Bool.eq_iff_iff, t.badAt_iff]
  simp only [mem_wordsIn, List.any_eq_true, List.mem_range, List.contains_iff_mem]
  constructor
  · rintro ⟨w, ⟨_, h1, h2⟩, hw⟩
    refine ⟨max off (4 * w) - off, by omega, ?_⟩
    rwa [show (off + (max off (4 * w) - off)) / 4 = w by omega]
  · rintro ⟨i, hi, hw⟩
    exact ⟨_, ⟨by omega, by omega, by omega⟩, hw⟩

theorem Tile.badAt_word {t : Tile} {off : Nat} (h : off % 4 = 0) : t.badAt off 4 = t.marks.contains (off / 4) := by
  rw [Bool.eq_iff_iff, t.badAt_iff, wordsIn_word h]
  simp

/-! ### What an engine writes -/

/-- A tile whose storage offsets are its logical ones: it has no Morton layout, or lies in the operand store (R159, R167). -/
def Tile.flat (t : Tile) : Prop := (t.morton && !t.os) = false

theorem Tile.flat_of_os {t : Tile} (h : t.os = true) : t.flat := by unfold Tile.flat; simp [h]
theorem Tile.flat_of_linear {t : Tile} (h : t.morton = false) : t.flat := by unfold Tile.flat; simp [h]

theorem Tile.flat.place {t : Tile} (h : t.flat) (a : Nat) : t.place a = a := by
  unfold Tile.place; rw [h]; rfl

theorem Tile.flat.byteAt {t : Tile} (h : t.flat) (a : Nat) : t.byteAt a = memGet t.data a := by
  unfold Tile.byteAt; rw [h.place]

theorem foldl_memWrite_bytes (bs : List Byte) (d : Table Byte) (a k : Nat) :
    (bs.zipIdx k).foldl (fun d e => memWrite d (a + e.2) [e.1]) d = memWrite d (a + k) bs := by
  induction bs generalizing d k with
  | nil => rfl
  | cons b r ih => rw [List.zipIdx_cons, List.foldl_cons, ih]; rfl

theorem Tile.flat.store {t : Tile} (h : t.flat) (off : Nat) (bs : List Byte) : t.store off bs = memWrite t.data off bs := by
  unfold Tile.store
  simp only [h.place]
  split
  · exact foldl_memWrite_bytes bs t.data off 0
  · rfl

/-- Two tiles of one identity and shape: they differ in bytes, marks and shadows at most. -/
structure Tile.alike (t u : Tile) : Prop where
  uid : t.uid = u.uid
  os : t.os = u.os
  morton : t.morton = u.morton
  rowBytes : t.rowBytes = u.rowBytes

theorem Tile.alike.trans {t u v : Tile} (h : t.alike u) (g : u.alike v) : t.alike v :=
  ⟨h.uid.trans g.uid, h.os.trans g.os, h.morton.trans g.morton, h.rowBytes.trans g.rowBytes⟩

theorem Tile.alike.flat {t u : Tile} (h : t.alike u) (hu : u.flat) : t.flat := by
  unfold Tile.flat at hu ⊢; rw [h.morton, h.os]; exact hu

theorem Tile.enginePut_alike (t : Tile) (off : Nat) (bs : List Byte) (bad : Bool) : (t.enginePut off bs bad).alike t := by
  unfold Tile.enginePut
  dsimp only
  split <;> exact ⟨rfl, rfl, rfl, rfl⟩

theorem Tile.enginePut_data (t : Tile) (off : Nat) (bs : List Byte) (bad : Bool) :
    (t.enginePut off bs bad).data = t.store off bs := by
  unfold Tile.enginePut
  dsimp only
  split <;> rfl

/-- After an engine's write the words written are marked when what was written is poison. -/
theorem Tile.mem_enginePut_marks (t : Tile) (off : Nat) (bs : List Byte) (bad : Bool) (w : Nat) :
    w ∈ (t.enginePut off bs bad).marks ↔ (if w ∈ wordsIn off bs.length then bad = true else w ∈ t.marks) := by
  unfold Tile.enginePut Tile.mark Tile.put
  dsimp only
  split
  next hb =>
    simp only [mem_foldl_sins, List.mem_filter, Bool.not_eq_true', List.contains_eq_mem, decide_eq_false_iff_not]
    split <;> simp_all
  next hb =>
    simp only [List.mem_filter, Bool.not_eq_true', List.contains_eq_mem, decide_eq_false_iff_not]
    split <;> simp_all

/-- What an engine's write leaves of a flat tile: the bytes written read back, marked as they are poison, and no other changes. -/
theorem Tile.enginePut_spec {t : Tile} (ht : t.flat) (off : Nat) (bs : List Byte) (bad : Bool) :
    (∀ i (h : i < bs.length), (t.enginePut off bs bad).byteAt (off + i) = bs[i]) ∧
      ∀ a, (a < off ∨ off + bs.length ≤ a) → (t.enginePut off bs bad).byteAt a = t.byteAt a := by
  have hf := (t.enginePut_alike off bs bad).flat ht
  simp only [hf.byteAt, ht.byteAt, t.enginePut_data, ht.store]
  exact ⟨fun i h => memGet_memWrite_in _ _ _ _ h, fun a h => memGet_memWrite_out _ _ _ _ h⟩

/-- An engine's write read back whole. -/
theorem Tile.read_enginePut {t : Tile} (ht : t.flat) (off : Nat) (bs : List Byte) (bad : Bool) :
    (t.enginePut off bs bad).read off bs.length = bs := by
  rw [Tile.read_eq]
  refine List.ext_getElem (by simp) fun i h1 h2 => ?_
  rw [List.getElem_map, List.getElem_range]
  exact (Tile.enginePut_spec ht off bs bad).1 i h2

theorem Tile.badAt_enginePut (t : Tile) (off : Nat) {bs : List Byte} (bad : Bool) (h : bs ≠ []) :
    (t.enginePut off bs bad).badAt off bs.length = bad := by
  have hlen : 0 < bs.length := List.length_pos_of_ne_nil h
  rw [Bool.eq_iff_iff, Tile.badAt_iff]
  simp only [Tile.mem_enginePut_marks]
  constructor
  · rintro ⟨w, hw, hm⟩; rwa [if_pos hw] at hm
  · intro hb
    have hw : off / 4 ∈ wordsIn off bs.length := mem_wordsIn.mpr ⟨hlen, by omega, by omega⟩
    exact ⟨_, hw, by rwa [if_pos hw]⟩

/-! ### Rows of accumulator elements (R301, R305, R309) -/

/-- The bytes of an FP32 row. -/
def rowBytes32 (xs : List (Nat × Bool)) : List Byte := xs.flatMap fun x => natBytes x.1 4

theorem rowBytes32_length (xs : List (Nat × Bool)) : (rowBytes32 xs).length = 4 * xs.length := by
  induction xs with
  | nil => rfl
  | cons x r ih => rw [rowBytes32, List.flatMap_cons, List.length_append, natBytes_length, ← rowBytes32, ih, List.length_cons]; omega

theorem rowBytes32_word (xs : List (Nat × Bool)) {j : Nat} (hj : j < xs.length) :
    ((rowBytes32 xs).drop (4 * j)).take 4 = natBytes xs[j].1 4 := by
  induction xs generalizing j with
  | nil => simp at hj
  | cons x r ih =>
    rw [rowBytes32, List.flatMap_cons, ← rowBytes32]
    cases j with
    | zero => simp
    | succ j =>
      rw [List.drop_append, List.drop_eq_nil_of_le (by rw [natBytes_length]; omega), List.nil_append, natBytes_length,
        show 4 * (j + 1) - 4 = 4 * j by omega]
      exact ih (by simpa using hj)

theorem Tile.putRow_alike (t : Tile) (off : Nat) (f : FFmt) (xs : List (Nat × Bool)) : (t.putRow off f xs).alike t := by
  obtain ⟨h1, h2, h3, h4⟩ := t.enginePut_alike off (xs.flatMap fun x => natBytes x.1 (fmtBytes f)) false
  exact ⟨h1, h2, h3, h4⟩

theorem Tile.putRow_byteAt (t : Tile) (off : Nat) (xs : List (Nat × Bool)) (a : Nat) :
    (t.putRow off .fp32 xs).byteAt a = (t.enginePut off (rowBytes32 xs) false).byteAt a := rfl

/-- After a row is written at a multiple of 4, the words of its marked elements are marked, and those of the others not. -/
theorem Tile.mem_putRow_marks {t : Tile} {off : Nat} (h4 : off % 4 = 0) (xs : List (Nat × Bool)) (w : Nat) :
    w ∈ (t.putRow off .fp32 xs).marks ↔
      (if off / 4 ≤ w ∧ w < off / 4 + xs.length then (xs[w - off / 4]?.map (·.2)) = some true else w ∈ t.marks) := by
  have hwords : ∀ v, v ∈ wordsIn off (rowBytes32 xs).length ↔ off / 4 ≤ v ∧ v < off / 4 + xs.length := by
    intro v; rw [rowBytes32_length, mem_wordsIn]; omega
  have hmarked : w ∈ (xs.zipIdx.flatMap fun e => if e.1.2 then wordsIn (off + e.2 * 4) 4 else []) ↔
      ∃ j, w = off / 4 + j ∧ xs[j]?.map (·.2) = some true := by
    simp only [List.mem_flatMap, Prod.exists, List.mk_mem_zipIdx_iff_getElem?]
    constructor
    · rintro ⟨c, b, j, hj, hw⟩
      split at hw
      next hb =>
        rw [wordsIn_word (by omega), List.mem_singleton] at hw
        exact ⟨j, by omega, by rw [hj]; exact congrArg some hb⟩
      next => simp at hw
    · rintro ⟨j, rfl, hj⟩
      obtain ⟨⟨c, b⟩, hx, hb⟩ := Option.map_eq_some_iff.mp hj
      refine ⟨c, b, j, hx, ?_⟩
      rw [if_pos (by exact hb), wordsIn_word (by omega), List.mem_singleton]
      omega
  show w ∈ ((t.enginePut off (rowBytes32 xs) false).mark
    (xs.zipIdx.flatMap fun e => if e.1.2 then wordsIn (off + e.2 * 4) 4 else [])).marks ↔ _
  unfold Tile.mark
  rw [mem_foldl_sins, Tile.mem_enginePut_marks, hmarked]
  simp only [hwords]
  split
  next hin =>
    simp only [Bool.false_eq_true, or_false]
    refine ⟨fun ⟨j, hw, hj⟩ => ?_, fun h => ⟨_, by omega, h⟩⟩
    rwa [show w - off / 4 = j by omega]
  next hout =>
    refine ⟨fun h => h.resolve_left fun ⟨j, hw, hj⟩ => ?_, .inr⟩
    have : j < xs.length := by
      by_contra hge
      rw [List.getElem?_eq_none (by omega)] at hj
      simp at hj
    omega

/-- The words of a row that is written at a multiple of 4 read back, each marked as its element is. -/
theorem Tile.putRow_in {t : Tile} (ht : t.flat) {off : Nat} (h4 : off % 4 = 0) {xs : List (Nat × Bool)} {j : Nat}
    (hj : j < xs.length) :
    (t.putRow off .fp32 xs).read (off + 4 * j) 4 = natBytes xs[j].1 4 ∧
      (t.putRow off .fp32 xs).badAt (off + 4 * j) 4 = xs[j].2 := by
  have hlen := rowBytes32_length xs
  constructor
  · rw [← rowBytes32_word xs hj, Tile.read_eq]
    refine List.ext_getElem (by simp; omega) fun i h1 h2 => ?_
    have hi : i < 4 := by simpa using h1
    rw [List.getElem_map, List.getElem_range, Tile.putRow_byteAt, Nat.add_assoc,
      (Tile.enginePut_spec ht off (rowBytes32 xs) false).1 _ (by omega)]
    simp
  · rw [Tile.badAt_word (by omega), Bool.eq_iff_iff, List.contains_iff_mem, Tile.mem_putRow_marks h4, if_pos (by omega),
      show (off + 4 * j) / 4 - off / 4 = j by omega, List.getElem?_eq_getElem hj]
    simp

theorem Tile.putRow_out {t : Tile} (ht : t.flat) {off : Nat} {xs : List (Nat × Bool)} {a : Nat}
    (ha : a < off ∨ off + 4 * xs.length ≤ a) : (t.putRow off .fp32 xs).byteAt a = t.byteAt a := by
  rw [Tile.putRow_byteAt]
  exact (Tile.enginePut_spec ht off _ false).2 a (by rw [rowBytes32_length]; exact ha)

/-- Rows of rb bytes written one after another from an offset on. -/
def Tile.putRowsFrom (t : Tile) (rb off : Nat) : List (List (Nat × Bool)) → Tile
  | [] => t
  | r :: rs => (t.putRow off .fp32 r).putRowsFrom rb (off + rb) rs

theorem Tile.putRowsFrom_alike (t : Tile) (rb off : Nat) (rs : List (List (Nat × Bool))) : (t.putRowsFrom rb off rs).alike t := by
  induction rs generalizing t off with
  | nil => exact ⟨rfl, rfl, rfl, rfl⟩
  | cons r rs ih => exact (ih ..).trans (t.putRow_alike ..)

/-- What rows written leave alone: bytes, and the marks of words, before and behind them. -/
theorem Tile.putRowsFrom_out {t : Tile} (ht : t.flat) {rb off : Nat} (h4 : off % 4 = 0) {rs : List (List (Nat × Bool))}
    (hrs : ∀ r ∈ rs, 4 * r.length = rb) :
    (∀ a, (a < off ∨ off + rb * rs.length ≤ a) → (t.putRowsFrom rb off rs).byteAt a = t.byteAt a) ∧
      ∀ w, 4 * w < off → (w ∈ (t.putRowsFrom rb off rs).marks ↔ w ∈ t.marks) := by
  induction rs generalizing t off with
  | nil => exact ⟨fun _ _ => rfl, fun _ _ => Iff.rfl⟩
  | cons r rs ih =>
    obtain ⟨hr, hrs'⟩ := List.forall_mem_cons.mp hrs
    obtain ⟨hbyte, hmark⟩ := ih ((t.putRow_alike off .fp32 r).flat ht) (off := off + rb) (by omega) hrs'
    refine ⟨fun a ha => (hbyte a ?_).trans (Tile.putRow_out ht ?_), fun w hw => (hmark w (by omega)).trans ?_⟩
    · rw [List.length_cons, Nat.mul_succ] at ha; omega
    · rw [List.length_cons, Nat.mul_succ] at ha; omega
    · rw [Tile.mem_putRow_marks h4, if_neg (by omega)]

/-- The words of rows written read back, each marked as its element is. -/
theorem Tile.putRowsFrom_in {t : Tile} (ht : t.flat) {rb off : Nat} (h4 : off % 4 = 0) {rs : List (List (Nat × Bool))}
    (hrs : ∀ r ∈ rs, 4 * r.length = rb) (i : Nat) (hi : i < rs.length) (j : Nat) (hj : j < rs[i].length) :
    (t.putRowsFrom rb off rs).read (off + rb * i + 4 * j) 4 = natBytes rs[i][j].1 4 ∧
      (t.putRowsFrom rb off rs).badAt (off + rb * i + 4 * j) 4 = rs[i][j].2 := by
  induction rs generalizing t off i with
  | nil => simp at hi
  | cons r rs ih =>
    obtain ⟨hr, hrs'⟩ := List.forall_mem_cons.mp hrs
    have hflat := (t.putRow_alike off .fp32 r).flat ht
    have h4' : (off + rb) % 4 = 0 := by omega
    cases i with
    | zero =>
      have hj' : j < r.length := hj
      obtain ⟨hread, hbad⟩ := Tile.putRow_in ht h4 hj'
      obtain ⟨hbyte, hmark⟩ := Tile.putRowsFrom_out hflat h4' hrs'
      rw [Nat.mul_zero, Nat.add_zero]
      refine ⟨(Tile.read_congr fun a h1 h2 => hbyte a (by omega)).trans hread, ?_⟩
      refine Eq.trans ?_ hbad
      rw [Tile.badAt_word (by omega), Tile.badAt_word (by omega), Bool.eq_iff_iff, List.contains_iff_mem,
        List.contains_iff_mem]
      exact hmark _ (by omega)
    | succ i =>
      have := ih hflat h4' hrs' i (by simpa using hi) hj
      rwa [show off + rb + rb * i + 4 * j = off + rb * (i + 1) + 4 * j by rw [Nat.mul_succ]; omega] at this

theorem foldl_putRow_zipIdx {t : Tile} (rb b k : Nat) (rs : List (List (Nat × Bool))) (ht : t.rowBytes = rb) :
    (rs.zipIdx k).foldl (fun (t : Tile) e => t.putRow ((b + e.2) * t.rowBytes) .fp32 e.1) t =
      t.putRowsFrom rb ((b + k) * rb) rs := by
  induction rs generalizing t k with
  | nil => rfl
  | cons r rs ih =>
    rw [List.zipIdx_cons, List.foldl_cons, ih (k + 1) ((t.putRow_alike ..).rowBytes.trans ht), ht, Tile.putRowsFrom,
      ← Nat.add_assoc, Nat.succ_mul]

theorem foldl_putRow_range {t : Tile} (rb b n : Nat) (row : Nat → List (Nat × Bool)) :
    ((List.range n).map fun i => (FFmt.fp32, (b + i) * rb, row i)).foldl (fun (t : Tile) r => t.putRow r.2.1 r.1 r.2.2) t =
      t.putRowsFrom rb (b * rb) ((List.range n).map row) := by
  induction n generalizing t b row with
  | zero => rfl
  | succ n ih =>
    rw [List.range_succ_eq_map, List.map_cons, List.map_cons, List.foldl_cons, Tile.putRowsFrom, List.map_map, List.map_map,
      ← Nat.succ_mul, ← ih]
    congr 1
    refine List.map_congr_left fun i _ => ?_
    simp only [Function.comp, Nat.succ_eq_add_one]
    congr 3; omega

/-! ### Reading elements (R161, R221) -/

/-- A byte of a tile with the mark of its word. -/
def Tile.cell (t : Tile) (a : Nat) : Byte × Bool := (t.byteAt a, t.marks.contains (a / 4))

/-- A word of which no older value is left is read as it is. -/
theorem State.engineWord_now (s : State) {t : Tile} (h : t.shadows = []) (born w : Nat) :
    s.engineWord t [] born w = (t.read (4 * w) 4, t.marks.contains w) := by
  unfold State.engineWord; rw [h]; rfl

/-- A range of words of which no older value is left, byte by byte. -/
theorem State.engineWords_now (s : State) {t : Tile} (h : t.shadows = []) (born : Nat) {off n : Nat} :
    ((((wordsIn off n).flatMap fun w => (s.engineWord t [] born w).1.map fun b => (b, (s.engineWord t [] born w).2)).drop
      (off % 4)).take n) = (List.range n).map fun i => t.cell (off + i) := by
  rcases Nat.eq_zero_or_pos n with rfl | hn
  · simp
  have hword : ∀ w, ((s.engineWord t [] born w).1.map fun b => (b, (s.engineWord t [] born w).2)) =
      (List.range 4).map fun j => t.cell (4 * w + j) := fun w => by
    rw [s.engineWord_now h, t.read_eq, List.map_map]
    refine List.map_congr_left fun j hj => ?_
    have := List.mem_range.mp hj
    simp only [Function.comp, Tile.cell, show (4 * w + j) / 4 = w by omega]
  simp only [hword]
  unfold wordsIn
  rw [if_neg (by omega), List.flatMap_map]
  have hflat := flatMap_range_mul ((off + n - 1) / 4 + 1 - off / 4) 4 fun a => t.cell (4 * (off / 4) + a)
  simp only [← Nat.add_assoc] at hflat
  simp only [Nat.mul_add]
  rw [hflat, take_drop_map_range _ _ _ _ (by omega)]
  refine List.map_congr_left fun i _ => ?_
  congr 1; omega

/-- A read of a tile with no unfenced write, within it and at a multiple of the element's size. -/
theorem State.tileRead_now (s : State) {o : Op} {t : Tile} (ho : o.olds = []) (ht : t.shadows = []) (h : Word) {off n size : Nat}
    (hin : off + n ≤ t.size) (hal : off % size = 0) :
    s.tileRead o (some t) h off n size = .ok ((List.range n).map fun i => t.cell (off + i)) := by
  unfold State.tileRead needTile
  have hno : ¬ (t.size < off + n ∨ off % size ≠ 0) := by omega
  simp only [ho]
  show (if t.size < off + n ∨ off % size ≠ 0 then _ else _) = _
  rw [if_neg hno]
  exact congrArg Except.ok (s.engineWords_now ht o.born)

/-- The elements of a read: each one's number and mark. -/
theorem elements_cells (t : Tile) (off size count : Nat) :
    elements size count ((List.range (count * size)).map fun i => t.cell (off + i)) =
      (List.range count).map fun i => (bytesNat (t.read (off + i * size) size), t.badAt (off + i * size) size) := by
  unfold elements
  refine List.map_congr_left fun i hi => ?_
  have hle : i * size + size ≤ count * size := by
    rw [← Nat.succ_mul]; exact Nat.mul_le_mul_right _ (List.mem_range.mp hi)
  dsimp only
  rw [take_drop_map_range _ _ _ _ hle, List.map_map, List.any_map, t.read_eq, t.badAt_eq_any]
  simp only [Tile.cell, Function.comp_def, Nat.add_assoc]

theorem any_cells (t : Tile) (off n : Nat) : ((List.range n).map fun i => t.cell (off + i)).any (·.2) = t.badAt off n := by
  rw [List.any_map, t.badAt_eq_any]; rfl

end Sys2Proof.Machine
end

section
/-! SUPPORT. Bound tiles and operations: what a change of a bound tile, and of an operation's progress, leaves of the state. -/

namespace Sys2Proof.Machine

/-! ### Bound tiles (R260) -/

/-- A change of a bound tile changes blocks and the tiles kept for engines alone. -/
theorem State.modBound_eq (s : State) (b : Bound) (f : Tile → Tile) :
    s.modBound b f = { s with blocks := (s.modBound b f).blocks, orphans := (s.modBound b f).orphans } := by
  unfold State.modBound
  split
  · rfl
  · split
    · split <;> rfl
    · rfl

@[simp] theorem State.modBound_mem (s : State) (b : Bound) (f : Tile → Tile) : (s.modBound b f).mem = s.mem := by
  rw [s.modBound_eq]
@[simp] theorem State.modBound_ops (s : State) (b : Bound) (f : Tile → Tile) : (s.modBound b f).ops = s.ops := by
  rw [s.modBound_eq]

/-- A bound tile reads as changed. -/
theorem State.bound_modBound {s : State} {b : Bound} {t : Tile} (h : s.bound b = some t) {f : Tile → Tile}
    (hf : (f t).uid = t.uid) : (s.modBound b f).bound b = some (f t) := by
  have orphan : ∀ u, (tget s.orphans u).map (·.tile) = some t →
      (tget (tmod s.orphans u fun o => { o with tile := f o.tile }) u).map (·.tile) = some (f t) := fun u hu => by
    obtain ⟨o, ho, rfl⟩ := Option.map_eq_some_iff.mp hu
    rw [tget_tmod, if_pos rfl, ho]; rfl
  unfold State.bound at h
  split at h
  next => cases h
  next u hu =>
    unfold State.modBound
    simp only [hu]
    split at h
    next x hx =>
      split at h
      next hxu =>
        cases h
        obtain ⟨blk, hblk, htile⟩ := Option.bind_eq_some_iff.mp hx
        simp only [if_pos hxu]
        unfold State.bound State.modTile State.modBlock
        simp only [hu, tget_tmod, if_true, hblk, Option.map_some, Option.bind_some, htile, hf, if_pos hxu]
      next hxu =>
        simp only [if_neg hxu]
        unfold State.bound State.modOrphan
        simp only [hu, hx, if_neg hxu]
        exact orphan u h
    next hx =>
      unfold State.bound State.modOrphan
      simp only [hu, hx]
      exact orphan u h

theorem State.level_iff {s : State} {b : Bound} {os : Bool} {t : Tile} :
    s.level b os = some t ↔ s.bound b = some t ∧ t.os = os := by
  unfold State.level
  rw [Option.filter_eq_some_iff, beq_iff_eq]

/-- A bound tile of a level reads as changed. -/
theorem State.level_modBound {s : State} {b : Bound} {os : Bool} {t : Tile} (h : s.level b os = some t) {f : Tile → Tile}
    (hf : (f t).alike t) : (s.modBound b f).level b os = some (f t) := by
  obtain ⟨hb, hos⟩ := State.level_iff.mp h
  exact State.level_iff.mpr ⟨State.bound_modBound hb hf.uid, hf.os.trans hos⟩

theorem State.bound_of_blocks {s t : State} (hb : t.blocks = s.blocks) (ho : t.orphans = s.orphans) (b : Bound) :
    t.bound b = s.bound b := by
  unfold State.bound; rw [hb, ho]

/-! ### Operations -/

/-- Noting old values changes what operations have noted alone. -/
theorem State.noteOld_eq (s : State) (id block : Nat) (t : Tile) (ws : List Nat) :
    s.noteOld id block t ws = { s with ops := (s.noteOld id block t ws).ops } := by
  unfold State.noteOld
  split <;> rfl

/-- The operation that writes notes nothing of its own words. -/
theorem State.noteOld_self (s : State) (id block : Nat) (t : Tile) (ws : List Nat) :
    tget (s.noteOld id block t ws).ops id = tget s.ops id := by
  unfold State.noteOld
  split
  · rw [tget_tmap]
    cases tget s.ops id <;> simp
  · rfl

/-- An operation's write to a bound tile: the tile holds it, and the operation itself and memory are as before. -/
theorem State.tilePut_spec {s : State} (id : Nat) {b : Bound} {t : Tile} (h : s.bound b = some t) (off : Nat) (bs : List Byte)
    (bad : Bool) :
    (s.tilePut id b off bs bad).bound b = some (t.enginePut off bs bad) ∧ (s.tilePut id b off bs bad).mem = s.mem ∧
      tget (s.tilePut id b off bs bad).ops id = tget s.ops id := by
  have hb : (s.noteOld id b.block t (wordsIn off bs.length)).bound b = some t := by
    rw [State.noteOld_eq]; exact h
  unfold State.tilePut
  simp only [h]
  refine ⟨State.bound_modBound hb (t.enginePut_alike off bs bad).uid, ?_, ?_⟩
  · rw [State.modBound_mem, State.noteOld_eq]
  · rw [State.modBound_ops, State.noteOld_self]

/-- What putting a copy's progress back leaves. -/
theorem State.putCopy_spec {s : State} {id : Nat} {o : Op} (h : tget s.ops id = some o) (c : CopyOp) :
    tget (s.putCopy id c).ops id = some { o with body := .copy c } := by
  unfold State.putCopy State.modOp
  simp only [tget_tmod, if_true, h, Option.map_some]

theorem State.putMat_spec {s : State} {id : Nat} {o : Op} (h : tget s.ops id = some o) (m : MatOp) :
    tget (s.putMat id m).ops id = some { o with body := .mat m } := by
  unfold State.putMat State.modOp
  simp only [tget_tmod, if_true, h, Option.map_some]

/-- A step added to those that are to come is among them. -/
theorem State.mem_push_due (s : State) (e : Event) : e ∈ (s.push e).due := by
  unfold State.push
  split
  · assumption
  · exact List.mem_append_right _ (List.mem_singleton_self e)

theorem State.push_level (s : State) (e : Event) (b : Bound) (os : Bool) : (s.push e).level b os = s.level b os := by
  unfold State.level
  rw [State.bound_of_blocks (State.push_blocks ..) (State.push_orphans ..)]

/-- A matrix operation whose last access has been made: it has ended, and its completion is to come. -/
theorem State.overMat_spec {s : State} {id : Nat} {o : Op} (h : tget s.ops id = some o) (m : MatOp) :
    (s.overMat id m).mem = s.mem ∧ (∀ b os, (s.overMat id m).level b os = s.level b os) ∧
      tget (s.overMat id m).ops id = some { o with body := .mat { m with ended := true, wait := none, got := [], outs := [] } } ∧
      .matrixOpComplete id ∈ (s.overMat id m).due := by
  unfold State.overMat
  refine ⟨State.push_mem .., fun b os => State.push_level .., ?_, State.mem_push_due ..⟩
  rw [State.push_ops]
  exact State.putMat_spec h _

end Sys2Proof.Machine
end

section
/-! SUPPORT. Bytes stored in memory where the scrubber has nothing pending: all that a write changes of the state. -/

namespace Sys2Proof.Machine

/-! ### Steps to come -/

/-- Steps added to those that are to come change nothing else. -/
theorem State.pushAll_changes (s : State) (es : List Event) : ∃ due, s.pushAll es = { s with due := due } := by
  unfold State.pushAll
  induction es generalizing s with
  | nil => exact ⟨_, rfl⟩
  | cons e r ih =>
    obtain ⟨due, h⟩ := ih (s.push e)
    refine ⟨due, ?_⟩
    rw [List.foldl_cons, h]
    unfold State.push
    split <;> rfl

/-! ### What watches a write -/

theorem State.spillHit_changes (s : State) (a n : Nat) : ∃ crews, s.spillHit a n = { s with crews := crews } := by
  unfold State.spillHit
  split <;> exact ⟨_, rfl⟩

theorem State.cancelScrub_clean {s : State} {a n : Nat} (h : s.scrubbed a n (fun _ => true) = false) : s.cancelScrub a n = s := by
  unfold State.cancelScrub; rw [h]; rfl

/-- Nodes that have become ready: their readiness and their queues' wake-ups change nothing else. -/
theorem foldl_ready_changes (hit : List (Nat × Node)) (s : State) : ∃ nodes queues,
    hit.foldl (fun (s : State) e => ({ s with nodes := tset s.nodes e.1 { e.2 with ready := true } }).wakeQueue e.2.parent) s =
      { s with nodes := nodes, queues := queues } := by
  induction hit generalizing s with
  | nil => exact ⟨_, _, rfl⟩
  | cons e r ih =>
    obtain ⟨nodes, queues, h⟩ := ih (({ s with nodes := tset s.nodes e.1 { e.2 with ready := true } }).wakeQueue e.2.parent)
    exact ⟨nodes, queues, h⟩

theorem State.taskHit_changes (s : State) (a n : Nat) :
    ∃ nodes queues, s.taskHit a n = { s with nodes := nodes, queues := queues } := by
  unfold State.taskHit
  split
  · exact foldl_ready_changes _ s
  · exact ⟨_, _, rfl⟩

/-- Bytes put in memory where the scrubber has nothing pending: memory holds them, and what watches them is told. -/
theorem State.put_changes {s : State} {a : Nat} {bs : List Byte} (h : s.scrubbed a bs.length (fun _ => true) = false) :
    ∃ crews nodes queues due,
      s.put a bs = { s with mem := memWrite s.mem a bs, crews := crews, nodes := nodes, queues := queues, due := due } := by
  obtain ⟨crews, h1⟩ := s.spillHit_changes a bs.length
  have h2 : State.cancelScrub { s with crews := crews, mem := memWrite s.mem a bs } a bs.length = _ :=
    State.cancelScrub_clean ((State.scrubbed_congr rfl ..).trans h)
  obtain ⟨nodes, queues, h3⟩ := State.taskHit_changes { s with crews := crews, mem := memWrite s.mem a bs } a bs.length
  unfold State.put State.monitorHit
  rw [h1, h2, h3]
  obtain ⟨due, h4⟩ := State.pushAll_changes _ _
  exact ⟨crews, nodes, queues, due, h4⟩

/-- The marks left when a write has cleared those of the granules that it covers whole. -/
def unmarked (a n : Nat) (marks : List Nat) : List Nat := marks.filter fun g => !(decide (a ≤ 32 * g) && decide (32 * g + 32 ≤ a + n))

/-- A write of less than a granule clears no mark. -/
theorem unmarked_of_lt {a n : Nat} (h : n < 32) (marks : List Nat) : unmarked a n marks = marks := by
  unfold unmarked
  rw [List.filter_eq_self]
  intro g _
  simp only [Bool.not_eq_true', Bool.and_eq_false_iff, decide_eq_false_iff_not]
  omega

/-- A write by any agent, where the scrubber has nothing pending. -/
theorem State.poke_changes {s : State} {a : Nat} {bs : List Byte} (h : s.scrubbed a bs.length (fun _ => true) = false) :
    ∃ crews nodes queues due tainted,
      s.poke a bs = { s with mem := memWrite s.mem a bs, marks := unmarked a bs.length s.marks, crews := crews, nodes := nodes,
                             queues := queues, due := due, tainted := tainted } := by
  have h' : (s.taint a bs.length).scrubbed a bs.length (fun _ => true) = false := (State.scrubbed_congr rfl ..).trans h
  obtain ⟨crews, nodes, queues, due, hp⟩ := State.put_changes h'
  refine ⟨crews, nodes, queues, due, (s.taint a bs.length).tainted, ?_⟩
  unfold State.poke
  rw [State.hwPoke_of_clean h', hp]
  rfl

theorem State.poke_mem {s : State} {a : Nat} {bs : List Byte} (h : s.scrubbed a bs.length (fun _ => true) = false) :
    (s.poke a bs).mem = memWrite s.mem a bs := by
  obtain ⟨_, _, _, _, _, hp⟩ := State.poke_changes h
  rw [hp]

theorem State.poke_dies {s : State} {a : Nat} {bs : List Byte} (h : s.scrubbed a bs.length (fun _ => true) = false) :
    (s.poke a bs).dies = s.dies := by
  obtain ⟨_, _, _, _, _, hp⟩ := State.poke_changes h
  rw [hp]

/-! ### Engines' writes (R258, R272, R386) -/

theorem State.noteOlder_changes (s : State) (l : Loc) (n : Nat) : ∃ cores, s.noteOlder l n = { s with cores := cores } := by
  unfold State.noteOlder
  split <;> exact ⟨_, rfl⟩

/-- Where no block is held under another key, a write under a key re-enciphers nothing. -/
theorem State.rekey_changes {s : State} (l : Loc) (n : Nat) (h : s.gkeys = []) : ∃ gkeys, s.rekey l n = { s with gkeys := gkeys } := by
  have held : ∀ b v, tget s.gkeys b = some v → v = s.keyOf l.key := fun b v hv => by rw [h] at hv; cases hv
  unfold State.rekey
  dsimp only
  generalize s.keyOf l.key = k at held
  generalize cipherBlocks l.pa n = blocks
  clear h
  induction blocks generalizing s with
  | nil => exact ⟨_, rfl⟩
  | cons b r ih =>
    rw [List.foldl_cons]
    split
    next v hv =>
      rw [if_pos (held b v hv)]
      exact ih held
    next hv =>
      obtain ⟨gkeys, hr⟩ := ih (s := { s with gkeys := tset s.gkeys b k }) fun c v hc => by
        rw [tget_tset] at hc
        split at hc
        · cases hc; rfl
        · exact held c v hc
      exact ⟨gkeys, hr⟩

theorem State.mergeRead_clean {s : State} {a n : Nat} (h : s.scrubbed a n (fun _ => true) = false) : s.mergeRead a n = s := by
  unfold State.mergeRead; rw [State.mergeBad_eq_nil h]

/-- The marks left when an engine's operation that covers a granule has written all of it. -/
def coveredMarks (a n : Nat) (whole : Bool) (marks : List Nat) : List Nat := if whole && n == 32 then sdel (a / 32) marks else marks

/-- The marks that an engine's write leaves: cleared where it covers a granule, and set where it is poison. -/
def enginePutMarks (a n : Nat) (whole bad : Bool) (marks : List Nat) : List Nat :=
  let cleared := unmarked a n (coveredMarks a n whole marks)
  if bad then (granules a n).foldl (fun m g => sins g m) cleared else cleared

/-- An engine's write that is not dropped: memory holds the bytes, the granules' marks follow the poison, and what watches them
is told. -/
theorem State.enginePut_changes {s : State} {l : Loc} {bs : List Byte} {whole : Bool} (bad : Bool)
    (hs : s.scrubbed l.pa bs.length (fun _ => true) = false) (hk : s.gkeys = [])
    (hw : whole = true ∨ s.marked l.pa bs.length = false) :
    ∃ cores gkeys crews nodes queues due tainted,
      s.enginePut l bs whole bad = ({ s with
        mem := memWrite s.mem l.pa bs, marks := enginePutMarks l.pa bs.length whole bad s.marks,
        cores := cores, gkeys := gkeys, crews := crews, nodes := nodes, queues := queues, due := due, tainted := tainted }, true) := by
  have hstart : (if whole then s else s.mergeRead l.pa bs.length) = s := by rw [State.mergeRead_clean hs]; split <;> rfl
  have hkept : ¬ ((s.marked l.pa bs.length && !whole) = true) := by rcases hw with h | h <;> simp [h]
  have hu : (if whole && bs.length == 32 then s.unmark (l.pa / 32) else s) =
      { s with marks := coveredMarks l.pa bs.length whole s.marks } := by unfold coveredMarks; split <;> rfl
  unfold State.enginePut enginePutMarks
  simp only [hstart, if_neg hkept, hu]
  generalize coveredMarks l.pa bs.length whole s.marks = marks
  obtain ⟨cores, h1⟩ := State.noteOlder_changes { s with marks := marks } l bs.length
  obtain ⟨gkeys, h2⟩ := State.rekey_changes (s := { s with marks := marks, cores := cores }) l bs.length hk
  obtain ⟨crews, nodes, queues, due, tainted, h3⟩ := State.poke_changes (bs := bs)
    (s := { s with marks := marks, cores := cores, gkeys := gkeys }) ((State.scrubbed_congr rfl ..).trans hs)
  rw [h1, h2, h3]
  refine ⟨cores, gkeys, crews, nodes, queues, due, tainted, ?_⟩
  cases bad <;> rfl

/-- A part of a marked granule that the operation does not cover is dropped. -/
theorem State.enginePut_dropped {s : State} {l : Loc} {bs : List Byte} (bad : Bool)
    (hs : s.scrubbed l.pa bs.length (fun _ => true) = false) (hm : s.marked l.pa bs.length = true) :
    s.enginePut l bs false bad = (s.dropWrite l.pa, false) := by
  unfold State.enginePut
  simp only [State.mergeRead_clean hs, Bool.false_eq_true, if_false, hm, Bool.not_false, Bool.and_true, if_true]

theorem State.dropWrite_mem (s : State) (a : Nat) : (s.dropWrite a).mem = s.mem := by unfold State.dropWrite; split <;> rfl
theorem State.dropWrite_marks (s : State) (a : Nat) : (s.dropWrite a).marks = s.marks := by unfold State.dropWrite; split <;> rfl

/-- After a write of poison the granules that it meets are marked. -/
theorem enginePutMarks_bad {a n : Nat} (whole : Bool) (marks : List Nat) (hn : 0 < n) :
    (granules a n).any (fun g => (enginePutMarks a n whole true marks).contains g) = true := by
  have hg : a / 32 ∈ granules a n := mem_granules.mpr (by omega)
  rw [List.any_eq_true]
  refine ⟨a / 32, hg, ?_⟩
  rw [List.contains_iff_mem]
  exact (mem_foldl_sins ..).mpr (.inl hg)

/-- After a write of a whole granule that is no poison its mark is gone. -/
theorem enginePutMarks_whole {a : Nat} (whole : Bool) (marks : List Nat) (h : a % 32 = 0) :
    (granules a 32).any (fun g => (enginePutMarks a 32 whole false marks).contains g) = false := by
  rw [List.any_eq_false]
  intro g hg
  have hg' := mem_granules.mp hg
  rw [List.contains_iff_mem]
  intro hm
  have := (List.mem_filter.mp hm).2
  simp only [Bool.not_eq_true', Bool.and_eq_false_iff, decide_eq_false_iff_not] at this
  omega

end Sys2Proof.Machine
end

section
/-! SUPPORT. The copy engine: what a copy holds of its source, and what it writes of what it holds (R265 to R270, R386). -/

namespace Sys2Proof.Machine

/-! ### Reads -/

theorem State.pick_lt (s : State) (kind ch : Nat) {n : Nat} (h : 0 < n) : s.pick kind ch n < n := by
  unfold State.pick
  split
  · exact h
  · exact Nat.mod_lt _ h

/-- The length of a piece that a copy reads: some of the words that there is room for. -/
theorem State.piece_spec (s : State) (kind ch : Nat) {room : Nat} (h : 0 < room) (h4 : room % 4 = 0) :
    0 < 4 * (room / 4 - s.pick kind ch (room / 4)) ∧ 4 * (room / 4 - s.pick kind ch (room / 4)) ≤ room := by
  have := s.pick_lt kind ch (n := room / 4) (by omega)
  omega

theorem State.readIndex_of_ne (s : State) (o : Op) {c : CopyOp} (j : Nat) (h : c.kind ≠ .cpyg) : s.readIndex o c j = c := by
  unfold State.readIndex
  dsimp only
  split
  next hk _ _ _ => exact absurd hk h
  · rfl

/-- The words that a list of places four apart gets. -/
theorem tget_foldl_tset_words {α : Type} (t : Table α) (pos : Nat) (f : Nat → α) {n i : Nat} (h : i < n) :
    tget ((List.range n).foldl (fun t i => tset t (pos + 4 * i) (f i)) t) (pos + 4 * i) = some (f i) := by
  induction n with
  | zero => omega
  | succ n ih =>
    rw [List.range_succ, List.foldl_append, List.foldl_cons, List.foldl_nil, tget_tset]
    split
    next he => rw [show n = i by omega]
    next hne => exact ih (by omega)

/-- Bytes that no other key holds are read as they are. -/
theorem State.bytesAt_plain {s : State} (l : Loc) (n : Nat) (h : s.gkeys = []) : s.bytesAt l n = memBytes s.mem l.pa n := by
  unfold State.bytesAt
  simp [h]

/-- Memory of which no older value is left is read as it is. -/
theorem State.wordsRead_now {s : State} (core : Nat) (l : Loc) {n : Nat} (h4 : n % 4 = 0) (hk : s.gkeys = [])
    (ho : (s.core core).olds = []) : s.wordsRead core l n = memBytes s.mem l.pa n := by
  have hn : n = 4 * (n / 4) := by omega
  unfold State.wordsRead
  simp only [ho, tget_nil, Option.getD_none, List.filter_nil, List.length_nil, Nat.zero_add,
    List.getElem?_nil, State.bytesAt_plain _ _ hk, memBytes_eq_map, Nat.add_assoc]
  rw [flatMap_range_mul (n / 4) 4 fun k => memGet s.mem (l.pa + k), ← hn]

/-- Words of a tile of which no older value is left are read as they are. -/
theorem State.engineWords_read (s : State) {t : Tile} (h : t.shadows = []) (born : Nat) {off n : Nat} (ho : off % 4 = 0)
    (hn : n % 4 = 0) :
    ((wordsIn off n).map (s.engineWord t [] born)).flatMap (·.1) = t.read off n ∧
      ((wordsIn off n).map (s.engineWord t [] born)).map (·.2) = (wordsIn off n).map t.marks.contains := by
  have hn' : n = 4 * (n / 4) := by omega
  refine ⟨?_, ?_⟩
  · rw [hn', wordsIn_aligned ho, List.map_map, List.flatMap_map, Tile.read_eq]
    simp only [Function.comp, State.engineWord_now s h, Tile.read_eq]
    rw [← flatMap_range_mul (n / 4) 4 fun k => t.byteAt (off + k)]
    refine List.flatMap_congr fun i _ => List.map_congr_left fun j _ => ?_
    rw [show 4 * (off / 4 + i) + j = off + (4 * i + j) by omega]
  · rw [List.map_map]
    exact List.map_congr_left fun w _ => by rw [Function.comp, State.engineWord_now s h]

theorem copyRead_of_global {s : State} (id : Nat) {pos len n : Nat} {o : Op} {c : CopyOp} {a : Dword} {l : Loc} (hc : c.kind ≠ .cpyg)
    (hn : (copyShape c.kind c.g).2 = n) (hrow : (s.copyRow c (pos / n)).1 = .glob a) (hlen : 0 < len) (hlen4 : len % 4 = 0)
    (hn4 : n % 4 = 0) (hn0 : 0 < n) (hpos : pos % 4 = 0) (ha : a.toNat % 4 = 0)
    (hreach : ∀ m < 33, s.reach o .read 0 m (a + BitVec.ofNat 64 (pos % n)) = .here l) (hk : s.gkeys = [])
    (ho : (s.core o.core).olds = []) :
    ∃ m, 0 < m ∧ m ≤ len ∧ m % 4 = 0 ∧ pos % n + m ≤ n ∧
      s.copyRead id o c pos len = (s.lcacheDrop o.core l.pa m).putCopy id
        (c.got pos (memBytes s.mem l.pa m) (List.replicate (m / 4) (s.marked l.pa m))) := by
  have hoff : pos % n < n := Nat.mod_lt _ hn0
  have hoff4 : pos % n % 4 = 0 := by
    rw [Nat.mod_mod_of_dvd _ (Nat.dvd_of_mod_eq_zero hn4)]; exact hpos
  have hroom : 0 < min (min len (n - pos % n)) (32 - (a.toNat + pos % n) % 32) := by omega
  have hroom4 : min (min len (n - pos % n)) (32 - (a.toNat + pos % n) % 32) % 4 = 0 := by omega
  obtain ⟨hm0, hm⟩ := s.piece_spec 20 (id + 2 ^ 20 * pos) hroom hroom4
  refine ⟨_, hm0, by omega, by omega, by omega, ?_⟩
  unfold State.copyRead
  simp only [State.readIndex_of_ne s o _ hc, hn, hrow]
  rw [hreach _ (by omega)]
  dsimp only
  rw [State.wordsRead_now _ _ (by omega) hk ho]

theorem copyRead_of_tile {s : State} (id : Nat) {pos len off n : Nat} {o : Op} {c : CopyOp} {x : Tile} (hc : c.kind ≠ .cpyg)
    (hn : (copyShape c.kind c.g).2 = n) (hrow : (s.copyRow c (pos / n)).1 = .tile off) (hlen : 0 < len) (hlen4 : len % 4 = 0)
    (hn4 : n % 4 = 0) (hn0 : 0 < n) (hpos : pos % 4 = 0) (hoff : off % 4 = 0) (hx : s.bound c.src = some x)
    (hsize : off + n ≤ x.size) (hxs : x.shadows = []) (hcs : c.shadows = []) :
    ∃ m, 0 < m ∧ m ≤ len ∧ m % 4 = 0 ∧ pos % n + m ≤ n ∧ s.copyRead id o c pos len = s.putCopy id
      (c.got pos (x.read (off + pos % n) m) ((wordsIn (off + pos % n) m).map x.marks.contains)) := by
  have hlt : pos % n < n := Nat.mod_lt _ hn0
  have hlt4 : pos % n % 4 = 0 := by
    rw [Nat.mod_mod_of_dvd _ (Nat.dvd_of_mod_eq_zero hn4)]; exact hpos
  have hroom : 0 < min (min len (n - pos % n)) 32 := by omega
  have hroom4 : min (min len (n - pos % n)) 32 % 4 = 0 := by omega
  obtain ⟨hm0, hm⟩ := s.piece_spec 20 (id + 2 ^ 20 * pos) hroom hroom4
  refine ⟨_, hm0, by omega, by omega, by omega, ?_⟩
  have hfail : tileFail (some x) (off + pos % n) 4 = none := by
    unfold tileFail
    dsimp only
    rw [if_neg (by omega)]
  unfold State.copyRead
  simp only [State.readIndex_of_ne s o _ hc, hn, hrow, hfail, hx, hcs]
  generalize hr : min (min len (n - pos % n)) 32 = room at hm0 hm ⊢
  have hm4 := Nat.mul_mod_right 4 (room / 4 - s.pick 20 (id + 2 ^ 20 * pos) (room / 4))
  generalize 4 * (room / 4 - s.pick 20 (id + 2 ^ 20 * pos) (room / 4)) = m at hm0 hm hm4 ⊢
  rw [show min m ((x.size - (off + pos % n)) / 4 * 4) = m by omega]
  obtain ⟨h1, h2⟩ := s.engineWords_read hxs o.born (off := off + pos % n) (n := m) (by omega) (by omega)
  rw [h1, h2]

/-! ### Writes -/

theorem copyWrite_to_tile {s : State} (id : Nat) {pos off n : Nat} {o : Op} {c : CopyOp} {x : Tile} {w : Word} {bad : Bool}
    (hn : (copyShape c.kind c.g).2 = n) (hrow : (s.copyRow c (pos / n)).2 = .tile off) (hheld : tget c.held pos = some (w, bad))
    (hx : s.bound c.dst = some x) (hlin : x.morton = false) (ho : tget s.ops id = some o) {p : Nat} (hp : off + pos % n = p)
    (hsize : p + 4 ≤ x.size) (hp4 : p % 4 = 0) :
    ∃ x' o' c', (s.copyWrite id o c pos).bound c.dst = some x' ∧ x'.read p 4 = natBytes w.toNat 4 ∧ x'.badAt p 4 = bad ∧
      (∀ a, (a < p ∨ p + 4 ≤ a) → memGet x'.data a = memGet x.data a) ∧ (s.copyWrite id o c pos).mem = s.mem ∧
      tget (s.copyWrite id o c pos).ops id = some o' ∧ o'.body = .copy c' ∧ c'.held = tdel c.held pos ∧
      c'.poisoned = (c.poisoned || bad) := by
  have hlen : (natBytes w.toNat 4).length = 4 := natBytes_length ..
  have hflat : x.flat := Tile.flat_of_linear hlin
  have hfail : tileFail (s.bound c.dst) p 4 = none := by
    unfold tileFail
    simp only [hx]
    rw [if_neg (by omega)]
  obtain ⟨hb, hm, hops⟩ := State.tilePut_spec id hx p (natBytes w.toNat 4) bad
  have hrun : s.copyWrite id o c pos = (s.tilePut id c.dst p (natBytes w.toNat 4) bad).putCopy id
      { c with poisoned := c.poisoned || bad, held := tdel c.held pos } := by
    unfold State.copyWrite
    simp only [hn, hrow, hheld, hp, hfail]
  have hin := Tile.read_enginePut hflat p (natBytes w.toNat 4) bad
  have hbad := x.badAt_enginePut p (bs := natBytes w.toNat 4) bad (by rw [← List.length_pos_iff, hlen]; omega)
  rw [hlen] at hin hbad
  refine ⟨_, { o with body := .copy { c with poisoned := c.poisoned || bad, held := tdel c.held pos } }, _, ?_, hin, hbad,
    fun a ha => ?_, ?_, ?_, rfl, rfl, rfl⟩
  · rw [hrun]; exact hb
  · rw [← hflat.byteAt, ← ((x.enginePut_alike ..).flat hflat).byteAt]
    exact (Tile.enginePut_spec hflat p _ bad).2 a (by rw [hlen]; exact ha)
  · rw [hrun]; exact hm
  · rw [hrun]; exact State.putCopy_spec (hops.trans ho) _

end Sys2Proof.Machine
end

section
/-! SUPPORT. A copy's writes to memory: the words of a run within a granule are written all, or one of them (R209, R386). -/

namespace Sys2Proof.Machine

/-! ### Tables and memory -/

/-- A table with the entries of some keys taken out. -/
theorem tget_filter_key {α : Type} (t : Table α) (q : Nat → Bool) (k : Nat) :
    tget (t.filter fun e => q e.1) k = if q k then tget t k else none := by
  induction t with
  | nil => simp
  | cons e r ih =>
    obtain ⟨j, v⟩ := e
    rw [List.filter_cons]
    by_cases hq : q j = true
    · rw [if_pos hq]
      unfold tget
      split
      next hj => subst hj; rw [if_pos hq]
      next hj => exact ih
    · rw [if_neg hq, ih]
      by_cases hj : j = k
      · subst hj; rw [if_neg hq, if_neg hq]
      · rw [show tget ((j, v) :: r) k = if j = k then some v else tget r k from rfl, if_neg hj]

/-- Part of a string that is written reads back. -/
theorem memBytes_memWrite_part (m : Table Byte) (a : Nat) {bs : List Byte} {i n : Nat} (h : i + n ≤ bs.length) :
    memBytes (memWrite m a bs) (a + i) n = (bs.drop i).take n := by
  rw [memBytes_eq_map]
  refine List.ext_getElem (by simp; omega) fun j h1 h2 => ?_
  simp only [List.length_map, List.length_range] at h1
  rw [List.getElem_map, List.getElem_range, List.getElem_take, List.getElem_drop, Nat.add_assoc]
  exact memGet_memWrite_in m a bs (i + j) (by omega)

/-- Bytes that lie outside a string that is written read as before. -/
theorem memBytes_memWrite_out (m : Table Byte) {a b n : Nat} {bs : List Byte} (h : b + n ≤ a ∨ a + bs.length ≤ b) :
    memBytes (memWrite m a bs) b n = memBytes m b n :=
  memBytes_congr fun k h1 h2 => memGet_memWrite_out m a bs k (by omega)

/-- A part of a range without a mark has none. -/
theorem State.marked_part {s : State} {a b m n : Nat} (h1 : a ≤ b) (h2 : b + m ≤ a + n) (h : s.marked a n = false) :
    s.marked b m = false := by
  unfold State.marked at h ⊢
  rw [List.any_eq_false] at h ⊢
  exact fun g hg => h g (granules_subset h1 h2 hg)

/-! ### Lines noted (R393) -/

/-- Where nothing is enrolled a write makes no bump. -/
theorem State.bump_of_none {s : State} (k amount : Nat) (h : s.enrols = []) : s.bump k amount = s := by
  unfold State.bump State.leafOf
  rw [h]
  split <;> rfl

theorem State.noteLines_of_none {s : State} (lines : List Nat) (a n : Nat) (h : s.enrols = []) : (s.noteLines lines a n).1 = s := by
  have fixed : ∀ l : List Nat, l.foldl (fun (s : State) l => s.bump (l * 128) 1) s = s := fun l => by
    induction l with
    | nil => rfl
    | cons x r ih => rw [List.foldl_cons, State.bump_of_none _ _ h]; exact ih
  exact fixed _

/-! ### Words written to memory here -/

/-- Words that a copy writes to a place without marks. -/
theorem State.copyPut_spec {s : State} (o : Op) (c : CopyOp) {pa : Nat} (key : Nat) {ws : List Word} (whole bad : Bool)
    (hm : s.marked pa (4 * ws.length) = false) (hs : s.scrubbed pa (4 * ws.length) (fun _ => true) = false) (hk : s.gkeys = [])
    (he : s.enrols = []) :
    let r := s.copyPut o c pa key ws whole bad
    r.1.mem = memWrite s.mem pa (rowBytes32 (ws.map fun w => (w.toNat, false))) ∧ r.1.ops = s.ops ∧
      r.2.held = c.held ∧ r.2.poisoned = (c.poisoned || bad) := by
  have hbytes : (ws.flatMap fun w => natBytes w.toNat 4) = rowBytes32 (ws.map fun w => (w.toNat, false)) := by
    unfold rowBytes32; rw [List.flatMap_map]
  have hlen : (rowBytes32 (ws.map fun w => (w.toNat, false))).length = 4 * ws.length := by rw [rowBytes32_length, List.length_map]
  rw [← hlen] at hm hs
  obtain ⟨cores, gkeys, crews, nodes, queues, due, tainted, hput⟩ :=
    State.enginePut_changes (l := ⟨pa, key⟩) (whole := whole) bad hs hk (.inr hm)
  unfold State.copyPut
  simp only [hbytes, hput, if_true, Bool.not_true, Bool.or_false]
  refine ⟨?_, ?_, trivial, trivial⟩
  · show (State.noteLines ..).1.mem = _
    rw [State.noteLines_of_none _ _ _ (by exact he)]
  · show (State.noteLines ..).1.ops = _
    rw [State.noteLines_of_none _ _ _ (by exact he)]

/-- Word i of a run of words that a copy holds, none of them poisoned. -/
def runWord (va : Dword) (p : Nat) (w : Nat → Word) (i : Nat) : CopyWord := ⟨va + BitVec.ofNat 64 (4 * i), [p + 4 * i], w i, false⟩

/-- The bytes of some words of a run. -/
def runBytes (w : Nat → Word) (lo m : Nat) : List Byte := rowBytes32 ((List.range m).map fun j => ((w (lo + j)).toNat, false))

theorem runBytes_length (w : Nat → Word) (lo m : Nat) : (runBytes w lo m).length = 4 * m := by
  unfold runBytes; rw [rowBytes32_length, List.length_map, List.length_range]

theorem runBytes_word (w : Nat → Word) (lo : Nat) {m j : Nat} (hj : j < m) :
    ((runBytes w lo m).drop (4 * j)).take 4 = natBytes (w (lo + j)).toNat 4 := by
  unfold runBytes
  rw [rowBytes32_word _ (by simpa using hj)]
  simp

/-- A run's words are held as they are. -/
theorem State.runHeld_run (s : State) {c : CopyOp} (va : Dword) {p k : Nat} {w : Nat → Word}
    (hheld : ∀ i < k, tget c.held (p + 4 * i) = some (w i, false)) :
    s.runHeld c ((List.range k).map fun i => (va + BitVec.ofNat 64 (4 * i), [p + 4 * i])) = (List.range k).map (runWord va p w) := by
  unfold State.runHeld
  rw [List.filterMap_map, ← congrFun List.filterMap_eq_map (List.range k)]
  refine List.filterMap_congr fun i hi => ?_
  simp only [Function.comp, List.filterMap_cons, List.filterMap_nil, hheld i (List.mem_range.mp hi), Option.map_some]
  rfl

/-- All words of a run, or one of several, written where nothing is marked. -/
theorem State.copyPuts_run {s : State} (o : Op) (c : CopyOp) {va : Dword} {pa p k lo m : Nat} (w : Nat → Word)
    (hsel : lo = 0 ∧ m = k ∨ m = 1 ∧ 2 ≤ k ∧ lo < k) (hfit : va.toNat % 32 + 4 * k ≤ 32) (hpa : pa % 32 = va.toNat % 32)
    (hm : s.marked pa (4 * k) = false) (hs : s.scrubbed pa (4 * k) (fun _ => true) = false) (hk : s.gkeys = []) (he : s.enrols = []) :
    let r := s.copyPuts o c pa 0 (4 * k) ((List.range m).map fun j => runWord va p w (lo + j))
    r.1.mem = memWrite s.mem (pa + 4 * lo) (runBytes w lo m) ∧ r.1.ops = s.ops ∧ r.2.poisoned = c.poisoned ∧
      ∀ q, tget r.2.held q = if ∃ j < m, q = p + 4 * (lo + j) then none else tget c.held q := by
  have hheld : ∀ q, tget (c.held.filter fun h => !((List.range m).map fun j => runWord va p w (lo + j)).any fun w => w.parts.contains h.1) q =
      if ∃ j < m, q = p + 4 * (lo + j) then none else tget c.held q := fun q => by
    rw [tget_filter_key c.held (fun q => !((List.range m).map fun j => runWord va p w (lo + j)).any fun w => w.parts.contains q)]
    have : (((List.range m).map fun j => runWord va p w (lo + j)).any fun w => w.parts.contains q) = true ↔
        ∃ j < m, q = p + 4 * (lo + j) := by
      simp [runWord]
    by_cases h : ∃ j < m, q = p + 4 * (lo + j)
    · rw [if_pos h, this.mpr h]; rfl
    · rw [if_neg h, Bool.eq_false_iff.mpr (this.not.mpr h)]; rfl
  unfold State.copyPuts
  dsimp only
  rw [List.length_map, List.length_range]
  rcases hsel with ⟨rfl, rfl⟩ | ⟨rfl, hk2, hlo⟩
  · rw [if_pos rfl]
    have hws : ((List.range m).map fun j => runWord va p w (0 + j)).map (·.word) = (List.range m).map w := by
      rw [List.map_map]
      exact List.map_congr_left fun j _ => by rw [Function.comp, Nat.zero_add]; rfl
    have hbad : ((List.range m).map fun j => runWord va p w (0 + j)).any (·.bad) = false := by simp [runWord]
    rw [hws, hbad]
    have hlen : ((List.range m).map w).length = m := by simp
    obtain ⟨h1, h2, h3, h4⟩ := State.copyPut_spec o
      { c with held := c.held.filter fun h => !((List.range m).map fun j => runWord va p w (0 + j)).any fun w => w.parts.contains h.1 }
      (pa := pa) 0 (ws := (List.range m).map w) (4 * m == 32) false (by rw [hlen]; exact hm) (by rw [hlen]; exact hs) hk he
    refine ⟨?_, h2, by rw [h4, Bool.or_false], fun q => by rw [h3]; exact hheld q⟩
    rw [h1, List.map_map]
    unfold runBytes
    simp only [Nat.mul_zero, Nat.add_zero, Nat.zero_add, Function.comp_def]
  · rw [if_neg (by omega)]
    have haddr : pa / 32 * 32 + (va + BitVec.ofNat 64 (4 * lo)).toNat % 32 = pa + 4 * lo := by
      have : (va + BitVec.ofNat 64 (4 * lo)).toNat % 32 = (va.toNat + 4 * lo) % 32 := by
        rw [BitVec.toNat_add, BitVec.toNat_ofNat]; omega
      omega
    simp only [List.range_one, List.map_cons, List.map_nil, List.foldl_cons, List.foldl_nil, Nat.add_zero]
    rw [show (runWord va p w lo).va = va + BitVec.ofNat 64 (4 * lo) from rfl, haddr]
    obtain ⟨h1, h2, h3, h4⟩ := State.copyPut_spec o
      { c with held := c.held.filter fun h => !([runWord va p w lo].any fun w => w.parts.contains h.1) }
      (pa := pa + 4 * lo) 0 (ws := [w lo]) (4 * k == 32) false (State.marked_part (by omega) (by simp; omega) hm)
      (State.scrubbed_mono (by omega) (by simp; omega) hs) hk he
    refine ⟨?_, h2, by rw [show (runWord va p w lo).bad = false from rfl]; exact h4.trans (Bool.or_false _), fun q => ?_⟩
    · exact h1
    · exact (congrArg (tget · q) h3).trans (hheld q)

theorem copyWrite_to_global {s : State} (id : Nat) {p k n : Nat} {o : Op} {c : CopyOp} {va a : Dword} {l : Loc} {w : Nat → Word}
    (hn : (copyShape c.kind c.g).2 = n) (ho : tget s.ops id = some o) (hrow : (s.copyRow c (p / n)).2 = .glob a)
    (hva : a + BitVec.ofNat 64 (p % n) = va) (hk0 : 0 < k) (hfit : va.toNat % 32 + 4 * k ≤ 32)
    (hrun : s.runAt c 32 va = (List.range k).map fun i => (va + BitVec.ofNat 64 (4 * i), [p + 4 * i]))
    (hheld : ∀ i < k, tget c.held (p + 4 * i) = some (w i, false)) (hreach : ∀ m < 33, s.reach o .write 1 m va = .here l)
    (hpa : l.pa % 32 = va.toNat % 32) (hm : s.marked l.pa (4 * k) = false)
    (hs : s.scrubbed l.pa (4 * k) (fun _ => true) = false) (hkey : l.key = 0) (hg : s.gkeys = []) (he : s.enrols = []) :
    let t := s.copyWrite id o c p
    ∃ o' c', tget t.ops id = some o' ∧ o'.body = .copy c' ∧ c'.poisoned = c.poisoned ∧
      (∃ i < k, tget c'.held (p + 4 * i) = none) ∧
      (∀ i < k, (tget c'.held (p + 4 * i) = none ∧ memBytes t.mem (l.pa + 4 * i) 4 = natBytes (w i).toNat 4) ∨
        (tget c'.held (p + 4 * i) = some (w i, false) ∧ memBytes t.mem (l.pa + 4 * i) 4 = memBytes s.mem (l.pa + 4 * i) 4)) ∧
      ∀ b, (b < l.pa ∨ l.pa + 4 * k ≤ b) → memGet t.mem b = memGet s.mem b := by
  obtain ⟨lo, m, hsel, hw⟩ : ∃ lo m, (lo = 0 ∧ m = k ∨ m = 1 ∧ 2 ≤ k ∧ lo < k) ∧ s.copyWrite id o c p =
      (s.copyPuts o c l.pa 0 (4 * k) ((List.range m).map fun j => runWord va p w (lo + j))).1.putCopy id
        (s.copyPuts o c l.pa 0 (4 * k) ((List.range m).map fun j => runWord va p w (lo + j))).2 := by
    have hfirst : ((((List.range k).map fun i => (va + BitVec.ofNat 64 (4 * i), [p + 4 * i])).head?.map (·.1)).getD va) = va := by
      obtain ⟨j, rfl⟩ : ∃ j, k = j + 1 := ⟨k - 1, by omega⟩
      rw [List.range_succ_eq_map]
      simp
    have hall : ((List.range k).map (runWord va p w)).any (·.bad) = false := by simp [runWord]
    unfold State.copyWrite
    simp only [hn, hrow, hva]
    unfold State.copyWriteGlob
    simp only [hrun, hfirst, List.length_map, List.length_range, hreach (4 * k) (by omega), s.runHeld_run va hheld, hm, hall, hkey,
      Bool.or_false]
    split
    next h1 => exact ⟨0, k, .inl ⟨rfl, rfl⟩, by simp only [Option.elim_none, Nat.zero_add]⟩
    next h1 =>
      have h1 : 2 ≤ k := by simp only [decide_eq_true_eq] at h1; omega
      by_cases hi : s.pick 27 id (k + 1) < k
      · refine ⟨s.pick 27 id (k + 1), 1, .inr ⟨rfl, h1, hi⟩, ?_⟩
        rw [List.getElem?_eq_getElem (by simpa using hi)]
        simp
      · refine ⟨0, k, .inl ⟨rfl, rfl⟩, ?_⟩
        rw [List.getElem?_eq_none (by simpa using hi)]
        simp only [Option.elim_none, Nat.zero_add]
  obtain ⟨hmem, hops, hpois, hrest⟩ := State.copyPuts_run (s := s) o c (p := p) w hsel hfit hpa hm hs hg he
  have hlen := runBytes_length w lo m
  dsimp only
  rw [hw]
  refine ⟨_, _, State.putCopy_spec (hops ▸ ho) _, rfl, hpois, ⟨lo, by omega, ?_⟩, fun i hi => ?_, fun b hb => ?_⟩
  · rw [hrest, if_pos ⟨0, by omega, rfl⟩]
  · by_cases hin : lo ≤ i ∧ i < lo + m
    · refine .inl ⟨by rw [hrest, if_pos ⟨i - lo, by omega, by omega⟩], ?_⟩
      show memBytes (State.copyPuts ..).1.mem _ _ = _
      rw [hmem, show l.pa + 4 * i = l.pa + 4 * lo + 4 * (i - lo) by omega, memBytes_memWrite_part _ _ (by omega),
        runBytes_word w lo (by omega), show lo + (i - lo) = i by omega]
    · refine .inr ⟨by rw [hrest, if_neg (by rintro ⟨j, hj, hq⟩; omega)]; exact hheld i hi, ?_⟩
      show memBytes (State.copyPuts ..).1.mem _ _ = _
      rw [hmem, memBytes_memWrite_out _ (by omega)]
  · show memGet (State.copyPuts ..).1.mem _ = _
    rw [hmem, memGet_memWrite_out _ _ _ _ (by omega)]

end Sys2Proof.Machine
end

section
/-! SUPPORT. What the matrix engine computes: promotion intervals, rows, and the words of results (R73, R75, R301, R305). -/

namespace Sys2Proof.Machine

/-! ### Promotion intervals (R75) -/

/-- The accumulator and the IA24 sum, which alone decide an element without outliers. -/
def Partial.sums (x : Partial) : Fl × Fl := (x.acc, x.ia)

/-- The IA24 sum of a k-step. -/
def kSum (ks : Nat) (a b : List Fl) (ia : Fl) (i : Nat) : Fl :=
  truncIA24 (sumFl [ia, sumFl (((a.drop (i * ks)).take ks).zipWith mulFl ((b.drop (i * ks)).take ks))])

/-- A k-step without outliers. -/
theorem kStepRun_sums (ks nk p : Nat) (a b : List Fl) (x : Partial) (i : Nat) :
    (kStepRun ks nk p a b [] x i).sums =
      if (i + 1) % p = 0 ∨ i + 1 = nk then (addAcc x.acc (kSum ks a b x.ia i), .fin false 0 0) else (x.acc, kSum ks a b x.ia i) := by
  unfold kStepRun kSum Partial.sums
  split <;> rfl

/-- Runs of k-steps that promote at the same steps and take the same elements give the same sums. -/
theorem foldl_kStepRun_sums {ks nk nk' p : Nat} {a b a' b' : List Fl} {l : List Nat} {d : Nat} {x y : Partial}
    (hxy : x.sums = y.sums)
    (hend : ∀ i ∈ l, ((d + i + 1) % p = 0 ∨ d + i + 1 = nk) ↔ ((i + 1) % p = 0 ∨ i + 1 = nk'))
    (ha : ∀ i ∈ l, (a.drop ((d + i) * ks)).take ks = (a'.drop (i * ks)).take ks)
    (hb : ∀ i ∈ l, (b.drop ((d + i) * ks)).take ks = (b'.drop (i * ks)).take ks) :
    (l.foldl (fun x i => kStepRun ks nk p a b [] x (d + i)) x).sums = (l.foldl (fun x i => kStepRun ks nk' p a' b' [] x i) y).sums := by
  refine List.foldl_rel (r := fun x y : Partial => x.sums = y.sums) hxy fun i hi x y hxy => ?_
  have hacc : x.acc = y.acc := congrArg Prod.fst hxy
  have hia : x.ia = y.ia := congrArg Prod.snd hxy
  rw [kStepRun_sums, kStepRun_sums, hacc, hia]
  unfold kSum
  rw [ha i hi, hb i hi]
  simp only [hend i hi]

/-- An element's number is its accumulator's. -/
theorem mmaElem_eq (ks p : Nat) (a b : List Fl) (acc : Fl) :
    mmaElem ks p a b [] acc = roundFl .fp32 0 false
      ((List.range (a.length / ks)).foldl (fun x i => kStepRun ks (a.length / ks) p a b [] x i) ⟨acc, .fin false 0 0, 0⟩).sums.1 := rfl

/-- One promotion interval of one k-step. -/
theorem mmaElem_one {ks : Nat} {a b : List Fl} (acc : Fl) (hks : 0 < ks) (ha : a.length = ks) (hb : b.length = ks) :
    mmaElem ks 1 a b [] acc =
      roundFl .fp32 0 false (addAcc acc (truncIA24 (sumFl [.fin false 0 0, sumFl (List.zipWith mulFl a b)]))) := by
  rw [mmaElem_eq, ha, Nat.div_self hks, List.range_one, List.foldl_cons, List.foldl_nil, kStepRun_sums, if_pos (.inl rfl)]
  unfold kSum
  rw [Nat.zero_mul, List.drop_zero, List.drop_zero, List.take_of_length_le ha.le, List.take_of_length_le hb.le]

/-- A value that FP32 holds, rounded, is read as it was. -/
theorem decodeFl_roundFl_addAcc (a b : Fl) : decodeFl .fp32 (roundFl .fp32 0 false (addAcc a b)) = addAcc a b :=
  decodeFl_roundFl_decodeFl (g := .fp32) 0 (roundFl_lt .fp32 0 false _)

theorem promotes_shift {p q i : Nat} :
    ((p + i + 1) % p = 0 ∨ p + i + 1 = p + q) ↔ ((i + 1) % p = 0 ∨ i + 1 = q) := by
  rw [Nat.add_assoc, Nat.add_mod_left]; omega

/-- A longer operation is its promotions one after another. -/
theorem mmaElem_append {ks p : Nat} {a b a' b' : List Fl} (acc : Fl) (hks : 0 < ks) (hp : 0 < p) (ha : a.length = ks * p)
    (hb : b.length = a.length) (hd : ks ∣ a'.length) :
    mmaElem ks p (a ++ a') (b ++ b') [] acc = mmaElem ks p a' b' [] (decodeFl .fp32 (mmaElem ks p a b [] acc)) := by
  obtain ⟨q, hq⟩ := hd
  obtain ⟨r, rfl⟩ : ∃ r, p = r + 1 := ⟨p - 1, by omega⟩
  have hlen : a.length / ks = r + 1 := by rw [ha]; exact Nat.mul_div_cancel_left _ hks
  have hlen' : a'.length / ks = q := by rw [hq]; exact Nat.mul_div_cancel_left _ hks
  have hall : (a ++ a').length / ks = (r + 1) + q := by
    rw [List.length_append, ha, hq, ← Nat.mul_add]; exact Nat.mul_div_cancel_left _ hks
  have left : ∀ {l l' : List Fl} (i : Nat), i < r + 1 → l.length = ks * (r + 1) →
      ((l ++ l').drop (i * ks)).take ks = (l.drop (i * ks)).take ks := fun {l l'} i hi hl => by
    have : i * ks + ks ≤ l.length := by rw [hl, ← Nat.succ_mul, Nat.mul_comm]; exact Nat.mul_le_mul_left _ hi
    rw [List.drop_append_of_le_length (by omega), List.take_append_of_le_length (by rw [List.length_drop]; omega)]
  have right : ∀ {l l' : List Fl} (i : Nat), l.length = ks * (r + 1) →
      ((l ++ l').drop ((r + 1 + i) * ks)).take ks = (l'.drop (i * ks)).take ks := fun {l l'} i hl => by
    rw [show (r + 1 + i) * ks = l.length + i * ks by rw [hl]; ring, List.drop_append,
      List.drop_of_length_le (by omega), List.nil_append, Nat.add_sub_cancel_left]
  -- The first promotion interval gives the same accumulator, and leaves an empty IA24 sum.
  have first : (((List.range (r + 1)).foldl (fun x i => kStepRun ks (r + 1 + q) (r + 1) (a ++ a') (b ++ b') [] x i)
      ⟨acc, .fin false 0 0, 0⟩).sums) = (((List.range (r + 1)).foldl (fun x i => kStepRun ks (r + 1) (r + 1) a b [] x i)
      ⟨acc, .fin false 0 0, 0⟩).sums) := by
    have := foldl_kStepRun_sums (ks := ks) (nk := r + 1 + q) (nk' := r + 1) (p := r + 1) (a := a ++ a') (b := b ++ b') (a' := a) (b' := b)
      (l := List.range (r + 1)) (d := 0) (x := ⟨acc, .fin false 0 0, 0⟩) (y := ⟨acc, .fin false 0 0, 0⟩) rfl
      (fun i hi => by
        have := List.mem_range.mp hi
        rw [Nat.zero_add]
        constructor
        · rintro (h | h)
          · exact .inl h
          · omega
        · rintro (h | h)
          · exact .inl h
          · exact .inl (by rw [h]; exact Nat.mod_self _))
      (fun i hi => by rw [Nat.zero_add]; exact left i (List.mem_range.mp hi) ha)
      (fun i hi => by rw [Nat.zero_add]; exact left i (List.mem_range.mp hi) (hb.trans ha))
    simpa only [Nat.zero_add] using this
  obtain ⟨c, v, hc⟩ : ∃ c v, ((List.range (r + 1)).foldl (fun x i => kStepRun ks (r + 1) (r + 1) a b [] x i)
      ⟨acc, .fin false 0 0, 0⟩).sums = (addAcc c v, .fin false 0 0) := by
    rw [List.range_succ, List.foldl_append, List.foldl_cons, List.foldl_nil, kStepRun_sums, if_pos (.inr rfl)]
    exact ⟨_, _, rfl⟩
  rw [mmaElem_eq ks (r + 1) (a ++ a'), mmaElem_eq ks (r + 1) a', mmaElem_eq ks (r + 1) a, hall, hlen, hlen', hc,
    decodeFl_roundFl_addAcc, List.range_add, List.foldl_append, List.foldl_map]
  refine congrArg (fun s : Fl × Fl => roundFl .fp32 0 false s.1) (foldl_kStepRun_sums (first.trans hc) (fun i _ => promotes_shift)
    (fun i _ => right i ha) (fun i _ => right i (hb.trans ha)))

/-! ### Rows of results -/

theorem mmaRow_getElem? {ks p : Nat} {z : Bool} {a : List Fl × Bool} {cols : List (List Fl × Bool)} {old : List (Nat × Bool)} {j : Nat}
    {b : List Fl × Bool} (hb : cols[j]? = some b) :
    (mmaRow ks p z none [] a cols old)[j]? = some (if a.2 || b.2 || (!z && (old.getD j (0, false)).2) then (0x7FC00000, true)
      else (mmaElem ks p a.1 b.1 [] (if z then .fin false 0 0 else decodeFl .fp32 (old.getD j (0, false)).1), false)) := by
  unfold mmaRow
  rw [List.getElem?_map, List.getElem?_zipIdx, hb, Option.map_some, Option.map_some, Nat.zero_add]
  rfl

/-- A list of runs that all succeed. -/
theorem mapM_ok {α β : Type} {f : α → MRun β} {g : α → β} (l : List α) (h : ∀ x ∈ l, f x = .ok (g x)) :
    l.mapM f = .ok (l.map g) := by
  induction l with
  | nil => rfl
  | cons x r ih =>
    rw [List.mapM_cons, h x List.mem_cons_self, ih fun y hy => h y (List.mem_cons_of_mem _ hy)]
    rfl

/-- The first promotion interval starts from zero. -/
theorem promote_first {s : State} {o : Op} {m : MatOp} {rows cols : List (List Fl × Bool)} (hl : m.list = [])
    (hz : (gw m.g 1).getLsbD 0 = true) (hsc : (gw m.g 1).getLsbD 1 = false) (hstep : m.step = 0)
    (hrows : s.matrixA o m m.span.1 m.span.2 = .ok rows) (hcols : s.matrixB o m m.span.1 m.span.2 = .ok cols) :
    s.promote o m = .ok (rows.map fun a => mmaRow m.ks (ctlP (gw m.g 1)) true none [] a cols []) := by
  have holds : ∀ (n j : Nat), (((List.range n).map fun _ => ([] : List (Nat × Bool))).getD j []) = [] := fun n j => by
    rw [List.getD_eq_getElem?_getD, List.getElem?_map]
    cases (List.range n)[j]? <;> rfl
  unfold State.promote
  dsimp only
  rw [hrows, hcols]
  simp only [hz, hsc, hstep, hl, beq_self_eq_true, Bool.and_true, if_true, Bool.false_eq_true, if_false]
  have hrun : (List.range (32 * m.need)).mapM (fun _ => (pure [] : MRun (List (Nat × Bool)))) =
      .ok ((List.range (32 * m.need)).map fun _ => []) := mapM_ok _ fun _ _ => rfl
  rw [hrun]
  refine congrArg Except.ok ?_
  simp only [holds]
  conv_rhs => rw [show rows = rows.zipIdx.map (·.1) by simp, List.map_map]
  rfl

theorem rowA_tile {s : State} {o : Op} {m : MatOp} {x : Member} {t : Tile} {i lo n : Nat} (hA : ctlA (gw x.g 1) = 1)
    (ht : s.level x.aTile false = some t) (hts : t.shadows = []) (ho : o.olds = [])
    (hal : ((gw x.g 6).toNat + i * t.rowBytes + lo * elemSize m.f.a) % elemSize m.f.a = 0)
    (hin : (gw x.g 6).toNat + i * t.rowBytes + lo * elemSize m.f.a + n * elemSize m.f.a ≤ t.size) :
    s.rowA o m x i lo n =
      .ok ((List.range n).map (fun j => elemVal m.f.a (bytesNat (t.read ((gw x.g 6).toNat + i * t.rowBytes + lo * elemSize m.f.a +
          j * elemSize m.f.a) (elemSize m.f.a)))),
        t.badAt ((gw x.g 6).toNat + i * t.rowBytes + lo * elemSize m.f.a) (n * elemSize m.f.a)) := by
  unfold State.rowA
  simp only [hA, ht]
  rw [show rowLen (some t) = t.rowBytes from rfl, s.tileRead_now ho hts _ hin hal]
  refine congrArg Except.ok (Prod.ext ?_ (any_cells t _ _))
  show (elements ..).map _ = _
  rw [elements_cells, List.map_map]
  rfl

/-! ### Results as words (R301, R305) -/

/-- A string cut at the words of a place, put together again. -/
theorem flatMap_words {α : Type} (l : List α) (off k : Nat) :
    (List.range k).flatMap (fun i =>
        (l.drop (max off (4 * (off / 4 + i)) - off)).take (4 * (off / 4 + i) + 4 - max off (4 * (off / 4 + i)))) =
      l.take (4 * (off / 4 + k) - off) := by
  induction k with
  | zero => rw [show 4 * (off / 4 + 0) - off = 0 by omega]; rfl
  | succ k ih =>
    rw [List.range_succ, List.flatMap_append, ih, List.flatMap_singleton,
      show max off (4 * (off / 4 + k)) - off = 4 * (off / 4 + k) - off by omega, ← List.take_add]
    congr 1
    omega

/-- The bytes of a row of elements. -/
def codeBytes (f : FFmt) (xs : List (Nat × Bool)) : List Byte := xs.flatMap fun x => natBytes x.1 (fmtBytes f)

theorem map_fst_marked (f : FFmt) (xs : List (Nat × Bool)) :
    (xs.flatMap fun x => (natBytes x.1 (fmtBytes f)).map fun b => (b, x.2)).map (·.1) = codeBytes f xs := by
  unfold codeBytes
  rw [List.map_flatMap]
  refine List.flatMap_congr fun x _ => ?_
  rw [List.map_map]
  exact List.map_id _

/-- The words of a row hold its bytes between them. -/
theorem rowOuts_flatMap (b : Bound) (h : Word) (off : Nat) (f : FFmt) (xs : List (Nat × Bool)) :
    (rowOuts b h off f xs).flatMap (·.bs) = codeBytes f xs := by
  unfold rowOuts
  dsimp only
  rw [← map_fst_marked]
  generalize (xs.flatMap fun x => (natBytes x.1 (fmtBytes f)).map fun b => (b, x.2)) = bs
  rw [List.flatMap_map]
  unfold wordsIn
  split
  next h0 => rw [List.length_eq_zero_iff.mp h0]; rfl
  next h0 =>
    rw [List.flatMap_map]
    rw [← List.map_flatMap, flatMap_words, List.take_of_length_le (by omega)]

/-- A part of a word: it lies in the row and within the word, and holds the row's bytes there. -/
theorem mem_rowOuts {b : Bound} {h : Word} {off : Nat} {f : FFmt} {xs : List (Nat × Bool)} {e : MatOut}
    (he : e ∈ rowOuts b h off f xs) :
    e.dst = b ∧ off ≤ e.off ∧ e.off / 4 = (e.off + e.bs.length - 1) / 4 ∧
      e.bs = ((codeBytes f xs).drop (e.off - off)).take e.bs.length := by
  unfold rowOuts at he
  dsimp only at he
  rw [← map_fst_marked]
  generalize (xs.flatMap fun x => (natBytes x.1 (fmtBytes f)).map fun b => (b, x.2)) = bs at he ⊢
  obtain ⟨w, hw, rfl⟩ := List.mem_map.mp he
  obtain ⟨h0, h1, h2⟩ := mem_wordsIn.mp hw
  have hlen : (((bs.drop (max off (4 * w) - off)).take (4 * w + 4 - max off (4 * w))).map (·.1)).length =
      min (4 * w + 4 - max off (4 * w)) (bs.length - (max off (4 * w) - off)) := by
    rw [List.length_map, List.length_take, List.length_drop]
  refine ⟨rfl, Nat.le_max_left .., ?_, ?_⟩
  · rw [hlen]
    dsimp only
    omega
  · rw [hlen, ← List.map_drop, ← List.map_take, ← List.length_drop, List.take_eq_take_min]

end Sys2Proof.Machine
end

section
/-! SUPPORT. What a step of a matrix operation does: a promotion, an accumulator instruction, a word written (R301, R307, R309). -/

namespace Sys2Proof.Machine

/-- A running matrix operation makes its next step. -/
theorem exec_matrixOpStart {s : State} {id : Nat} {o : Op} {m : MatOp} (ho : tget s.ops id = some o) (hb : o.body = .mat m)
    (hev : s.ev = some (.matrixOpStart id)) (hrun : m.running = true) : exec .matrixOpStart s = .next (s.matStep id o m) := by
  have hm : o.mat? = some m := by unfold Op.mat?; rw [hb]
  show execMatrixOpStart s = _
  unfold execMatrixOpStart
  simp only [hev, ho, hm, hrun, if_true]

/-- A matrix operation's progress put back, or its end: memory and tiles stay, and the operation is as given but for what it waits
for. -/
theorem State.endOrPut_spec {s : State} {id : Nat} {o : Op} (ho : tget s.ops id = some o) (m : MatOp) (last : Prop) [Decidable last] :
    let u := if last then s.overMat id m else s.putMat id m
    u.mem = s.mem ∧ (∀ b os, u.level b os = s.level b os) ∧
      ∃ o' m', tget u.ops id = some o' ∧ o'.body = .mat m' ∧ m'.step = m.step ∧ m'.outs = if last then [] else m.outs := by
  dsimp only
  split
  next h =>
    obtain ⟨hmem, hlevel, hops, -⟩ := State.overMat_spec ho m
    exact ⟨hmem, hlevel, _, _, hops, rfl, rfl, rfl⟩
  next h => exact ⟨rfl, fun _ _ => rfl, _, _, State.putMat_spec ho m, rfl, rfl, rfl⟩

/-! ### Promotions -/

/-- Results written to the accumulator block: each row's words, and no other byte. -/
theorem State.putAcc_spec {s : State} {m : MatOp} {t : Tile} {rs : List (List (Nat × Bool))} (ht : s.level m.acc true = some t)
    (hrs : ∀ r ∈ rs, 4 * r.length = t.rowBytes) :
    (s.putAcc m rs).mem = s.mem ∧ (s.putAcc m rs).ops = s.ops ∧ ∃ t', (s.putAcc m rs).level m.acc true = some t' ∧
      (∀ r (h : r < rs.length) j (h' : j < rs[r].length),
        t'.read (((gw m.g 4).toNat + r) * t.rowBytes + 4 * j) 4 = natBytes rs[r][j].1 4 ∧
          t'.badAt (((gw m.g 4).toNat + r) * t.rowBytes + 4 * j) 4 = rs[r][j].2) ∧
      ∀ a, (a < (gw m.g 4).toNat * t.rowBytes ∨ ((gw m.g 4).toNat + rs.length) * t.rowBytes ≤ a) → t'.read a 1 = t.read a 1 := by
  have hflat : t.flat := Tile.flat_of_os (State.level_iff.mp ht).2
  have hrows := foldl_putRow_zipIdx (t := t) t.rowBytes (gw m.g 4).toNat 0 rs rfl
  have h4 : 0 < rs.length → (gw m.g 4).toNat * t.rowBytes % 4 = 0 := fun h => by
    rw [← hrs rs[0] (List.getElem_mem h), Nat.mul_left_comm]; exact Nat.mul_mod_right ..
  rw [Nat.add_zero] at hrows
  refine ⟨State.modBound_mem .., State.modBound_ops .., _, State.level_modBound ht ?_, fun r h j h' => ?_, fun a ha => ?_⟩
  · rw [hrows]; exact Tile.putRowsFrom_alike ..
  · rw [hrows, show ((gw m.g 4).toNat + r) * t.rowBytes + 4 * j = (gw m.g 4).toNat * t.rowBytes + t.rowBytes * r + 4 * j by ring]
    exact Tile.putRowsFrom_in hflat (h4 (by omega)) hrs r h j h'
  · rw [hrows]
    rcases Nat.eq_zero_or_pos rs.length with h0 | h0
    · rw [List.length_eq_zero_iff.mp h0]; rfl
    · refine Tile.read_congr fun b hb1 hb2 => (Tile.putRowsFrom_out hflat (h4 h0) hrs).1 b ?_
      rw [Nat.mul_comm t.rowBytes, ← Nat.add_mul]
      omega

/-- A multiply that has fetched all it needs writes its promotion interval's results, and goes on to the next or ends. -/
theorem State.multiplyStep_promotes {s : State} {id : Nat} {o : Op} {m : MatOp} {rs : List (List (Nat × Bool))}
    (hf : m.fmt.isSome = true) (hl : m.wantsList = false) (hp : s.promote o m = .ok rs) :
    ∃ (last : Bool) (n : MatOp), n.step = min (m.k / m.ks) (m.step + ctlP (gw m.g 1)) ∧
      s.multiplyStep id o m = if last then (s.putAcc m rs).overMat id n else (s.putAcc m rs).putMat id n := by
  have hnone : ¬ (m.fmt.isNone = true) := by cases h : m.fmt <;> simp_all
  unfold State.multiplyStep
  simp only [if_neg hnone, hl, Bool.false_eq_true, if_false, hp]
  exact ⟨_, { m with
    step := min (m.k / m.ks) (m.step + ctlP (gw m.g 1)), got := [], poisoned := m.poisoned || rs.any fun r => r.any (·.2)
    outs := ite _ (State.copiesW _ _) [] }, rfl, rfl⟩

theorem multiply_promotes {s : State} {id : Nat} {o : Op} {m : MatOp} {t : Tile} {rs : List (List (Nat × Bool))}
    (ho : tget s.ops id = some o) (hb : o.body = .mat m) (hev : s.ev = some (.matrixOpStart id)) (hrun : m.running = true)
    (houts : m.outs = []) (hk : m.kind.multiply = true) (hf : m.fmt.isSome = true) (hl : m.wantsList = false)
    (hgot : Got.missing m.got m.wants = []) (hp : s.promote o m = .ok rs) (ht : s.level m.acc true = some t)
    (hrs : ∀ r ∈ rs, 4 * r.length = t.rowBytes) :
    ∃ u t' o' m', exec .matrixOpStart s = .next u ∧ u.mem = s.mem ∧ u.level m.acc true = some t' ∧ tget u.ops id = some o' ∧
      o'.body = .mat m' ∧ m'.step = min (m.k / m.ks) (m.step + ctlP (gw m.g 1)) ∧
      (∀ r (h : r < rs.length) j (h' : j < rs[r].length),
        t'.read (((gw m.g 4).toNat + r) * t.rowBytes + 4 * j) 4 = natBytes rs[r][j].1 4 ∧
          t'.badAt (((gw m.g 4).toNat + r) * t.rowBytes + 4 * j) 4 = rs[r][j].2) ∧
      ∀ a, (a < (gw m.g 4).toNat * t.rowBytes ∨ ((gw m.g 4).toNat + rs.length) * t.rowBytes ≤ a) → t'.read a 1 = t.read a 1 := by
  obtain ⟨hmem, hops, t', ht', hin, hout⟩ := State.putAcc_spec ht hrs
  obtain ⟨last, n, hstep, hn⟩ := State.multiplyStep_promotes (id := id) hf hl hp
  obtain ⟨hmem', hlevel', o', m', ho', hb', hs', -⟩ := State.endOrPut_spec (s := s.putAcc m rs) (hops ▸ ho) n (last = true)
  have hmat : s.matStep id o m = s.multiplyStep id o m := by
    unfold State.matStep
    simp only [houts, hgot, hk, if_true]
  rw [exec_matrixOpStart ho hb hev hrun, hmat, hn]
  exact ⟨_, t', o', m', rfl, hmem'.trans hmem, (hlevel' ..).trans ht', ho', hb', hs'.trans hstep, hin, hout⟩

/-! ### Accumulator instructions (R309) -/

/-- The rows of an accumulator instruction that names rows of its tile, each as it is computed. -/
theorem State.accRows_ok {s : State} {o : Op} {m : MatOp} {t : Tile} {row : Nat → FFmt × Nat × List (Nat × Bool)}
    (ht : s.level m.acc true = some t) (hn : (rowsOf m.g).1 + (rowsOf m.g).2 ≤ t.rows)
    (hrow : ∀ i < (rowsOf m.g).2, s.accRow o m t i = .ok (row i)) :
    s.accRows o m = .ok ((List.range (rowsOf m.g).2).map row) := by
  unfold State.accRows
  dsimp only
  rw [ht]
  show (if t.rows < (rowsOf m.g).1 + (rowsOf m.g).2 then _ else _) = _
  rw [if_neg (by omega)]
  exact mapM_ok _ fun i hi => hrow i (List.mem_range.mp hi)

/-- An operation that is no multiply has nothing to fetch. -/
theorem matStep_acc {s : State} {id : Nat} {o : Op} {m : MatOp} (houts : m.outs = []) (hk : m.kind.multiply = false) :
    s.matStep id o m = s.accStep id o m := by
  have hw : Got.missing m.got m.wants = [] := by unfold MatOp.wants; rw [hk]; rfl
  unfold State.matStep
  simp only [houts, hw, hk, Bool.false_eq_true, if_false]

/-- The old elements of a row of the accumulator. -/
theorem State.accOld {s : State} {o : Op} {t : Tile} (ho : o.olds = []) (hts : t.shadows = []) (h : Word) {i k : Nat}
    (h4 : t.rowBytes % 4 = 0) (hrow : k + i < t.rows) :
    (s.tileRead o (some t) h ((k + i) * t.rowBytes) t.rowBytes 4).map (elements 4 t.cols) =
      .ok ((List.range (t.rowBytes / 4)).map fun j =>
        (bytesNat (t.read ((k + i) * t.rowBytes + 4 * j) 4), t.badAt ((k + i) * t.rowBytes + 4 * j) 4)) := by
  have hin : (k + i) * t.rowBytes + t.rowBytes ≤ t.size := by
    rw [← Nat.succ_mul]; exact Nat.mul_le_mul_right _ hrow
  have hal : (k + i) * t.rowBytes % 4 = 0 := by rw [Nat.mul_mod, h4]; simp
  rw [s.tileRead_now ho hts h hin hal]
  show Except.ok (elements 4 (t.rowBytes / 4) _) = _
  have hcols : t.rowBytes = t.rowBytes / 4 * 4 := by omega
  conv_lhs => rw [show (List.range t.rowBytes) = List.range (t.rowBytes / 4 * 4) by rw [← hcols]]
  rw [elements_cells]
  simp only [Nat.mul_comm _ 4]

/-- A tile with the rows that an accumulator instruction writes. -/
def accWritten (lo rb n : Nat) (x : Nat → Nat → Nat × Bool) (t : Tile) : Tile :=
  ((List.range n).map fun i => (FFmt.fp32, (lo + i) * rb, (List.range (rb / 4)).map (x i))).foldl
    (fun (t : Tile) r => t.putRow r.2.1 r.1 r.2.2) t

/-- The rows written: each holds its elements with their marks, and no other byte changes. -/
theorem accWritten_spec {lo rb n : Nat} (x : Nat → Nat → Nat × Bool) {t : Tile} (ht : t.flat) (h4 : rb % 4 = 0) :
    (accWritten lo rb n x t).alike t ∧
      (∀ a, (a < lo * rb ∨ (lo + n) * rb ≤ a) → (accWritten lo rb n x t).read a 1 = t.read a 1) ∧
      ∀ i < n, ∀ j < rb / 4, (accWritten lo rb n x t).read ((lo + i) * rb + 4 * j) 4 = natBytes (x i j).1 4 ∧
        (accWritten lo rb n x t).badAt ((lo + i) * rb + 4 * j) 4 = (x i j).2 := by
  have h4' : lo * rb % 4 = 0 := by rw [Nat.mul_mod, h4]; simp
  have hlen : ∀ r ∈ (List.range n).map fun i => (List.range (rb / 4)).map (x i), 4 * r.length = rb := by
    intro r hr
    obtain ⟨i, -, rfl⟩ := List.mem_map.mp hr
    rw [List.length_map, List.length_range]; omega
  have hfold : accWritten lo rb n x t = t.putRowsFrom rb (lo * rb) ((List.range n).map fun i => (List.range (rb / 4)).map (x i)) :=
    foldl_putRow_range ..
  rw [hfold]
  refine ⟨Tile.putRowsFrom_alike .., fun a ha => ?_, fun i hi j hj => ?_⟩
  · refine Tile.read_congr fun b hb1 hb2 => (Tile.putRowsFrom_out ht h4' hlen).1 b ?_
    rw [List.length_map, List.length_range, Nat.mul_comm rb, ← Nat.add_mul]
    omega
  · have hin := Tile.putRowsFrom_in ht h4' hlen i (by simpa using hi) j (by simpa using hj)
    simp only [List.getElem_map, List.getElem_range] at hin
    rw [show (lo + i) * rb + 4 * j = lo * rb + rb * i + 4 * j by ring]
    exact hin

/-- An accumulator instruction other than MCVT writes its rows and ends. -/
theorem State.accStep_writes {s : State} {id : Nat} {o : Op} {m : MatOp} {t : Tile} {x : Nat → Nat → Nat × Bool}
    (hk : m.kind ≠ .mcvt) (ht : s.level m.acc true = some t) (hn : (rowsOf m.g).1 + (rowsOf m.g).2 ≤ t.rows)
    (hrow : ∀ i < (rowsOf m.g).2, s.accRow o m t i =
      .ok (.fp32, ((rowsOf m.g).1 + i) * t.rowBytes, (List.range (t.rowBytes / 4)).map (x i))) :
    ∃ n, s.accStep id o m = (s.modBound m.acc (accWritten (rowsOf m.g).1 t.rowBytes (rowsOf m.g).2 x)).overMat id n := by
  have hkb : (m.kind == MatKind.mcvt) = false := beq_eq_false_iff_ne.mpr hk
  unfold State.accStep
  simp only [State.accRows_ok ht hn hrow]
  unfold State.putRows
  simp only [hkb, Bool.false_eq_true, if_false, List.isEmpty_nil, if_true]
  exact ⟨_, rfl⟩

theorem acc_writes {s : State} {id : Nat} {o : Op} {m : MatOp} {t : Tile} (x : Nat → Nat → Nat × Bool) (ho : tget s.ops id = some o)
    (hb : o.body = .mat m) (hev : s.ev = some (.matrixOpStart id)) (hrun : m.running = true) (houts : m.outs = [])
    (hk : m.kind.multiply = false) (hk' : m.kind ≠ .mcvt) (ht : s.level m.acc true = some t) (h4 : t.rowBytes % 4 = 0)
    (hn : (rowsOf m.g).1 + (rowsOf m.g).2 ≤ t.rows)
    (hrow : ∀ i < (rowsOf m.g).2, s.accRow o m t i =
      .ok (.fp32, ((rowsOf m.g).1 + i) * t.rowBytes, (List.range (t.rowBytes / 4)).map (x i))) :
    ∃ u t', (exec .matrixOpStart s = .next u ∧ u.mem = s.mem ∧ u.level m.acc true = some t' ∧ .matrixOpComplete id ∈ u.due ∧
        ∀ a, (a < ((rowsOf m.g).1 + 0) * t.rowBytes + 4 * 0 ∨ ((rowsOf m.g).1 + (rowsOf m.g).2) * t.rowBytes + 4 * 0 ≤ a) →
          t'.read a 1 = t.read a 1) ∧
      ∀ i < (rowsOf m.g).2, ∀ j < t.rowBytes / 4, t'.read (((rowsOf m.g).1 + i) * t.rowBytes + 4 * j) 4 = natBytes (x i j).1 4 ∧
        t'.badAt (((rowsOf m.g).1 + i) * t.rowBytes + 4 * j) 4 = (x i j).2 := by
  obtain ⟨halike, hout, hin⟩ := accWritten_spec (lo := (rowsOf m.g).1) (n := (rowsOf m.g).2) x
    (Tile.flat_of_os (State.level_iff.mp ht).2) h4
  obtain ⟨n, hstep⟩ := State.accStep_writes (id := id) hk' ht hn hrow
  obtain ⟨hmem, hlevel, -, hdue⟩ := State.overMat_spec (id := id) (o := o)
    (s := s.modBound m.acc (accWritten (rowsOf m.g).1 t.rowBytes (rowsOf m.g).2 x)) (by rw [State.modBound_ops]; exact ho) n
  rw [exec_matrixOpStart ho hb hev hrun, matStep_acc houts hk, hstep]
  exact ⟨_, _, ⟨rfl, hmem.trans (State.modBound_mem ..), (hlevel ..).trans (State.level_modBound ht halike), hdue, hout⟩, hin⟩

/-- MCVT: memory and the accumulator stay, and each row's words are still to be written. -/
theorem mcvt_outs {s : State} {id : Nat} {o : Op} {m : MatOp} {t : Tile} {f : FFmt} {d : Nat → Nat} {row : Nat → List (Nat × Bool)}
    (ho : tget s.ops id = some o) (hb : o.body = .mat m) (hev : s.ev = some (.matrixOpStart id)) (hrun : m.running = true)
    (houts : m.outs = []) (hk : m.kind = .mcvt) (ht : s.level m.acc true = some t) (hn : (rowsOf m.g).1 + (rowsOf m.g).2 ≤ t.rows)
    (hrow : ∀ i < (rowsOf m.g).2, s.accRow o m t i = .ok (f, d i, row i)) :
    ∃ u o' m', exec .matrixOpStart s = .next u ∧ u.mem = s.mem ∧ tget u.ops id = some o' ∧ o'.body = .mat m' ∧
      u.level m.acc true = some t ∧
      m'.outs = joinBad ((List.range (rowsOf m.g).2).flatMap fun i => rowOuts m.bTile (gw m.g 4) (d i) f (row i)) := by
  have hmul : m.kind.multiply = false := by rw [hk]; rfl
  have hkb : (m.kind == MatKind.mcvt) = true := beq_iff_eq.mpr hk
  rw [exec_matrixOpStart ho hb hev hrun, matStep_acc houts hmul]
  unfold State.accStep
  simp only [State.accRows_ok ht hn hrow]
  unfold State.putRows
  simp only [hkb, if_true, List.flatMap_map]
  generalize hO : joinBad ((List.range (rowsOf m.g).2).flatMap fun i => rowOuts m.bTile (gw m.g 4) (d i) f (row i)) = outs
  obtain ⟨hmem, hlevel, o', m', ho', hb', -, houts'⟩ := State.endOrPut_spec (s := s) ho { m with
    poisoned := ((List.range (rowsOf m.g).2).map fun i => (f, d i, row i)).any fun r => r.2.2.any (·.2)
    outs := outs } (outs.isEmpty = true)
  refine ⟨_, o', m', rfl, hmem, ho', hb', (hlevel ..).trans ht, ?_⟩
  rw [houts']
  cases outs <;> rfl

/-! ### Words written (R301, R309) -/

/-- The last word that an operation has to write is written, and the operation ends. -/
theorem matWrite_last {s : State} {id : Nat} {o : Op} {m : MatOp} {e : MatOut} {t : Tile} (ho : tget s.ops id = some o)
    (hb : o.body = .mat m) (hev : s.ev = some (.matrixOpStart id)) (hrun : m.running = true) (houts : m.outs = [e])
    (ht : s.level e.dst false = some t) (hlin : t.morton = false) (hbs : e.bs ≠ []) (hsize : e.off + e.bs.length ≤ t.size)
    (hal : e.off % min e.size 4 = 0) :
    ∃ u t', exec .matrixOpStart s = .next u ∧ u.mem = s.mem ∧ u.level e.dst false = some t' ∧
      t'.read e.off e.bs.length = e.bs ∧ t'.badAt e.off e.bs.length = e.bad ∧ .matrixOpComplete id ∈ u.due ∧
      ∀ a, (a < e.off ∨ e.off + e.bs.length ≤ a) → memGet t'.data a = memGet t.data a := by
  have hflat : t.flat := Tile.flat_of_linear hlin
  have halike := t.enginePut_alike e.off e.bs e.bad
  obtain ⟨hbound, hos⟩ := State.level_iff.mp ht
  obtain ⟨hbound', hmem, hops⟩ := State.tilePut_spec id hbound e.off e.bs e.bad
  have hnone : ([e].filter fun x => !(x.dst == e.dst && x.off == e.off)) = [] := by simp
  have hmat : s.matStep id o m = (s.tilePut id e.dst e.off e.bs e.bad).overMat id { m with outs := [] } := by
    unfold State.matStep
    simp only [houts]
    rw [show [e].getD (s.pick 19 id ([].length + 1)) e = e from rfl]
    unfold State.matWrite
    simp only [ht]
    rw [if_neg (by omega), houts, hnone]
    rfl
  obtain ⟨hmem', hlevel', -, hdue⟩ := State.overMat_spec (hops.trans ho) { m with outs := [] }
  rw [exec_matrixOpStart ho hb hev hrun, hmat]
  refine ⟨_, _, rfl, hmem'.trans hmem, (hlevel' ..).trans (State.level_iff.mpr ⟨hbound', halike.os.trans hos⟩),
    Tile.read_enginePut hflat .., Tile.badAt_enginePut t _ _ hbs, hdue, fun a ha => ?_⟩
  rw [← hflat.byteAt, ← (halike.flat hflat).byteAt]
  exact (Tile.enginePut_spec hflat ..).2 a ha

end Sys2Proof.Machine
end

section
/-! PROOF. O60: what copies move, and what matrix operations compute and write. -/

namespace Sys2Proof.Machine

/-! ### The rows of the accumulator instructions (R309) -/

section
variable {s : State} {o : Op} {m : MatOp} {t : Tile}

theorem accRow_mzero (hk : m.kind = .mzero) (i : Nat) : s.accRow o m t i =
    .ok (.fp32, ((rowsOf m.g).1 + i) * t.rowBytes, (List.range (t.rowBytes / 4)).map fun _ => (0, false)) := by
  have hrep : List.replicate t.cols ((0 : Nat), false) = (List.range (t.rowBytes / 4)).map fun _ => (0, false) := by
    rw [List.map_const', List.length_range]; rfl
  unfold State.accRow
  simp only [hk, hrep]
  rfl

theorem accRow_mscal (hk : m.kind = .mscal) (ho : o.olds = []) (hts : t.shadows = []) (h4 : t.rowBytes % 4 = 0) {i : Nat}
    (hrow : (rowsOf m.g).1 + i < t.rows) : s.accRow o m t i =
      .ok (.fp32, ((rowsOf m.g).1 + i) * t.rowBytes, (List.range (t.rowBytes / 4)).map fun j =>
        markedAs .fp32 (roundFl .fp32 0 false (mulFl (decodeFl .fp32 (bytesNat (t.read (((rowsOf m.g).1 + i) * t.rowBytes + 4 * j) 4)))
          (decodeFl .fp32 (gw m.g 3).toNat))) (t.badAt (((rowsOf m.g).1 + i) * t.rowBytes + 4 * j) 4)) := by
  unfold State.accRow
  simp only [hk, State.accOld ho hts _ h4 hrow]
  show Except.ok (_, _, List.map _ _) = _
  rw [List.map_map]
  rfl

theorem accRow_mload (hk : m.kind = .mload) (ho : o.olds = []) {y : Tile} (hy : s.level m.bTile false = some y) (hys : y.shadows = [])
    {f : FFmt} (hf : accFmt (gw m.g 3).toNat = f) {i : Nat}
    (hin : (gw m.g 5).toNat + i * y.rowBytes + t.rowBytes / 4 * fmtBytes f ≤ y.size)
    (hal : ((gw m.g 5).toNat + i * y.rowBytes) % fmtBytes f = 0) : s.accRow o m t i =
      .ok (.fp32, ((rowsOf m.g).1 + i) * t.rowBytes, (List.range (t.rowBytes / 4)).map fun j =>
        markedAs .fp32 (roundFl .fp32 0 false (decodeFl f
          (bytesNat (y.read ((gw m.g 5).toNat + i * y.rowBytes + j * fmtBytes f) (fmtBytes f)))))
          (y.badAt ((gw m.g 5).toNat + i * y.rowBytes + j * fmtBytes f) (fmtBytes f))) := by
  unfold State.accRow
  simp only [hk, hf, hy]
  rw [show rowLen (some y) = y.rowBytes from rfl, show t.cols = t.rowBytes / 4 from rfl, s.tileRead_now ho hys _ hin hal]
  show Except.ok (_, _, List.map _ (elements ..)) = _
  rw [elements_cells, List.map_map]
  rfl

theorem accRow_mcvt (hk : m.kind = .mcvt) (ho : o.olds = []) (hts : t.shadows = []) (h4 : t.rowBytes % 4 = 0) {i : Nat}
    (hrow : (rowsOf m.g).1 + i < t.rows) {y : Tile} (hy : s.level m.bTile false = some y) {f : FFmt}
    (hf : accFmt ((gw m.g 3).extractLsb' 0 3).toNat = f) {d w : Nat} (hd : (gw m.g 5).toNat + i * y.rowBytes = d)
    (hw : t.rowBytes / 4 * fmtBytes f = w) (hin : d + w ≤ y.size) (hal : d % fmtBytes f = 0) (hfit : d % y.rowBytes + w ≤ y.rowBytes) :
    s.accRow o m t i = .ok (f, d, (List.range (t.rowBytes / 4)).map fun j =>
      markedAs f (roundFl f 0 ((gw m.g 3).getLsbD 3) (decodeFl .fp32 (bytesNat (t.read (((rowsOf m.g).1 + i) * t.rowBytes + 4 * j) 4))))
        (t.badAt (((rowsOf m.g).1 + i) * t.rowBytes + 4 * j) 4)) := by
  unfold State.accRow
  have hcols : t.cols * fmtBytes f = w := hw
  simp only [hk, hf, hy, State.accOld ho hts _ h4 hrow, show rowLen (some y) = y.rowBytes from rfl, hd, hcols]
  show (if y.size < d + w ∨ d % fmtBytes f ≠ 0 ∨ y.rowBytes < d % y.rowBytes + w then _ else _) = _
  rw [if_neg (by omega)]
  show Except.ok (_, _, List.map _ _) = _
  rw [List.map_map]
  rfl

end

/-! ### An engine's write to memory -/

theorem enginePut_marks (s : State) (l : Loc) {bs : List Byte} {whole : Bool} (bad : Bool) (hbs : bs ≠ [])
    (hfit : l.pa % 32 + bs.length ≤ 32) (hs : s.scrubbed l.pa bs.length (fun _ => true) = false) (hk : s.gkeys = [])
    (hw : whole = true ∨ s.marked l.pa bs.length = false) :
    let r := s.enginePut l bs whole bad
    r.2 = true ∧ memBytes r.1.mem l.pa bs.length = bs ∧ (bad = true → r.1.marked l.pa bs.length = true) ∧
      (bad = false → bs.length = 32 → r.1.marked l.pa 32 = false) := by
  have hlen : 0 < bs.length := List.length_pos_of_ne_nil hbs
  obtain ⟨cores, gkeys, crews, nodes, queues, due, tainted, hput⟩ := State.enginePut_changes bad hs hk hw
  dsimp only
  rw [hput]
  refine ⟨rfl, memBytes_memWrite .., ?_, ?_⟩
  · rintro rfl
    exact enginePutMarks_bad whole s.marks hlen
  · rintro rfl h32
    have := enginePutMarks_whole (a := l.pa) whole s.marks (by omega)
    rw [← h32] at this ⊢
    exact this

/-- Settles O60, a clause for each part of an access and of an operation: copies by the words they hold and write, products by the
runs of k-steps between promotions, results by the rows that a step writes. -/
theorem engineResults : Obligations.EngineResults := by
  unfold Obligations.EngineResults
  refine ⟨⟨?copyHolds, ?copyReadsMemory, ?copyReadsTile, ?copyWritesTile, ?copyWritesMemory, ?put⟩,
    ?oneStep, ?append, ?row, ?fromZero, ?rowA, ?multiply, ?acc, ?rowOuts, ?lastWord⟩
  case copyHolds =>
    intro c pos i bs bad _ hi
    exact tget_foldl_tset_words c.held pos (fun i => (BitVec.ofNat 32 (bytesNat ((bs.drop (4 * i)).take 4)), bad.getD i false)) hi
  case copyReadsMemory =>
    intro s id pos len o c a l hc n va hrow hlen hlen4 hn4 hn hpos ha hreach hk ho
    exact copyRead_of_global id hc rfl hrow hlen hlen4 hn4 hn hpos ha hreach hk ho
  case copyReadsTile =>
    intro s id pos len off o c x hc n hrow hlen hlen4 hn4 hn hpos hoff hx hsize hxs hcs
    exact copyRead_of_tile id hc rfl hrow hlen hlen4 hn4 hn hpos hoff hx hsize hxs hcs
  case copyWritesTile =>
    intro s id pos off o c x w bad n hrow hheld hx hlin ho _ p hsize hp4
    exact copyWrite_to_tile id rfl hrow hheld hx hlin ho rfl hsize hp4
  case copyWritesMemory =>
    intro s id p k o c va a l w n ho _ hrow hva hk0 _ hfit hrun hheld hreach hpa hm hs hkey hg he _
    exact copyWrite_to_global id rfl ho hrow hva hk0 hfit hrun hheld hreach hpa hm hs hkey hg he
  case put =>
    intro s l bs whole bad hbs hfit hs hkey hk
    refine ⟨?_, fun hw => enginePut_marks s l bad hbs hfit hs hk hw⟩
    rintro rfl hm
    rw [State.enginePut_dropped bad hs hm]
    exact ⟨rfl, State.dropWrite_mem .., State.dropWrite_marks ..⟩
  case oneStep => exact fun ks a b acc hks ha hb => mmaElem_one acc hks ha hb
  case append => exact fun ks p a b a' b' acc hks hp ha hb _ hd _ => mmaElem_append acc hks hp ha hb hd
  case row => exact fun ks p z a cols old j b hb => mmaRow_getElem? hb
  case fromZero => exact fun s o m rows cols hl hz hsc hstep hrows hcols => promote_first hl hz hsc hstep hrows hcols
  case rowA => exact fun s o m x t i lo n hA ht hts ho _ hal hin => rowA_tile hA ht hts ho hal hin
  case multiply =>
    intro s id o m t rs ho hb hev hrun houts hk hf hl hgot hp g at_ ht hrs
    exact multiply_promotes ho hb hev hrun houts hk hf hl hgot hp ht hrs
  case acc =>
    intro s id o m t ho hb hev hrun houts holds g off n ht hts h4 _ hn round old ends
    refine ⟨fun hk => ?_, fun hk => ?_, fun hk => ?_, fun hk => ?_⟩
    · exact acc_writes (fun _ _ => (0, false)) ho hb hev hrun houts (by rw [hk]; rfl) (by rw [hk]; nofun) ht h4 hn
        fun i _ => accRow_mzero hk i
    · obtain ⟨u, t', hends, hin⟩ := acc_writes _ ho hb hev hrun houts (by rw [hk]; rfl) (by rw [hk]; nofun) ht h4 hn
        fun i hi => accRow_mscal hk holds hts h4 (Nat.lt_of_lt_of_le (Nat.add_lt_add_left hi _) hn)
      refine ⟨u, t', hends, fun i hi j hj => ?_⟩
      obtain ⟨hread, hbad⟩ := hin i hi j hj
      exact ⟨hbad, hread.trans (apply_ite (natBytes · 4) ..)⟩
    · intro y hy hys f place hplace
      obtain ⟨u, t', hends, hin⟩ := acc_writes _ ho hb hev hrun houts (by rw [hk]; rfl) (by rw [hk]; nofun) ht h4 hn
        fun i hi => accRow_mload hk holds hy hys rfl (hplace i hi).1 (by simpa [place] using (hplace i hi).2)
      refine ⟨u, t', hends, fun i hi j hj => ?_⟩
      obtain ⟨hread, hbad⟩ := hin i hi j hj
      exact ⟨hbad, hread.trans (apply_ite (natBytes · 4) ..)⟩
    · intro _ y hy f w place hplace code
      have hcode : (fun i j => markedAs f (roundFl f 0 ((gw g 3).getLsbD 3) (old i j)) (t.badAt (off i j) 4)) = code := by
        funext i j
        show (_, _) = ite _ _ _
        cases t.badAt (off i j) 4 <;> rfl
      rw [← hcode]
      refine mcvt_outs ho hb hev hrun houts hk ht hn fun i hi => ?_
      obtain ⟨hin, hal, hfit⟩ := hplace i hi
      exact accRow_mcvt hk holds hts h4 (Nat.lt_of_lt_of_le (Nat.add_lt_add_left hi _) hn) hy rfl rfl rfl hin hal hfit
  case rowOuts => exact fun b h off f xs => ⟨rowOuts_flatMap b h off f xs, fun e he => mem_rowOuts he⟩
  case lastWord =>
    intro s id o m e t ho hb hev hrun houts ht hlin hbs hsize hal
    exact matWrite_last ho hb hev hrun houts ht hlin hbs hsize hal

end Sys2Proof.Machine
end

section
/-! SUPPORT. Messages: what the receiving fabric unit does with one, and what sending one does (R365, R369, R370, R381). -/

namespace Sys2Proof.Machine

/-! ### Arrival -/

/-- A tag that is held after its request is performed. -/
theorem State.heldFor_holdTag (s : State) (die part dev fromPart tag : Nat) (a : Resp) :
    (s.holdTag die part dev fromPart tag a).heldFor die part dev fromPart tag ≠ none := by
  have hheld : ∀ t : State, (t.part die part).held = (s.part die part).held ++ [⟨dev, fromPart, tag, a⟩] →
      t.heldFor die part dev fromPart tag ≠ none := fun t ht => by
    unfold State.heldFor
    rw [ht]
    simp
  refine hheld _ ?_
  have hmod := congrArg Part.held (s.part_modPart_self die part fun p => { p with held := p.held ++ [⟨dev, fromPart, tag, a⟩] })
  unfold State.holdTag
  dsimp only
  split
  · exact hmod
  · exact hmod

theorem State.holdTag_mem (s : State) (die part dev fromPart tag : Nat) (a : Resp) :
    (s.holdTag die part dev fromPart tag a).mem = s.mem := by
  unfold State.holdTag
  dsimp only
  split <;> rfl

/-- A packet put on its way changes no memory and no partition. -/
theorem State.cross_spec (s : State) (d chan n : Nat) (e : Event) :
    (s.cross d chan n e).mem = s.mem ∧ (s.cross d chan n e).parts = s.parts ∧ (s.cross d chan n e).pkg.split = s.pkg.split := by
  unfold State.cross
  dsimp only
  split <;> exact ⟨rfl, rfl, rfl⟩

theorem State.emit_spec (s : State) (o : Out) :
    (s.emit o).mem = s.mem ∧ (s.emit o).parts = s.parts ∧ (s.emit o).pkg.split = s.pkg.split := by
  unfold State.emit
  split
  · exact State.cross_spec ..
  · exact ⟨rfl, rfl, rfl⟩

theorem State.heldFor_congr {s t : State} (hp : t.parts = s.parts) (hk : t.pkg.split = s.pkg.split) (die part dev fromPart tag : Nat) :
    t.heldFor die part dev fromPart tag = s.heldFor die part dev fromPart tag := by
  unfold State.heldFor State.part State.partKey; rw [hp, hk]

/-- A message of a type that goes to a queue is appended to it. -/
theorem State.takeMsg_accepted {s t : State} {m : Msg} (hr : m.reserved = 0) (ht : m.typ = 1 ∨ m.typ = 2 ∨ m.typ = 3 ∨ m.typ = 7)
    (h : s.append m.die m.part (m.typ != 7) m = some t) : s.takeMsg m = .accepted t := by
  unfold State.takeMsg
  rw [if_neg (not_not.mpr hr), if_pos ht, h]

/-- A message that its queue does not take is refused. -/
theorem State.takeMsg_refused {s : State} {m : Msg} (hr : m.reserved = 0) (ht : m.typ = 1 ∨ m.typ = 2 ∨ m.typ = 3 ∨ m.typ = 7)
    (h : s.append m.die m.part (m.typ != 7) m = none) : s.takeMsg m = .refused := by
  unfold State.takeMsg
  rw [if_neg (not_not.mpr hr), if_pos ht, h]

/-- A repeat is answered from its tag. -/
theorem State.arriveMsg_repeat {s : State} {m : Msg} {a : Resp} (h : s.heldFor m.die m.part m.fromDev m.fromPart m.tag = some a) :
    s.arriveMsg m = s.emit (.answer m.fromDev m.fromPart m.tag a) := by
  unfold State.arriveMsg; rw [h]

/-- The sender of a message that is refused is told. -/
theorem State.arriveMsg_refused {s : State} {m : Msg} (h : s.heldFor m.die m.part m.fromDev m.fromPart m.tag = none)
    (ht : s.takeMsg m = .refused) : s.arriveMsg m = s.emit (.refused m.fromDev m.fromPart m.tag) := by
  unfold State.arriveMsg; rw [h, ht]

/-- A message that its queue takes has its tag held. -/
theorem State.arriveMsg_accepted {s t : State} {m : Msg} (h : s.heldFor m.die m.part m.fromDev m.fromPart m.tag = none)
    (ht : s.takeMsg m = .accepted t) :
    (s.arriveMsg m).mem = t.mem ∧ (s.arriveMsg m).heldFor m.die m.part m.fromDev m.fromPart m.tag ≠ none := by
  unfold State.arriveMsg
  simp only [h, ht]
  obtain ⟨h1, h2, h3⟩ := State.emit_spec (t.holdTag m.die m.part m.fromDev m.fromPart m.tag .done)
    (.answer m.fromDev m.fromPart m.tag .done)
  refine ⟨h1.trans (State.holdTag_mem ..), ?_⟩
  rw [State.heldFor_congr h2 h3]
  exact State.heldFor_holdTag _ _ _ _ _ _ _

/-- GRANT, RECALL, ACKNOWLEDGEMENT and SOFTWARE_MESSAGE: the message arrives with its type. -/
theorem exec_message {i : Instr} {s : State} {m : Msg} {typ : Nat}
    (h : (i = .grant ∧ s.ev = some (.grant m) ∧ typ = 1) ∨ (i = .recall ∧ s.ev = some (.recall m) ∧ typ = 2) ∨
      (i = .acknowledgement ∧ s.ev = some (.acknowledgement m) ∧ typ = 3) ∨
      (i = .softwareMessage ∧ s.ev = some (.softwareMessage m) ∧ typ = 7)) :
    exec i s = .next (s.arriveMsg { m with typ := typ }) ∧ (typ = 1 ∨ typ = 2 ∨ typ = 3 ∨ typ = 7) := by
  rcases h with ⟨rfl, hev, rfl⟩ | ⟨rfl, hev, rfl⟩ | ⟨rfl, hev, rfl⟩ | ⟨rfl, hev, rfl⟩
  · refine ⟨?_, by omega⟩
    show execGrant s = _
    unfold execGrant; rw [hev]
  · refine ⟨?_, by omega⟩
    show execRecall s = _
    unfold execRecall; rw [hev]
  · refine ⟨?_, by omega⟩
    show execAcknowledgement s = _
    unfold execAcknowledgement; rw [hev]
  · refine ⟨?_, by omega⟩
    show execSoftwareMessage s = _
    unfold execSoftwareMessage; rw [hev]

theorem msgBytes_length (m : Msg) : (msgBytes m).length = 64 := by
  unfold msgBytes
  simp [List.length_flatMap]

/-- An append writes the message's slot and raises the tail. -/
theorem State.append_writes {s : State} {die part : Nat} {control : Bool} (m : Msg) {q : Queue}
    (hq : s.queueAt die (if control then (s.part die part).ctlq else (s.part die part).msgq) = some q) (hok : q.ok = true)
    (hroom : q.held ≠ q.size) (hmark : s.marked q.pa 32 = false) {slot : Nat} (hslot : s.slotOf die q q.tail = slot)
    (hsep : slot + 64 ≤ q.pa + 16 ∨ q.pa + 20 ≤ slot) (hs : s.scrubbed slot 64 (fun _ => true) = false)
    (ht : s.scrubbed (q.pa + 16) 4 (fun _ => true) = false) :
    ∃ t, s.append die part control m = some t ∧ memBytes t.mem slot 64 = msgBytes m ∧
      memNat t.mem (q.pa + 16) 4 = (q.tail + 1) % 2 ^ 32 ∧
      ∀ a, (a < slot ∨ slot + 64 ≤ a) → (a < q.pa + 16 ∨ q.pa + 20 ≤ a) → memGet t.mem a = memGet s.mem a := by
  have hlen := msgBytes_length m
  have hlen' : (natBytes ((q.tail + 1) % 2 ^ 32) 4).length = 4 := natBytes_length ..
  have htake : ¬ ((!q.ok || q.held == q.size || s.marked q.pa 32) = true) := by simp [hok, hroom, hmark]
  have hs1 : ((s.unmark (slot / 32)).unmark (slot / 32 + 1)).scrubbed slot (msgBytes m).length (fun _ => true) = false := by
    rw [hlen]; exact (State.scrubbed_congr rfl ..).trans hs
  have hs2 : (((s.unmark (slot / 32)).unmark (slot / 32 + 1)).poke slot (msgBytes m)).scrubbed (q.pa + 16)
      (natBytes ((q.tail + 1) % 2 ^ 32) 4).length (fun _ => true) = false := by
    rw [hlen']; exact (State.scrubbed_congr (State.poke_dies hs1) ..).trans ht
  have hmem : ((((s.unmark (slot / 32)).unmark (slot / 32 + 1)).poke slot (msgBytes m)).poke (q.pa + 16)
      (natBytes ((q.tail + 1) % 2 ^ 32) 4)).mem =
        memWrite (memWrite s.mem slot (msgBytes m)) (q.pa + 16) (natBytes ((q.tail + 1) % 2 ^ 32) 4) := by
    rw [State.poke_mem hs2, State.poke_mem hs1]; rfl
  have hw := memBytes_memWrite s.mem slot (msgBytes m)
  rw [hlen] at hw
  refine ⟨(((s.unmark (slot / 32)).unmark (slot / 32 + 1)).poke slot (msgBytes m)).poke (q.pa + 16) (natBytes ((q.tail + 1) % 2 ^ 32) 4),
    ?_, ?_, ?_, fun a ha1 ha2 => ?_⟩
  · unfold State.append
    simp only [hq, if_neg htake, hslot]
  · rw [hmem, memBytes_memWrite_out _ (by omega)]; exact hw
  · rw [hmem]; exact (memNat_memWrite ..).trans (by omega)
  · rw [hmem, memGet_memWrite_out _ _ _ _ (by omega), memGet_memWrite_out _ _ _ _ (by omega)]

end Sys2Proof.Machine
end

section
/-! SUPPORT. A message's end and its sending (R370, R381). -/

namespace Sys2Proof.Machine

/-! ### The end of an operation with one token -/

theorem mem_tdel_ne {α : Type} {t : Table α} {k : Nat} {e : Nat × α} (h : e ∈ tdel t k) : e.1 ≠ k := by
  induction t with
  | nil => cases h
  | cons x r ih =>
    obtain ⟨j, w⟩ := x
    unfold tdel at h
    split at h
    next => exact ih h
    next hj =>
      rcases List.mem_cons.mp h with rfl | h
      · exact hj
      · exact ih h

/-- What an operation's completion settles is entries of operations still in flight. -/
theorem State.settleOps_spec (s : State) (id : Nat) (poison : Bool) :
    (s.settleOps id poison).crews = s.crews ∧
      ∀ j, (∀ e ∈ s.ops, e.1 ≠ j) → tget s.ops j = none → tget (s.settleOps id poison).ops j = none := by
  constructor
  · refine foldl_keeps State.crews _ (fun t e => ?_) _ _
    dsimp only
    split
    · rfl
    · split
      · split <;> simp
      · rfl
  · intro j hne hnone
    unfold State.settleOps
    generalize s.ops = l at hne
    induction l generalizing s with
    | nil => exact hnone
    | cons e r ih =>
      rw [List.foldl_cons]
      refine ih _ ?_ fun x hx => hne x (List.mem_cons_of_mem _ hx)
      have he := hne e List.mem_cons_self
      have hset : ∀ (t : Table Op) o, tget t j = none → tget (tset t e.1 o) j = none := fun t o ht => by
        rw [tget_tset_ne _ _ he]; exact ht
      dsimp only
      split
      · exact hnone
      · split
        · split
          · rw [State.push_ops]; exact hset _ _ (hset _ _ hnone)
          · exact hset _ _ (hset _ _ hnone)
        · exact hset _ _ hnone

theorem Crew.tok_modTok_self (c : Crew) {n : Nat} (f : Token → Token) (h : n < 32) : (c.modTok n f).tok n = f (c.tok n) := by
  unfold Crew.modTok Crew.tok
  rw [dif_pos h]
  simp [List.getD_eq_getElem?_getD, h]

theorem Crew.modTok_lanes (c : Crew) (n : Nat) (f : Token → Token) : (c.modTok n f).lanes = c.lanes := by
  unfold Crew.modTok; split <;> rfl

theorem Crew.modSlice_spec (c : Crew) (j : Nat) (f : Slice → Slice) :
    (c.modSlice j f).toks = c.toks ∧ (c.modSlice j f).lanes = c.lanes := by
  unfold Crew.modSlice
  split <;> exact ⟨rfl, rfl⟩

theorem Crew.modSlices_spec (c : Crew) (js : List Nat) (f : Slice → Slice) :
    (c.modSlices js f).toks = c.toks ∧ (c.modSlices js f).lanes = c.lanes :=
  ⟨foldl_keeps Crew.toks _ (fun c j => (c.modSlice_spec j f).1) js c,
    foldl_keeps Crew.lanes _ (fun c j => (c.modSlice_spec j f).2) js c⟩

theorem Crew.settle_spec (c : Crew) (id : Nat) (poison : Bool) :
    (c.settle id poison).toks = c.toks ∧ (c.settle id poison).lanes = c.lanes := by
  unfold Crew.settle
  dsimp only
  exact Crew.modSlices_spec ..

theorem Crew.addEfr_spec (c : Crew) (e : EfrEntry) : (c.addEfr e).toks = c.toks ∧ (c.addEfr e).lanes = c.lanes := by
  unfold Crew.addEfr; split <;> exact ⟨rfl, rfl⟩

theorem Crew.tok_congr {c d : Crew} (h : d.toks = c.toks) (n : Nat) : d.tok n = c.tok n := by unfold Crew.tok; rw [h]

/-- A token that completes: the crew's token, and no operation. -/
theorem State.completeToken_spec {s : State} {k : Nat} {c : Crew} (n id bytes : Nat) (poison : Bool) (hc : tget s.crews k = some c) :
    (s.completeToken k n id bytes poison).ops = s.ops ∧ tget (s.completeToken k n id bytes poison).crews k =
      some { (c.modTok n fun t => t.completed id bytes poison) with macros := tdel c.macros n } := by
  unfold State.completeToken
  simp only [hc]
  constructor
  · rw [State.pushAll_ops]; rfl
  · rw [State.pushAll_crews, State.setCrew_crews, tget_tset_self]

/-- An operation with one pending token that ends: it leaves the tables, and its token completes. -/
theorem State.completeOp_token {s : State} {id n : Nat} {o : Op} {c : Crew} (bytes : Nat) (poison : Bool) (ho : tget s.ops id = some o)
    (hc : tget s.crews o.crew = some c) (hn : n < 32) (hp : (c.tok n).st = .pending id) :
    tget (s.completeOp id [(o.crew, n)] bytes poison).ops id = none ∧
      ∃ c', tget (s.completeOp id [(o.crew, n)] bytes poison).crews o.crew = some c' ∧
        (c'.tok n).st = (if poison then .poisoned else .done) ∧ c'.lanes = c.lanes := by
  obtain ⟨htoks, hlanes⟩ := c.settle_spec id poison
  have hcrew : tget (({ s with ops := tdel s.ops id } : State).modCrew o.crew fun c => c.settle id poison).crews o.crew =
      some (c.settle id poison) := by
    rw [State.modCrew_crews, tget_tmod, if_pos rfl]
    show Option.map _ (tget s.crews o.crew) = _
    rw [hc]; rfl
  obtain ⟨hops, hcrew'⟩ := State.completeToken_spec n id bytes poison hcrew
  unfold State.completeOp
  simp only [ho, List.foldl_cons, List.foldl_nil]
  generalize State.completeToken _ o.crew n id bytes poison = u at hops hcrew' ⊢
  obtain ⟨hcrews, hgone⟩ := u.settleOps_spec id poison
  constructor
  · rw [State.pushAll_ops]
    refine hgone id ?_ ?_
    · rw [hops]; exact fun e he => mem_tdel_ne he
    · rw [hops]; exact tget_tdel_self ..
  · refine ⟨{ ((c.settle id poison).modTok n fun t => t.completed id bytes poison) with macros := tdel (c.settle id poison).macros n },
      ?_, ?_, (Crew.modTok_lanes ..).trans hlanes⟩
    · rw [State.pushAll_crews]
      show tget (State.settleOps ..).crews _ = _
      rw [hcrews]
      exact hcrew'
    · show (((c.settle id poison).modTok n fun t => t.completed id bytes poison).tok n).st = _
      rw [Crew.tok_modTok_self _ _ hn, Crew.tok_congr htoks]
      unfold Token.completed
      rw [if_pos hp]

/-- A MSGS that is not sent ends with its token poisoned. -/
theorem State.endMsg_poisoned {s : State} {id n : Nat} {o : Op} {c : Crew} (ho : tget s.ops id = some o)
    (htok : o.tokens = [(o.crew, n)]) (hc : tget s.crews o.crew = some c) (hn : n < 32) (hp : (c.tok n).st = .pending id) :
    tget (s.endMsg id o false).ops id = none ∧
      ∃ c', tget (s.endMsg id o false).crews o.crew = some c' ∧ (c'.tok n).st = .poisoned ∧ c'.lanes = c.lanes := by
  obtain ⟨htoks, hlanes⟩ := c.addEfr_spec ⟨Cause.protect.code, n, false, 0xFFFF, 0⟩
  have hcrew : tget (({ s with resend := tdel s.resend id } : State).recordFault o .protect 0xFFFF false 0).crews o.crew =
      some (c.addEfr ⟨Cause.protect.code, n, false, 0xFFFF, 0⟩) := by
    unfold State.recordFault
    rw [htok, List.foldl_cons, List.foldl_nil, State.modCrew_crews, tget_tmod, if_pos rfl]
    show Option.map _ (tget s.crews o.crew) = _
    rw [hc]; rfl
  have hops : tget (({ s with resend := tdel s.resend id } : State).recordFault o .protect 0xFFFF false 0).ops id = some o := by
    unfold State.recordFault
    rw [htok]
    exact ho
  obtain ⟨h1, c', h2, h3, h4⟩ := State.completeOp_token 32 true hops hcrew hn ((Crew.tok_congr htoks n) ▸ hp)
  unfold State.endMsg
  simp only [Bool.false_eq_true, if_false, Bool.not_false, htok]
  exact ⟨h1, c', h2, h3, h4.trans hlanes⟩

/-! ### Sending -/

/-- A MSGS that is ready is sent. -/
theorem exec_messageResend_ready {s : State} {id : Nat} {o : Op} {dev part typ : Nat} {payload : List Word}
    (hev : s.ev = some (.messageResend id)) (ho : tget s.ops id = some o) (hb : o.body = .send dev part typ payload false)
    (hr : s.msgReady id o = true) : exec .messageResend s = .next (s.firstSend id o) := by
  show execMessageResend s = _
  unfold execMessageResend
  simp only [hev, ho, hb, hr, if_true]

/-- A message to another device goes out. -/
theorem State.handMsg_out {s : State} (id : Nat) (o : Op) {dev : Nat} {m : Msg} (hd : dev ≠ s.devOf m.die) (ho : s.dieOfDev dev = none) :
    s.handMsg id o dev m = { s with out := s.out ++
      [.message dev (s.portTo m.die (s.partOf (((tget s.blocks o.block).map (·.ctx)).getD 0)) dev 0x1FFFFF0) m] } := by
  unfold State.handMsg
  rw [if_neg hd]
  simp only [ho]
  rfl

/-- The state in which a MSGS is handed to its destination: its release has been published, its number taken, and its time-out set. -/
def State.sending (s : State) (id : Nat) (o : Op) (dev part typ : Nat) (payload : List Word) (m : Msg) : State :=
  let die := dieOfCore o.core
  let s := s.publishOwn o.crew o.slices o.born
  let s := s.modPart die m.fromPart fun p => { p with seq := tset p.seq (16 * dev + part) (m.seq + 1) }
  let s := s.modOp id fun o => { o with body := .send dev part typ payload true }
  let s : State := { s with resend := tset s.resend id (m, s.ticks die) }
  if (s.die die).rto.toNat = 0 then s else s.later ⟨s.ticks die + (s.die die).rto.toNat, some die, .peerTimeout id⟩

theorem State.sending_spec (s : State) (id : Nat) (o : Op) (dev part typ : Nat) (payload : List Word) (m : Msg) :
    let t := s.sending id o dev part typ payload m
    t.mem = s.mem ∧ t.pkg = s.pkg ∧ t.out = s.out ∧ t.ctxs = s.ctxs ∧
      (∀ b, (tget t.blocks b).map (·.ctx) = (tget s.blocks b).map (·.ctx)) ∧
      (t.part (dieOfCore o.core) m.fromPart).route = (s.part (dieOfCore o.core) m.fromPart).route := by
  have hblocks : ∀ b, (tget (s.publishOwn o.crew o.slices o.born).blocks b).map (·.ctx) = (tget s.blocks b).map (·.ctx) := fun b => by
    unfold State.publishOwn
    dsimp only
    rw [tget_tmap, Option.map_map]
    rfl
  have hroute := congrArg Part.route ((s.publishOwn o.crew o.slices o.born).part_modPart_self (dieOfCore o.core) m.fromPart
    fun p => { p with seq := tset p.seq (16 * dev + part) (m.seq + 1) })
  unfold State.sending
  dsimp only
  split <;> exact ⟨rfl, rfl, rfl, rfl, hblocks, hroute⟩

/-- A MSGS to a device that has a route is handed to it. -/
theorem State.firstSend_eq {s : State} (id : Nat) {o : Op} {dev part typ : Nat} {payload : List Word} {started : Bool}
    (hb : o.body = .send dev part typ payload started) {mine : Nat}
    (hmine : s.partOf (((tget s.blocks o.block).map (·.ctx)).getD 0) = mine) (hp : o.poisonedPre = false)
    (hr : s.routed (dieOfCore o.core) mine dev = true) :
    let m : Msg := ⟨dieOfCore o.core, part, typ, mine, s.devOf (dieOfCore o.core),
      (tget (s.part (dieOfCore o.core) mine).seq (16 * dev + part)).getD 0, id, 0, payload⟩
    s.firstSend id o = (s.sending id o dev part typ payload m).handMsg id o dev m := by
  unfold State.firstSend
  simp only [hb, hmine, hp, hr, Bool.not_true, Bool.or_false, Bool.false_eq_true, if_false]
  rfl

/-- A MSGS to another package's device that has a route goes out with the sender's number. -/
theorem State.firstSend_out {s : State} (id : Nat) {o : Op} {dev part typ : Nat} {payload : List Word} {started : Bool}
    (hb : o.body = .send dev part typ payload started) {mine : Nat}
    (hmine : s.partOf (((tget s.blocks o.block).map (·.ctx)).getD 0) = mine) (hp : o.poisonedPre = false)
    (hr : s.routed (dieOfCore o.core) mine dev = true) (hd : dev ≠ s.devOf (dieOfCore o.core)) (hdie : s.dieOfDev dev = none) :
    ∃ t, s.firstSend id o = t ∧ t.mem = s.mem ∧
      .message dev (s.portTo (dieOfCore o.core) mine dev 0x1FFFFF0) ⟨dieOfCore o.core, part, typ, mine, s.devOf (dieOfCore o.core),
        (tget (s.part (dieOfCore o.core) mine).seq (16 * dev + part)).getD 0, id, 0, payload⟩ ∈ t.out := by
  have heq := State.firstSend_eq id hb hmine hp hr
  dsimp only at heq
  generalize hm : (⟨dieOfCore o.core, part, typ, mine, s.devOf (dieOfCore o.core),
    (tget (s.part (dieOfCore o.core) mine).seq (16 * dev + part)).getD 0, id, 0, payload⟩ : Msg) = m at heq ⊢
  obtain ⟨hmem, hpkg, -, hctxs, hblocks, hroute⟩ := s.sending_spec id o dev part typ payload m
  have hfrom : m.fromPart = mine := by rw [← hm]
  have hdest : m.die = dieOfCore o.core := by rw [← hm]
  generalize s.sending id o dev part typ payload m = u at heq hmem hpkg hctxs hblocks hroute
  have hdev : dev ≠ u.devOf m.die := by unfold State.devOf; rw [hpkg, hdest]; exact hd
  have hout : u.dieOfDev dev = none := by unfold State.dieOfDev; rw [hpkg]; exact hdie
  have hpart : u.partOf (((tget u.blocks o.block).map (·.ctx)).getD 0) = mine := by
    rw [hblocks]; unfold State.partOf; rw [hctxs]; exact hmine
  have hport : u.portTo m.die mine dev 0x1FFFFF0 = s.portTo (dieOfCore o.core) mine dev 0x1FFFFF0 := by
    rw [hfrom] at hroute
    unfold State.portTo; rw [hdest, hroute]
  rw [State.handMsg_out id o hdev hout, hpart, hport] at heq
  exact ⟨_, heq, hmem, List.mem_append_right _ List.mem_cons_self⟩

end Sys2Proof.Machine
end

section
/-! SUPPORT. Reductions at memory: applications, and the reorder buffers (R193 to R196). -/

namespace Sys2Proof.Machine

/-! ### The reference clock under a reduction -/

theorem State.ticks_congr {s t : State} (h : t.dies = s.dies) (d : Nat) : t.ticks d = s.ticks d := by
  unfold State.ticks State.die; rw [h]

/-- A change of a die that leaves its reference clock leaves every reading of it. -/
theorem State.ticks_modDie (s : State) (k : Nat) {f : Die → Die} (hf : ∀ x, (f x).refclk = x.refclk) (d : Nat) :
    (s.modDie k f).ticks d = s.ticks d := by
  unfold State.ticks
  rw [State.die_modDie]
  split
  next h => subst h; rw [hf]
  · rfl

theorem State.ticks_cancelScrub (s : State) (a n d : Nat) : (s.cancelScrub a n).ticks d = s.ticks d := by
  unfold State.cancelScrub
  split
  · unfold State.ticks State.die
    dsimp only
    rw [tget_tmap]
    cases tget s.dies d with
    | none => rfl
    | some x =>
      simp only [Option.map_some, Option.getD_some]
      split
      · split <;> rfl
      · rfl
  · rfl

theorem State.ticks_errorMark (s : State) (g d : Nat) : (s.errorMark g).ticks d = s.ticks d := by
  exact State.ticks_modDie s (s.memDie (32 * g)) (f := fun x => { x with
    lastgran := BitVec.ofNat 32 (bits (s.dieAddr (32 * g)) 37 6), marked := BitVec.ofNat 16 (min 0xFFFF (x.marked.toNat + 1)) })
    (fun _ => rfl) d

theorem State.ticks_mergeRead (s : State) (a n d : Nat) : (s.mergeRead a n).ticks d = s.ticks d := by
  unfold State.mergeRead
  split
  · rfl
  · exact (foldl_keeps (fun s : State => s.ticks d) _ (fun t g => t.ticks_errorMark g d) _ _).trans (s.ticks_cancelScrub a n d)

theorem State.dropWrite_dies (s : State) (a : Nat) : (s.dropWrite a).dies = s.dies := by unfold State.dropWrite; split <;> rfl

theorem State.ticks_put (s : State) (a : Nat) (bs : List Byte) (d : Nat) : (s.put a bs).ticks d = s.ticks d := by
  unfold State.put State.monitorHit
  rw [State.ticks_congr (State.pushAll_dies ..), State.ticks_congr (State.taskHit_dies ..), State.ticks_cancelScrub]
  exact State.ticks_congr (State.spillHit_dies ..) d

theorem State.ticks_poke (s : State) (a : Nat) (bs : List Byte) (d : Nat) : (s.poke a bs).ticks d = s.ticks d := by
  unfold State.poke State.hwPoke
  split
  · exact State.ticks_put (s.taint a bs.length) a bs d
  · refine (foldl_keeps (fun s : State => s.ticks d) _ (fun t p => ?_) _ _).trans
      (State.ticks_mergeRead (s.taint a bs.length) a bs.length d)
    split
    · exact State.ticks_congr (State.dropWrite_dies ..) d
    · exact State.ticks_put t p.2.1 p.2.2 d

theorem State.rekey_dies (s : State) (l : Loc) (n : Nat) : (s.rekey l n).dies = s.dies := by
  refine foldl_keeps State.dies _ (fun t b => ?_) _ _
  split
  · split <;> rfl
  · rfl

theorem State.flushDelta_dies (s : State) (h leaf : Nat) : (s.flushDelta h leaf).dies = s.dies := by
  unfold State.flushDelta
  split
  · exact State.push_dies ..
  · rfl

theorem State.bumpAt_dies (s : State) (h leaf amount : Nat) : (s.bumpAt h leaf amount).dies = s.dies := by
  have hflush : ∀ (c : Bool) (l : List Delta), (if c then match l with
      | e :: _ => s.flushDelta h e.leaf
      | [] => s else s).dies = s.dies := fun c l => by
    split
    · split
      · exact s.flushDelta_dies ..
      · rfl
    · rfl
  unfold State.bumpAt
  dsimp only
  split
  · exact hflush ..
  · exact hflush ..

theorem State.bump_dies (s : State) (k amount : Nat) : (s.bump k amount).dies = s.dies := by
  unfold State.bump
  split
  · split
    · exact State.bumpAt_dies ..
    · rfl
  · rfl

theorem State.ticks_storeAt (s : State) (l : Loc) (bs : List Byte) (d : Nat) : (s.storeAt l bs).ticks d = s.ticks d := by
  have hm := s.ticks_mergeRead l.pa bs.length d
  unfold State.storeAt
  dsimp only
  split
  · exact (State.ticks_congr (State.dropWrite_dies ..) d).trans hm
  · obtain ⟨cores, hold⟩ := (s.mergeRead l.pa bs.length).noteOlder_changes l bs.length
    rw [State.ticks_congr (State.bump_dies ..), State.ticks_poke, State.ticks_congr (State.rekey_dies ..), hold]
    exact hm

theorem State.ticks_redLane (s : State) (r : Contribution) (l : RedLane) (d : Nat) : (s.redLane r l).ticks d = s.ticks d := by
  unfold State.redLane
  dsimp only
  split
  · have hb := State.ticks_congr ((s.mark (r.line * 128 + l.off) (redWidth l.kind r.coll)).bump_dies (r.line * 128 + l.off) 1) d
    split <;> exact hb
  · split
    · rfl
    · split
      · exact State.ticks_storeAt ..
      · exact State.ticks_storeAt ..

/-- A contribution that is applied leaves the reference clocks. -/
theorem State.ticks_redPerform (s : State) (r : Contribution) (d : Nat) : (s.redPerform r).ticks d = s.ticks d := by
  have hl := foldl_keeps (fun s : State => s.ticks d) (fun s l => s.redLane r l) (fun t l => t.ticks_redLane r l d) r.lanes s
  unfold State.redPerform
  dsimp only
  split
  · refine (foldl_keeps (fun s : State => s.ticks d) _ (fun t l => ?_) _ _).trans hl
    rfl
  · exact hl

/-! ### Reorder buffers -/

theorem Home.entry_setEntry (h : Home) (stream line : Nat) (e : Option RobEntry)
    (he : ∀ x, e = some x → x.stream = stream ∧ x.line = line) : (h.setEntry stream line e).entry stream line = e := by
  have hgone : (h.entries.filter fun x => !(x.stream == stream && x.line == line)).find? (fun x => x.stream == stream && x.line == line) =
      none := by
    rw [List.find?_eq_none]
    intro x hx heq
    have := (List.mem_filter.mp hx).2
    rw [heq] at this
    cases this
  unfold Home.setEntry Home.entry
  rw [List.find?_append, hgone]
  cases e with
  | none => rfl
  | some x =>
    obtain ⟨h1, h2⟩ := he x rfl
    simp [h1, h2]

/-- A home's entry set: the home holds it, and memory and marks stay. -/
theorem State.setEntry_spec (s : State) (h stream line : Nat) (e : Option RobEntry)
    (he : ∀ x, e = some x → x.stream = stream ∧ x.line = line) :
    ((s.modHome h fun x => x.setEntry stream line e).home h).entry stream line = e := by
  rw [State.home_modHome_self]
  exact Home.entry_setEntry _ _ _ _ he

/-- The time-out of an entry changes the timers alone. -/
theorem State.redTimer_eq (s : State) (h stream line : Nat) :
    s.redTimer h stream line = { s with timers := (s.redTimer h stream line).timers } := by
  unfold State.redTimer
  dsimp only
  split <;> rfl

/-- No contribution waits at an entry's next index. -/
def RobEntry.idle (e : RobEntry) : Prop := ∀ w ∈ e.waiting, w.index ≠ e.next

theorem RobEntry.idle_find {e : RobEntry} (h : e.idle) : (e.waiting.find? fun r => r.index == e.next) = none := by
  rw [List.find?_eq_none]
  exact fun w hw => by simpa using h w hw

/-- An entry at whose next index nothing waits is set as it is. -/
theorem State.redDrain_idle (s : State) (h : Nat) {e : RobEntry} (hi : e.idle) (fuel : Nat) :
    s.redDrain h e fuel = s.modHome h fun x => x.setEntry e.stream e.line (some e) := by
  cases fuel with
  | zero => rfl
  | succ fuel =>
    unfold State.redDrain
    rw [RobEntry.idle_find hi]

/-- The entry left when its contribution at its next index has been applied. -/
def RobEntry.after (e : RobEntry) (r : Contribution) (since : Nat) : RobEntry :=
  { e with next := e.next + 1, waiting := e.waiting.filter (· != r), since := since }

/-- A contribution that waits at an entry's next index is applied, and those after it. -/
theorem State.redDrain_step (s : State) (h : Nat) {e : RobEntry} {r : Contribution} (fuel : Nat)
    (hf : (e.waiting.find? fun r => r.index == e.next) = some r) :
    s.redDrain h e (fuel + 1) =
      if r.last then (s.redPerform r).modHome h fun x => x.setEntry e.stream e.line none
      else (s.redPerform r).redDrain h (e.after r (s.ticks (h / 64))) fuel := by
  rw [← s.ticks_redPerform r (h / 64)]
  conv_lhs => unfold State.redDrain
  rw [hf]
  rfl

end Sys2Proof.Machine
end

section
/-! SUPPORT. Contributions as they arrive, are refused, wait and are applied; time-outs; reduction messages (R193 to R196, R378). -/

namespace Sys2Proof.Machine

/-! ### Arrival (R193 to R195) -/

/-- What an entry that is set, with its time-out, leaves of the state. -/
theorem State.entrySet_spec (s : State) (h stream line : Nat) (e : Option RobEntry)
    (he : ∀ x, e = some x → x.stream = stream ∧ x.line = line) :
    let t := (s.modHome h fun x => x.setEntry stream line e).redTimer h stream line
    t.mem = s.mem ∧ t.marks = s.marks ∧ t.retries = s.retries ∧ (t.home h).entry stream line = e := by
  dsimp only
  rw [State.redTimer_eq]
  exact ⟨rfl, rfl, rfl, s.setEntry_spec h stream line e he⟩

/-- What a refusal leaves of the state. -/
theorem State.redRefuse_spec (s : State) (r : Contribution) (n : Nat) :
    (s.redRefuse r n).mem = s.mem ∧ ((s.redRefuse r n).home r.slice).refused = true ∧
      ((s.redRefuse r n).home r.slice).entries = (s.home r.slice).entries ∧
      (s.redRefuse r n).retries = tset s.retries s.nextId ⟨r, n + 1⟩ := by
  have hx := s.home_modHome_self r.slice fun x => { x with refused := true }
  refine ⟨rfl, ?_, ?_, rfl⟩
  · show ((s.modHome r.slice fun x => { x with refused := true }).home r.slice).refused = true
    rw [hx]
  · show ((s.modHome r.slice fun x => { x with refused := true }).home r.slice).entries = _
    rw [hx]

section
variable {s : State} {r : Contribution} {n : Nat}

theorem State.redArrive_direct (h : r.stream = 0 ∨ ((s.home r.slice).entry r.stream r.line = none ∧ r.index = 0 ∧ r.last = true)) :
    s.redArrive r n = s.redPerform r := by
  unfold State.redArrive
  dsimp only
  by_cases h0 : r.stream = 0
  · rw [if_pos h0]
  · obtain ⟨he, hi, hl⟩ := h.resolve_left h0
    rw [if_neg h0, he]
    exact if_pos ⟨hi, hl⟩

/-- A contribution whose stream and line have no entry, and that finds none free or comes too far ahead. -/
theorem State.redArrive_refused (h0 : r.stream ≠ 0) (he : (s.home r.slice).entry r.stream r.line = none)
    (hd : ¬ (r.index = 0 ∧ r.last = true)) (hn : n < 2) (hf : 256 ≤ (s.home r.slice).entries.length ∨ 16 ≤ r.index) :
    s.redArrive r n = s.redRefuse r n := by
  unfold State.redArrive
  simp only [if_neg h0, he, if_neg hd]
  exact if_pos ⟨hn, hf⟩

/-- A contribution that opens an entry. -/
theorem State.redArrive_opens (h0 : r.stream ≠ 0) (he : (s.home r.slice).entry r.stream r.line = none)
    (hd : ¬ (r.index = 0 ∧ r.last = true)) (hf : 2 ≤ n ∨ ((s.home r.slice).entries.length < 256 ∧ r.index < 16)) :
    s.redArrive r n = (s.redDrain r.slice ⟨r.stream, r.line, 0, [r], s.ticks (r.slice / 64)⟩ 1).redTimer r.slice r.stream r.line := by
  unfold State.redArrive
  simp only [if_neg h0, he, if_neg hd]
  exact if_neg (by omega)

variable {e : RobEntry}

/-- A repeat is counted. -/
theorem State.redArrive_repeat (h0 : r.stream ≠ 0) (he : (s.home r.slice).entry r.stream r.line = some e)
    (hd : r.index < e.next ∨ ∃ w ∈ e.waiting, w.index = r.index) :
    s.redArrive r n = s.modHome r.slice fun x => { x with dups := min 0xFFFF (x.dups + 1) } := by
  unfold State.redArrive
  simp only [if_neg h0, he]
  refine if_pos (hd.imp_right fun ⟨w, hw, hi⟩ => ?_)
  rw [List.any_eq_true]
  exact ⟨w, hw, beq_iff_eq.mpr hi⟩

/-- A contribution whose index has not come before is no repeat. -/
theorem RobEntry.noRepeat (hd : e.next ≤ r.index) (hw : ∀ w ∈ e.waiting, w.index ≠ r.index) :
    ¬ (r.index < e.next ∨ (e.waiting.any fun w => w.index == r.index) = true) := by
  rintro (h | h)
  · omega
  · obtain ⟨w, hmem, hi⟩ := List.any_eq_true.mp h
    exact hw w hmem (beq_iff_eq.mp hi)

/-- A contribution that comes too far ahead of its entry. -/
theorem State.redArrive_ahead (h0 : r.stream ≠ 0) (he : (s.home r.slice).entry r.stream r.line = some e)
    (hw : ∀ w ∈ e.waiting, w.index ≠ r.index) (hn : n < 2) (hi : e.next + 16 ≤ r.index) : s.redArrive r n = s.redRefuse r n := by
  unfold State.redArrive
  simp only [if_neg h0, he, if_neg (RobEntry.noRepeat (by omega) hw)]
  exact if_pos ⟨hn, hi⟩

/-- A contribution that its entry takes. -/
theorem State.redArrive_takes (h0 : r.stream ≠ 0) (he : (s.home r.slice).entry r.stream r.line = some e)
    (hw : ∀ w ∈ e.waiting, w.index ≠ r.index) (h1 : e.next ≤ r.index) (h2 : r.index < e.next + 16) :
    s.redArrive r n =
      (s.redDrain r.slice { e with waiting := e.waiting ++ [r] } (e.waiting.length + 1)).redTimer r.slice r.stream r.line := by
  unfold State.redArrive
  simp only [if_neg h0, he, if_neg (RobEntry.noRepeat h1 hw)]
  exact if_neg (by omega)

end

/-- A contribution that alone has its index, added to those that wait and taken out again. -/
theorem filter_ne_append {r : Contribution} {l : List Contribution} (h : ∀ w ∈ l, w.index ≠ r.index) :
    (l ++ [r]).filter (· != r) = l := by
  have hl : l.filter (· != r) = l := List.filter_eq_self.mpr fun w hw => by
    rw [bne_iff_ne]
    rintro rfl
    exact h _ hw rfl
  rw [List.filter_append, hl]
  simp

theorem find_append_self {r : Contribution} {l : List Contribution} {k : Nat} (h : ∀ w ∈ l, w.index ≠ k) (hr : r.index = k) :
    (l ++ [r]).find? (fun w => w.index == k) = some r := by
  rw [List.find?_append, List.find?_eq_none.mpr fun w hw => by simpa using h w hw]
  simp [hr]

/-- A contribution at its entry's next index is applied, and those after it; the last frees the entry. -/
theorem State.redDrain_first (s : State) (h : Nat) {e : RobEntry} {r : Contribution} (fuel : Nat)
    (hw : ∀ w ∈ e.waiting, w.index ≠ r.index) (hi : r.index = e.next) :
    s.redDrain h { e with waiting := e.waiting ++ [r] } (fuel + 1) =
      if r.last then (s.redPerform r).modHome h fun x => x.setEntry e.stream e.line none
      else (s.redPerform r).redDrain h { e with next := e.next + 1, since := s.ticks (h / 64) } fuel := by
  have hfind : (e.waiting ++ [r]).find? (fun w => w.index == e.next) = some r := find_append_self (fun w hm => hi ▸ hw w hm) hi
  have hafter : ({ e with waiting := e.waiting ++ [r] } : RobEntry).after r (s.ticks (h / 64)) =
      { e with next := e.next + 1, since := s.ticks (h / 64) } := by
    unfold RobEntry.after
    dsimp only
    rw [filter_ne_append hw]
  rw [State.redDrain_step s h (e := { e with waiting := e.waiting ++ [r] }) fuel hfind, hafter]

/-- Where none waits at the index after it, the entry then waits for that one. -/
theorem State.redDrain_one (s : State) (h : Nat) {e : RobEntry} {r : Contribution} (fuel : Nat)
    (hw : ∀ w ∈ e.waiting, w.index ≠ r.index) (hi : r.index = e.next) (hnext : ∀ w ∈ e.waiting, w.index ≠ e.next + 1) :
    s.redDrain h { e with waiting := e.waiting ++ [r] } (fuel + 1) = (s.redPerform r).modHome h fun x =>
      x.setEntry e.stream e.line (if r.last then none else some { e with next := e.next + 1, since := s.ticks (h / 64) }) := by
  rw [s.redDrain_first h fuel hw hi]
  split
  · rfl
  · exact State.redDrain_idle _ h (e := { e with next := e.next + 1, since := s.ticks (h / 64) }) hnext fuel

section
variable {s : State} {r : Contribution}

/-- The first contribution of a line, with others to come, is applied, and its entry waits for the next. -/
theorem State.redArrive_first (h0 : r.stream ≠ 0) (he : (s.home r.slice).entry r.stream r.line = none)
    (hlen : (s.home r.slice).entries.length < 256) (hi : r.index = 0) (hl : r.last = false) :
    (s.redArrive r 0).mem = (s.redPerform r).mem ∧ (s.redArrive r 0).marks = (s.redPerform r).marks ∧
      ((s.redArrive r 0).home r.slice).entry r.stream r.line = some ⟨r.stream, r.line, 1, [], s.ticks (r.slice / 64)⟩ := by
  have hdrain := s.redDrain_one r.slice (e := ⟨r.stream, r.line, 0, [], s.ticks (r.slice / 64)⟩) 0 nofun hi nofun
  rw [hl] at hdrain
  obtain ⟨h1, h2, -, h4⟩ := (s.redPerform r).entrySet_spec r.slice r.stream r.line
    (some ⟨r.stream, r.line, 1, [], s.ticks (r.slice / 64)⟩) fun x hx => by cases hx; exact ⟨rfl, rfl⟩
  have heq := (State.redArrive_opens (n := 0) h0 he (by rw [hl]; simp) (.inr ⟨hlen, by omega⟩)).trans
    (congrArg (State.redTimer · r.slice r.stream r.line) hdrain)
  rw [heq]
  exact ⟨h1, h2, h4⟩

/-- A contribution that opens an entry before its index has come waits in it. -/
theorem State.redArrive_parks {n : Nat} (h0 : r.stream ≠ 0) (he : (s.home r.slice).entry r.stream r.line = none) (hi : 0 < r.index)
    (hf : 2 ≤ n ∨ ((s.home r.slice).entries.length < 256 ∧ r.index < 16)) :
    (s.redArrive r n).mem = s.mem ∧ (s.redArrive r n).marks = s.marks ∧ (s.redArrive r n).retries = s.retries ∧
      ((s.redArrive r n).home r.slice).entry r.stream r.line = some ⟨r.stream, r.line, 0, [r], s.ticks (r.slice / 64)⟩ := by
  have hidle : (⟨r.stream, r.line, 0, [r], s.ticks (r.slice / 64)⟩ : RobEntry).idle := fun w hw => by
    rw [List.mem_singleton.mp hw]; exact Nat.ne_of_gt hi
  rw [State.redArrive_opens h0 he (by omega) hf, State.redDrain_idle _ _ hidle]
  exact s.entrySet_spec r.slice r.stream r.line (some ⟨r.stream, r.line, 0, [r], s.ticks (r.slice / 64)⟩)
    fun x hx => by cases hx; exact ⟨rfl, rfl⟩

variable {next since : Nat} {waiting : List Contribution} (h0 : r.stream ≠ 0)
include h0

/-- A contribution that comes before its index waits. -/
theorem State.redArrive_waits (he : (s.home r.slice).entry r.stream r.line = some ⟨r.stream, r.line, next, waiting, since⟩)
    (hrep : ∀ w ∈ waiting, w.index ≠ r.index) (hidle : ∀ w ∈ waiting, w.index ≠ next)
    (h1 : next < r.index) (h2 : r.index < next + 16) :
    (s.redArrive r 0).mem = s.mem ∧ (s.redArrive r 0).marks = s.marks ∧
      ((s.redArrive r 0).home r.slice).entry r.stream r.line = some ⟨r.stream, r.line, next, waiting ++ [r], since⟩ := by
  have hidle' : (⟨r.stream, r.line, next, waiting ++ [r], since⟩ : RobEntry).idle := fun w hm => by
    rcases List.mem_append.mp hm with hm | hm
    · exact hidle w hm
    · rw [List.mem_singleton.mp hm]; exact Nat.ne_of_gt h1
  obtain ⟨hmem, hmarks, -, hentry⟩ := s.entrySet_spec r.slice r.stream r.line
    (some ⟨r.stream, r.line, next, waiting ++ [r], since⟩) fun x hx => by cases hx; exact ⟨rfl, rfl⟩
  rw [State.redArrive_takes h0 he hrep h1.le h2, State.redDrain_idle _ _ hidle']
  exact ⟨hmem, hmarks, hentry⟩

/-- A contribution at its entry's next index, with none waiting at the one after, is applied; the last frees the entry. -/
theorem State.redArrive_next (he : (s.home r.slice).entry r.stream r.line = some ⟨r.stream, r.line, next, waiting, since⟩)
    (hrep : ∀ w ∈ waiting, w.index ≠ r.index) (hi : r.index = next) (hnext : ∀ w ∈ waiting, w.index ≠ next + 1) :
    (s.redArrive r 0).mem = (s.redPerform r).mem ∧ (s.redArrive r 0).marks = (s.redPerform r).marks ∧
      (r.last = true → ((s.redArrive r 0).home r.slice).entry r.stream r.line = none) ∧
      (r.last = false → ((s.redArrive r 0).home r.slice).entry r.stream r.line =
        some ⟨r.stream, r.line, next + 1, waiting, s.ticks (r.slice / 64)⟩) := by
  obtain ⟨h1, h2, -, h4⟩ := (s.redPerform r).entrySet_spec r.slice r.stream r.line
    (if r.last then none else some ⟨r.stream, r.line, next + 1, waiting, s.ticks (r.slice / 64)⟩) fun x hx => by
      split at hx
      · cases hx
      · cases hx; exact ⟨rfl, rfl⟩
  rw [State.redArrive_takes h0 he hrep hi.ge (show r.index < next + 16 by omega),
    s.redDrain_one r.slice (e := ⟨r.stream, r.line, next, waiting, since⟩) waiting.length hrep hi hnext]
  exact ⟨h1, h2, fun hl => by rw [h4, hl]; rfl, fun hl => by rw [h4, hl]; rfl⟩

/-- A contribution that another waited for is applied before it. -/
theorem State.redArrive_chain {q : Contribution}
    (he : (s.home r.slice).entry r.stream r.line = some ⟨r.stream, r.line, next, [q], since⟩)
    (hrep : ∀ w ∈ [q], w.index ≠ r.index) (hi : r.index = next) (hl : r.last = false) (hq : q.index = next + 1) :
    (s.redArrive r 0).mem = ((s.redPerform r).redPerform q).mem ∧ (s.redArrive r 0).marks = ((s.redPerform r).redPerform q).marks ∧
      (q.last = true → ((s.redArrive r 0).home r.slice).entry r.stream r.line = none) ∧
      (q.last = false → ∃ e', ((s.redArrive r 0).home r.slice).entry r.stream r.line = some e' ∧ e'.next = next + 2 ∧
        e'.waiting = []) := by
  have hfirst := s.redDrain_first r.slice (e := ⟨r.stream, r.line, next, [q], since⟩) 1 hrep hi
  rw [hl, if_neg Bool.false_ne_true] at hfirst
  have hsecond := (s.redPerform r).redDrain_one r.slice (r := q) (e := ⟨r.stream, r.line, next + 1, [], s.ticks (r.slice / 64)⟩) 0
    nofun hq nofun
  obtain ⟨h1, h2, -, h4⟩ := ((s.redPerform r).redPerform q).entrySet_spec r.slice r.stream r.line
    (if q.last then none else some ⟨r.stream, r.line, next + 2, [], (s.redPerform r).ticks (r.slice / 64)⟩) fun x hx => by
      split at hx
      · cases hx
      · cases hx; exact ⟨rfl, rfl⟩
  have heq := (State.redArrive_takes (n := 0) h0 he hrep hi.ge (show r.index < next + 16 by omega)).trans
    (congrArg (State.redTimer · r.slice r.stream r.line) (hfirst.trans hsecond))
  rw [heq]
  exact ⟨h1, h2, fun hl => by rw [h4, hl]; rfl, fun hl => ⟨_, by rw [h4, hl]; rfl, rfl, rfl⟩⟩

end

/-! ### Applications (R194) -/

theorem State.redPerform_one (s : State) {r : Contribution} {l : RedLane} (hl : r.lanes = [l]) (hc : r.coll = false) :
    s.redPerform r = s.redLane r l := by
  unfold State.redPerform
  simp only [hl, hc, List.foldl_cons, List.foldl_nil, Bool.false_and, Bool.false_eq_true, if_false]

theorem redWidth_pos (k : RedKind) : 0 < redWidth k false ∧ redWidth k false < 32 := by
  unfold redWidth
  split
  next e => cases e <;> exact ⟨by decide, by decide⟩
  next e => cases e <;> exact ⟨by decide, by decide⟩
  · simp

section
variable {s : State} {r : Contribution} {l : RedLane} (hl : r.lanes = [l]) (hc : r.coll = false)
include hl hc

/-- A poisoned lane marks its location. -/
theorem State.redPerform_poison (hp : l.poison = true) (he : s.enrols = []) :
    (s.redPerform r).mem = s.mem ∧ (s.redPerform r).marked (r.line * 128 + l.off) (redWidth l.kind false) = true := by
  have hmark : s.redPerform r = s.mark (r.line * 128 + l.off) (redWidth l.kind false) := by
    rw [s.redPerform_one hl hc]
    unfold State.redLane
    simp only [hp, hc, if_true, Bool.false_eq_true, if_false]
    exact State.bump_of_none _ _ (by exact he)
  rw [hmark]
  refine ⟨rfl, ?_⟩
  have hg : (r.line * 128 + l.off) / 32 ∈ granules (r.line * 128 + l.off) (redWidth l.kind false) := by
    have := (redWidth_pos l.kind).1
    rw [mem_granules]; omega
  unfold State.marked
  rw [List.any_eq_true]
  refine ⟨_, hg, ?_⟩
  rw [List.contains_iff_mem]
  exact (mem_foldl_sins ..).mpr (.inl hg)

/-- A poisoned location stays as it is. -/
theorem State.redPerform_marked (hp : l.poison = false) (hm : s.marked (r.line * 128 + l.off) (redWidth l.kind false) = true) :
    s.redPerform r = s := by
  rw [s.redPerform_one hl hc]
  unfold State.redLane
  simp only [hp, hc, hm, Bool.false_eq_true, if_false, if_true]

/-- An application writes the reduction of what its location holds and the lane's value. -/
theorem State.redPerform_applies (hp : l.poison = false) (hm : s.marked (r.line * 128 + l.off) (redWidth l.kind false) = false)
    (hs : s.scrubbed (r.line * 128 + l.off) (redWidth l.kind false) (fun _ => true) = false) (hk : s.gkeys = []) (he : s.enrols = []) :
    (s.redPerform r).marks = s.marks ∧ (s.redPerform r).mem = memWrite s.mem (r.line * 128 + l.off)
      (natBytes (redApply l.kind false r.index (memNat s.mem (r.line * 128 + l.off) (redWidth l.kind false))
        (l.val.toNat % 2 ^ (8 * redWidth l.kind false))) (redWidth l.kind false)) := by
  have hstore : ∀ bs : List Byte, bs.length = redWidth l.kind false →
      (s.storeAt ⟨r.line * 128 + l.off, r.key⟩ bs).marks = s.marks ∧
        (s.storeAt ⟨r.line * 128 + l.off, r.key⟩ bs).mem = memWrite s.mem (r.line * 128 + l.off) bs := fun bs hlen => by
    have hlt := (redWidth_pos l.kind).2
    rw [← hlen] at hm hs hlt
    obtain ⟨cores, h1⟩ := s.noteOlder_changes ⟨r.line * 128 + l.off, r.key⟩ bs.length
    obtain ⟨gkeys, h2⟩ := State.rekey_changes (s := { s with cores := cores }) ⟨r.line * 128 + l.off, r.key⟩ bs.length hk
    obtain ⟨crews, nodes, queues, due, tainted, h3⟩ := State.poke_changes (s := { s with cores := cores, gkeys := gkeys }) (bs := bs)
      ((State.scrubbed_congr rfl ..).trans hs)
    unfold State.storeAt
    simp only [State.mergeRead_clean hs, hm, Bool.false_eq_true, if_false, h1, h2, h3]
    rw [State.bump_of_none _ _ (by exact he)]
    exact ⟨unmarked_of_lt hlt _, rfl⟩
  rw [s.redPerform_one hl hc]
  unfold State.redLane
  simp only [hp, hc, hm, Bool.false_eq_true, if_false, State.bytesAt_plain _ _ hk]
  split
  · exact hstore _ (natBytes_length ..)
  · exact hstore _ (natBytes_length ..)

end

theorem redApply_add (e : IElem) (i v c : Nat) :
    redApply (.wrap .add e) false i v c % 2 ^ (8 * elemBytes e) = (v + c) % 2 ^ (8 * elemBytes e) := by
  show (v + c) % 2 ^ (8 * elemBytes e) % 2 ^ (8 * elemBytes e) = _
  rw [Nat.mod_mod]

/-- Signed saturation: the sum, or the end of the range that it passes. -/
theorem redApply_sat_i32 (i : Nat) (v c : BitVec 32) : (BitVec.ofNat 32 (redApply (.sat .i32) false i v.toNat c.toNat)).toInt =
    max (-2 ^ 31) (min (2 ^ 31 - 1) (v.toInt + c.toInt)) := by
  have hread : ∀ x : BitVec 32, readInt true 32 x.toNat = x.toInt := fun x => by
    have := x.isLt
    unfold readInt signedOf
    rw [BitVec.toInt_eq_toNat_cond]
    simp only [if_true]
    split <;> split <;> omega
  have hw : redApply (.sat .i32) false i v.toNat c.toNat = wrapNat 32 (max (-2 ^ 31) (min (2 ^ 31 - 1) (v.toInt + c.toInt))) := by
    show wrapNat 32 (clampInt true 32 (readInt true 32 v.toNat + readInt true 32 c.toNat)) = _
    rw [hread, hread]
    rfl
  obtain ⟨hlt, heq⟩ := wrapNat_spec 32 (max (-2 ^ 31) (min (2 ^ 31 - 1) (v.toInt + c.toInt)))
  rw [hw, BitVec.toInt_eq_toNat_cond, BitVec.toNat_ofNat, Nat.mod_eq_of_lt hlt]
  generalize v.toInt + c.toInt = x at heq hlt ⊢
  split <;> omega

/-- Unsigned saturation. -/
theorem redApply_sat_u32 (i : Nat) (v c : BitVec 32) : (BitVec.ofNat 32 (redApply (.sat .u32) false i v.toNat c.toNat)).toNat =
    min (2 ^ 32 - 1) (v.toNat + c.toNat) := by
  have hv := v.isLt
  have hc := c.isLt
  have hw : redApply (.sat .u32) false i v.toNat c.toNat = wrapNat 32 (max 0 (min (2 ^ 32 - 1) ((v.toNat : Int) + c.toNat))) := by
    show wrapNat 32 (clampInt false 32 (((v.toNat % 2 ^ 32 : Nat) : Int) + ((c.toNat % 2 ^ 32 : Nat) : Int))) = _
    rw [Nat.mod_eq_of_lt hv, Nat.mod_eq_of_lt hc]
    rfl
  obtain ⟨hlt, heq⟩ := wrapNat_spec 32 (max 0 (min (2 ^ 32 - 1) ((v.toNat : Int) + c.toNat)))
  rw [hw, BitVec.toNat_ofNat, Nat.mod_eq_of_lt hlt]
  omega

theorem redApply_add_fp32 (i : Nat) {v c : Nat} (hv : v < 2 ^ 32) (hc : c < 2 ^ 32) :
    redApply (.float .add .fp32) false i v c = roundFl .fp32 0 false (addFl 0 (decodeFl .fp32 v) (decodeFl .fp32 c)) := by
  show 0 + redFloat .add .fp32 (v / 2 ^ (32 * 0) % 2 ^ 32) (c / 2 ^ (32 * 0) % 2 ^ 32) * 2 ^ (32 * 0) = _
  rw [Nat.mul_zero, Nat.pow_zero, Nat.div_one, Nat.div_one, Nat.mod_eq_of_lt hv, Nat.mod_eq_of_lt hc, Nat.mul_one, Nat.zero_add]
  rfl

/-! ### Time-outs (R196) -/

/-- What is lost of a lane that waited is marked. -/
def redLost (stream line : Nat) (r : Contribution) (l : RedLane) (s : State) : State :=
  let pa := line * 128 + l.off
  let n := redWidth l.kind r.coll
  let s := s.mark pa n
  if r.coll then s.collLearn stream (pa / 32 * 32) 32 (granules pa n) true else s

theorem redLost_homes (stream line : Nat) (r : Contribution) (l : RedLane) (s : State) : (redLost stream line r l s).homes = s.homes := by
  unfold redLost
  dsimp only
  split <;> rfl

/-- An entry whose time-out has passed is freed, and what waited in it is lost. -/
theorem State.redExpire_spec {s : State} {h stream line : Nat} {e : RobEntry} (he : (s.home h).entry stream line = some e)
    (hh : (s.home h).hold ≠ 0) (ht : e.since + (s.home h).hold.toNat ≤ s.ticks (h / 64)) :
    ((s.redExpire h stream line).home h).entry stream line = none ∧
      (e.waiting ≠ [] → ((s.redExpire h stream line).home h).lost = true) := by
  have hh' : (s.home h).hold.toNat ≠ 0 := fun h0 => hh (BitVec.eq_of_toNat_eq h0)
  have hset := s.setEntry_spec h stream line none nofun
  unfold State.redExpire
  simp only [he, if_neg hh', if_neg (Nat.not_lt.mpr ht)]
  split
  next hw => exact ⟨hset, fun hne => absurd (List.isEmpty_iff.mp hw) hne⟩
  next hw =>
    rw [State.home_modHome_self]
    refine ⟨?_, fun _ => rfl⟩
    have hhomes := foldl_keeps State.homes
      (fun (s : State) (r : Contribution) => r.lanes.foldl (fun (s : State) l => redLost stream line r l s) s)
      (fun t r => foldl_keeps State.homes (fun s l => redLost stream line r l s) (fun t l => redLost_homes stream line r l t) r.lanes t)
      e.waiting (s.modHome h fun x => x.setEntry stream line none)
    have hhome := congrArg (fun t : Table Home => ((tget t h).getD Home.reset).entry stream line) hhomes
    exact hhome.trans hset

end Sys2Proof.Machine
end

section
/-! PROOF. O50: messages and reduction contributions arrive. -/

namespace Sys2Proof.Machine

/-! ### The steps -/

theorem exec_reductionContribution {s : State} {r : Contribution} (hev : s.ev = some (.reductionContribution r)) :
    exec .reductionContribution s = .next (s.redArrive r 0) := by
  show execReductionContribution s = _
  unfold execReductionContribution; rw [hev]

theorem exec_reductionRetry {s : State} {id : Nat} {q : Retry} (hev : s.ev = some (.reductionRetry id))
    (hq : tget s.retries id = some q) :
    exec .reductionRetry s = .next (({ s with retries := tdel s.retries id } : State).redArrive q.c q.refusals) := by
  show execReductionRetry s = _
  unfold execReductionRetry; simp only [hev, hq]

theorem exec_reorderTimeout {s : State} {h stream line : Nat} (hev : s.ev = some (.reorderTimeout h stream line)) :
    exec .reorderTimeout s = .next (s.redExpire h stream line) := by
  show execReorderTimeout s = _
  unfold execReorderTimeout; rw [hev]

/-- A reduction message of one part that no other part waits for is served as its contribution. -/
theorem exec_reductionMessage_single {s : State} {r : RedMsg} (hev : s.ev = some (.reductionMessage r)) (hf : r.final = true)
    (hp : r.partNo = 0)
    (hother : ∀ q ∈ (s.die r.die).parts, ¬(q.dev = r.dev ∧ q.fromPart = r.fromPart ∧ q.tag = r.tag)) {t : State}
    (ht : (s.modDie r.die fun d => { d with parts := d.parts }).servePeer
        { die := r.die, dev := r.dev, part := r.fromPart, tag := r.tag, ticket := r.ticket, retires := [], flows := []
          dstPart := r.part, efn := r.efn, off := r.lineOff, n := 128
          kind := .reduce { r.contrib with issuer := s.redIssuer r } } false = some t) :
    exec .reductionMessage s = .next t.sendHeld := by
  have hne : ∀ q ∈ (s.die r.die).parts, (q.dev == r.dev && q.fromPart == r.fromPart && q.tag == r.tag) = false := fun q hq => by
    have := hother q hq
    simp only [Bool.and_eq_false_iff, beq_eq_false_iff_ne, ne_eq]
    tauto
  have hall : ((s.die r.die).parts.filter fun q =>
      !(q.dev == r.dev && q.fromPart == r.fromPart && q.tag == r.tag && q.partNo == r.partNo)) = (s.die r.die).parts :=
    List.filter_eq_self.mpr fun q hq => by rw [hne q hq]; rfl
  have hmine : ((s.die r.die).parts ++ [r]).filter (fun q => q.dev == r.dev && q.fromPart == r.fromPart && q.tag == r.tag) = [r] := by
    rw [List.filter_append, List.filter_eq_nil_iff.mpr fun q hq => by rw [hne q hq]; exact Bool.false_ne_true]
    simp
  have hrest : ((s.die r.die).parts ++ [r]).filter (fun q => !(q.dev == r.dev && q.fromPart == r.fromPart && q.tag == r.tag)) =
      (s.die r.die).parts := by
    rw [List.filter_append, List.filter_eq_self.mpr fun q hq => by rw [hne q hq]; rfl]
    simp
  have hps : ((List.range (0 + 1)).filterMap fun i => [r].find? fun q => q.partNo == i) = [r] := by simp [hp]
  have hmod : (s.modDie r.die fun d => { d with parts := (s.die r.die).parts }) =
      s.modDie r.die fun d => { d with parts := d.parts } := rfl
  have hlanes : ([r].flatMap fun q => q.contrib.lanes) = r.contrib.lanes := by simp
  have hfind : [r].find? (·.final) = some r := by simp [hf]
  show execReductionMessage s = _
  unfold execReductionMessage
  rw [hev]
  dsimp only
  rw [hall, hmine, hfind]
  dsimp only
  rw [hp, hps, hrest, hlanes, hmod, if_pos (show [r].length = 0 + 1 from rfl)]
  exact congrArg (fun u => orUndefined (u.map State.sendHeld)) ht

/-- Settles O50: the messages by what their queue and their sender keep, the contributions by the entry that each meets at its home. -/
theorem messagesAndReductionsArrive : Obligations.MessagesAndReductionsArrive := by
  unfold Obligations.MessagesAndReductionsArrive
  refine ⟨⟨?message, ?append, ?exportMiss, ?badMessage, ?resend⟩,
    ?contribution, ?lane, ?wrap, ?sat, ?float, ?retry, ?retryDirect, ?timeout, ?redMessage⟩
  case message =>
    intro i s m typ h
    obtain ⟨hexec, htyp⟩ := exec_message h
    refine ⟨fun a ha => hexec.trans (congrArg _ (State.arriveMsg_repeat ha)), fun hnone hres => ?_⟩
    refine ⟨fun hr => ?_, fun t hr => ?_⟩
    · have htake := State.takeMsg_refused (m := { m with typ := typ }) hres htyp hr
      exact hexec.trans (congrArg _ (State.arriveMsg_refused hnone htake))
    · have htake := State.takeMsg_accepted (m := { m with typ := typ }) hres htyp hr
      obtain ⟨h1, h2⟩ := State.arriveMsg_accepted (m := { m with typ := typ }) hnone htake
      exact ⟨_, hexec, h1, h2⟩
  case append =>
    intro s die part control m q hq hok hroom hmark slot hsep hs ht
    exact State.append_writes m hq hok hroom hmark rfl hsep hs ht
  case exportMiss =>
    intro s part m hev
    have hexec : exec .exportMiss s = execExportMiss s := rfl
    rw [hexec]
    unfold execExportMiss
    simp only [hev]
    refine ⟨fun t ht => by rw [ht], fun hnone => ?_⟩
    rw [hnone]
    have hsent : ∀ (u : Table (Msg × Nat)) (a : Msg × Nat), (tget (tset u s.nextId a) s.nextId).map (·.1) = some a.1 := fun u a => by
      rw [tget_tset_self]; rfl
    dsimp only
    split
    · exact ⟨_, rfl, hsent .., rfl⟩
    · exact ⟨_, rfl, hsent .., rfl⟩
  case badMessage =>
    intro s die hev
    refine ⟨s.badMsg die, ?_, ?_, rfl, rfl⟩
    · show execBadMessage s = _
      unfold execBadMessage; rw [hev]
    · unfold State.badMsg
      rw [State.die_modDie_self]
      unfold sat16
      rw [BitVec.toNat_ofNat]
      exact Nat.mod_eq_of_lt (by omega)
  case resend =>
    intro s id n o dev part typ payload cr hev ho hb hready htok hn hcr hpend die mine
    have hexec := exec_messageResend_ready hev ho hb hready
    refine ⟨fun hno => ?_, fun hp hr hd hdie => ?_⟩
    · have hend : s.firstSend id o = s.endMsg id o false := by
        unfold State.firstSend
        simp only [hb]
        refine if_pos ?_
        rcases hno with h | h <;> simp [h, die, mine]
      have htoks : o.tokens = [(o.crew, n)] := by
        unfold Op.tokens Op.members
        rw [hb, htok]; rfl
      obtain ⟨h1, c', h2, h3, h4⟩ := State.endMsg_poisoned ho htoks hcr hn hpend
      exact ⟨_, c', hexec.trans (congrArg _ hend), h1, h2, h3, h4⟩
    · obtain ⟨t, ht, hmem, hout⟩ := State.firstSend_out id hb (mine := mine) rfl hp hr hd hdie
      exact ⟨t, hexec.trans (congrArg _ ht), hmem, hout⟩
  case contribution =>
    intro s r hev x
    have hexec := exec_reductionContribution hev
    refine ⟨fun h => hexec.trans (congrArg _ (State.redArrive_direct h)), fun h0 e he hd => ?_, fun h0 he hi => ?_,
      fun h0 he hlen hd => ?_,
      fun h0 he hlen hi1 hi2 => ?_, fun h0 he hlen hi hl => ?_, fun h0 e he hst hln hw => ?_⟩
    · rw [hexec, State.redArrive_repeat h0 he hd]
      exact ⟨_, rfl, rfl, congrArg Home.dups (State.home_modHome_self ..)⟩
    · rw [hexec, State.redArrive_refused h0 he (by omega) (by omega) (.inr hi)]
      obtain ⟨h1, h2, h3, h4⟩ := s.redRefuse_spec r 0
      exact ⟨_, rfl, h1, h2, by rw [h4, tget_tset_self]; rfl⟩
    · rw [hexec, State.redArrive_refused h0 he hd (by omega) (.inl hlen)]
      obtain ⟨h1, h2, h3, h4⟩ := s.redRefuse_spec r 0
      exact ⟨_, rfl, h1, h2, h3, by rw [h4, tget_tset_self]⟩
    · obtain ⟨h1, h2, -, h4⟩ := State.redArrive_parks h0 he hi1 (.inr ⟨hlen, hi2⟩)
      exact ⟨_, hexec, h1, h2, h4⟩
    · exact ⟨_, hexec, State.redArrive_first h0 he hlen hi hl⟩
    · obtain ⟨_, _, next, waiting, since⟩ := e
      dsimp only at hst hln hw
      subst hst hln
      have hrep : ∀ w ∈ waiting, w.index ≠ r.index := fun w hm => (hw w hm).1
      have hidle : ∀ w ∈ waiting, w.index ≠ next := fun w hm => (hw w hm).2
      refine ⟨fun hi => ?_, fun hi1 hi2 => ?_, fun hi hnext => ?_, fun hi hl q hq hqi => ?_⟩
      · rw [hexec, State.redArrive_ahead h0 he hrep (by omega) hi]
        obtain ⟨h1, h2, h3, h4⟩ := s.redRefuse_spec r 0
        exact ⟨_, rfl, h1, h2, h3, by rw [h4, tget_tset_self]⟩
      · exact ⟨_, hexec, State.redArrive_waits h0 he hrep hidle hi1 hi2⟩
      · exact ⟨_, hexec, State.redArrive_next h0 he hrep hi hnext⟩
      · dsimp only at hq
        subst hq
        exact ⟨_, hexec, State.redArrive_chain h0 he hrep hi hl hqi⟩
  case lane =>
    intro s r l hl hc hk _ he _ pa n hs
    refine ⟨fun hp => State.redPerform_poison hl hc hp he, fun hp hm => State.redPerform_marked hl hc hp hm, fun hp hm _ => ?_⟩
    obtain ⟨hmarks, hmem⟩ := State.redPerform_applies hl hc hp hm hs hk he
    have hlen : ∀ v, (natBytes v n).length = n := fun v => natBytes_length ..
    refine ⟨hmarks, ?_, fun a ha => ?_⟩
    · rw [hmem]
      exact (congrArg (memBytes _ _) (hlen _).symm).trans (memBytes_memWrite ..)
    · rw [hmem]
      exact memGet_memWrite_out _ _ _ _ (by rw [hlen]; exact ha)
  case wrap => exact redApply_add
  case sat => exact fun i v c => ⟨redApply_sat_i32 i v c, redApply_sat_u32 i v c⟩
  case float => exact fun i v c hv hc => redApply_add_fp32 i hv hc
  case retry =>
    intro s id q hev hq h0 hid he hi
    have hexec := exec_reductionRetry hev hq
    have hd : ¬ (q.c.index = 0 ∧ q.c.last = true) := by omega
    refine ⟨fun hn => ?_, fun hn => ?_⟩
    · rw [hexec, State.redArrive_refused (s := { s with retries := tdel s.retries id }) h0 he hd hn (.inr hi)]
      obtain ⟨h1, -, -, h4⟩ := State.redRefuse_spec ({ s with retries := tdel s.retries id } : State) q.c q.refusals
      refine ⟨_, rfl, h1, ?_, by rw [h4]; exact tget_tset_self ..⟩
      rw [h4]
      exact (tget_tset_ne _ _ (Nat.ne_of_gt hid)).trans (tget_tdel_self ..)
    · obtain ⟨h1, -, h3, h4⟩ := State.redArrive_parks (s := { s with retries := tdel s.retries id }) h0 he
        (show 0 < q.c.index by omega) (.inl hn)
      exact ⟨_, hexec, h1, by rw [h3]; exact tget_tdel_self .., h4⟩
  case retryDirect =>
    intro s id q hev hq h0
    rw [exec_reductionRetry hev hq]
    exact congrArg _ (State.redArrive_direct (.inl h0))
  case timeout =>
    intro s h stream line e hev he hh ht
    exact ⟨_, exec_reorderTimeout hev, State.redExpire_spec he hh ht⟩
  case redMessage => exact fun s r hev hf hp hother t ht => exec_reductionMessage_single hev hf hp hother ht

end Sys2Proof.Machine
end

section
/-! SUPPORT. Lane-wise instructions that clear the checks: what each lane that acts reads back, by the form of the result; and
the etypes that a head makes ILLEGAL. -/

namespace Sys2Proof.Machine

/-! ### The lanes that act, and their etypes -/

/-- The lane that a result comes from acts, when the lane it goes to does. -/
theorem Issue.source_acts {x : Issue} {l : Nat} (u : Bool) (h : x.act.getLsbD l = true) :
    x.act.getLsbD (x.source u l) = true := by
  unfold Issue.source
  split
  · exact getLsbD_lowest fun h0 => by simp [h0] at h
  · exact h

/-- A lane that acts lies in a slice of the gang that acts. -/
theorem State.issueOf_actor {s : State} {h : Head} {k : Nat} {js : List Nat} {c : Crew} {l : Nat}
    (hl : (s.issueOf h k js c).act.getLsbD l = true) : l / 4 ∈ (s.issueOf h k js c).actors := by
  have hjs : l / 4 ∈ js := by
    unfold State.issueOf Crew.live guardIn at hl
    split at hl
    · simp_all
    · simp_all
  refine List.mem_filter.mpr ⟨hjs, ?_⟩
  have hbit : (sliceBits (s.issueOf h k js c).act (l / 4)).getLsbD (l % 4) = true := by
    unfold sliceBits
    rw [BitVec.getLsbD_extractLsb', Nat.div_add_mod, hl]
    simp [Nat.mod_lt]
  rw [bne_iff_ne]
  exact fun h0 => by simp [h0] at hbit

/-- A gang that clears the checks has nothing that registers and state make ILLEGAL (R58). -/
theorem State.clears_dyn {s : State} {h : Head} {k : Nat} {js : List Nat} {c : Crew} (hc : s.clears h k js c = true) :
    h.dyn (s.issueOf h k js c) = false := by
  obtain ⟨-, -, -, -, -, hf, -, -, -, hs, ha⟩ := State.clears_iff.mp hc
  rw [Issue.forbidden, hs, bne_iff_ne.mpr ha] at hf
  simpa using hf

/-- Where a head makes some etypes ILLEGAL, no lane that acts has one of them. -/
theorem State.clears_etype {s : State} {h : Head} {k : Nat} {js : List Nat} {c : Crew} {p : Nat → Bool}
    (hdyn : ∀ x, h.dyn x = x.anyEtype p) (hc : s.clears h k js c = true) {l : Nat}
    (hl : (s.issueOf h k js c).act.getLsbD l = true) : p (modeEtype ((s.issueOf h k js c).mode l)) = false := by
  have h1 := State.clears_dyn hc
  rw [hdyn] at h1
  exact Bool.eq_false_iff.mpr (List.any_eq_false.mp h1 _ (State.issueOf_actor hl))

/-- An etype that a head makes ILLEGAL raises ILLEGAL, when no check before it stops the instruction (R58). -/
theorem scalar_etype_illegal {s : State} {h : Head} {k : Nat} {js : List Nat} {c : Crew} {p : Nat → Bool}
    (hdyn : ∀ x, h.scalar.dyn x = x.anyEtype p) (hg : h.guard = .lane) (hmask : h.dynMask = Issue.live)
    (hcur : s.cur = some (k, js)) (hc : tget s.crews k = some c)
    (hm : (s.issueOf h.scalar k js c).misnamed h.scalar = false) (hw : (s.issueOf h.scalar k js c).waits h.scalar = false)
    (ha : (s.issueOf h.scalar k js c).act ≠ 0)
    (he : ∃ j ∈ (s.issueOf h.scalar k js c).actors, p (modeEtype (c.slice j).mode) = true) (f : Issue → Nat → Wr) :
    scalar s h f = .next (s.takeTrap k js .illegal (s.issueOf h.scalar k js c).live 0 [] 0) := by
  have hd : h.scalar.dyn (s.issueOf h.scalar k js c) = true := by
    rw [hdyn]
    exact List.any_eq_true.mpr he
  have := scalar_forbidden hcur hc hm hw (Issue.forbidden_of_dyn hg ha hd) f
  rwa [hmask] at this

/-! ### Results by their form -/

section
variable {s : State} {h : Head} {k : Nat} {js : List Nat} {c : Crew}

/-- A lane-wise instruction with one 32-bit result. -/
theorem scalar_wr1 (d : BitVec 6) (v : Issue → Nat → Word) (hc : s.clears h.scalar k js c = true) :
    let x := s.issueOf h.scalar k js c
    ∃ c', scalar s h (fun x l => wr1 d (v x l)) = .next (s.setCrew k c') ∧ ∀ l, x.act.getLsbD l = true →
      (c'.lane l).get c.depth d.toNat = v x (x.source h.u l) := by
  intro x
  obtain ⟨c', hexec, -, hlane⟩ := scalar_lanes (fun x l => wr1 d (v x l)) hc
  exact ⟨c', hexec, fun l hl => by rw [hlane l hl, Lane.get_write_wr1]⟩

/-- A lane-wise instruction with one 64-bit result. -/
theorem scalar_wr2 (d : BitVec 6) (v : Issue → Nat → Dword) (hc : s.clears h.scalar k js c = true) :
    let x := s.issueOf h.scalar k js c
    ∃ c', scalar s h (fun x l => wr2 d (v x l)) = .next (s.setCrew k c') ∧ ∀ l, x.act.getLsbD l = true →
      (c'.lane l).get64 c.depth d.toNat = v x (x.source h.u l) := by
  intro x
  obtain ⟨c', hexec, -, hlane⟩ := scalar_lanes (fun x l => wr2 d (v x l)) hc
  exact ⟨c', hexec, fun l hl => by rw [hlane l hl, Lane.get64_write_wr2]⟩

/-- A lane-wise instruction with one predicate as its result; one for p0 is discarded (R38). -/
theorem scalar_wrP {d : BitVec 6} (hd : d.toNat < 8) (v : Issue → Nat → Bool) (hc : s.clears h.scalar k js c = true) :
    let x := s.issueOf h.scalar k js c
    ∃ c', scalar s h (fun x l => wrP d (v x l)) = .next (s.setCrew k c') ∧ ∀ l, x.act.getLsbD l = true →
      (c'.lane l).pred d.toNat = (d == 0 || v x (x.source h.u l)) := by
  intro x
  obtain ⟨c', hexec, -, hlane⟩ := scalar_lanes (fun x l => wrP d (v x l)) hc
  exact ⟨c', hexec, fun l hl => by rw [hlane l hl, Lane.pred_write_wrP _ _ _ _ hd]⟩

/-- A lane-wise instruction whose result is a register's value, or a pair's under the 64-bit etypes. -/
theorem scalar_wrVal (d : BitVec 6) (v : Issue → Nat → Nat) (hc : s.clears h.scalar k js c = true) :
    let x := s.issueOf h.scalar k js c
    ∃ c', scalar s h (fun x l => x.wrVal l d (v x l)) = .next (s.setCrew k c') ∧ c'.depth = c.depth ∧
      ∀ l, x.act.getLsbD l = true →
        let o := x.source h.u l
        let e := modeEtype (x.mode o)
        c'.val e l d = v x o % 2 ^ etSpan e := by
  intro x
  obtain ⟨c', hexec, hdepth, hlane⟩ := scalar_lanes (fun x l => x.wrVal l d (v x l)) hc
  exact ⟨c', hexec, hdepth, fun l hl => Issue.val_wrVal x _ l c.depth (c.lane l) d _ c' (hlane l hl) hdepth⟩

end

/-! ### Values of registers and pairs -/

theorem etSpan_of_pair {e : Nat} (h : etPair e = true) : etSpan e = 64 := if_pos h
theorem etSpan_of_not_pair {e : Nat} (h : etPair e = false) : etSpan e = 32 := if_neg (by simp [h])

theorem Crew.val_of_pair (c : Crew) {e : Nat} (h : etPair e = true) (l : Nat) (i : BitVec 6) :
    c.val e l i = ((c.lane l).get64 c.depth i.toNat).toNat := if_pos h

theorem Crew.val_of_not_pair (c : Crew) {e : Nat} (h : etPair e = false) (l : Nat) (i : BitVec 6) :
    c.val e l i = ((c.lane l).get c.depth i.toNat).toNat := if_neg (by simp [h])

/-- A value fits its register or pair. -/
theorem Crew.val_lt (c : Crew) (e l : Nat) (i : BitVec 6) : c.val e l i < 2 ^ etSpan e := by
  cases h : etPair e
  · rw [c.val_of_not_pair h, etSpan_of_not_pair h]; exact BitVec.isLt _
  · rw [c.val_of_pair h, etSpan_of_pair h]; exact BitVec.isLt _

/-- Under a 64-bit etype the b operand as a whole is its 64 bits. -/
theorem Issue.wholeB_of_pair {x : Issue} {l : Nat} (h : etPair (modeEtype (x.mode l)) = true) (b : SrcB) :
    x.wholeB l b = (x.b64 l b).toNat := by
  cases b with
  | reg b => exact if_pos h
  | count b => exact (BitVec.toNat_setWidth_of_le (by omega)).symm
  | imm i => show wrapNat (etSpan _) i = _; rw [etSpan_of_pair h]; exact (BitVec.toNat_ofInt ..).symm
  | none => rfl

/-- Under the other etypes it is its 32 bits. -/
theorem Issue.wholeB_of_not_pair {x : Issue} {l : Nat} (h : etPair (modeEtype (x.mode l)) = false) (b : SrcB) :
    x.wholeB l b = (x.b32 l b).toNat := by
  cases b with
  | reg b => exact if_neg (by simp [h])
  | count b => rfl
  | imm i => show wrapNat (etSpan _) i = _; rw [etSpan_of_not_pair h]; exact (BitVec.toNat_ofInt ..).symm
  | none => rfl

end Sys2Proof.Machine
end

section
/-! PROOF. The integer instructions on whole registers, of addresses, bit fields, carries, comparisons and selections (R100 to
R105). -/

namespace Sys2Proof.Machine

/-! ### Whole registers (R100) -/

/-- An operation on numbers that is an operation on words of every width. -/
def SameOp (f : Nat → Nat → Nat → Nat → Nat → Nat) (g : (w : Nat) → BitVec w → BitVec w → BitVec w) : Prop :=
  ∀ (w e : Nat) (a b : BitVec w) (d : Nat), f w e a.toNat b.toNat d = (g w a b).toNat

/-- An instruction of R100 is the shared body with its fields, and an operation on numbers for its operation on words. -/
theorem exec_wholeForm {i : Instr} {F : WholeForm} (h : wholeForm i = some F) (s : State) :
    ∃ op, SameOp op F.op ∧ exec i s = wholewise s F.u F.st F.d F.a F.b false op := by
  unfold wholeForm at h
  split at h <;> cases h
  · exact ⟨fun _ _ a b _ => a &&& b, fun w e a b d => (BitVec.toNat_and ..).symm, rfl⟩
  · exact ⟨fun _ _ a b _ => a ||| b, fun w e a b d => (BitVec.toNat_or ..).symm, rfl⟩
  · exact ⟨fun _ _ a b _ => a ^^^ b, fun w e a b d => (BitVec.toNat_xor ..).symm, rfl⟩
  · exact ⟨fun w _ a _ _ => 2 ^ w - 1 - a, fun w e a b d => BitVec.toNat_not.symm, rfl⟩
  · exact ⟨fun _ _ a b _ => a &&& b, fun w e a b d => (BitVec.toNat_and ..).symm, rfl⟩
  · exact ⟨fun _ _ a b _ => a ||| b, fun w e a b d => (BitVec.toNat_or ..).symm, rfl⟩
  · exact ⟨fun _ _ a _ _ => a, fun w e a b d => rfl, rfl⟩

section
variable {f : Nat → Nat → Nat → Nat → Nat → Nat} {g : (w : Nat) → BitVec w → BitVec w → BitVec w} (h : SameOp f g)
  {x : Issue} {o : Nat} (a : BitVec 6) (b : SrcB) (z : Nat)
include h

/-- The result of an operation on whole operands, cut to a pair. -/
theorem SameOp.at_pair (hp : etPair (modeEtype (x.mode o)) = true) :
    f (etSpan (modeEtype (x.mode o))) (modeEtype (x.mode o)) (x.val o a) (x.wholeB o b) z % 2 ^ etSpan (modeEtype (x.mode o)) =
      (g 64 (x.reg64 o a.toNat) (x.b64 o b)).toNat := by
  have ha : x.val o a = (x.reg64 o a.toNat).toNat := if_pos hp
  rw [ha, Issue.wholeB_of_pair hp, etSpan_of_pair hp, h]
  exact Nat.mod_eq_of_lt (BitVec.isLt _)

/-- The result cut to a register. -/
theorem SameOp.at_register (hp : etPair (modeEtype (x.mode o)) = false) :
    f (etSpan (modeEtype (x.mode o))) (modeEtype (x.mode o)) (x.val o a) (x.wholeB o b) z % 2 ^ etSpan (modeEtype (x.mode o)) =
      (g 32 (x.reg o a.toNat) (x.b32 o b)).toNat := by
  have ha : x.val o a = (x.reg o a.toNat).toNat := if_neg (by simp [hp])
  rw [ha, Issue.wholeB_of_not_pair hp, etSpan_of_not_pair hp, h]
  exact Nat.mod_eq_of_lt (BitVec.isLt _)

end

/-- A pair whose value is that of a word of its width holds the word. -/
theorem Crew.get64_of_val {c : Crew} {e l : Nat} {i : BitVec 6} {v : Dword} (hp : etPair e = true) (h : c.val e l i = v.toNat) :
    (c.lane l).get64 c.depth i.toNat = v :=
  BitVec.eq_of_toNat_eq ((c.val_of_pair hp l i).symm.trans h)

/-- A register whose value is that of a word of its width holds the word. -/
theorem Crew.get_of_val {c : Crew} {e l : Nat} {i : BitVec 6} {v : Word} (hp : etPair e = false) (h : c.val e l i = v.toNat) :
    (c.lane l).get c.depth i.toNat = v :=
  BitVec.eq_of_toNat_eq ((c.val_of_not_pair hp l i).symm.trans h)

/-- Cutting a number twice is cutting it to the narrower width. -/
theorem wrapNat_mod (v : Int) {w n : Nat} (h : w ≤ n) : wrapNat n v % 2 ^ w = wrapNat w v := by
  obtain ⟨-, hn⟩ := wrapNat_spec n v
  obtain ⟨-, hw⟩ := wrapNat_spec w v
  have : ((wrapNat n v % 2 ^ w : Nat) : Int) = wrapNat w v := by
    push_cast at hn hw ⊢
    rw [hn, hw, Int.emod_emod_of_dvd _ (pow_dvd_pow 2 h)]
  exact_mod_cast this

/-- Settles O2: the shared body gives the value of the register or pair modulo its width, which is that of the operation on
words; MOVI's 64-bit immediate is cut to the width of its destination. -/
theorem wholeRegisters : Obligations.WholeRegisters := by
  refine ⟨fun i F s k js c hF hc => ?_, fun f s k js c hc => ?_⟩
  · obtain ⟨op, hop, hexec⟩ := exec_wholeForm hF s
    obtain ⟨c', h1, hd, hval⟩ := wholewise_spec op hc
    refine ⟨c', hexec.trans h1, fun l hl => ?_⟩
    intro o
    rw [← hd]
    split
    next hp => exact Crew.get64_of_val hp ((hval l hl).trans (hop.at_pair _ _ _ hp))
    next hp =>
      replace hp := Bool.eq_false_iff.mpr hp
      exact Crew.get_of_val hp ((hval l hl).trans (hop.at_register _ _ _ hp))
  · intro x
    obtain ⟨c', h1, hd, hval⟩ := scalar_wrVal f.d (fun _ _ => wrapNat 64 f.i.toInt) hc
    refine ⟨c', h1, fun l hl => ?_⟩
    replace hval : c'.val (modeEtype (x.mode (x.source f.u l))) l f.d =
      wrapNat 64 f.i.toInt % 2 ^ etSpan (modeEtype (x.mode (x.source f.u l))) := hval l hl
    rw [← hd]
    split
    next hp =>
      rw [etSpan_of_pair hp, wrapNat_mod _ (by decide)] at hval
      exact Crew.get64_of_val hp (hval.trans (BitVec.toNat_ofInt ..).symm)
    next hp =>
      replace hp := Bool.eq_false_iff.mpr hp
      rw [etSpan_of_not_pair hp, wrapNat_mod _ (by decide)] at hval
      exact Crew.get_of_val hp (hval.trans (BitVec.toNat_ofInt ..).symm)

/-! ### Addresses (R101) -/

/-- What the word reveals as ILLEGAL is raised whatever the guard (R58). -/
theorem issue_misnamed {s : State} {h : Head} {k : Nat} {js : List Nat} {c : Crew} (hcur : s.cur = some (k, js))
    (hc : tget s.crews k = some c) (hm : (s.issueOf h k js c).misnamed h = true) (body : Issue → Res) :
    issue s h body = .next (s.takeTrap k js .illegal (s.issueOf h k js c).live 0 [] 0) := by
  unfold issue
  simp only [hcur, hc, hm, if_true]
  rfl

theorem scalar_misnamed {s : State} {h : Head} {k : Nat} {js : List Nat} {c : Crew} (hcur : s.cur = some (k, js))
    (hc : tget s.crews k = some c) (hm : (s.issueOf h.scalar k js c).misnamed h.scalar = true) (f : Issue → Nat → Wr) :
    scalar s h f = .next (s.takeTrap k js .illegal (s.issueOf h.scalar k js c).live 0 [] 0) :=
  issue_misnamed hcur hc hm _

/-- A gang that is not misnamed has every register group of every one of its slices in the window and aligned (R34, R37). -/
theorem Issue.foot_ok {x : Issue} {h : Head} (hm : x.misnamed h = false) {j : Nat} (hj : j ∈ x.js) :
    (h.fp (x.c.slice j).mode).ok x.c.window = true := by
  unfold Issue.misnamed at hm
  simp only [Bool.or_eq_false_iff, List.any_eq_false] at hm
  simpa using hm.1 j hj

/-- A LEA that is not misnamed has two even pairs. -/
theorem lea_pairs_even {f : FUSDAB} {x : Issue} {j : Nat} (hj : j ∈ x.js) (hm : x.misnamed (leaHead f).scalar = false) :
    f.d.toNat % 2 = 0 ∧ f.a.toNat % 2 = 0 := by
  have h := Issue.foot_ok hm hj
  simp only [Head.scalar, leaHead, Foot.ok, r1, r2, Grp.ok, List.all_cons, List.cons_append, List.nil_append, Bool.and_eq_true,
    beq_iff_eq] at h
  obtain ⟨⟨-, ha⟩, -, ⟨-, hd⟩, -⟩ := h
  exact ⟨hd, ha⟩

theorem exec_lea (f : FUSDAB) (s : State) :
    exec (.lea f) s = scalar s (leaHead f) fun x l => wr2 f.d (x.reg64 l f.a.toNat + (x.reg l f.b.toNat).signExtend 64) := rfl

/-- Settles O3: the footprint of LEA holds two pairs, which the first check of R58 wants even. -/
theorem addresses : Obligations.Addresses := by
  refine ⟨fun f s k js c hc => ?_, fun f s k js c hcur hcrew hshape hodd => ?_⟩
  · obtain ⟨-, -, hshape, hm, -⟩ := State.clears_iff.mp hc
    obtain ⟨j, hj⟩ := List.exists_mem_of_ne_nil js (gangShape_iff.mp hshape).1
    obtain ⟨hd, ha⟩ := lea_pairs_even hj hm
    rw [exec_lea]
    exact ⟨hd, ha, scalar_wr2 f.d (fun x l => x.reg64 l f.a.toNat + (x.reg l f.b.toNat).signExtend 64) hc⟩
  · obtain ⟨j, hj⟩ := List.exists_mem_of_ne_nil js (gangShape_iff.mp hshape).1
    rw [exec_lea]
    refine scalar_misnamed hcur hcrew (Bool.eq_true_of_not_eq_false fun hm => ?_) _
    obtain ⟨hd, ha⟩ := lea_pairs_even hj hm
    omega

end Sys2Proof.Machine
end

section
/-! PROOF. Bit fields and the carry chain (R102, R103). -/

namespace Sys2Proof.Machine

/-! ### Bit fields (R102) -/

/-- Position and length of a field are the two low bytes of the register that names it. -/
theorem toNat_low_bytes (b : Word) :
    (b.extractLsb' 0 8).toNat = b.toNat % 256 ∧ (b.extractLsb' 8 8).toNat = b.toNat / 256 % 256 := by
  simp [BitVec.extractLsb'_toNat, Nat.shiftRight_eq_div_pow]

/-- The bits of a number of n bits, read as signed or unsigned and cut to a width: its own, then its sign or 0. -/
theorem testBit_wrapNat_readInt (sg : Bool) {n w i : Nat} (v : Nat) (hn : 0 < n) (hi : i < w) :
    (wrapNat w (readInt sg n v)).testBit i = if i < n then v.testBit i else sg && v.testBit (n - 1) := by
  cases sg
  · have h : wrapNat w (readInt false n v) = ((BitVec.ofNat n v).setWidth w).toNat := by
      have hz := (wrapNat_spec w (readInt false n v)).2
      rw [readInt, if_neg (by decide)] at hz ⊢
      rw [BitVec.toNat_setWidth, BitVec.toNat_ofNat]
      exact_mod_cast hz
    rw [h, BitVec.testBit_toNat, BitVec.getLsbD_setWidth, BitVec.getLsbD_ofNat]
    simp [hi]
  · have h : wrapNat w (readInt true n v) = ((BitVec.ofNat n v).signExtend w).toNat := by
      refine Eq.trans ?_ (BitVec.toNat_ofInt ..).symm
      have hp := Nat.two_pow_pred_mul_two hn
      rw [readInt, if_pos rfl, BitVec.toInt_eq_toNat_cond, BitVec.toNat_ofNat]
      unfold signedOf
      dsimp only
      show wrapNat w _ = wrapNat w _
      congr 1
      split <;> split <;> omega
    rw [h, BitVec.testBit_toNat, BitVec.getLsbD_signExtend, BitVec.getLsbD_ofNat, BitVec.msb_eq_getLsbD_last,
      BitVec.getLsbD_ofNat]
    have : n - 1 < n := by omega
    by_cases h : i < n <;> simp [hi, h, this]

/-- The bits that BFX extracts. -/
theorem testBit_fieldExtract (w e a b : Nat) {i : Nat} (hi : i < w) :
    let pos := b % 256
    let len := b / 256 % 256
    let n := min len (w - pos)
    (fieldExtract w e a b).testBit i =
      (decide (len ≠ 0 ∧ pos < w) && (if i < n then a.testBit (pos + i) else etSigned e && a.testBit (pos + n - 1))) := by
  intro pos len n
  unfold fieldExtract
  dsimp only
  by_cases h : len = 0 ∨ w ≤ pos
  · have hno : ¬ (len ≠ 0 ∧ pos < w) := by omega
    rw [if_pos h, Nat.zero_testBit, decide_eq_false hno, Bool.false_and]
  · have hyes : len ≠ 0 ∧ pos < w := by omega
    have hn : 0 < n := by omega
    have hlast : n - 1 + pos = pos + n - 1 := by omega
    rw [if_neg h, decide_eq_true hyes, Bool.true_and, testBit_wrapNat_readInt _ _ hn hi,
      Nat.testBit_div_two_pow, Nat.testBit_div_two_pow, Nat.add_comm i, hlast]

/-- The bits that BFI leaves: the field's from a, the others from d. -/
theorem testBit_fieldInsert (w a b d i : Nat) :
    let pos := b % 256
    let n := min (b / 256 % 256) (w - pos)
    (fieldInsert w a b d).testBit i = if pos ≤ i ∧ i < pos + n then a.testBit (i - pos) else d.testBit i := by
  intro pos n
  have hmid : a % 2 ^ n * 2 ^ pos + d % 2 ^ pos < 2 ^ (pos + n) := by
    have h1 : d % 2 ^ pos < 2 ^ pos := Nat.mod_lt _ (by positivity)
    have h2 : a % 2 ^ n + 1 ≤ 2 ^ n := Nat.mod_lt _ (by positivity)
    calc a % 2 ^ n * 2 ^ pos + d % 2 ^ pos < (a % 2 ^ n + 1) * 2 ^ pos := by rw [Nat.succ_mul]; omega
      _ ≤ 2 ^ n * 2 ^ pos := Nat.mul_le_mul_right _ h2
      _ = 2 ^ (pos + n) := by rw [Nat.pow_add, Nat.mul_comm]
  show (d / 2 ^ (pos + n) * 2 ^ (pos + n) + a % 2 ^ n * 2 ^ pos + d % 2 ^ pos).testBit i = _
  rw [Nat.add_assoc, Nat.mul_comm (d / _), Nat.testBit_two_pow_mul_add _ hmid, Nat.mul_comm (a % _),
    Nat.testBit_two_pow_mul_add _ (Nat.mod_lt _ (by positivity)), Nat.testBit_mod_two_pow, Nat.testBit_mod_two_pow,
    Nat.testBit_div_two_pow]
  by_cases h1 : i < pos + n
  · by_cases h2 : i < pos
    · simp [h1, h2, Nat.not_le.mpr h2]
    · have h3 : i - pos < n := by omega
      simp [h1, h2, h3, Nat.not_lt.mp h2]
  · simp [h1, Nat.sub_add_cancel (Nat.not_lt.mp h1)]

/-- What BFI writes in a lane, from the lane its operands come from. -/
def Issue.insertResult (x : Issue) (f : FUSDAB) (l : Nat) : Wr :=
  let w := etSpan (modeEtype (x.mode l))
  let b := x.wholeB l (.count f.b)
  if b / 256 % 256 = 0 ∨ w ≤ b % 256 then {} else x.wrVal l f.d (fieldInsert w (x.val l f.a) b (x.val l f.d))

theorem exec_bfi (f : FUSDAB) (s : State) :
    exec (.bfi f) s = scalar s (intHead f.u f.s f.d f.a (.count f.b) true false) (fun x l => x.insertResult f l) := rfl

/-- Settles O4: the bits of the numbers that the shared body and BFI write, cut to the register or pair; an empty field of BFI
writes nothing. -/
theorem bitfields : Obligations.Bitfields := by
  refine ⟨?bfx, ?bfi⟩
  case bfx =>
    intro f s k js c h hc x
    obtain ⟨c', hexec, -, hval⟩ := wholewise_spec (fun w e a b _ => fieldExtract w e a b) hc
    refine ⟨c', hexec, fun l hl => ?_⟩
    intro o e w b pos len n a i hi
    obtain ⟨hpos, hlen⟩ := toNat_low_bytes b
    have hv : c'.val e l f.d = fieldExtract w e a b.toNat % 2 ^ w := hval l hl
    rw [hv, Nat.testBit_mod_two_pow, decide_eq_true hi, Bool.true_and, testBit_fieldExtract w e a _ hi, ← hpos, ← hlen]
  case bfi =>
    intro f s k js c h hc x
    obtain ⟨c', hexec, hdepth, hlane⟩ := scalar_lanes (fun x l => x.insertResult f l) hc
    refine ⟨c', (exec_bfi f s).trans hexec, fun l hl => ?_⟩
    intro o e w b pos len n a d
    obtain ⟨hpos, hlen⟩ := toNat_low_bytes b
    have hw : c'.lane l = (c.lane l).write c.depth (x.insertResult f o) := hlane l hl
    have hres : x.insertResult f o =
      if len = 0 ∨ w ≤ pos then {} else x.wrVal o f.d (fieldInsert w a b.toNat d) := by
      simp only [len, pos, hpos, hlen]; rfl
    rw [hres] at hw
    split
    next h0 =>
      rw [if_pos h0] at hw
      unfold Crew.val
      rw [hw, hdepth]
      rfl
    next h0 =>
      intro i hi
      rw [if_neg h0] at hw
      rw [Issue.val_wrVal x o l c.depth (c.lane l) f.d _ c' hw hdepth, Nat.testBit_mod_two_pow, decide_eq_true hi, Bool.true_and,
        testBit_fieldInsert, ← hpos, ← hlen]

/-! ### The carry chain (R103) -/

theorem exec_addc (f : FUSDAB) (s : State) : exec (.addc f) s = carrying s f addCarry := rfl
theorem exec_subc (f : FUSDAB) (s : State) : exec (.subc f) s = carrying s f subBorrow := rfl

/-- What an instruction with a carry writes: its result, and its carry in predicate 6. -/
theorem carrying_spec {f : FUSDAB} {s : State} {k : Nat} {js : List Nat} {c : Crew} (op : Word → Word → Bool → Word × Bool)
    (hc : s.clears (carryHead f).scalar k js c = true) :
    let x := s.issueOf (carryHead f).scalar k js c
    ∃ c', carrying s f op = .next (s.setCrew k c') ∧ ∀ l, x.act.getLsbD l = true →
      let o := x.source f.u l
      let r := op (x.reg o f.a.toNat) (x.reg o f.b.toNat) (x.pred o 6)
      (c'.lane l).get c.depth f.d.toNat = r.1 ∧ (c'.lane l).pred 6 = r.2 := by
  intro x
  obtain ⟨c', hexec, -, hlane⟩ := scalar_lanes (fun x l =>
    let r := op (x.reg l f.a.toNat) (x.reg l f.b.toNat) (x.pred l 6)
    { regs := [(f.d.toNat, r.1)], preds := [(6, r.2)] }) hc
  refine ⟨c', hexec, fun l hl => ?_⟩
  dsimp only
  rw [hlane l hl]
  constructor
  · simp [Lane.write, Lane.get_set]; rfl
  · simp [Lane.write, Lane.pred_setPred]; rfl

theorem addCarry_spec (a b : Word) (p : Bool) :
    (addCarry a b p).1.toNat = (a.toNat + b.toNat + p.toNat) % 2 ^ 32 ∧
      (addCarry a b p).2 = decide (2 ^ 32 ≤ a.toNat + b.toNat + p.toNat) := ⟨BitVec.toNat_ofNat .., rfl⟩

theorem subBorrow_spec (a b : Word) (p : Bool) :
    ((subBorrow a b p).1.toNat : Int) = ((a.toNat : Int) - b.toNat - p.toNat) % 2 ^ 32 ∧
      (subBorrow a b p).2 = decide ((a.toNat : Int) - b.toNat - p.toNat < 0) := by
  have hp : p.toNat ≤ 1 := Bool.toNat_le p
  have ha := a.isLt
  have hb := b.isLt
  constructor
  · show ((a - b - BitVec.ofNat 32 p.toNat).toNat : Int) = _
    rw [BitVec.toNat_sub, BitVec.toNat_sub, BitVec.toNat_ofNat]
    omega
  · show decide (a.toNat < b.toNat + p.toNat) = _
    exact decide_eq_decide.mpr (by omega)

/-- The 64-bit and packed integer etypes are 2 to 7. -/
theorem etPair_or_etPacked {e : Nat} (h : e = 2 ∨ e = 3 ∨ e = 4 ∨ e = 5 ∨ e = 6 ∨ e = 7) : (etPair e || etPacked e) = true := by
  rcases h with rfl | rfl | rfl | rfl | rfl | rfl <;> rfl

/-- Settles O5: one body for both, with the sum and the difference as numbers; the etypes 2 to 7 are its forbidden ones. -/
theorem carryChain : Obligations.CarryChain := by
  intro f s k js c h x
  refine ⟨fun hc l hl => ?_, fun hcur hcrew hm hw _ ha he => ?_⟩
  · obtain ⟨c1, hexec1, hlane1⟩ := carrying_spec addCarry hc
    obtain ⟨c2, hexec2, hlane2⟩ := carrying_spec subBorrow hc
    obtain ⟨hr1, hp1⟩ := hlane1 l hl
    obtain ⟨hr2, hp2⟩ := hlane2 l hl
    intro o a b p
    obtain ⟨hsum, hcarry⟩ := addCarry_spec (x.reg o f.a.toNat) (x.reg o f.b.toNat) (x.pred o 6)
    obtain ⟨hdiff, hborrow⟩ := subBorrow_spec (x.reg o f.a.toNat) (x.reg o f.b.toNat) (x.pred o 6)
    exact ⟨⟨c1, hexec1, (congrArg BitVec.toNat hr1).trans hsum, hp1.trans hcarry⟩,
      ⟨c2, hexec2, (congrArg (fun v : Word => (v.toNat : Int)) hr2).trans hdiff, hp2.trans hborrow⟩⟩
  · obtain ⟨j, hj, he⟩ := he
    have hill := scalar_etype_illegal (h := carryHead f) (p := fun e => etPair e || etPacked e) (fun _ => rfl) rfl rfl hcur
      hcrew hm hw ha ⟨j, hj, etPair_or_etPacked he⟩
    rw [exec_addc, exec_subc]
    exact ⟨hill _, hill _⟩

end Sys2Proof.Machine
end

section
/-! PROOF. Comparisons, selections and the predicate instructions (R104 to R106). -/

namespace Sys2Proof.Machine

theorem toNat_lt_of_fieldBelow {d : BitVec 6} {n : Nat} (h : fieldBelow d n = true) : d.toNat < n := of_decide_eq_true h

/-! ### Comparisons (R104) -/

/-- Under an etype that is not packed a register or pair is one element. -/
theorem etWidth_of_not_packed {e : Nat} (h : etPacked e = false) : etWidth e = etSpan e := by
  have hn : ¬ (e = 4 ∨ e = 5) ∧ ¬ (e = 6 ∨ e = 7) := by
    simp only [etPacked, Bool.and_eq_false_iff, decide_eq_false_iff_not] at h
    omega
  unfold etWidth etSpan
  rw [if_neg hn.1, if_neg hn.2]

/-- Its b operand is then one element too. -/
theorem Issue.elemB_zero_of_not_packed {x : Issue} {l : Nat} (h : etPacked (modeEtype (x.mode l)) = false) (b : SrcB) :
    x.elemB l b 0 = x.wholeB l b := by
  have hw := etWidth_of_not_packed h
  have whole : ∀ v, v < 2 ^ etSpan (modeEtype (x.mode l)) → elemOf (modeEtype (x.mode l)) v 0 = v := fun v hv => by
    unfold elemOf
    rw [Nat.mul_zero, Nat.pow_zero, Nat.div_one, hw, Nat.mod_eq_of_lt hv]
  cases b with
  | reg b => exact whole _ (x.v.val_lt ..)
  | count b =>
    show (if etPair _ then _ else elemOf _ _ 0) = _
    split
    next hp => rfl
    next hp => exact whole _ (by rw [etSpan_of_not_pair (Bool.eq_false_iff.mpr hp)]; exact BitVec.isLt _)
  | imm i => show wrapNat (etWidth _) i = wrapNat (etSpan _) i; rw [hw]
  | none => rfl

/-- The b operand of a comparison as the number of its 32 or 64 bits. -/
theorem Issue.wholeB_eq (x : Issue) (l : Nat) (b : SrcB) :
    x.wholeB l b = if etPair (modeEtype (x.mode l)) then (x.b64 l b).toNat else (x.b32 l b).toNat := by
  split
  next hp => exact Issue.wholeB_of_pair hp b
  next hp => exact Issue.wholeB_of_not_pair (Bool.eq_false_iff.mpr hp) b

/-- A comparison is the shared body with its fields and the condition of its name. -/
theorem exec_compareForm {i : Instr} {F : CompareForm} (h : compareForm i = some F) (s : State) :
    ∃ q, (∀ a b, condInt q a b = true ↔ F.cond a b) ∧ exec i s = compare s F.u F.st F.d F.a F.b q := by
  unfold compareForm at h
  split at h <;> cases h
  · exact ⟨.eq, fun a b => beq_iff_eq, rfl⟩
  · exact ⟨.ne, fun a b => bne_iff_ne, rfl⟩
  · exact ⟨.lt, fun a b => decide_eq_true_iff, rfl⟩
  · exact ⟨.le, fun a b => decide_eq_true_iff, rfl⟩
  · exact ⟨.gt, fun a b => decide_eq_true_iff, rfl⟩
  · exact ⟨.ge, fun a b => decide_eq_true_iff, rfl⟩
  · exact ⟨.eq, fun a b => beq_iff_eq, rfl⟩
  · exact ⟨.ne, fun a b => bne_iff_ne, rfl⟩
  · exact ⟨.lt, fun a b => decide_eq_true_iff, rfl⟩
  · exact ⟨.le, fun a b => decide_eq_true_iff, rfl⟩
  · exact ⟨.gt, fun a b => decide_eq_true_iff, rfl⟩
  · exact ⟨.ge, fun a b => decide_eq_true_iff, rfl⟩

theorem compareForm_pred_lt {i : Instr} {F : CompareForm} (h : compareForm i = some F) (hwf : i.wf = true) : F.d.toNat < 8 := by
  unfold compareForm at h
  split at h <;> cases h <;> exact toNat_lt_of_fieldBelow hwf

/-- What a comparison writes, where its etype is not packed. -/
theorem compare_spec {F : CompareForm} {s : State} {k : Nat} {js : List Nat} {c : Crew} (q : Cond) (hd : F.d.toNat < 8)
    (hc : s.clears F.head k js c = true) :
    let x := s.issueOf F.head k js c
    ∃ c', compare s F.u F.st F.d F.a F.b q = .next (s.setCrew k c') ∧ ∀ l, x.act.getLsbD l = true →
      let o := x.source F.u l
      let e := modeEtype (x.mode o)
      (c'.lane l).pred F.d.toNat = (F.d == 0 || condInt q (readInt (etSigned e) (etSpan e) (x.v.val e o F.a))
        (readInt (etSigned e) (etSpan e) (if etPair e then (x.b64 o F.b).toNat else (x.b32 o F.b).toNat))) := by
  intro x
  obtain ⟨c', hexec, hpred⟩ := scalar_wrP hd (fun x l =>
    let e := modeEtype (x.mode l)
    condInt q (readInt (etSigned e) (etWidth e) (x.val l F.a)) (readInt (etSigned e) (etWidth e) (x.elemB l F.b 0))) hc
  refine ⟨c', hexec, fun l hl => (hpred l hl).trans ?_⟩
  have hpk : etPacked (modeEtype (x.mode (x.source F.u l))) = false :=
    State.clears_etype (fun _ => rfl) hc (Issue.source_acts F.u hl)
  dsimp only
  rw [← Issue.wholeB_eq, ← Issue.elemB_zero_of_not_packed hpk, ← etWidth_of_not_packed hpk]
  rfl

/-! ### Selections (R105) -/

/-- A selection is the shared body with its predicate. -/
theorem exec_selectForm {i : Instr} {f : FUSDAB} {p : Nat} (h : selectForm i = some (f, p)) (s : State) :
    exec i s = select s f p := by
  unfold selectForm at h
  split at h <;> cases h <;> rfl

/-- What a selection writes. -/
theorem select_spec {f : FUSDAB} {p : Nat} {s : State} {k : Nat} {js : List Nat} {c : Crew}
    (hc : s.clears (selectHead f p).scalar k js c = true) :
    let x := s.issueOf (selectHead f p).scalar k js c
    ∃ c', select s f p = .next (s.setCrew k c') ∧ ∀ l, x.act.getLsbD l = true →
      let o := x.source f.u l
      let e := modeEtype (x.mode o)
      c'.val e l f.d = if x.pred o p then x.v.val e o f.a else x.v.val e o f.b := by
  intro x
  obtain ⟨c', hexec, -, hval⟩ := scalar_wrVal f.d (fun x l => if x.pred l p then x.val l f.a else x.val l f.b) hc
  refine ⟨c', hexec, fun l hl => (hval l hl).trans (Nat.mod_eq_of_lt ?_)⟩
  split <;> exact x.v.val_lt ..

/-- The packed integer etypes are 4 to 7. -/
theorem etPacked_of_eq {e : Nat} (h : e = 4 ∨ e = 5 ∨ e = 6 ∨ e = 7) : etPacked e = true := by
  rcases h with rfl | rfl | rfl | rfl <;> rfl

/-- Settles O6: one body for the comparisons, whose etype is one element since the packed ones are ILLEGAL, and one for the
selections, whose value fits its register or pair. -/
theorem comparisonsAndSelection : Obligations.ComparisonsAndSelection := by
  refine ⟨fun i F s k js c hF hwf => ?_, fun i f p s k js c hF hc => ?_⟩
  · intro x
    obtain ⟨q, hq, hexec⟩ := exec_compareForm hF s
    rw [hexec]
    refine ⟨fun hc => ?_, fun hcur hcrew hm hw _ ha he => ?_⟩
    · obtain ⟨c', h1, hpred⟩ := compare_spec q (compareForm_pred_lt hF hwf) hc
      refine ⟨c', h1, fun l hl => ?_⟩
      intro o e a b
      rw [hpred l hl, Bool.or_eq_true, beq_iff_eq, hq]
    · obtain ⟨j, hj, he⟩ := he
      exact scalar_etype_illegal (h := compareHead F.u F.st F.d F.a F.b) (p := etPacked) (fun _ => rfl) rfl rfl hcur hcrew hm hw
        ha ⟨j, hj, etPacked_of_eq he⟩ _
  · rw [exec_selectForm hF]
    exact select_spec hc

/-! ### The predicate instructions (R106) -/

/-- An instruction from two predicates is the shared body with its operation. -/
theorem exec_predForm {i : Instr} {f : FSDAB} {op : Bool → Bool → Bool} (h : predForm i = some (f, op)) (s : State) :
    exec i s = predOp s f op := by
  unfold predForm at h
  split at h <;> cases h <;> rfl

theorem predForm_pred_lt {i : Instr} {f : FSDAB} {op : Bool → Bool → Bool} (h : predForm i = some (f, op)) (hwf : i.wf = true) :
    f.d.toNat < 8 := by
  unfold predForm at h
  split at h <;> cases h <;>
    exact toNat_lt_of_fieldBelow (Bool.and_eq_true_iff.mp (Bool.and_eq_true_iff.mp hwf).1).1

/-- The eight predicates collected in a word, bit 0 always 1. -/
theorem Lane.getLsbD_collected (ln : Lane) {i : Nat} (hi : i < 32) :
    (ln.preds.zeroExtend 32 ||| 1#32).getLsbD i = (decide (i < 8) && ln.pred i) := by
  unfold Lane.pred
  rw [BitVec.getLsbD_or, BitVec.getLsbD_setWidth, BitVec.getLsbD_one]
  by_cases h0 : i = 0
  · subst h0; simp
  · by_cases h8 : i < 8
    · simp [h0, hi, h8]
    · simp [h0, h8, BitVec.getLsbD_of_ge _ _ (Nat.not_lt.mp h8)]

theorem exec_pset (f : FSDA) (s : State) : exec (.pset f) s = scalar s (psetHead f) fun x l => wrP f.d (x.reg l f.a.toNat != 0) :=
  rfl
theorem exec_pnot (f : FSDA) (s : State) : exec (.pnot f) s = scalar s (pnotHead f) fun x l => wrP f.d (!x.pred l f.a.toNat) :=
  rfl
theorem exec_pget (f : FSD) (s : State) :
    exec (.pget f) s = scalar s (pgetHead f) fun x l => wr1 f.d ((x.v.lane l).preds.zeroExtend 32 ||| 1) := rfl

/-- Settles O7: each writes one predicate, or PGET one register, from the lane's own operands. -/
theorem predicates : Obligations.Predicates := by
  refine ⟨fun i f op s k js c hF hwf hc => ?_, fun f s k js c hwf hc => ?_, fun f s k js c hwf hc => ?_, fun f s k js c hc => ?_⟩
  · rw [exec_predForm hF]
    exact scalar_wrP (predForm_pred_lt hF hwf) (fun x l => op (x.pred l f.a.toNat) (x.pred l f.b.toNat)) hc
  · rw [exec_pnot]
    exact scalar_wrP (toNat_lt_of_fieldBelow (Bool.and_eq_true_iff.mp hwf).1) (fun x l => !x.pred l f.a.toNat) hc
  · rw [exec_pset]
    exact scalar_wrP (toNat_lt_of_fieldBelow hwf) (fun x l => x.reg l f.a.toNat != 0) hc
  · intro x
    obtain ⟨c', hexec, hreg⟩ := scalar_wr1 f.d (fun x l => (x.v.lane l).preds.zeroExtend 32 ||| 1) hc
    refine ⟨c', (exec_pget f s).trans hexec, fun l hl i hi => ?_⟩
    rw [hreg l hl]
    exact Lane.getLsbD_collected _ hi

end Sys2Proof.Machine
end

section
/-! PROOF. Scaling, classes, dot products and comparisons of floats (R108, R110 to R112). -/

namespace Sys2Proof.Machine

/-! ### Formats of the etypes -/

/-- Outside the FP8 etypes a format is not E4M3 and has more than eight bits. -/
theorem etFmt_of_not_fp8 {e : Nat} (h : etFp8 e = false) : etFmt e ≠ .e4m3 ∧ 8 < fmtWidth (etFmt e) := by
  have he : e ≠ 11 ∧ e ≠ 12 := by simpa [etFp8] using h
  unfold etFmt
  rw [if_neg he.1, if_neg he.2]
  split
  · decide
  · split <;> decide

/-- The etypes 9 and 10 are those of the 16-bit formats. -/
theorem etFmt_of_half {e : Nat} (h : (!(e == 9 || e == 10)) = false) : etFmt e = .fp16 ∨ etFmt e = .bf16 := by
  rw [Bool.not_eq_false', Bool.or_eq_true, beq_iff_eq, beq_iff_eq] at h
  rcases h with rfl | rfl
  · exact .inl rfl
  · exact .inr rfl

/-- The format of a lane's etype. -/
def Issue.format (x : Issue) (l : Nat) : FFmt := etFmt (modeEtype (x.mode l))

/-- Element j of a lane's register, exactly. -/
def Issue.elem (x : Issue) (l : Nat) (r : BitVec 6) (j : Nat) : Fl :=
  decodeFl (x.format l) (elemFl (x.format l) (x.reg l r.toNat) j)

/-! ### FSCAL (R108) -/

theorem exec_fscal (f : FUSDAB) (s : State) :
    exec (.fscal f) s = scalar s (fscalHead f) fun x l =>
      wr1 f.d (ofElemsFl (x.format l) fun j =>
        roundFl (x.format l) (modeRmode (x.mode l)) (modeSat (x.mode l)) (scaleFl (x.elem l f.a j) (x.reg l f.b.toNat).toInt)) :=
  rfl

/-! ### FCLASS (R111) -/

/-- Exponent and fraction of a code: together they are the code without its sign. -/
theorem exponent_fraction (g : FFmt) (v : Nat) :
    v % 2 ^ (fmtWidth g - 1) = 2 ^ fracBits g * (v / 2 ^ fracBits g % 2 ^ expBits g) + v % 2 ^ fracBits g := by
  have hw : fmtWidth g - 1 = fracBits g + expBits g := by unfold fmtWidth; omega
  rw [hw, Nat.pow_add, Nat.mod_mul, Nat.add_comm]

/-- Where a format has infinities, theirs is the code of the greatest exponent and no fraction, next to the largest finite
one. -/
theorem infCode_eq {g : FFmt} (hg : g ≠ .e4m3) :
    infCode g = 2 ^ fracBits g * (2 ^ expBits g - 1) ∧ maxCode g + 1 = infCode g := by
  cases g with
  | e4m3 => exact absurd rfl hg
  | fp32 | fp16 | bf16 | e5m2 => decide

section
variable {g : FFmt} {v : Nat}

/-- The class of a code with the greatest exponent: a NaN or an infinity. -/
theorem classBit_special (hg : g ≠ .e4m3) (hE : v / 2 ^ fracBits g % 2 ^ expBits g = 2 ^ expBits g - 1) :
    classBit g v = if v % 2 ^ fracBits g ≠ 0 then 8 else if v.testBit (fmtWidth g - 1) then 0 else 7 := by
  obtain ⟨hinf, hmax⟩ := infCode_eq hg
  have hc := exponent_fraction g v
  rw [hE, ← hinf] at hc
  have hgt : maxCode g < v % 2 ^ (fmtWidth g - 1) := by omega
  unfold classBit
  rw [decodeFl_of_gt hgt, ← bit_eq_testBit]
  by_cases hF : v % 2 ^ fracBits g = 0
  · rw [if_pos ⟨by omega, hg⟩, if_neg (not_not.mpr hF)]
  · rw [if_neg (fun h => hF (by omega)), if_pos hF]

/-- A code below the greatest exponent is finite. -/
theorem le_maxCode_of_exponent (hg : g ≠ .e4m3) (hE : v / 2 ^ fracBits g % 2 ^ expBits g ≠ 2 ^ expBits g - 1) :
    v % 2 ^ (fmtWidth g - 1) ≤ maxCode g := by
  obtain ⟨hinf, hmax⟩ := infCode_eq hg
  have hc := exponent_fraction g v
  have hF : v % 2 ^ fracBits g < 2 ^ fracBits g := Nat.mod_lt _ (by positivity)
  have hlt : v / 2 ^ fracBits g % 2 ^ expBits g < 2 ^ expBits g := Nat.mod_lt _ (by positivity)
  have hle : 2 ^ fracBits g * (v / 2 ^ fracBits g % 2 ^ expBits g + 1) ≤ 2 ^ fracBits g * (2 ^ expBits g - 1) :=
    Nat.mul_le_mul_left _ (by omega)
  rw [Nat.mul_add] at hle
  omega

/-- The class of a finite code: normal with an exponent, subnormal with a fraction alone, else zero. -/
theorem classBit_finite (hg : g ≠ .e4m3) (hE : v / 2 ^ fracBits g % 2 ^ expBits g ≠ 2 ^ expBits g - 1) :
    classBit g v = if v / 2 ^ fracBits g % 2 ^ expBits g ≠ 0 then (if v.testBit (fmtWidth g - 1) then 1 else 6)
      else if v % 2 ^ fracBits g ≠ 0 then (if v.testBit (fmtWidth g - 1) then 2 else 5)
      else if v.testBit (fmtWidth g - 1) then 3 else 4 := by
  have hle := le_maxCode_of_exponent hg hE
  have hc := exponent_fraction g v
  have hF : v % 2 ^ fracBits g < 2 ^ fracBits g := Nat.mod_lt _ (by positivity)
  have hp : 0 < 2 ^ fracBits g := by positivity
  unfold classBit decodeFl
  simp only [if_neg (Nat.not_lt.mpr hle), ← bit_eq_testBit]
  rw [hc, Nat.mul_add_div hp, Nat.mul_add_mod, Nat.div_eq_of_lt hF, Nat.add_zero, Nat.mod_eq_of_lt hF]
  generalize v / 2 ^ fracBits g % 2 ^ expBits g = E
  generalize v % 2 ^ fracBits g = F at hF
  by_cases h0 : E = 0
  · subst h0
    by_cases hF0 : F = 0
    · simp [hF0]
    · simp [hF0, hF]
  · have hbig : ¬ 2 ^ fracBits g * E + F < 2 ^ fracBits g := by
      have := Nat.mul_le_mul_left (2 ^ fracBits g) (Nat.pos_of_ne_zero h0)
      omega
    simp [h0, hbig]

/-- A class is one of nine. -/
theorem classBit_le (g : FFmt) (v : Nat) : classBit g v ≤ 8 := by
  unfold classBit
  dsimp only
  split
  · omega
  · split <;> omega
  · split
    · split <;> omega
    · split <;> split <;> omega

end

theorem exec_fclass (f : FUSDA) (s : State) :
    exec (.fclass f) s = scalar s (fclassHead f) fun x l =>
      wr1 f.d (ofElemsFl (x.format l) fun j => 2 ^ classBit (x.format l) (elemFl (x.format l) (x.reg l f.a.toNat) j)) := rfl

/-! ### FDOT2 (R112) -/

/-- The code FDOT2 writes in a lane. -/
def Issue.dotCode (x : Issue) (f : FUSDAB) (l : Nat) : Nat :=
  roundFl .fp32 (modeRmode (x.mode l)) (modeSat (x.mode l))
    (sumFl [mulFl (x.elem l f.a 0) (x.elem l f.b 0), mulFl (x.elem l f.a 1) (x.elem l f.b 1),
      decodeFl .fp32 (x.reg l f.d.toNat).toNat])

theorem exec_fdot2 (f : FUSDAB) (s : State) :
    exec (.fdot2 f) s = scalar s (fdot2Head f) fun x l => wr1 f.d (BitVec.ofNat 32 (x.dotCode f l)) := rfl

/-! ### FCMP (R110) -/

/-- A comparison of floats is the shared body with its condition. -/
theorem exec_floatCompareForm {i : Instr} {f : FUSDAB} {q : Cond} (h : floatCompareForm i = some (f, q)) (s : State) :
    exec i s = floatCompare s f q := by
  unfold floatCompareForm at h
  split at h <;> cases h <;> rfl

theorem floatCompareForm_pred_lt {i : Instr} {f : FUSDAB} {q : Cond} (h : floatCompareForm i = some (f, q))
    (hwf : i.wf = true) : f.d.toNat < 8 := by
  unfold floatCompareForm at h
  split at h <;> cases h <;> exact toNat_lt_of_fieldBelow hwf

/-- Of two values in order neither is a NaN. -/
theorem ltFl_ordered {a b : Fl} (h : ltFl a b = true) : ¬ (a = .nan ∨ b = .nan) := by
  rintro (rfl | rfl)
  · cases h
  · cases a <;> cases h

/-- An FP32 code put into a register reads back. -/
theorem toNat_ofNat_roundFl (rm : Nat) (sat : Bool) (y : Fl) :
    (BitVec.ofNat 32 (roundFl .fp32 rm sat y)).toNat = roundFl .fp32 rm sat y := by
  rw [BitVec.toNat_ofNat]
  exact Nat.mod_eq_of_lt (roundFl_lt .fp32 rm sat y)

/-- Settles O10: each code fits its element; the formats of FCLASS and FDOT2 are those that their forbidden etypes leave; a
comparison's condition is that of its name. -/
theorem floatSpecialsAndComparisons : Obligations.FloatSpecialsAndComparisons := by
  refine ⟨⟨?fscal, ?fclass, ?fdot2⟩, ?fcmp⟩
  case fscal =>
    intro f s k js c hc x
    rw [exec_fscal]
    obtain ⟨c', hexec, hreg⟩ := scalar_wr1 f.d _ hc
    refine ⟨c', hexec, fun l hl => ?_⟩
    intro o m g j hj
    rw [hreg l hl]
    refine (elemFl_ofElemsFl g _ (fun _ => roundFl_lt ..) hj).trans ?_
    show roundFl g (modeRmode m) (modeSat m) (scaleFl (decodeFl g (elemFl g (x.reg o f.a.toNat) j)) _) = _
    cases decodeFl g (elemFl g (x.reg o f.a.toNat) j) <;> rfl
  case fclass =>
    intro f s k js c hc x
    rw [exec_fclass]
    obtain ⟨c', hexec, hreg⟩ := scalar_wr1 f.d _ hc
    refine ⟨c', hexec, fun l hl => ?_⟩
    intro o g j hj v E F neg
    obtain ⟨hg, hwide⟩ : g ≠ .e4m3 ∧ 8 < fmtWidth g :=
      etFmt_of_not_fp8 (State.clears_etype (fun _ => rfl) hc (Issue.source_acts f.u hl))
    have hlt : ∀ n, 2 ^ classBit g n < 2 ^ fmtWidth g := fun n =>
      Nat.pow_lt_pow_right (by omega) ((classBit_le g n).trans_lt hwide)
    rw [hreg l hl]
    refine (elemFl_ofElemsFl g _ (fun _ => hlt _) hj).trans (congrArg (2 ^ ·) ?_)
    by_cases hE : E = 2 ^ expBits g - 1
    · rw [if_pos hE]
      exact classBit_special hg hE
    · rw [if_neg hE]
      exact classBit_finite hg hE
  case fdot2 =>
    intro f s k js c hc x
    rw [exec_fdot2]
    obtain ⟨c', hexec, hreg⟩ := scalar_wr1 f.d _ hc
    refine ⟨c', hexec, fun l hl => ?_⟩
    intro o m g el
    have hhalf := State.clears_etype (p := fun e => !(e == 9 || e == 10)) (fun _ => rfl) hc (Issue.source_acts f.u hl)
    refine ⟨etFmt_of_half hhalf, ?_⟩
    rw [hreg l hl]
    exact toNat_ofNat_roundFl ..
  case fcmp =>
    intro i f q s k js c hF hwf x
    rw [exec_floatCompareForm hF]
    refine ⟨fun hc => ?_, fun hcur hcrew hm hw ha he => ?_⟩
    · obtain ⟨c', hexec, hpred⟩ := scalar_wrP (floatCompareForm_pred_lt hF hwf)
        (fun x l => condFl q (decodeFl .fp32 (x.reg l f.a.toNat).toNat) (decodeFl .fp32 (x.reg l f.b.toNat).toNat)) hc
      refine ⟨c', hexec, fun l hl => ?_⟩
      intro o a b un
      have hp : (c'.lane l).pred f.d.toNat = (f.d == 0 || condFl q a b) := hpred l hl
      rw [hp, Bool.or_eq_true, beq_iff_eq]
      refine or_congr Iff.rfl ?_
      cases q with
      | lt => exact (and_iff_right_of_imp ltFl_ordered).symm
      | gt => exact (and_iff_right_of_imp fun h => or_comm.not.mp (ltFl_ordered h)).symm
      | eq | ne | le | ge | un => simp [condFl, un, and_assoc, or_assoc]
    · obtain ⟨j, hj, he⟩ := he
      exact scalar_etype_illegal (h := floatCompareHead f) (p := fun e => decide (9 ≤ e)) (fun _ => rfl) rfl rfl hcur hcrew hm hw
        ha ⟨j, hj, decide_eq_true he⟩ _

end Sys2Proof.Machine
end

section
/-! PROOF. Conversions between float formats and between floats and integers (R113 to R115). -/

namespace Sys2Proof.Machine

/-! ### FCVT (R113, R114) -/

/-- A string of registers written from number n on reads back. -/
theorem Lane.get_foldSet_zipIdx (vs : List Word) (ln : Lane) (D d n : Nat) {i : Nat} (hi : i < vs.length) :
    (((vs.zipIdx n).map fun e => (d + e.2, e.1)).foldl (fun (ln : Lane) r => ln.set D r.1 r.2) ln).get D (d + n + i) = vs[i] := by
  induction vs generalizing ln n i with
  | nil => simp at hi
  | cons v t ih =>
    rw [List.zipIdx_cons, List.map_cons, List.foldl_cons]
    cases i with
    | zero =>
      have hkeep := (Lane.foldSet_frame ((t.zipIdx (n + 1)).map fun e => (d + e.2, e.1)) (ln.set D (d + n) v) D (D + (d + n))
        (by
          intro w hw
          obtain ⟨e, he, rfl⟩ := List.mem_map.mp hw
          have := List.le_snd_of_mem_zipIdx he
          dsimp only
          omega)).1
      rw [Lane.tget_set, if_pos rfl] at hkeep
      exact congrArg (·.getD 0) hkeep
    | succ i =>
      have := ih (ln.set D (d + n) v) (n + 1) (i := i) (by simpa using hi)
      rw [List.getElem_cons_succ, ← this]
      congr 1
      omega

/-- A string of registers reads back. -/
theorem Lane.get_write_wrN (ln : Lane) (D d : Nat) (vs : List Word) {i : Nat} (hi : i < vs.length) :
    (ln.write D (wrN d vs)).get D (d + i) = vs[i] := by
  have := Lane.get_foldSet_zipIdx vs ln D d 0 hi
  rwa [Nat.add_zero] at this

/-- FCVT's code for element n of its destination group, from the lane its source group is in. -/
def Issue.convertCode (x : Issue) (f : FUSDA) (g : FFmt) (l n : Nat) : Nat :=
  roundFl g (modeRmode (x.mode l)) (modeSat (x.mode l))
    (decodeFl (x.format l) (elemFl (x.format l) (x.reg l (f.a.toNat + n / perReg (x.format l))) (n % perReg (x.format l))))

/-- The registers FCVT writes in a lane. -/
def Issue.convertRegs (x : Issue) (f : FUSDA) (g : FFmt) (l : Nat) : List Word :=
  (List.range (convertShape g (x.mode l)).2).map fun r => ofElemsFl g fun j => x.convertCode f g l (r * perReg g + j)

/-- An FCVT is the shared body with its destination format. -/
theorem exec_convertForm {i : Instr} {f : FUSDA} {g : FFmt} (h : convertForm i = some (f, g)) (s : State) :
    exec i s = scalar s (floatConvertHead f g) fun x l => wrN f.d.toNat (x.convertRegs f g l) := by
  unfold convertForm at h
  split at h <;> cases h <;> rfl

theorem perReg_pos (g : FFmt) : 0 < perReg g := by cases g <;> decide

/-- The elements of an FCVT fill its destination registers. -/
theorem perReg_dvd_max (a g : FFmt) : perReg g ∣ max (perReg a) (perReg g) := by cases a <;> cases g <;> decide

/-- Element n of FCVT's destination group lies in the registers it writes. -/
theorem Issue.elem_convertRegs (x : Issue) (f : FUSDA) (g : FFmt) (l : Nat) {n : Nat}
    (hn : n < max (perReg (x.format l)) (perReg g)) :
    ∃ h : n / perReg g < (x.convertRegs f g l).length,
      elemFl g (x.convertRegs f g l)[n / perReg g] (n % perReg g) = x.convertCode f g l n := by
  have hlen : (x.convertRegs f g l).length = max (perReg (x.format l)) (perReg g) / perReg g := by
    unfold Issue.convertRegs
    rw [List.length_map, List.length_range]
    rfl
  refine ⟨by rw [hlen]; exact Nat.div_lt_div_of_lt_of_dvd (perReg_dvd_max _ _) hn, ?_⟩
  unfold Issue.convertRegs
  rw [List.getElem_map, List.getElem_range]
  refine (elemFl_ofElemsFl g _ (fun _ => roundFl_lt ..) (Nat.mod_lt _ (perReg_pos g))).trans ?_
  rw [Nat.div_add_mod']
  rfl

/-! ### Integers that an element holds (R62, R115) -/

section
variable {sg : Bool} {w : Nat}

/-- Reading looks at the low w bits. -/
theorem readInt_mod (sg : Bool) (w n : Nat) : readInt sg w (n % 2 ^ w) = readInt sg w n := by
  unfold readInt signedOf
  rw [Nat.mod_mod]

theorem minInt_le_maxInt (sg : Bool) (w : Nat) : minInt sg w ≤ maxInt sg w := by
  have h1 : 0 < 2 ^ (w - 1) := by positivity
  have h2 : 0 < 2 ^ w := by positivity
  unfold minInt maxInt
  cases sg
  · simp only [Bool.false_eq_true, if_false]; omega
  · simp only [if_true]; omega

/-- An integer of the element's range is read back from its low w bits. -/
theorem readInt_wrapNat (hw : 0 < w) {v : Int} (hlo : minInt sg w ≤ v) (hhi : v ≤ maxInt sg w) :
    readInt sg w (wrapNat w v) = v := by
  have h2 := (Nat.two_pow_pred_mul_two hw).symm
  obtain ⟨hlt, hmod⟩ := wrapNat_spec w v
  unfold readInt signedOf minInt maxInt at *
  rw [Nat.mod_eq_of_lt hlt]
  rw [h2] at hmod hlt hhi ⊢
  cases sg
  · simp only [Bool.false_eq_true, if_false] at *
    rw [hmod, Int.emod_eq_of_lt hlo (by omega)]
  · simp only [if_true] at *
    by_cases hneg : v < 0
    · have hv : (wrapNat w v : Int) = v + ((2 ^ (w - 1) * 2 : Nat) : Int) := by
        rw [hmod, ← Int.add_emod_right, Int.emod_eq_of_lt (by omega) (by omega)]
      rw [if_pos (by omega)]
      omega
    · have hv : (wrapNat w v : Int) = v := by rw [hmod, Int.emod_eq_of_lt (by omega) (by omega)]
      rw [if_neg (by omega)]
      exact hv

/-- The one integer that R115 names for what does not fit, as the bits that the model writes. -/
theorem readInt_misfit (sg : Bool) (hw : 0 < w) :
    readInt sg w (if sg then 2 ^ (w - 1) else 2 ^ w - 1) = if sg then -(2 ^ (w - 1)) else 2 ^ w - 1 := by
  have h2 := (Nat.two_pow_pred_mul_two hw).symm
  have hp : 0 < 2 ^ (w - 1) := by positivity
  unfold readInt signedOf
  cases sg
  · simp only [Bool.false_eq_true, if_false]
    rw [Nat.mod_eq_of_lt (by omega), Nat.cast_sub (by omega)]
    push_cast
    rfl
  · simp only [if_true]
    rw [Nat.mod_eq_of_lt (by omega), if_pos (le_refl _), h2]
    push_cast
    ring

/-- A magnitude of a large exponent passes the range on the side of its sign. -/
theorem unitsFl_out_of_range (sg : Bool) (hw : w ≤ 200) (n : Bool) {m : Nat} {e : Int} (he : 200 < e) (hm : m ≠ 0) :
    ¬ (minInt sg w ≤ unitsFl 0 (.fin n m e) ∧ unitsFl 0 (.fin n m e) ≤ maxInt sg w) ∧
      (unitsFl 0 (.fin n m e) < minInt sg w ↔ n = true) := by
  have hpow : 2 ^ w < m * 2 ^ (e - 0).toNat := calc
    2 ^ w < 2 ^ (e - 0).toNat := Nat.pow_lt_pow_right (by omega) (by omega)
    _ ≤ m * 2 ^ (e - 0).toNat := Nat.le_mul_of_pos_left _ (by omega)
  have hhalf : 2 ^ (w - 1) ≤ 2 ^ w := Nat.pow_le_pow_right (by omega) (by omega)
  have hp : 0 < 2 ^ (w - 1) := by positivity
  have hle := minInt_le_maxInt sg w
  cases n
  · have hgt : maxInt sg w < unitsFl 0 (.fin false m e) := by
      show _ < (1 : Int) * ((m * 2 ^ (e - 0).toNat : Nat) : Int)
      unfold maxInt
      split <;> omega
    exact ⟨by omega, iff_of_false (by omega) (by decide)⟩
  · have hlt : unitsFl 0 (.fin true m e) < minInt sg w := by
      show (-1 : Int) * ((m * 2 ^ (e - 0).toNat : Nat) : Int) < _
      unfold minInt
      split <;> omega
    exact ⟨by omega, iff_of_true hlt rfl⟩

variable (hw : 0 < w) {rm : Nat} {sat : Bool} {y : Fl}
include hw

theorem readInt_flToInt_nan (h : integralFl rm y = .nan) :
    readInt sg w (flToInt rm sat sg w y) = if sat then 0 else if sg then -(2 ^ (w - 1)) else 2 ^ w - 1 := by
  unfold flToInt
  rw [h]
  cases sat
  · exact readInt_misfit sg hw
  · cases sg
    · simp [readInt]
    · simp [readInt, signedOf]

theorem readInt_flToInt_inf {n : Bool} (h : integralFl rm y = .inf n) :
    readInt sg w (flToInt rm sat sg w y) =
      if sat then (if n then minInt sg w else maxInt sg w) else if sg then -(2 ^ (w - 1)) else 2 ^ w - 1 := by
  have hle := minInt_le_maxInt sg w
  unfold flToInt
  rw [h]
  cases sat
  · exact readInt_misfit sg hw
  · cases n
    · exact readInt_wrapNat hw hle (le_refl _)
    · exact readInt_wrapNat hw (le_refl _) hle

theorem readInt_flToInt_fin (hw' : w ≤ 200) {n : Bool} {m : Nat} {e : Int} (h : integralFl rm y = .fin n m e) :
    readInt sg w (flToInt rm sat sg w y) =
      if minInt sg w ≤ unitsFl 0 (.fin n m e) ∧ unitsFl 0 (.fin n m e) ≤ maxInt sg w then unitsFl 0 (.fin n m e)
      else if sat then (if unitsFl 0 (.fin n m e) < minInt sg w then minInt sg w else maxInt sg w)
      else if sg then -(2 ^ (w - 1)) else 2 ^ w - 1 := by
  have hle := minInt_le_maxInt sg w
  have hmisfit := readInt_misfit sg hw
  have hlo := readInt_wrapNat hw (le_refl _) hle
  have hhi := readInt_wrapNat hw hle (le_refl (maxInt sg w))
  unfold flToInt
  rw [h]
  dsimp only
  by_cases hbig : e > 200 ∧ m ≠ 0
  · obtain ⟨hout, hside⟩ := unitsFl_out_of_range sg hw' n hbig.1 hbig.2
    rw [if_pos hbig, if_neg hout]
    simp only [hside]
    cases sat
    · exact hmisfit
    · cases n
      · exact hhi
      · exact hlo
  · rw [if_neg hbig]
    generalize unitsFl 0 (.fin n m e) = v
    by_cases hin : minInt sg w ≤ v ∧ v ≤ maxInt sg w
    · rw [if_pos hin, if_pos hin]
      exact readInt_wrapNat hw hin.1 hin.2
    · rw [if_neg hin, if_neg hin]
      cases sat
      · exact hmisfit
      · by_cases hlow : v < minInt sg w
        · simp only [if_true, hlow]
          exact hlo
        · simp only [if_true, hlow, if_false]
          exact hhi

end

/-! ### ICVT (R115) -/

theorem exec_icvtFromInt (f : FUSDA) (s : State) (sg : Bool) :
    exec (if sg then .icvtSf f else .icvtUf f) s = convertInt s f sg := by cases sg <;> rfl

theorem exec_icvtToInt (f : FUSDA) (s : State) (sg : Bool) :
    exec (if sg then .icvtFs f else .icvtFu f) s = convertFloat s f sg := by cases sg <;> rfl

theorem etSpan_range (e : Nat) : 0 < etSpan e ∧ etSpan e ≤ 200 := by unfold etSpan; split <;> omega

/-- Settles O11: FCVT's elements fill the registers it writes; an integer's code fits FP32; what a float gives is the bits of
the integer that R115 names. -/
theorem conversions : Obligations.Conversions := by
  refine ⟨?fcvt, fun f s k js c => ⟨?fromInt, ?toInt⟩⟩
  case fcvt =>
    intro i f g s k js c hF hc x
    obtain ⟨c', hexec, -, hlane⟩ := scalar_lanes (fun x l => wrN f.d.toNat (x.convertRegs f g l)) hc
    refine ⟨c', (exec_convertForm hF s).trans hexec, fun l hl => ?_⟩
    intro o m src n hn
    obtain ⟨hin, helem⟩ := x.elem_convertRegs f g o hn
    have hlane' : c'.lane l = (c.lane l).write c.depth (wrN f.d.toNat (x.convertRegs f g o)) := hlane l hl
    rw [hlane', Lane.get_write_wrN _ _ _ _ hin]
    exact helem
  case fromInt =>
    intro hc x sg
    obtain ⟨c', hexec, hreg⟩ := scalar_wr1 f.d (fun x l => BitVec.ofNat 32 (roundFl .fp32 (modeRmode (x.mode l)) false
      (intFl (readInt sg (etSpan (modeEtype (x.mode l))) (x.val l f.a))))) hc
    refine ⟨c', (exec_icvtFromInt f s sg).trans hexec, fun l hl => ?_⟩
    intro o e v
    rw [hreg l hl]
    exact toNat_ofNat_roundFl ..
  case toInt =>
    intro hc x sg
    obtain ⟨c', hexec, -, hval⟩ := scalar_wrVal f.d (fun x l => flToInt (modeRmode (x.mode l)) (modeSat (x.mode l)) sg
      (etSpan (modeEtype (x.mode l))) (decodeFl .fp32 (x.reg l f.a.toNat).toNat)) hc
    refine ⟨c', (exec_icvtToInt f s sg).trans hexec, fun l hl => ?_⟩
    intro o m e w r out
    obtain ⟨hw, hw'⟩ := etSpan_range e
    have hr : r = readInt sg w (flToInt (modeRmode m) (modeSat m) sg w (decodeFl .fp32 (x.reg o f.a.toNat).toNat)) :=
      (congrArg (readInt sg w) (hval l hl)).trans (readInt_mod ..)
    rw [hr]
    split
    next h => exact readInt_flToInt_nan hw h
    next n h => exact readInt_flToInt_inf hw h
    next n mant p h =>
      have hfin := readInt_flToInt_fin (sg := sg) (sat := modeSat m) hw hw' h
      intro v
      split
      next hin => exact hfin.trans (if_pos hin)
      next hin => exact hfin.trans (if_neg hin)

end Sys2Proof.Machine
end

section
/-! PROOF. Taking an exception; TRAP and SYSCALL (R97, R317, R320, R323). -/

namespace Sys2Proof.Machine

/-! ### Raising the window (R34 to R36) -/

/-- Free values go to the registers of their range alone. -/
theorem State.tget_freeRegs (s : State) (kind lo hi l : Nat) (ln : Lane) {r : Nat} (h : r < lo) :
    tget (s.freeRegs kind lo hi l ln).regs r = tget ln.regs r := by
  unfold State.freeRegs
  exact foldl_keeps (fun t : Table Word => tget t r) _ (fun t i => tget_tset_ne t _ (by omega)) _ _

/-- A lane of a crew whose window is raised keeps its predicates, and its registers below those that enter the allotment. -/
theorem State.raise_lane (s : State) (c : Crew) (k l : Nat) :
    ((s.raise c k).lane l).preds = (c.lane l).preds ∧
      ∀ r, r < max (c.depth + c.window) c.allot → tget ((s.raise c k).lane l).regs r = tget (c.lane l).regs r := by
  have hlanes : (s.raise c k).lanes = (c.modLanes (c.live (List.range c.nsl)) fun l ln =>
    s.freeRegs 1 (max (c.depth + c.window) c.allot) (c.depth + k + c.window) l ln).lanes := rfl
  rw [Crew.lane_of_lanes hlanes, Crew.lane_modLanes]
  split
  · exact ⟨rfl, fun r hr => s.tget_freeRegs _ _ _ _ _ hr⟩
  · exact ⟨rfl, fun _ _ => rfl⟩

/-! ### The spill area written (R35) -/

/-- What a crew spills depends on its slices by which have exited, and by their links. -/
theorem Crew.linkDepth_congr {a b : Crew} (hn : a.nsl = b.nsl)
    (h : ∀ j, (a.slice j).exited = (b.slice j).exited ∧ (a.slice j).links = (b.slice j).links) : a.linkDepth = b.linkDepth := by
  unfold Crew.linkDepth Crew.present
  simp only [hn, h]

theorem State.spillOut_congr (s : State) (old : Crew) {a b : Crew} (hab : a.alike b)
    (h : ∀ j, (a.slice j).exited = (b.slice j).exited ∧ (a.slice j).links = (b.slice j).links) :
    s.spillOut old a = s.spillOut old b := by
  have hn := congrArg Crew.nsl hab
  have hl : a.linkDepth = b.linkDepth := Crew.linkDepth_congr hn h
  unfold Crew.alike at hab
  rw [← hab] at hl ⊢
  unfold State.spillOut Crew.spillBytes
  rw [hl]
  rfl

/-! ### Entering a trap (R317) -/

/-- What trap entry saves of a gang. -/
def State.trapSave (s : State) (c : Crew) (js : List Nat) : Saved :=
  { slices := js, pcs := js.map fun j => (c.slice j).pc, modes := js.map fun j => (c.slice j).mode,
    preds := c.lanes.toList.map (·.preds), depth := c.depth, links := js.map fun j => (c.slice j).links.length
    clk := s.clk }

/-- A crew with its trap record written and its state saved, the window not raised yet. -/
def State.trapRecorded (s : State) (c : Crew) (js : List Nat) (rec : TrapRec) : Crew :=
  { c with trap := rec, sup := some (s.trapSave c js), nested := c.sup.toList ++ c.nested }

/-- A slice of the gang sent to its handler. -/
def Slice.toHandler (clk : Nat) (vec : Dword) (sl : Slice) : Slice :=
  { sl with
    mode := 0x0008, pc := vec, wait := .none, readyAt := clk + 1, since := clk + 1, lastIssue := clk + 1
    aged := false, stepped := false }

/-- Where a core's handler of a cause begins. -/
def State.vector (s : State) (c : Crew) (cause : Cause) : Dword := (s.core c.core).tvec + BitVec.ofNat 64 (64 * cause.code)

/-- A crew that has entered a trap. -/
def State.trapped (s : State) (c : Crew) (js : List Nat) (cause : Cause) (rec : TrapRec) : Crew :=
  (s.raise (s.trapRecorded c js rec) c.window).modSlices js (Slice.toHandler s.clk (s.vector c cause))

section
variable {s : State} {c : Crew} {js : List Nat} {cause : Cause} {rec : TrapRec}

/-- The slices of a crew that has entered a trap: those of its gang are at the handler. -/
theorem State.trapped_slice (hjs : gangShape js = true) (j : Nat) :
    (s.trapped c js cause rec).slice j =
      if j ∈ js then Slice.toHandler s.clk (s.vector c cause) (c.slice j) else c.slice j := by
  obtain ⟨-, hn, h8⟩ := gangShape_iff.mp hjs
  exact Crew.slice_fold js (s.raise (s.trapRecorded c js rec) c.window) (fun _ => Slice.toHandler s.clk (s.vector c cause)) hn h8 j

/-- Beside its slices it is the crew with the record written and the window raised. -/
theorem State.trapped_same : (s.trapped c js cause rec).alike (s.raise (s.trapRecorded c js rec) c.window) ∧
    (s.trapped c js cause rec).lanes = (s.raise (s.trapRecorded c js rec) c.window).lanes :=
  Crew.fold_same js (s.raise (s.trapRecorded c js rec) c.window) fun _ => Slice.toHandler s.clk (s.vector c cause)

/-- Sending the gang to its handler spills nothing more. -/
theorem State.spillOut_trapped (old : Crew) (hjs : gangShape js = true) :
    s.spillOut old (s.trapped c js cause rec) = s.spillOut old (s.raise (s.trapRecorded c js rec) c.window) := by
  refine s.spillOut_congr old State.trapped_same.1 fun j => ?_
  rw [State.trapped_slice hjs]
  have hsl : (s.raise (s.trapRecorded c js rec) c.window).slice j = c.slice j := Crew.slice_of_slices rfl j
  rw [hsl]
  split <;> exact ⟨rfl, rfl⟩

variable {k : Nat} {mask : BitVec 32} {code : BitVec 13} {addrs : Table Dword} {writes : BitVec 32}
  (hc : tget s.crews k = some c)
include hc

/-- A trap that supervisor state or the spill area does not forbid is entered. -/
theorem State.takeTrap_enters (hjs : gangShape js = true) (hs : c.sup = none ∨ s.underDebug c cause = true)
    (hf : c.fits (c.depth + c.window) c.linkDepth = true) :
    let c' := s.trapped c js cause ⟨cause.code, mask, code, (c.slice (js.headD 0)).pc, addrs, writes⟩
    s.takeTrap k js cause mask code addrs writes = (s.spillOut c c').setCrew k c' := by
  intro c'
  have hsup : (c.sup.isSome && !s.underDebug c cause) = false := by
    rcases hs with h | h <;> simp [h]
  rw [State.spillOut_trapped c hjs]
  unfold State.takeTrap
  simp only [hc, hsup, hf, Bool.not_true, Bool.false_eq_true, if_false]
  rfl

/-- A trap in supervisor state ends the block (R320). -/
theorem State.takeTrap_in_supervisor (hs : c.sup ≠ none) (hd : s.underDebug c cause = false) :
    s.takeTrap k js cause mask code addrs writes =
      (s.endBlock c.block).emit (.escalate (s.ctxOf c) cause.code (c.slice (js.headD 0)).pc) := by
  have hsup : (c.sup.isSome && !s.underDebug c cause) = true := by
    rw [hd, Option.isSome_iff_ne_none.mpr hs]; rfl
  unfold State.takeTrap
  simp only [hc, hsup, if_true]
  rfl

/-- A trap whose spill does not fit ends the block with SPILL (R320). -/
theorem State.takeTrap_without_room (hs : c.sup = none ∨ s.underDebug c cause = true)
    (hf : c.fits (c.depth + c.window) c.linkDepth = false) :
    s.takeTrap k js cause mask code addrs writes =
      (s.endBlock c.block).emit (.escalate (s.ctxOf c) (Cause.code .spill) (c.slice (js.headD 0)).pc) := by
  have hsup : (c.sup.isSome && !s.underDebug c cause) = false := by
    rcases hs with h | h <;> simp [h]
  unfold State.takeTrap
  simp only [hc, hsup, hf, Bool.not_false, Bool.false_eq_true, if_false, if_true]
  rfl

end

theorem exec_trap (f : FSI) (s : State) :
    exec (.trap f) s = issue s (trapHead f) fun x => .next (x.s.takeTrap x.k x.js .brk x.act f.i [] 0) := rfl
theorem exec_syscall (f : FSI) (s : State) :
    exec (.syscall f) s = issue s (syscallHead f) fun x => .next (x.s.takeTrap x.k x.js .syscall x.act f.i [] 0) := rfl

/-- Settles O17: the crew entered is the one recorded and raised, its gang's slices sent to the handler; TRAP and SYSCALL that
clear the checks are the trap itself. -/
theorem trapEntry : Obligations.TrapEntry := by
  refine ⟨?entry, fun f s k js c => ⟨fun hc => (exec_trap f s).trans (issue_clears hc _),
    fun hc => (exec_syscall f s).trans (issue_clears hc _)⟩⟩
  intro s k js c cause mask code addrs writes hc hjs pc t
  refine ⟨fun hs hf => ?_, fun hs hd => State.takeTrap_in_supervisor hc hs hd, fun hs hf => State.takeTrap_without_room hc hs hf⟩
  obtain ⟨hsame, hlanes⟩ := State.trapped_same (s := s) (c := c) (js := js) (cause := cause)
    (rec := ⟨cause.code, mask, code, pc, addrs, writes⟩)
  refine ⟨_, State.takeTrap_enters hc hjs hs hf, congrArg Crew.nested hsame, congrArg Crew.trap hsame,
    congrArg Crew.depth hsame, ⟨s.trapSave c js, congrArg Crew.sup hsame, rfl, rfl, rfl, rfl, rfl, rfl⟩, fun j hj => ?_,
    fun j hj => ?_, fun l => ?_⟩
  · rw [State.trapped_slice hjs, if_pos hj]
    exact ⟨rfl, rfl, rfl, rfl, rfl⟩
  · rw [State.trapped_slice hjs, if_neg hj]
  · rw [Crew.lane_of_lanes hlanes l]
    exact s.raise_lane _ c.window l

end Sys2Proof.Machine
end

section
/-! SUPPORT. Slices of a crew: those that have not exited, gangs, several changed alike, those that go on after a wait, and the
gangs that slices part into (R120, R122 to R125). -/

namespace Sys2Proof.Machine

/-! ### Several slices changed alike -/

theorem Crew.slice_modSlices {c : Crew} {js : List Nat} (f : Slice → Slice) (hn : js.Nodup) (h8 : ∀ j ∈ js, j < 8) (i : Nat) :
    (c.modSlices js f).slice i = if i ∈ js then f (c.slice i) else c.slice i :=
  Crew.slice_fold js c (fun _ => f) hn h8 i

theorem Crew.modSlices_same (c : Crew) (js : List Nat) (f : Slice → Slice) :
    (c.modSlices js f).alike c ∧ (c.modSlices js f).lanes = c.lanes :=
  Crew.fold_same js c fun _ => f

/-! ### Slices that have not exited, and gangs -/

theorem Crew.mem_present {c : Crew} {j : Nat} : j ∈ c.present ↔ j < c.nsl ∧ (c.slice j).exited = false := by
  simp [Crew.present]

theorem Crew.present_nodup (c : Crew) : c.present.Nodup := List.nodup_range.filter _

/-- A slice that a crew does not have has exited. -/
theorem Crew.lt_of_present {c : Crew} {j : Nat} (h : j ∈ c.present) : j < 8 := by
  by_contra hj
  have hout : (c.slice j).exited = true := by
    unfold Crew.slice
    simp [List.getD_eq_getElem?_getD, hj]
  exact absurd (Crew.mem_present.mp h).2 (by simp [hout])

theorem Crew.alike_nsl {a b : Crew} (h : a.alike b) : a.nsl = b.nsl := by
  have := congrArg Crew.nsl h
  exact this

theorem Crew.alike_allot {a b : Crew} (h : a.alike b) : a.allot = b.allot := by
  have := congrArg Crew.allot h
  exact this

theorem Crew.present_congr {a b : Crew} (hn : a.nsl = b.nsl) (h : ∀ j, (a.slice j).exited = (b.slice j).exited) :
    a.present = b.present := by
  unfold Crew.present
  simp only [hn, h]

theorem Crew.present_of_gangOf {c : Crew} {i j : Nat} (h : i ∈ c.gangOf j) : i ∈ c.present := (List.mem_filter.mp h).1

theorem Crew.gangOf_nodup (c : Crew) (j : Nat) : (c.gangOf j).Nodup := c.present_nodup.filter _

theorem Crew.lt_of_gangOf {c : Crew} {j : Nat} : ∀ i ∈ c.gangOf j, i < 8 := fun _ h => Crew.lt_of_present (Crew.present_of_gangOf h)

/-- The slices of a gang once they are changed alike. -/
theorem Crew.slice_modGang {c : Crew} {j : Nat} (f : Slice → Slice) {i : Nat} (h : i ∈ c.gangOf j) :
    (c.modSlices (c.gangOf j) f).slice i = f (c.slice i) := by
  rw [Crew.slice_modSlices f (c.gangOf_nodup j) Crew.lt_of_gangOf, if_pos h]

/-! ### Slices that go on -/

/-- A slice that goes on past the instruction it waited at. -/
def Slice.goOn (clk : Nat) (sl : Slice) : Slice :=
  { sl with pc := sl.pc + 4, wait := .none, readyAt := max sl.readyAt (clk + 1), since := max sl.readyAt (clk + 1) }

theorem Crew.slice_unpark {c : Crew} {js : List Nat} (clk : Nat) (hn : js.Nodup) (h8 : ∀ j ∈ js, j < 8) (i : Nat) :
    (c.unpark js clk).slice i = if i ∈ js then (c.slice i).goOn clk else c.slice i :=
  Crew.slice_modSlices (Slice.goOn clk) hn h8 i

theorem Crew.unpark_same (c : Crew) (js : List Nat) (clk : Nat) :
    (c.unpark js clk).alike c ∧ (c.unpark js clk).lanes = c.lanes := Crew.modSlices_same ..

theorem Crew.lane_unpark (c : Crew) (js : List Nat) (clk l : Nat) : (c.unpark js clk).lane l = c.lane l :=
  Crew.lane_of_lanes (c.unpark_same js clk).2 l

/-- Slices that go on, of a crew whose slices were those of another, have gone on from it. -/
theorem Crew.resumed_unpark {c d : Crew} {js : List Nat} (clk : Nat) (hn : js.Nodup) (h8 : ∀ j ∈ js, j < 8)
    (hd : ∀ j, d.slice j = c.slice j) : Resumed c (d.unpark js clk) js where
  go j hj _ := by
    rw [Crew.slice_unpark clk hn h8, if_pos hj, hd]
    exact ⟨rfl, rfl, rfl, rfl⟩
  others j hj := by rw [Crew.slice_unpark clk hn h8, if_neg hj, hd]

/-- A gang that goes on. -/
theorem Crew.resumed_gang {c d : Crew} (j clk : Nat) (hd : ∀ j, d.slice j = c.slice j) :
    Resumed c (d.unpark (c.gangOf j) clk) (c.gangOf j) :=
  Crew.resumed_unpark clk (c.gangOf_nodup j) Crew.lt_of_gangOf hd

/-! ### Gangs that part (R120, R121) -/

theorem Crew.slice_regroup {c : Crew} {js : List Nat} (same : Slice → Slice → Bool) (hn : js.Nodup) (h8 : ∀ j ∈ js, j < 8) (i : Nat) :
    (c.regroup js same).slice i =
      if i ∈ js then { c.slice i with gang := (js.find? fun k => same (c.slice k) (c.slice i)).getD i } else c.slice i :=
  Crew.slice_fold js c (fun j sl => { sl with gang := (js.find? fun k => same (c.slice k) (c.slice j)).getD j }) hn h8 i

theorem Crew.regroup_same (c : Crew) (js : List Nat) (same : Slice → Slice → Bool) :
    (c.regroup js same).alike c ∧ (c.regroup js same).lanes = c.lanes :=
  Crew.fold_same js c fun j sl => { sl with gang := (js.find? fun k => same (c.slice k) (c.slice j)).getD j }

theorem sameGang_iff {a b : Slice} :
    sameGang a b = true ↔ a.pc = b.pc ∧ a.exited = b.exited ∧ (a.wait = .none ↔ b.wait = .none) := by
  have hwait : (a.wait == Wait.none) = (b.wait == Wait.none) ↔ (a.wait = .none ↔ b.wait = .none) := by
    rw [Bool.eq_iff_iff, beq_iff_eq, beq_iff_eq]
  unfold sameGang
  rw [Bool.and_eq_true, Bool.and_eq_true, beq_iff_eq, beq_iff_eq, beq_iff_eq, hwait, and_assoc]

/-- The first of a list that is alike is alike, and two that are alike have the same one. -/
theorem find_alike_iff {α : Type} {same : α → α → Bool} (hs : ∀ a b, same a b = true → same b a = true)
    (ht : ∀ a b c, same a b = true → same b c = true → same a c = true) (hr : ∀ a, same a a = true) {js : List Nat} (f : Nat → α)
    {p q : Nat} (hp : p ∈ js) (hq : q ∈ js) :
    (js.find? fun k => same (f k) (f p)).getD p = (js.find? fun k => same (f k) (f q)).getD q ↔ same (f p) (f q) = true := by
  have found : ∀ j ∈ js, ∃ i, (js.find? fun k => same (f k) (f j)) = some i ∧ same (f i) (f j) = true := fun j hj => by
    obtain ⟨i, hi⟩ := Option.isSome_iff_exists.mp
      (List.find?_isSome (p := fun k => same (f k) (f j)).mpr ⟨j, hj, hr (f j)⟩)
    exact ⟨i, hi, List.find?_some (p := fun k => same (f k) (f j)) hi⟩
  constructor
  · intro h
    obtain ⟨i, hi, hip⟩ := found p hp
    obtain ⟨j, hj, hjq⟩ := found q hq
    rw [hi, hj, Option.getD_some, Option.getD_some] at h
    subst h
    exact ht _ _ _ (hs _ _ hip) hjq
  · intro h
    have hpred : (fun k => same (f k) (f p)) = fun k => same (f k) (f q) := by
      funext k
      exact Bool.eq_iff_iff.mpr ⟨fun hk => ht _ _ _ hk h, fun hk => ht _ _ _ hk (hs _ _ h)⟩
    obtain ⟨i, hi, -⟩ := found q hq
    rw [hpred, hi]
    rfl

/-- Slices that part are of one gang when they stay together. -/
theorem Crew.gang_regroup_iff {c : Crew} {js : List Nat} (hn : js.Nodup) (h8 : ∀ j ∈ js, j < 8) {p q : Nat} (hp : p ∈ js) (hq : q ∈ js) :
    ((c.regroup js sameGang).slice p).gang = ((c.regroup js sameGang).slice q).gang ↔
      sameGang (c.slice p) (c.slice q) = true := by
  rw [Crew.slice_regroup _ hn h8, Crew.slice_regroup _ hn h8, if_pos hp, if_pos hq]
  refine find_alike_iff (fun a b h => ?_) (fun a b d h g => ?_) (fun a => ?_) c.slice hp hq
  · rw [sameGang_iff] at h ⊢
    obtain ⟨h1, h2, h3⟩ := h
    exact ⟨h1.symm, h2.symm, h3.symm⟩
  · rw [sameGang_iff] at h g ⊢
    obtain ⟨h1, h2, h3⟩ := h
    obtain ⟨g1, g2, g3⟩ := g
    exact ⟨h1.trans g1, h2.trans g2, h3.trans g3⟩
  · exact sameGang_iff.mpr ⟨rfl, rfl, Iff.rfl⟩

/-! ### Role switches (R143) -/

/-- A slice sent to the entry of its crew's new role. -/
def Slice.toEntry (entry : Dword) (gang clk : Nat) (sl : Slice) : Slice :=
  { sl with pc := entry, wait := .none, gang := gang, readyAt := max sl.readyAt (clk + 1), since := max sl.readyAt (clk + 1) }

/-- A lane with the registers below a bound alone. -/
def Lane.cut (keep : Nat) (ln : Lane) : Lane :=
  { ln with regs := ln.regs.filter fun e => decide (e.1 < keep), bad := ln.bad.filter fun i => decide (i < keep) }

/-- A crew with the registers below a bound alone. -/
def Crew.cut (c : Crew) (keep : Nat) : Crew := c.modLanes (BitVec.allOnes 32) fun _ ln => ln.cut keep

/-- A crew whose slices have gone to the entry of a role, with its allotment and priority. -/
def Crew.enterRole (c : Crew) (r : RoleReq) (clk : Nat) : Crew :=
  { c.modSlices c.present (Slice.toEntry r.entry (c.present.headD 0) clk) with allot := r.allot, prio := r.prio, role := none }

theorem Crew.switchRole_eq (c : Crew) (r : RoleReq) (clk : Nat) :
    c.switchRole r clk = (c.cut (min c.allot r.allot)).enterRole r clk := rfl

theorem Crew.cut_same (c : Crew) (keep : Nat) : (c.cut keep).alike c ∧ (c.cut keep).slices = c.slices := Crew.modLanes_same ..

theorem Crew.slice_cut (c : Crew) (keep j : Nat) : (c.cut keep).slice j = c.slice j := Crew.slice_of_slices (c.cut_same keep).2 j

theorem Crew.present_cut (c : Crew) (keep : Nat) : (c.cut keep).present = c.present :=
  Crew.present_congr (Crew.alike_nsl (c.cut_same keep).1) fun j => by rw [Crew.slice_cut]

theorem Crew.slice_enterRole {c : Crew} (r : RoleReq) (clk : Nat) {j : Nat} (h : j ∈ c.present) :
    (c.enterRole r clk).slice j = (c.slice j).toEntry r.entry (c.present.headD 0) clk := by
  have hslices : (c.enterRole r clk).slices = (c.modSlices c.present (Slice.toEntry r.entry (c.present.headD 0) clk)).slices := rfl
  rw [Crew.slice_of_slices hslices, Crew.slice_modSlices _ c.present_nodup fun _ => Crew.lt_of_present, if_pos h]

theorem Crew.lane_enterRole (c : Crew) (r : RoleReq) (clk l : Nat) : (c.enterRole r clk).lane l = c.lane l :=
  Crew.lane_of_lanes (c.modSlices_same c.present (Slice.toEntry r.entry (c.present.headD 0) clk)).2 l

/-- Of the registers of a crew those below a bound are left. -/
theorem Crew.tget_cut (c : Crew) (keep : Nat) {l : Nat} (hl : l < 32) (i : Nat) :
    tget ((c.cut keep).lane l).regs i = if i < keep then tget (c.lane l).regs i else none := by
  unfold Crew.cut
  rw [Crew.lane_modLanes, if_pos (by rw [BitVec.getLsbD_allOnes]; exact decide_eq_true hl)]
  refine (tget_filter_key (c.lane l).regs (fun k => decide (k < keep)) i).trans ?_
  simp only [decide_eq_true_eq]

/-- A role switch that takes effect: the crew has its allotment and priority, its slices are one gang at the entry, and of its
registers those below both allotments are left. -/
theorem Crew.switchRole_spec (c : Crew) (r : RoleReq) (clk : Nat) :
    let c' := c.switchRole r clk
    c'.allot = r.allot ∧ c'.prio = r.prio ∧ c'.role = none ∧
      (∀ j ∈ c.present, (c'.slice j).pc = r.entry ∧ (c'.slice j).wait = .none ∧ (c'.slice j).gang = c.present.headD 0) ∧
      ∀ l < 32, ∀ i, tget (c'.lane l).regs i = if i < min c.allot r.allot then tget (c.lane l).regs i else none := by
  refine ⟨rfl, rfl, rfl, fun j hj => ?_, fun l hl i => ?_⟩
  · rw [Crew.switchRole_eq, Crew.slice_enterRole r clk (by rwa [Crew.present_cut]), Crew.present_cut, Crew.slice_cut]
    exact ⟨rfl, rfl, rfl⟩
  · rw [Crew.switchRole_eq, Crew.lane_enterRole, Crew.tget_cut _ _ hl]

end Sys2Proof.Machine
end

section
/-! PROOF. EXIT, YIELD, SLEEP, REGANG, SYNCC and ROLESW (R121, R123 to R127, R142 and R143). -/

namespace Sys2Proof.Machine

/-! ### A gang that has issued -/

section
variable {x : Issue} (hj : gangShape x.js = true)
include hj

theorem Issue.slice_advanced (j : Nat) :
    (x.advanced x.c).slice j = if j ∈ x.js then x.advance j (x.c.slice j) else x.c.slice j := by
  obtain ⟨-, hn, h8⟩ := gangShape_iff.mp hj
  exact Crew.slice_fold x.js x.c (fun j => x.advance j) hn h8 j

/-- The slices of a gang that has issued and then changes alike. -/
theorem Issue.slice_advanced_modSlices (f : Slice → Slice) (j : Nat) :
    ((x.advanced x.c).modSlices x.js f).slice j = if j ∈ x.js then f (x.advance j (x.c.slice j)) else x.c.slice j := by
  obtain ⟨-, hn, h8⟩ := gangShape_iff.mp hj
  rw [Crew.slice_modSlices f hn h8, Issue.slice_advanced hj]
  split <;> rfl

end

theorem Issue.advanced_same (x : Issue) (c : Crew) : (x.advanced c).alike c ∧ (x.advanced c).lanes = c.lanes := Crew.fold_same ..

theorem Issue.advanced_modSlices_same (x : Issue) (f : Slice → Slice) :
    ((x.advanced x.c).modSlices x.js f).alike x.c ∧ ((x.advanced x.c).modSlices x.js f).lanes = x.c.lanes := by
  obtain ⟨h1, h2⟩ := (x.advanced x.c).modSlices_same x.js f
  obtain ⟨h3, h4⟩ := x.advanced_same x.c
  exact ⟨Crew.alike_trans h1 h3, h2.trans h4⟩

/-! ### Slices that stop (R121, R123 to R125) -/

/-- Slice j once its gang has issued an instruction that changes the slices that act as `g` says. -/
def Issue.stepped (x : Issue) (g : Nat → Slice → Slice) (j : Nat) : Slice :=
  if x.acts j then g j (x.advance j (x.c.slice j)) else x.advance j (x.c.slice j)

/-- The crew before the gang parts. -/
def Issue.acted (x : Issue) (g : Nat → Slice → Slice) : Crew :=
  x.actors.foldl (fun (c : Crew) j => c.modSlice j (g j)) (x.advanced x.c)

/-- The crew once the gang has parted. -/
def Issue.parted (x : Issue) (g : Nat → Slice → Slice) : Crew := (x.acted g).regroup x.js sameGang

theorem Issue.slices_eq (x : Issue) (g : Nat → Slice → Slice) :
    x.slices g = .next ((x.s.setCrew x.k (x.parted g)).afterExit x.k) := rfl

theorem Issue.mem_actors {x : Issue} {j : Nat} : j ∈ x.actors ↔ j ∈ x.js ∧ x.acts j = true := List.mem_filter

theorem Issue.parted_same (x : Issue) (g : Nat → Slice → Slice) : (x.parted g).alike x.c ∧ (x.parted g).lanes = x.c.lanes := by
  obtain ⟨h1, h2⟩ := (x.acted g).regroup_same x.js sameGang
  obtain ⟨h3, h4⟩ := Crew.fold_same x.actors (x.advanced x.c) g
  obtain ⟨h5, h6⟩ := x.advanced_same x.c
  exact ⟨Crew.alike_trans h1 (Crew.alike_trans h3 h5), h2.trans (h4.trans h6)⟩

/-- Slices that act stop: they have exited, or wait. -/
def Stops (g : Nat → Slice → Slice) : Prop :=
  ∃ e w, (e = true ∨ w ≠ Wait.none) ∧ ∀ j sl, sl.exited = false → sl.wait = .none → (g j sl).exited = e ∧ (g j sl).wait = w

section
variable {x : Issue} {g : Nat → Slice → Slice} (hj : gangShape x.js = true)
include hj

theorem Issue.slice_acted (j : Nat) : (x.acted g).slice j = if j ∈ x.js then x.stepped g j else x.c.slice j := by
  obtain ⟨-, hn, h8⟩ := gangShape_iff.mp hj
  have hfold := Crew.slice_fold x.actors (x.advanced x.c) g (hn.filter _) (fun j h => h8 j (Issue.mem_actors.mp h).1) j
  rw [Issue.slice_advanced hj] at hfold
  refine hfold.trans ?_
  unfold Issue.stepped
  by_cases h : j ∈ x.js <;> simp [Issue.mem_actors, h]

theorem Issue.slice_parted {j : Nat} (h : j ∈ x.js) : ∃ n, (x.parted g).slice j = { x.stepped g j with gang := n } := by
  obtain ⟨-, hn, h8⟩ := gangShape_iff.mp hj
  unfold Issue.parted
  rw [Crew.slice_regroup _ hn h8, if_pos h, Issue.slice_acted hj, if_pos h]
  exact ⟨_, rfl⟩

theorem Issue.slice_parted_of_not_mem {j : Nat} (h : j ∉ x.js) : (x.parted g).slice j = x.c.slice j := by
  obtain ⟨-, hn, h8⟩ := gangShape_iff.mp hj
  unfold Issue.parted
  rw [Crew.slice_regroup _ hn h8, if_neg h, Issue.slice_acted hj, if_neg h]

/-- Two slices stay in one gang when they come to one PC and both act or neither does. -/
theorem Issue.gang_parted_iff (hw : x.c.awake x.js) (hg : Stops g) {p q : Nat} (hp : p ∈ x.js) (hq : q ∈ x.js) :
    ((x.parted g).slice p).gang = ((x.parted g).slice q).gang ↔
      ((x.parted g).slice p).pc = ((x.parted g).slice q).pc ∧ x.acts p = x.acts q := by
  obtain ⟨-, hn, h8⟩ := gangShape_iff.mp hj
  obtain ⟨e, w, hew, hstop⟩ := hg
  have hpc : ∀ j ∈ x.js, ((x.parted g).slice j).pc = (x.stepped g j).pc := fun j h => by
    obtain ⟨n, hs⟩ := Issue.slice_parted (g := g) hj h
    rw [hs]
  have hstate : ∀ j ∈ x.js, (x.stepped g j).exited = (if x.acts j then e else false) ∧
      (x.stepped g j).wait = if x.acts j then w else .none := fun j h => by
    obtain ⟨hex, hwait⟩ := hw j h
    unfold Issue.stepped
    split
    · exact hstop j _ hex hwait
    · exact ⟨hex, hwait⟩
  rw [hpc p hp, hpc q hq]
  unfold Issue.parted
  rw [Crew.gang_regroup_iff hn h8 hp hq, Issue.slice_acted hj, Issue.slice_acted hj, if_pos hp, if_pos hq, sameGang_iff]
  obtain ⟨hpe, hpw⟩ := hstate p hp
  obtain ⟨hqe, hqw⟩ := hstate q hq
  rw [hpe, hpw, hqe, hqw]
  cases x.acts p <;> cases x.acts q <;> rcases hew with rfl | hne <;> simp [*]

end

/-- What an instruction that stops the slices that act does, where it clears the checks. -/
theorem issue_slices_spec {s : State} {h : Head} {k : Nat} {js : List Nat} {c : Crew} (g : Issue → Nat → Slice → Slice)
    (hc : s.clears h k js c = true) (hw : c.awake js) (hg : Stops (g (s.issueOf h k js c))) :
    let x := s.issueOf h k js c
    ∃ c', issue s h (fun x => x.slices (g x)) = .next ((s.setCrew k c').afterExit k) ∧ c'.alike c ∧ c'.lanes = c.lanes ∧
      (∀ j ∈ js, ∃ n, c'.slice j =
        { (if x.acts j then g x j (x.advance j (c.slice j)) else x.advance j (c.slice j)) with gang := n }) ∧
      (∀ p ∈ js, ∀ q ∈ js, (c'.slice p).gang = (c'.slice q).gang ↔ ((c'.slice p).pc = (c'.slice q).pc ∧ x.acts p = x.acts q)) ∧
      ∀ j, j ∉ js → c'.slice j = c.slice j := by
  intro x
  obtain ⟨-, -, hj, -⟩ := State.clears_iff.mp hc
  have hx : gangShape x.js = true := hj
  obtain ⟨halike, hlanes⟩ := x.parted_same (g x)
  exact ⟨x.parted (g x), (issue_clears hc _).trans (x.slices_eq (g x)), halike, hlanes, fun j h => Issue.slice_parted hx h,
    fun p hp q hq => Issue.gang_parted_iff hx hw hg hp hq, fun j h => Issue.slice_parted_of_not_mem hx h⟩

theorem stops_exit : Stops fun _ sl => { sl with exited := true } :=
  ⟨true, .none, .inl rfl, fun _ _ _ hw => ⟨rfl, hw⟩⟩

theorem stops_wait {w : Wait} (hw : w ≠ .none) (pc : Nat → Dword) : Stops fun j sl => { sl with pc := pc j, wait := w } :=
  ⟨false, w, .inr hw, fun _ _ he _ => ⟨he, rfl⟩⟩

/-! ### The instructions -/

theorem exec_exit (f : FS) (s : State) :
    exec (.exit f) s = issue s (exitHead f) fun x => x.slices fun _ sl => { sl with exited := true } := rfl
theorem exec_regang (f : FSM) (s : State) : exec (.regang f) s =
    issue s (regangHead f) fun x => x.slices fun j sl => { sl with pc := (x.c.slice j).pc, wait := .regang f.m } := rfl
theorem exec_syncc (f : FS) (s : State) : exec (.syncc f) s =
    issue s (synccHead f) fun x => x.slices fun j sl => { sl with pc := (x.c.slice j).pc, wait := .sync } := rfl

/-- A slice not ready for the clock after its issue (R127). -/
def Slice.yielded (clk : Nat) (sl : Slice) : Slice :=
  { sl with readyAt := max sl.readyAt (clk + 2), since := max sl.since (clk + 2) }

/-- A slice that waits for a clock (R126). -/
def Slice.asleep (wake : Nat) (sl : Slice) : Slice := { sl with wait := .sleep wake, since := max sl.since wake }

theorem exec_yield (f : FS) (s : State) : exec (.yield f) s = issue s (yieldHead f) fun x =>
    .next (x.s.setCrew x.k ((x.advanced x.c).modSlices x.js (Slice.yielded x.s.clk))) := rfl
theorem exec_sleep (f : FSI) (s : State) : exec (.sleep f) s = issue s (sleepHead f) fun x =>
    let wake := x.s.clk + 16 * f.i.toNat
    if f.i = 0 then x.nop
    else .next ((x.s.setCrew x.k ((x.advanced x.c).modSlices x.js (Slice.asleep wake))).later
      ⟨wake, none, .sleepExpiry x.k (x.js.headD 0)⟩) := rfl

section
variable {s : State} {k : Nat} {js : List Nat} {c : Crew}

/-- YIELD (R127): the gang has moved on and is not ready for the clock after its issue. -/
theorem yield_spec {f : FS} (hc : s.clears (yieldHead f) k js c = true) :
    let x := s.issueOf (yieldHead f) k js c
    ∃ c', exec (.yield f) s = .next (s.setCrew k c') ∧ c'.alike c ∧ c'.lanes = c.lanes ∧ ∀ j, c'.slice j = if j ∈ js then
      { x.advance j (c.slice j) with readyAt := s.clk + 1 + max 1 f.s.toNat, since := s.clk + 1 + max 1 f.s.toNat }
      else c.slice j := by
  intro x
  obtain ⟨-, -, hj, -⟩ := State.clears_iff.mp hc
  obtain ⟨halike, hlanes⟩ := x.advanced_modSlices_same (Slice.yielded s.clk)
  refine ⟨_, (exec_yield f s).trans (issue_clears hc _), halike, hlanes, fun j => ?_⟩
  have hslice : ((x.advanced c).modSlices js (Slice.yielded s.clk)).slice j = _ :=
    Issue.slice_advanced_modSlices (x := x) hj (Slice.yielded s.clk) j
  have hmax : max (s.clk + 1 + f.s.toNat) (s.clk + 2) = s.clk + 1 + max 1 f.s.toNat := by omega
  rw [← hmax]
  exact hslice

/-- SLEEP (R126): the gang has moved on and waits for its clock. -/
theorem sleep_spec {f : FSI} (hc : s.clears (sleepHead f) k js c = true) (h0 : f.i ≠ 0) :
    let x := s.issueOf (sleepHead f) k js c
    let wake := s.clk + 16 * f.i.toNat
    ∃ c', exec (.sleep f) s = .next ((s.setCrew k c').later ⟨wake, none, .sleepExpiry k (js.headD 0)⟩) ∧
      c'.alike c ∧ c'.lanes = c.lanes ∧
      ∀ j, c'.slice j = if j ∈ js then
        { x.advance j (c.slice j) with wait := .sleep wake, since := max (s.clk + 1 + f.s.toNat) wake } else c.slice j := by
  intro x wake
  obtain ⟨-, -, hj, -⟩ := State.clears_iff.mp hc
  obtain ⟨halike, hlanes⟩ := x.advanced_modSlices_same (Slice.asleep wake)
  refine ⟨_, (exec_sleep f s).trans ((issue_clears hc _).trans (if_neg h0)), halike, hlanes, fun j => ?_⟩
  exact Issue.slice_advanced_modSlices (x := x) hj (Slice.asleep wake) j

/-- SLEEP of no clocks (R126): nothing but the PC. -/
theorem sleep_zero {f : FSI} (hc : s.clears (sleepHead f) k js c = true) (h0 : f.i = 0) :
    exec (.sleep f) s = .next (s.setCrew k ((s.issueOf (sleepHead f) k js c).advanced c)) :=
  (exec_sleep f s).trans ((issue_clears hc _).trans (if_pos h0))

end

/-! ### ROLESW (R142, R143) -/

/-- A target with its lowest two bits cleared. -/
theorem codeTarget_eq (v : Dword) : codeTarget v = v - v % 4 := by
  have hshift : codeTarget v = (v >>> 2) <<< 2 := by
    apply BitVec.eq_of_getLsbD_eq
    intro i hi
    unfold codeTarget
    rw [BitVec.getLsbD_and, BitVec.getLsbD_not, BitVec.getLsbD_shiftLeft, BitVec.getLsbD_ushiftRight]
    by_cases h : i < 2
    · have : i = 0 ∨ i = 1 := by omega
      rcases this with rfl | rfl <;> simp
    · have h3 : (3 : Dword).getLsbD i = false := by
        refine Nat.testBit_lt_two_pow ?_
        calc (3 : Dword).toNat < 2 ^ 2 := by decide
          _ ≤ 2 ^ i := Nat.pow_le_pow_right (by omega) (by omega)
      rw [h3, show 2 + (i - 2) = i by omega]
      simp [hi, h]
  rw [hshift]
  apply BitVec.eq_of_toNat_eq
  rw [BitVec.toNat_shiftLeft, BitVec.toNat_ushiftRight, BitVec.toNat_sub, BitVec.toNat_umod, Nat.shiftLeft_eq, Nat.shiftRight_eq_div_pow]
  have hv := v.isLt
  have h4 : (4 : Dword).toNat = 4 := rfl
  rw [h4]
  omega

section
variable {s : State} {k : Nat} {js : List Nat} {c : Crew} {f : FSA}

/-- The role that ROLESW asks for. -/
def Issue.roleAsked (x : Issue) (f : FSA) : RoleReq :=
  let l := lowest x.act
  ⟨(x.reg l f.a.toNat).toNat, (x.reg l (f.a.toNat + 1)).toNat, codeTarget (x.reg64 l (f.a.toNat + 2)), x.s.clk⟩

/-- The reservation of the issuing crew's block. -/
def Issue.roleRoom (x : Issue) : Nat := ((tget x.s.blocks x.c.block).map fun b => b.crews * b.regs).getD 0

/-- The effective priority of its launch, at the block's binding. -/
def Issue.roleTop (x : Issue) : Nat := ((tget x.s.blocks x.c.block).map fun b => b.effs.getD 6 0).getD 7

theorem exec_rolesw (s : State) : exec (.rolesw f) s = issue s (roleswHead f) fun x =>
    if x.roleRoom < x.s.otherClaims x.c.block x.k + (x.roleAsked f).allot then x.trap .allot x.act
    else if x.roleTop < (x.roleAsked f).prio then x.trap .protect x.act
    else if (x.roleAsked f).allot ≤ x.c.allot && !x.s.unlanded x.k then
      let t := x.s.setCrew x.k ((x.advanced x.c).switchRole (x.roleAsked f) x.s.clk)
      .next (t.pushAll (t.roleSteps x.c.block))
    else
      let t := x.s.setCrew x.k { (x.park x.c fun _ => .rolesw) with role := some (x.roleAsked f) }
      .next (t.pushAll (t.roleSteps x.c.block)) := rfl

/-- What ROLESW does, by the request and the room for it. -/
theorem exec_rolesw_clears (hc : s.clears (roleswHead f) k js c = true) :
    let x := s.issueOf (roleswHead f) k js c
    let r := x.roleAsked f
    exec (.rolesw f) s =
      if x.roleRoom < s.otherClaims c.block k + r.allot then x.trap .allot x.act
      else if x.roleTop < r.prio then x.trap .protect x.act
      else if r.allot ≤ c.allot && !s.unlanded k then
        let t := s.setCrew k ((x.advanced c).switchRole r s.clk)
        .next (t.pushAll (t.roleSteps c.block))
      else
        let t := s.setCrew k { (x.park c fun _ => .rolesw) with role := some r }
        .next (t.pushAll (t.roleSteps c.block)) :=
  (exec_rolesw s).trans (issue_clears hc _)

/-- A ROLESW that clears the checks is issued by the whole crew, with no window raised, for a request in range. -/
theorem rolesw_request (hc : s.clears (roleswHead f) k js c = true) :
    let x := s.issueOf (roleswHead f) k js c
    let r := x.roleAsked f
    js = c.present ∧ c.depth = 0 ∧ r.allot % 16 = 0 ∧ 16 ≤ r.allot ∧ r.allot ≤ 256 ∧ r.prio ≤ 7 := by
  intro x r
  obtain ⟨-, -, -, hm, -⟩ := State.clears_iff.mp hc
  have hword : x.holdsCrew = true := by
    have h : (!x.holdsCrew) = false := (Bool.or_eq_false_iff.mp hm).2
    simpa using h
  have hdyn := State.clears_dyn hc
  simp only [roleswHead, Bool.or_eq_false_iff, decide_eq_false_iff_not, bne_eq_false_iff_eq] at hdyn
  obtain ⟨⟨⟨⟨⟨h16, h256⟩, hmod⟩, hprio⟩, hdepth⟩, -⟩ := hdyn
  exact ⟨beq_iff_eq.mp hword, hdepth, hmod, Nat.not_lt.mp h16, Nat.not_lt.mp h256, Nat.not_lt.mp hprio⟩

/-- The whole crew parked at its ROLESW. -/
theorem Issue.park_spec (x : Issue) (w : Nat → Wait) (hj : gangShape x.js = true) :
    (x.park x.c w).alike x.c ∧ (x.park x.c w).lanes = x.c.lanes ∧ ∀ j ∈ x.js, ((x.park x.c w).slice j).wait = w j := by
  obtain ⟨-, hn, h8⟩ := gangShape_iff.mp hj
  obtain ⟨h1, h2⟩ := Crew.fold_same x.js (x.advanced x.c) fun j sl => { sl with pc := (x.c.slice j).pc, wait := w j }
  obtain ⟨h3, h4⟩ := x.advanced_same x.c
  refine ⟨Crew.alike_trans h1 h3, h2.trans h4, fun j h => ?_⟩
  have := Crew.slice_fold x.js (x.advanced x.c) (fun j sl => { sl with pc := (x.c.slice j).pc, wait := w j }) hn h8 j
  rw [if_pos h] at this
  exact congrArg Slice.wait this

end

/-- A crew that has issued is present as before. -/
theorem Issue.present_advanced {x : Issue} (hj : gangShape x.js = true) : (x.advanced x.c).present = x.c.present :=
  Crew.present_congr (Crew.alike_nsl (x.advanced_same x.c).1) fun j => by
    rw [Issue.slice_advanced hj]
    split <;> rfl

section
variable {s : State} {k : Nat} {js : List Nat} {c : Crew} {f : FSA} (hc : s.clears (roleswHead f) k js c = true)
include hc

/-- A role switch that shrinks the allotment, or keeps it, takes effect at once (R143). -/
theorem rolesw_at_once :
    let x := s.issueOf (roleswHead f) k js c
    let r := x.roleAsked f
    r.allot ≤ c.allot →
    let c' := (x.advanced c).switchRole r s.clk
    c'.allot = r.allot ∧ c'.prio = r.prio ∧
      (∀ j ∈ js, (c'.slice j).gang = js.headD 0 ∧ (c'.slice j).wait = .none ∧ (c'.slice j).pc = r.entry) ∧
      ∀ i < 32, (∀ q < r.allot, tget (c'.lane i).regs q = tget (c.lane i).regs q) ∧
        ∀ q, r.allot ≤ q → tget (c'.lane i).regs q = none := by
  intro x r hle c'
  obtain ⟨-, -, hj, -⟩ := State.clears_iff.mp hc
  obtain ⟨hjs, -⟩ := rolesw_request hc
  obtain ⟨hallot, hprio, -, hslices, hregs⟩ := (x.advanced c).switchRole_spec r s.clk
  have hpresent : (x.advanced c).present = js := (Issue.present_advanced (x := x) hj).trans hjs.symm
  have hkeep : min (x.advanced c).allot r.allot = r.allot := by
    rw [Crew.alike_allot (x.advanced_same c).1]
    exact Nat.min_eq_right hle
  rw [hpresent] at hslices
  refine ⟨hallot, hprio, fun j h => ?_, fun i hi => ⟨fun q hq => ?_, fun q hq => ?_⟩⟩
  · obtain ⟨hpc, hwait, hgang⟩ := hslices j h
    exact ⟨hgang, hwait, hpc⟩
  · rw [hregs i hi, hkeep, if_pos hq, Crew.lane_of_lanes (x.advanced_same c).2]
  · rw [hregs i hi, hkeep, if_neg (Nat.not_lt.mpr hq)]

/-- What ROLESW does when the block's reservation and the launch's priority cover the request and no result is to land. -/
theorem rolesw_covered :
    let x := s.issueOf (roleswHead f) k js c
    let r := x.roleAsked f
    s.otherClaims c.block k + r.allot ≤ x.roleRoom → r.prio ≤ x.roleTop → (∀ e ∈ s.pends, e.2.crew ≠ k) →
    ∃ c' t, exec (.rolesw f) s = .next (t.pushAll (t.roleSteps c.block)) ∧ tget t.crews k = some c' ∧
      (c.allot < r.allot → c'.allot = c.allot ∧ c'.lanes = c.lanes ∧ (∀ j ∈ js, (c'.slice j).wait = .rolesw) ∧
        ∃ q, c'.role = some q ∧ q.allot = r.allot ∧ q.prio = r.prio) ∧
      (r.allot ≤ c.allot → t = s.setCrew k c' ∧ c'.allot = r.allot ∧ c'.prio = r.prio ∧
        (∀ j ∈ js, (c'.slice j).gang = js.headD 0 ∧ (c'.slice j).wait = .none ∧ (c'.slice j).pc = r.entry) ∧
        ∀ i < 32, (∀ q < r.allot, tget (c'.lane i).regs q = tget (c.lane i).regs q) ∧
          ∀ q, r.allot ≤ q → tget (c'.lane i).regs q = none) := by
  intro x r hroom htop hland
  have hexec := (exec_rolesw_clears hc).trans ((if_neg (Nat.not_lt.mpr hroom)).trans (if_neg (Nat.not_lt.mpr htop)))
  have hun : s.unlanded k = false := by
    unfold State.unlanded
    rw [List.any_eq_false]
    exact fun e he => by simpa using hland e he
  obtain ⟨-, -, hj, -⟩ := State.clears_iff.mp hc
  by_cases hle : r.allot ≤ c.allot
  · replace hexec := hexec.trans (if_pos (by rw [hun, decide_eq_true hle]; rfl))
    exact ⟨_, _, hexec, State.tget_setCrew .. |>.trans (if_pos rfl), fun h => absurd hle (Nat.not_le.mpr h),
      fun _ => ⟨rfl, rolesw_at_once hc hle⟩⟩
  · replace hexec := hexec.trans (if_neg (by rw [decide_eq_false hle]; exact Bool.false_ne_true))
    obtain ⟨halike, hlanes, hwait⟩ := Issue.park_spec x (fun _ => .rolesw) hj
    have hallot : (x.park x.c fun _ => .rolesw).allot = c.allot := Crew.alike_allot halike
    exact ⟨_, _, hexec, State.tget_setCrew .. |>.trans (if_pos rfl),
      fun _ => ⟨hallot, hlanes, hwait, r, rfl, rfl, rfl⟩, fun h => absurd h hle⟩

end

/-- Settles O20: a gang parts by PC and by which slices act, since those that act have exited or wait and the others do neither;
a role switch that the allotment covers is `Crew.switchRole`, and any other parks the crew. -/
theorem sliceControl : Obligations.SliceControl := by
  refine ⟨fun s k js c => ⟨?stops, fun f hc => yield_spec hc, fun f hc h0 => sleep_spec hc h0, fun f hc h0 => sleep_zero hc h0⟩,
    ?rolesw⟩
  case stops =>
    rintro i h g (⟨f, rfl, rfl, rfl⟩ | ⟨f, rfl, rfl, rfl⟩ | ⟨f, rfl, rfl, rfl⟩) hc hw
    · exact issue_slices_spec (fun _ _ sl => { sl with exited := true }) hc hw stops_exit
    · exact issue_slices_spec (fun x j sl => { sl with pc := (x.c.slice j).pc, wait := .regang f.m }) hc hw
        (stops_wait (by simp) _)
    · exact issue_slices_spec (fun x j sl => { sl with pc := (x.c.slice j).pc, wait := .sync }) hc hw (stops_wait (by simp) _)
  case rolesw =>
    intro f s k js c hc x l n prio room top
    obtain ⟨hjs, hdepth, hmod, h16, h256, hprio⟩ := rolesw_request hc
    have hexec := exec_rolesw_clears hc
    refine ⟨hjs, hdepth, hmod, h16, h256, hprio, fun hroom => hexec.trans (if_pos hroom), fun hroom htop => ?_, fun hroom htop hland => ?_⟩
    · exact hexec.trans ((if_neg (Nat.not_lt.mpr hroom)).trans (if_pos htop))
    · rw [← codeTarget_eq]
      exact rolesw_covered hc hroom htop hland

end Sys2Proof.Machine
end

section
/-! SUPPORT. Waits that end: what tokens, batches and words of memory give to the lanes that waited (R199, R234, R251, R281), and what
observing a phase leaves. -/

namespace Sys2Proof.Machine

/-! ### Tokens (R234) -/

theorem Crew.anyPending_iff {c : Crew} {m : Word} :
    c.anyPending m = true ↔ ∃ n < 32, m.getLsbD n = true ∧ c.isPending n := by
  unfold Crew.anyPending Crew.isPending
  simp only [List.any_eq_true, List.mem_range, Bool.and_eq_true]
  refine exists_congr fun n => and_congr_right fun _ => and_congr_right fun _ => ?_
  cases (c.tok n).st <;> simp

theorem Crew.anySettled_iff {c : Crew} {m : Word} :
    c.anySettled m = true ↔ ∃ n < 32, m.getLsbD n = true ∧ ¬ c.isPending n := by
  unfold Crew.anySettled Crew.isPending
  simp only [List.any_eq_true, List.mem_range, Bool.and_eq_true]
  refine exists_congr fun n => and_congr_right fun _ => and_congr_right fun _ => ?_
  cases (c.tok n).st <;> simp

/-- The mask of a predicate is not 0 when it holds somewhere. -/
theorem maskOf_ne_zero {p : Nat → Bool} : (maskOf p != 0) = true ↔ ∃ l < 32, p l = true := by
  rw [bne_iff_ne]
  constructor
  · intro h
    have hl := getLsbD_lowest h
    rw [getLsbD_maskOf, Bool.and_eq_true, decide_eq_true_eq] at hl
    exact ⟨_, hl.1, hl.2⟩
  · rintro ⟨l, hl, hp⟩ h0
    have hbit := getLsbD_maskOf p l
    rw [h0] at hbit
    simp [hl, hp] at hbit

/-- The lane that p7 tells of poison. -/
def Lane.told (p : Bool) (ln : Lane) : Lane := ln.setPred 7 p

theorem Lane.pred_told (p : Bool) (ln : Lane) : (ln.told p).pred 7 = p := by
  unfold Lane.told
  rw [Lane.pred_setPred _ _ _ _ (by decide), if_pos ⟨rfl, by decide⟩]

/-- A crew that has met poison, or has not. -/
def Crew.noted (c : Crew) (p : Bool) (at' : Nat) : Crew := { c with poison := p, poisonAt := at' }

theorem Crew.report_eq (c : Crew) (clk : Nat) (act : BitVec 32) (p : Bool) :
    c.report clk act p = (c.modLanes act fun _ ln => ln.told p).noted (c.poison || p) (if p then clk else c.poisonAt) := by
  unfold Crew.report Crew.noted Lane.told
  rfl

theorem Crew.slice_noted (c : Crew) (p : Bool) (n j : Nat) : (c.noted p n).slice j = c.slice j := rfl

theorem Crew.lane_noted (c : Crew) (p : Bool) (n l : Nat) : (c.noted p n).lane l = c.lane l := rfl

/-- A crew that is told of poison: its slices are as before, and p7 of the lanes says it. -/
theorem Crew.report_spec (c : Crew) (clk : Nat) (act : BitVec 32) (p : Bool) :
    (∀ j, (c.report clk act p).slice j = c.slice j) ∧
      ∀ l, act.getLsbD l = true → ((c.report clk act p).lane l).pred 7 = p := by
  rw [Crew.report_eq]
  refine ⟨fun j => ?_, fun l hl => ?_⟩
  · rw [Crew.slice_noted]
    exact Crew.slice_of_slices (Crew.modLanes_same ..).2 j
  · rw [Crew.lane_noted, Crew.lane_modLanes, if_pos hl, Lane.pred_told]

/-- The crew whose lanes hold the masks of settled and poisoned tokens, when they are wanted. -/
def Crew.tokMasks (c : Crew) (m : Word) (dst : Option Nat) (act : BitVec 32) : Crew :=
  match dst with
  | some d => c.modLanes act fun _ ln => ln.setLogical [d, d + 1] [c.tokensIn m TokState.settled, c.tokensIn m (· == TokState.poisoned)]
  | none => c

theorem Crew.slice_tokMasks (c : Crew) (m : Word) (dst : Option Nat) (act : BitVec 32) (j : Nat) :
    (c.tokMasks m dst act).slice j = c.slice j := by
  unfold Crew.tokMasks
  cases dst with
  | none => rfl
  | some d => exact Crew.slice_of_slices (Crew.modLanes_same ..).2 j

theorem Crew.tokResult_eq (c : Crew) (clk : Nat) (m : Word) (dst : Option Nat) (act : BitVec 32) :
    c.tokResult clk m dst act = (c.tokMasks m dst act).report clk act (c.tokensIn m (· == TokState.poisoned) != 0) := by
  unfold Crew.tokResult Crew.tokMasks
  cases dst <;> rfl

/-- What a token wait that ends leaves: its slices, and p7 says whether a token of the mask is poisoned. -/
theorem Crew.tokResult_spec (c : Crew) (clk : Nat) (m : Word) (dst : Option Nat) (act : BitVec 32) :
    (∀ j, (c.tokResult clk m dst act).slice j = c.slice j) ∧ ∀ l, act.getLsbD l = true →
      (((c.tokResult clk m dst act).lane l).pred 7 = true ↔ ∃ n < 32, m.getLsbD n = true ∧ (c.tok n).st = .poisoned) := by
  obtain ⟨hslices, hpred⟩ := (c.tokMasks m dst act).report_spec clk act (c.tokensIn m (· == TokState.poisoned) != 0)
  rw [Crew.tokResult_eq]
  refine ⟨fun j => (hslices j).trans (c.slice_tokMasks m dst act j), fun l hl => ?_⟩
  rw [hpred l hl]
  unfold Crew.tokensIn
  rw [maskOf_ne_zero]
  simp only [Bool.and_eq_true, beq_iff_eq]

theorem execTokenWaitWake_met {s : State} {k j : Nat} {c : Crew} {m : Word} {any : Bool} {d : Nat} {act : BitVec 32}
    (hev : s.ev = some (.tokenWaitWake k j)) (hc : tget s.crews k = some c) (hw : (c.slice j).wait = .tokens m any d act)
    (hmet : (if any then m == 0 || c.anySettled m else !c.anyPending m) = true) :
    exec .tokenWaitWake s =
      .next (s.setCrew k ((c.tokResult s.clk m (if any then some d else none) act).unpark (c.gangOf j) s.clk)) := by
  show execTokenWaitWake s = _
  unfold execTokenWaitWake
  simp only [hev, hc, hw, hmet, if_true]

/-! ### Batches (R281) -/

/-- A crew with one slice changed reads as before where the change does not show. -/
theorem Crew.modSlice_keeps {β : Type} (p : Slice → β) {f : Slice → Slice} (hf : ∀ sl, p (f sl) = p sl) (c : Crew) (j i : Nat) :
    p ((c.modSlice j f).slice i) = p (c.slice i) := by
  by_cases hj : j < 8
  · rw [Crew.slice_modSlice _ _ _ _ hj]
    split
    next h => rw [h, hf]
    next => rfl
  · unfold Crew.modSlice
    rw [dif_neg hj]

/-- A batch wait that ends leaves PCs as they are. -/
theorem Crew.batchResult_pc (c : Crew) (clk : Nat) (js : List Nat) (n : Nat → Word) (act : BitVec 32) (i : Nat) :
    ((c.batchResult clk js n act).slice i).pc = (c.slice i).pc := by
  refine foldl_keeps (fun c : Crew => (c.slice i).pc) _ (fun c j => ?_) js c
  dsimp only
  split
  · rfl
  · rw [(Crew.report_spec ..).1]
    exact Crew.modSlice_keeps Slice.pc (f := fun sl => { sl with batch := sl.batch.retire (n j) }) (fun _ => rfl) c j i

/-- The batch number that a slice waits for, 0 for none. -/
def Slice.upto (sl : Slice) : Word := match sl.wait with | .batch n _ => n | _ => 0

theorem execBatchWaitWake_done {s : State} {k j : Nat} {c : Crew} {n : Word} {act : BitVec 32}
    (hev : s.ev = some (.batchWaitWake k j)) (hc : tget s.crews k = some c) (hw : (c.slice j).wait = .batch n act)
    (hdone : ∀ i ∈ c.gangOf j, (c.slice i).batchDone (c.slice i).upto = true) :
    exec .batchWaitWake s = .next (s.setCrew k
      ((c.batchResult s.clk (c.gangOf j) (fun i => (c.slice i).upto) act).unpark (c.gangOf j) s.clk)) := by
  show execBatchWaitWake s = _
  unfold execBatchWaitWake
  simp only [hev, hc, hw]
  exact if_pos (List.all_eq_true.mpr hdone)

/-- Batches whose covered records have no copy left are done. -/
theorem Slice.batchDone_of_empty {sl : Slice} {n : Word} (h : ∀ r ∈ sl.batch.recs, covers n r.num = true → r.copies = []) :
    sl.batchDone n = true := by
  unfold Slice.batchDone
  rw [List.all_eq_true]
  intro r hr
  rw [Bool.or_eq_true, Bool.not_eq_true', List.isEmpty_iff]
  cases hcov : covers n r.num
  · exact .inl rfl
  · exact .inr (h r hr hcov)

/-! ### Barriers (R251) -/

/-- Lines dropped from a core's load cache change nothing else. -/
theorem State.dropRegion_same (s : State) (core base len : Nat) :
    (s.dropRegion core base len).crews = s.crews ∧ (s.dropRegion core base len).mem = s.mem := by
  unfold State.dropRegion
  split
  · exact ⟨rfl, rfl⟩
  · constructor
    · refine foldl_keeps State.crews _ (fun t i => ?_) _ s
      dsimp only
      split <;> rfl
    · refine foldl_keeps State.mem _ (fun t i => ?_) _ s
      dsimp only
      split <;> rfl

theorem State.observe_same (s : State) (core pa : Nat) (o : BarObj) :
    (s.observe core pa o).crews = s.crews ∧ (s.observe core pa o).mem = s.mem :=
  ⟨foldl_keeps State.crews _ (fun t _ => (t.dropRegion_same ..).1) _ s, foldl_keeps State.mem _ (fun t _ => (t.dropRegion_same ..).2) _ s⟩

/-- A gang that waited on a phase goes on, and is told of poison. -/
theorem State.endBarWait_spec {s : State} {k j : Nat} {c : Crew} (pa : Nat) (act : BitVec 32) (o : BarObj) (lp : Bool)
    (hc : tget s.crews k = some c) :
    ∃ c', (s.endBarWait k j pa act o lp).crews = (s.setCrew k c').crews ∧ (s.endBarWait k j pa act o lp).mem = s.mem ∧
      Resumed c c' (c.gangOf j) ∧ ∀ l, act.getLsbD l = true → (c'.lane l).pred 7 = lp := by
  obtain ⟨hslices, hpred⟩ := c.report_spec s.clk act lp
  unfold State.endBarWait
  simp only [hc]
  obtain ⟨hcrews, hmem⟩ := (s.setCrew k ((c.report s.clk act lp).unpark (c.gangOf j) s.clk)).observe_same c.core pa o
  exact ⟨_, hcrews, hmem, Crew.resumed_gang j s.clk hslices, fun l hl => by rw [Crew.lane_unpark]; exact hpred l hl⟩

theorem execBarrierWaitWake_over {s : State} {k j : Nat} {c : Crew} {pa : Nat} {n : Word} {act : BitVec 32} {o : BarObj}
    (hev : s.ev = some (.barrierWaitWake k j)) (hc : tget s.crews k = some c) (hw : (c.slice j).wait = .barrier pa n act)
    (hout : s.isOut c = false) (ho : s.barSee pa = .ok o) (hover : o.valid = false ∨ o.past n) :
    exec .barrierWaitWake s = .next (s.endBarWait k j pa act o (!o.valid || o.lpoison)) := by
  show execBarrierWaitWake s = _
  unfold execBarrierWaitWake
  simp only [hev, hc, hw, hout, ho, Bool.false_eq_true, if_false]
  cases hv : o.valid with
  | false => rfl
  | true =>
    obtain ⟨h1, h2⟩ : o.past n := hover.resolve_left (by simp [hv])
    have hdone : phaseDone o.phase n = true := by
      unfold phaseDone
      rw [decide_eq_true h1, decide_eq_true h2]
      rfl
    simp only [hdone, Bool.not_true, Bool.false_eq_true, if_false, if_true, Bool.false_or]

/-! ### WAITA (R199) -/

theorem State.lcacheFill_same (s : State) (core : Nat) (l : Loc) (got : List Byte) :
    (s.lcacheFill core l got).crews = s.crews ∧ (s.lcacheFill core l got).mem = s.mem := by
  unfold State.lcacheFill
  split <;> exact ⟨rfl, rfl⟩

theorem State.seen_same (s : State) (core : Nat) (w : WaitA) (bs : List Byte) :
    (s.seen core w bs).crews = s.crews ∧ (s.seen core w bs).mem = s.mem ∧ (s.seen core w bs).clk = s.clk := by
  unfold State.seen
  split
  · exact ⟨rfl, rfl, rfl⟩
  · split
    · obtain ⟨hcrews, hmem⟩ := s.lcacheFill_same core w.loc bs
      refine ⟨hcrews, hmem, ?_⟩
      unfold State.lcacheFill
      split <;> rfl
    · exact ⟨rfl, rfl, rfl⟩

/-- A WAITA whose condition holds when it reads its word again goes on with what it read. -/
theorem State.waitaAgain_holds {s : State} {k j : Nat} {c : Crew} {w : WaitA} (hc : tget s.crews k = some c)
    (hw : (c.slice j).wait = .waita w) (hp : isPeer w.loc.pa = false) (hm : s.marked w.loc.pa w.n = false)
    (hh : w.holds (s.waitaRead c.core w) = true) :
    let c' := (w.result c (s.waitaRead c.core w)).unpark (c.gangOf j) s.clk
    (s.waitaAgain k j).crews = (s.setCrew k c').crews ∧ (s.waitaAgain k j).mem = s.mem := by
  obtain ⟨hcrews, hmem, hclk⟩ := s.seen_same c.core w (s.waitaRead c.core w)
  unfold State.waitaAgain
  simp only [hc, hw, hp, hm, hh, Bool.false_eq_true, if_false, Bool.true_or, if_true, hclk]
  refine ⟨?_, hmem⟩
  show tset (State.seen ..).crews k _ = _
  rw [hcrews]
  rfl

/-- The registers that a WAITA writes hold the word that it read. -/
theorem WaitA.tget_result (w : WaitA) (c : Crew) (bs : List Byte) {l : Nat} (hl : w.act.getLsbD l = true) {p : Nat}
    (hp : (w.n = 4 ∧ p = 0) ∨ (w.n = 8 ∧ p < 2)) :
    tget ((w.result c bs).lane l).regs (w.d + p) = (loadRegs w.n false bs)[p]? := by
  unfold WaitA.result
  rw [Crew.lane_modLanes, if_pos hl]
  rcases hp with ⟨hn, rfl⟩ | ⟨hn, hp⟩
  · simp [hn, Lane.setLogical, loadRegs, Lane.tget_set, List.range_succ]
  · have : p = 0 ∨ p = 1 := by omega
    rcases this with rfl | rfl <;> simp [hn, Lane.setLogical, loadRegs, Lane.tget_set, List.range_succ]

theorem exec_waitaMonitorWake {s : State} {k j : Nat} (hev : s.ev = some (.waitaMonitorWake k j)) :
    exec .waitaMonitorWake s = .next (s.waitaAgain k j) := by
  show execWaitaMonitorWake s = _
  unfold execWaitaMonitorWake
  rw [hev]

theorem exec_waitaPoll {s : State} {k j : Nat} (hev : s.ev = some (.waitaPoll k j)) :
    exec .waitaPoll s = .next (s.waitaAgain k j) := by
  show execWaitaPoll s = _
  unfold execWaitaPoll
  rw [hev]

/-! ### Clocks, ages and tiles (R126, R156, R184) -/

theorem execSleepExpiry_over {s : State} {k j w : Nat} {c : Crew} (hev : s.ev = some (.sleepExpiry k j))
    (hc : tget s.crews k = some c) (hw : (c.slice j).wait = .sleep w) (hle : w ≤ s.clk) :
    exec .sleepExpiry s = .next (s.setCrew k (c.modSlices (c.gangOf j) fun sl => { sl with wait := .none })) := by
  show execSleepExpiry s = _
  unfold execSleepExpiry
  simp only [hev, hc, hw, if_pos hle]

theorem execGangAged_over {s : State} {k j : Nat} {c : Crew} (hev : s.ev = some (.gangAged k j)) (hc : tget s.crews k = some c)
    (hr : c.ready s.clk j = true) (ha : (c.slice j).aged = false) (hle : (c.slice j).since + 32768 ≤ s.clk) :
    exec .gangAged s = .next (s.setCrew k (c.modSlices (c.gangOf j) fun sl => { sl with aged := true })) := by
  have hnow : c.agesNow s.clk j = true := by
    unfold Crew.agesNow
    rw [hr, ha, decide_eq_true hle]
    rfl
  show execGangAged s = _
  unfold execGangAged
  simp only [hev, hc, hnow, if_true]

theorem exec_tileClearDone {s : State} {id : Nat} (hev : s.ev = some (.tileClearDone id)) :
    exec .tileClearDone s = .next (s.landPend id) := by
  show execTileClearDone s = _
  unfold execTileClearDone
  rw [hev]

/-- A result of an instruction that counts as complete lands when no lane of it holds a cause. -/
theorem State.landPend_complete {s : State} {id : Nat} {p : Pend} {c : Crew} (hp : tget s.pends id = some p)
    (hc : tget s.crews p.crew = some c) (hcauses : p.causes = []) (hcomplete : p.complete = true) :
    s.landPend id = ({ s with pends := tdel s.pends id } : State).setCrew p.crew (p.land_ c s.clk) := by
  have hnone : s.pendCauses p = [] := by
    unfold State.pendCauses
    rw [hcomplete, if_pos rfl, hcauses]
  unfold State.landPend
  simp only [hp, hc, hnone, hcomplete, List.map_nil, worst, if_true]

theorem Crew.failRemote_same (c : Crew) (clk : Nat) (l : Loss) (sync : Bool) :
    (c.failRemote clk l sync).slices = c.slices ∧ (c.failRemote clk l sync).lanes = c.lanes := by
  unfold Crew.failRemote Crew.addEfr
  dsimp only
  split <;> exact ⟨rfl, rfl⟩

/-- Landing is writing, whatever failures it reports. -/
theorem Pend.land_same (p : Pend) (c : Crew) (clk : Nat) :
    (p.land_ c clk).slices = c.slices ∧ (p.land_ c clk).lanes = (p.write c).lanes := by
  have hwrite : (p.write c).slices = c.slices := (Crew.modLanes_same ..).2
  unfold Pend.land_
  split
  · obtain ⟨h1, h2⟩ := (p.write c).failRemote_same clk ‹Loss› true
    exact ⟨h1.trans hwrite, h2⟩
  · exact ⟨hwrite, rfl⟩

/-- A tile's handle is written to every lane that waits for it (R184). -/
theorem Pend.tget_write_handle {p : Pend} {h : Word} {r : Nat} (hl : p.land = .handle h) (hd : p.dst = [r]) (hf : p.failed = [])
    (c : Crew) {l : Nat} (ha : p.act.getLsbD l = true) : tget ((p.write c).lane l).regs r = some h := by
  unfold Pend.write
  rw [Crew.lane_modLanes, if_pos ha, hf]
  simp [hl, hd, Lane.setLogical, Lane.tget_set]

end Sys2Proof.Machine
end

section
/-! PROOF. Waits end, gangs meet, crews retire (R122 to R126, R143, R156, R184, R199, R234, R251, R281 and R292). -/

namespace Sys2Proof.Machine

/-! ### Gangs that meet (R122 to R125) -/

/-- The slices of a crew that wait at a REGANG with a mask. -/
def Crew.meeting (c : Crew) (m : BitVec 8) : List Nat := c.present.filter fun j => (c.slice j).wait == .regang m

theorem Crew.mem_meeting {c : Crew} {m : BitVec 8} {j : Nat} : j ∈ c.meeting m ↔ j ∈ c.present ∧ (c.slice j).wait = .regang m := by
  unfold Crew.meeting
  rw [List.mem_filter, beq_iff_eq]

theorem Crew.meeting_nodup (c : Crew) (m : BitVec 8) : (c.meeting m).Nodup := c.present_nodup.filter _

theorem Crew.lt_of_meeting {c : Crew} {m : BitVec 8} : ∀ j ∈ c.meeting m, j < 8 := fun _ h => Crew.lt_of_present (Crew.mem_meeting.mp h).1

theorem execRegangComplete_met {s : State} {k : Nat} {m : BitVec 8} {c : Crew} (hev : s.ev = some (.regangComplete k m))
    (hc : tget s.crews k = some c) (hsome : ∃ j ∈ c.present, (c.slice j).wait = .regang m)
    (hall : ∀ j ∈ c.present, m.getLsbD j = true → (c.slice j).wait = .regang m) :
    exec .regangComplete s = .next (s.setCrew k ((c.unpark (c.meeting m) s.clk).regroup (c.meeting m) sameGang)) := by
  have hdone : c.regangDone m = true := by
    unfold Crew.regangDone
    refine List.all_eq_true.mpr fun j hj => ?_
    rw [Bool.or_eq_true, Bool.not_eq_true', beq_iff_eq]
    exact (Bool.eq_false_or_eq_true _).symm.imp id (hall j hj)
  have hne : (c.meeting m).isEmpty = false := by
    obtain ⟨j, hj⟩ := hsome
    rw [List.isEmpty_eq_false_iff]
    exact List.ne_nil_of_mem (Crew.mem_meeting.mpr hj)
  show execRegangComplete s = _
  unfold execRegangComplete
  simp only [hev, hc]
  refine if_neg ?_
  rw [hdone]
  show ¬ (((c.meeting m).isEmpty || false) = true)
  rw [hne]
  decide

/-- Slices that meet go on, and those at one PC are one gang. -/
theorem Crew.met_spec (c : Crew) (m : BitVec 8) (clk : Nat) :
    let c' := (c.unpark (c.meeting m) clk).regroup (c.meeting m) sameGang
    c'.lanes = c.lanes ∧ ∀ j ∈ c.meeting m, (c'.slice j).pc = (c.slice j).pc + 4 ∧ (c'.slice j).wait = .none ∧
      ∀ i ∈ c.meeting m, (c.slice i).pc = (c.slice j).pc → (c'.slice i).gang = (c'.slice j).gang := by
  have hn := c.meeting_nodup m
  have h8 := Crew.lt_of_meeting (c := c) (m := m)
  have hgone : ∀ j ∈ c.meeting m, (c.unpark (c.meeting m) clk).slice j = (c.slice j).goOn clk := fun j hj => by
    rw [Crew.slice_unpark clk hn h8, if_pos hj]
  have hpresent : ∀ j ∈ c.meeting m, (c.slice j).exited = false := fun j hj => (Crew.mem_present.mp (Crew.mem_meeting.mp hj).1).2
  refine ⟨(Crew.regroup_same ..).2.trans (Crew.unpark_same ..).2, fun j hj => ⟨?_, ?_, fun i hi hpc => ?_⟩⟩
  · rw [Crew.slice_regroup _ hn h8, if_pos hj, hgone j hj]
    rfl
  · rw [Crew.slice_regroup _ hn h8, if_pos hj, hgone j hj]
    rfl
  · rw [Crew.gang_regroup_iff hn h8 hi hj, hgone i hi, hgone j hj, sameGang_iff]
    exact ⟨congrArg (· + 4) hpc, (hpresent i hi).trans (hpresent j hj).symm, Iff.rfl⟩

theorem execSynccComplete_met {s : State} {k : Nat} {c : Crew} (hev : s.ev = some (.synccComplete k))
    (hc : tget s.crews k = some c) (hne : c.present ≠ []) (hall : ∀ j ∈ c.present, (c.slice j).wait = .sync) :
    exec .synccComplete s = .next (s.setCrew k (c.unpark c.present s.clk)) := by
  have hdone : c.syncDone = true := by
    unfold Crew.syncDone
    rw [Bool.and_eq_true, Bool.not_eq_true', List.isEmpty_eq_false_iff, List.all_eq_true]
    exact ⟨hne, fun j hj => beq_iff_eq.mpr (hall j hj)⟩
  show execSynccComplete s = _
  unfold execSynccComplete
  simp only [hev, hc, hdone, if_true]

theorem execCrewDeadlock_stuck {s : State} {k : Nat} {c : Crew} (hev : s.ev = some (.crewDeadlock k))
    (hc : tget s.crews k = some c) (hd : c.deadlocked = true) :
    exec .crewDeadlock s = .next ((s.setCrew k (c.reissue c.present s.clk)).takeTrap k (c.gangOf (c.present.headD 0)) .illegal
      (c.live (c.gangOf (c.present.headD 0))) 0 [] 0) := by
  show execCrewDeadlock s = _
  unfold execCrewDeadlock
  simp only [hev, hc, hd, if_true]

/-- A slice whose wait is cancelled. -/
def Slice.waitDropped (clk : Nat) (sl : Slice) : Slice :=
  { sl with wait := .none, readyAt := max sl.readyAt (clk + 1), since := max sl.readyAt (clk + 1), stepped := false }

theorem Crew.slice_reissue {c : Crew} (clk : Nat) {j : Nat} (h : j ∈ c.present) :
    (c.reissue c.present clk).slice j = (c.slice j).waitDropped clk :=
  (Crew.slice_modSlices (Slice.waitDropped clk) c.present_nodup (fun _ => Crew.lt_of_present) j).trans (if_pos h)

theorem execRoleswGrant_granted {s : State} {k : Nat} {c : Crew} {r : RoleReq} (hev : s.ev = some (.roleswGrant k))
    (hc : tget s.crews k = some c) (hr : c.role = some r) (hgrant : .roleswGrant k ∈ s.roleSteps c.block) :
    exec .roleswGrant s = .next ((s.setCrew k (c.switchRole r s.clk)).pushAll
      ((s.setCrew k (c.switchRole r s.clk)).roleSteps c.block)) := by
  show execRoleswGrant s = _
  unfold execRoleswGrant
  simp only [hev, hc, hr]
  exact if_pos (List.contains_iff_mem.mpr hgrant)

/-! ### Crews that retire (R126, R292) -/

/-- The crew table holds a crew. -/
def State.holds (s : State) (k : Nat) : Bool := (tget s.crews k).isSome

theorem State.holds_congr {s t : State} (h : s.crews = t.crews) (k : Nat) : s.holds k = t.holds k := by
  unfold State.holds
  rw [h]

theorem State.holds_modCrew (s : State) (i : Nat) (f : Crew → Crew) (k : Nat) : (s.modCrew i f).holds k = s.holds k := by
  unfold State.holds State.modCrew
  rw [tget_tmod]
  split
  next h => rw [h, Option.isSome_map]
  next => rfl

theorem State.holds_setCrew {s : State} {i : Nat} {c : Crew} (hc : tget s.crews i = some c) (c' : Crew) (k : Nat) :
    (s.setCrew i c').holds k = s.holds k := by
  unfold State.holds
  rw [State.setCrew_crews, tget_tset]
  split
  next h => rw [← h, hc]; rfl
  next => rfl

theorem State.holds_pushAll (s : State) (es : List Event) (k : Nat) : (s.pushAll es).holds k = s.holds k :=
  State.holds_congr (s.pushAll_crews es) k

theorem State.holds_completeToken (s : State) (i tok id bytes : Nat) (poison : Bool) (k : Nat) :
    (s.completeToken i tok id bytes poison).holds k = s.holds k := by
  unfold State.completeToken
  split
  next c hc =>
    rw [State.holds_pushAll]
    exact State.holds_setCrew (s := { s with due := _ }) hc _ k
  next => rfl

theorem State.holds_completeOp (s : State) (id : Nat) (toks : List (Nat × Nat)) (bytes : Nat) (poison : Bool) (k : Nat) :
    (s.completeOp id toks bytes poison).holds k = s.holds k := by
  unfold State.completeOp
  split
  next o ho =>
    rw [State.holds_pushAll]
    refine (State.holds_congr (State.settleOps_spec ..).1 k).trans ?_
    refine (foldl_keeps (fun t : State => t.holds k) _ (fun t e => t.holds_completeToken ..) toks _).trans ?_
    exact State.holds_modCrew { s with ops := tdel s.ops id } ..
  next => rfl

theorem State.holds_grantOwner (s : State) (core k : Nat) : (s.grantOwner core).holds k = s.holds k := by
  unfold State.grantOwner
  split
  · split
    · exact State.holds_completeOp ..
    · rfl
  · rfl

theorem State.holds_spillHit (s : State) (a n k : Nat) : (s.spillHit a n).holds k = s.holds k := by
  unfold State.spillHit
  split
  · unfold State.holds
    rw [tget_tmap, Option.isSome_map]
  · rfl

theorem State.cancelScrub_crews (s : State) (a n : Nat) : (s.cancelScrub a n).crews = s.crews := by
  unfold State.cancelScrub
  split <;> rfl

theorem State.taskHit_crews (s : State) (a n : Nat) : (s.taskHit a n).crews = s.crews := by
  obtain ⟨nodes, queues, h⟩ := s.taskHit_changes a n
  rw [h]

theorem State.holds_put (s : State) (a : Nat) (bs : List Byte) (k : Nat) : (s.put a bs).holds k = s.holds k := by
  unfold State.put State.monitorHit
  rw [State.holds_pushAll, State.holds_congr (State.taskHit_crews ..), State.holds_congr (State.cancelScrub_crews ..)]
  exact s.holds_spillHit a bs.length k

theorem State.dropWrite_crews (s : State) (a : Nat) : (s.dropWrite a).crews = s.crews := by
  unfold State.dropWrite
  split <;> rfl

theorem State.mergeRead_crews (s : State) (a n : Nat) : (s.mergeRead a n).crews = s.crews := by
  unfold State.mergeRead
  split
  · rfl
  · exact (foldl_keeps State.crews State.errorMark (fun _ _ => rfl) _ _).trans (s.cancelScrub_crews a n)

theorem State.holds_hwPoke (s : State) (a : Nat) (bs : List Byte) (k : Nat) : (s.hwPoke a bs).holds k = s.holds k := by
  unfold State.hwPoke
  split
  · exact s.holds_put a bs k
  · refine (foldl_keeps (fun t : State => t.holds k) _ (fun t p => ?_) _ _).trans (State.holds_congr (s.mergeRead_crews ..) k)
    split
    · exact State.holds_congr (t.dropWrite_crews _) k
    · exact t.holds_put p.2.1 p.2.2 k

theorem State.holds_barPut (s : State) (pa : Nat) (o : BarObj) (k : Nat) : (s.barPut pa o).holds k = s.holds k := by
  unfold State.barPut State.writeBar
  split
  · split
    · rfl
    · exact s.holds_hwPoke ..
  · exact s.holds_hwPoke ..

theorem State.holds_dropConts (s : State) (b k : Nat) : (s.dropConts b).holds k = s.holds k := by
  refine foldl_keeps (fun t : State => t.holds k) _ (fun t e => ?_) _ s
  have hunguard : ∀ l : List Cont, (l.foldl (fun (s : State) (x : Cont) => s.unguard x.rec_) t).crews = t.crews :=
    fun l => foldl_keeps State.crews (fun (s : State) (x : Cont) => s.unguard x.rec_) (fun _ _ => rfl) l t
  dsimp only
  split
  · split
    · exact (State.holds_barPut ..).trans (State.holds_congr (hunguard _) k)
    · exact State.holds_congr (hunguard _) k
  · rfl

theorem State.holds_writeBack (s : State) (p : Bar → Bool) (k : Nat) : (s.writeBack p).holds k = s.holds k := by
  refine foldl_keeps (fun t : State => t.holds k) _ (fun t e => ?_) _ s
  dsimp only
  split
  · split
    · exact t.holds_hwPoke ..
    · rfl
  · rfl

theorem State.holds_retireBlock (s : State) (b k : Nat) : (s.retireBlock b).holds k = s.holds k := by
  unfold State.retireBlock
  split
  · exact State.holds_writeBack ..
  · rfl

theorem State.holds_blockOver (s : State) (b k : Nat) : (s.blockOver b).holds k = s.holds k := by
  unfold State.blockOver
  split
  · have hdrop : State.holds (if (tget s.blocks b).any (·.stopped) then s.dropConts b else s) k = s.holds k := by
      split
      · exact s.holds_dropConts b k
      · rfl
    dsimp only
    generalize (if (tget s.blocks b).any (·.stopped) then s.dropConts b else s) = u at hdrop ⊢
    split
    · exact (u.holds_retireBlock b k).trans hdrop
    · exact hdrop
  · rfl

/-- A crew that retires leaves the table. -/
theorem State.retireCrew_gone (s : State) (k : Nat) : tget (s.retireCrew k).crews k = none := by
  refine Option.not_isSome_iff_eq_none.mp ?_
  show ¬ ((s.retireCrew k).holds k = true)
  unfold State.retireCrew
  split
  next c hc =>
    rw [State.holds_blockOver, State.holds_grantOwner]
    unfold State.holds
    rw [State.modCore_crews, tget_tdel_self]
    decide
  next hc =>
    unfold State.holds
    rw [hc]
    decide

theorem execCrewRetire_over {s : State} {k : Nat} {c : Crew} (hev : s.ev = some (.crewRetire k)) (hc : tget s.crews k = some c)
    (hp : c.present = []) (ht : ∀ n < 32, ¬ c.isPending n) (hd : c.deferred = [])
    (hl : ∀ e ∈ s.pends, e.2.crew = k → e.2.complete = true) :
    exec .crewRetire s = .next ((s.retireCrew k).pushAll ((s.retireCrew k).roleSteps c.block)) := by
  have htok : c.anyPending 0xFFFFFFFF = false := Bool.eq_false_iff.mpr fun h => by
    obtain ⟨n, hn, -, hpend⟩ := Crew.anyPending_iff.mp h
    exact ht n hn hpend
  have hfin : c.finished = true := by
    unfold Crew.finished
    rw [hp, htok, hd]
    rfl
  have hlanded : (s.pends.any fun e => e.2.crew == k && !e.2.complete) = false := by
    refine List.any_eq_false.mpr fun e he => ?_
    rw [Bool.and_eq_true, beq_iff_eq]
    rintro ⟨hk, hn⟩
    rw [hl e he hk] at hn
    exact absurd hn (by decide)
  show execCrewRetire s = _
  unfold execCrewRetire
  simp only [hev, hc, hfin, hlanded, Bool.not_false, Bool.and_self, if_true]

/-- Settles O47, by what each wait's step writes: the crew whose gang goes on, and for a crew that retires, that no step of its
retirement puts a crew in the table. -/
theorem waitsEnd : Obligations.WaitsEnd := by
  unfold Obligations.WaitsEnd
  refine ⟨⟨?tokens, ?batches, ?barrier, ?waita, ?sleep, ?aged, ?tile⟩, ⟨?regang, ?syncc, ?deadlock, ?role, ?retire⟩⟩
  case tokens =>
    intro s k j c m any d act hev hc hw hmet
    have hmet' : (if any then m == 0 || c.anySettled m else !c.anyPending m) = true := by
      cases any with
      | true =>
        rw [if_pos rfl] at hmet ⊢
        rwa [Bool.or_eq_true, beq_iff_eq, Crew.anySettled_iff]
      | false =>
        rw [if_neg Bool.false_ne_true] at hmet ⊢
        rw [Bool.not_eq_true', Bool.eq_false_iff, ne_eq, Crew.anyPending_iff]
        rintro ⟨n, hn, hbit, hp⟩
        exact hmet n hn hbit hp
    obtain ⟨hslices, hpred⟩ := c.tokResult_spec s.clk m (if any then some d else none) act
    exact ⟨_, execTokenWaitWake_met hev hc hw hmet', Crew.resumed_gang j s.clk hslices, fun l _ hl => by
      rw [Crew.lane_unpark]; exact hpred l hl⟩
  case batches =>
    intro s k j c n act hev hc hw hover hwaits
    refine ⟨_, execBatchWaitWake_done hev hc hw fun i hi => ?_, fun i hi _ => ?_⟩
    · obtain ⟨q, a, hq⟩ := hwaits i hi
      have hupto : (c.slice i).upto = q := by unfold Slice.upto; rw [hq]
      rw [hupto]
      exact Slice.batchDone_of_empty (hover i hi q a hq)
    · rw [Crew.slice_unpark s.clk (c.gangOf_nodup j) Crew.lt_of_gangOf, if_pos hi]
      exact ⟨congrArg (· + 4) (c.batchResult_pc ..), rfl⟩
  case barrier =>
    intro s k j c pa n act o hev hc hw hout ho hover
    obtain ⟨c', hcrews, hmem, hgo, hpred⟩ := State.endBarWait_spec (j := j) pa act o (!o.valid || o.lpoison) hc
    exact ⟨_, c', execBarrierWaitWake_over hev hc hw hout ho hover, hcrews, hmem, hgo, fun l _ => hpred l⟩
  case waita =>
    intro i s k j c w hi hc hw hp hm hh
    have hexec : exec i s = .next (s.waitaAgain k j) := by
      obtain ⟨rfl, hev⟩ | ⟨rfl, hev⟩ := hi
      · exact exec_waitaMonitorWake hev
      · exact exec_waitaPoll hev
    obtain ⟨hcrews, hmem⟩ := State.waitaAgain_holds hc hw hp hm hh
    refine ⟨_, _, hexec, hcrews, hmem, Crew.resumed_gang j s.clk fun j => ?_, fun l _ hl p hp => ?_⟩
    · exact Crew.slice_of_slices (Crew.modLanes_same ..).2 j
    · rw [Crew.lane_unpark]
      exact w.tget_result c _ hl hp
  case sleep =>
    intro s k j c w hev hc hw hle
    obtain ⟨halike, hlanes⟩ := c.modSlices_same (c.gangOf j) fun sl => { sl with wait := .none }
    refine ⟨_, execSleepExpiry_over hev hc hw hle, hlanes, halike, fun i hi _ => ?_⟩
    rw [Crew.slice_modGang _ hi]
    exact ⟨rfl, rfl⟩
  case aged =>
    intro s k j c hev hc hr ha hle
    obtain ⟨halike, hlanes⟩ := c.modSlices_same (c.gangOf j) fun sl => { sl with aged := true }
    exact ⟨_, execGangAged_over hev hc hr ha hle, hlanes, halike, fun i hi _ => Crew.slice_modGang _ hi⟩
  case tile =>
    intro s id p c h r hev hp hc hland hdst hcauses hfailed hcomplete
    obtain ⟨hslices, hlanes⟩ := p.land_same c s.clk
    refine ⟨_, ?_, hslices, ?_⟩
    · rw [exec_tileClearDone hev, State.landPend_complete hp hc hcauses hcomplete]
    intro l _ hl
    rw [Crew.lane_of_lanes hlanes]
    exact Pend.tget_write_handle hland hdst hfailed c hl
  case regang =>
    intro s k m c hev hc hsome hall
    obtain ⟨hlanes, hmet⟩ := c.met_spec m s.clk
    refine ⟨_, execRegangComplete_met hev hc hsome hall, hlanes, fun j hj _ hw => ?_⟩
    obtain ⟨hpc, hwait, hgang⟩ := hmet j (Crew.mem_meeting.mpr ⟨hj, hw⟩)
    exact ⟨hpc, hwait, fun i hi _ hiw => hgang i (Crew.mem_meeting.mpr ⟨hi, hiw⟩)⟩
  case syncc =>
    intro s k c hev hc hne hall
    exact ⟨_, execSynccComplete_met hev hc hne hall, (c.unpark_same ..).2,
      Crew.resumed_unpark s.clk c.present_nodup (fun _ => Crew.lt_of_present) fun _ => rfl⟩
  case deadlock =>
    intro s k c hev hc hd
    refine ⟨_, execCrewDeadlock_stuck hev hc hd, (Crew.modSlices_same ..).2, fun j hj _ => ?_⟩
    rw [Crew.slice_reissue s.clk hj]
    exact ⟨rfl, rfl⟩
  case role =>
    intro s k c r hev hc hr hgrant
    obtain ⟨hallot, hprio, hrole, hslices, hregs⟩ := c.switchRole_spec r s.clk
    refine ⟨_, c.switchRole r s.clk, execRoleswGrant_granted hev hc hr hgrant, State.pushAll_crews .., State.pushAll_mem ..,
      hallot, hprio, hrole, fun j hj _ => ?_, hregs⟩
    obtain ⟨hpc, hwait, -⟩ := hslices j hj
    exact ⟨hpc, hwait⟩
  case retire =>
    intro s k c hev hc hp ht hd hl
    refine ⟨_, execCrewRetire_over hev hc hp ht hd hl, ?_⟩
    rw [State.pushAll_crews]
    exact s.retireCrew_gone k

end Sys2Proof.Machine
end

section
/-! PROOF. A node table that lists one place twice: the write of the launch's status wakes the second entry there, which takes
the place of the first, and the blocks of the dispatch are added to a count that is not the launch's (R154, R155). -/

namespace Sys2Proof.Machine

/-- A launch node, linked, none of whose blocks is made. -/
def launchEntry : Node :=
  { va := 0x1000, ctx := 0, kind := 4, parent := 0, depth := 3, order := 0, pred := 0, status := 1, kept := [], binds := [], bound := 1
    created := 0, retired := 0, ready := false, released := false, faulted := false, dpoison := false, code := [], launchOp := none }

/-- A task node that counts blocks of its own. -/
def taskEntry : Node := { launchEntry with kind := 5, created := 7 }

/-- The record of one block on core 0 for the launch at 0x1000. -/
def launchRec : Rec := ⟨0x1000, 0, 1, 1, 1, 1, 0, 16, 0, 0, 0, false⟩

/-- The machine as core 0 dispatches the record: its node table lists 0x1000 twice, for the launch and for a task, and a second task
whose counter lies over the launch's status. -/
def listedTwice : State :=
  { State.reset with
    nodes := [(0x1000 - 112, taskEntry), (0x1000, launchEntry), (0x1000, taskEntry)]
    ctxs := [(0, ⟨⟨0, 0, 0x1000, 0, 0, false, [], [], []⟩, false⟩)]
    cores := [(0, { Core.reset with slots := [⟨BitVec.ofNat 256 launchRec.toNat, 0⟩] })]
    ev := some (.dispatchBlock 0) }

/-- The blocks that a node counts as created once a step without a word has been taken. -/
def State.createdAfter (s : State) (i : Instr) (pa : Nat) : Option Nat :=
  match exec i s with
  | .next t => (tget t.nodes pa).map (·.created)
  | _ => none

theorem State.createdAfter_next {s t : State} {i : Instr} {pa : Nat} {n : Node} (h : exec i s = .next t)
    (hn : tget t.nodes pa = some n) : s.createdAfter i pa = some n.created := by
  unfold State.createdAfter
  rw [h]
  simp only [hn, Option.map_some]

/-- The status is written to 0x1004, the second task's counter: the task listed at 0x1000 becomes ready there, and its 7 blocks and
the new one are what the place then counts. -/
theorem listedTwice_created : listedTwice.createdAfter .dispatchBlock 0x1000 = some 8 := by decide +kernel

/-- Refutes O52, at the count of a dispatch's blocks: the statement takes any state, one whose node table lists a place twice among
them. There the launch has none created and a dispatch makes one block, but 8 are counted, the 7 of the other entry among them. -/
theorem not_launchAndPreemptionSteps : ¬ Obligations.LaunchAndPreemptionSteps := by
  rintro ⟨⟨-, -, -, dispatch⟩, -⟩
  obtain ⟨t, n, hexec, hnode, hclaimed, -⟩ := dispatch listedTwice 0 0 launchRec launchEntry rfl (by decide +kernel)
    (by decide +kernel) rfl rfl rfl (by decide +kernel)
  have hcounted : listedTwice.createdAfter .dispatchBlock 0x1000 = some n.created := State.createdAfter_next hexec hnode
  have hclaim : n.created = 1 := hclaimed
  rw [listedTwice_created, hclaim] at hcounted
  exact absurd hcounted (by decide)

end Sys2Proof.Machine
end

section
/-! PROOF. TKEXP.task and TASKD: a task node's checks, a token's export, and the counter lowered (R146, R236, R238 and R256). -/

namespace Sys2Proof.Machine

/-! ### Tokens of a crew -/

theorem Crew.tok_modTok_ne (c : Crew) {n m : Nat} (f : Token → Token) (h : m ≠ n) : (c.modTok n f).tok m = c.tok m := by
  unfold Crew.modTok Crew.tok
  split
  · simp [List.getD_eq_getElem?_getD, Vector.getElem?_set_ne _ h.symm]
  · rfl

theorem Crew.tok_modTok (c : Crew) {n : Nat} (f : Token → Token) (hn : n < 32) (m : Nat) :
    (c.modTok n f).tok m = if m = n then f (c.tok n) else c.tok m := by
  split
  next h => rw [h, c.tok_modTok_self f hn]
  next h => exact c.tok_modTok_ne f h

theorem Crew.alike_tok {a b : Crew} (h : a.alike b) (n : Nat) : a.tok n = b.tok n := by
  have := congrArg Crew.toks h
  exact Crew.tok_congr this n

theorem Crew.slice_modTok (c : Crew) (n : Nat) (f : Token → Token) (j : Nat) : (c.modTok n f).slice j = c.slice j := by
  unfold Crew.modTok; split <;> rfl

theorem Crew.pending_iff {c : Crew} {n : Nat} : c.pending n = true ↔ c.isPending n := by
  unfold Crew.pending Crew.isPending
  cases (c.tok n).st <;> simp

/-- A token that takes an export is in use and holds fewer than four (R236). -/
theorem Crew.noExport_eq_false {c : Crew} {n : Nat} :
    c.noExport n = false ↔ (c.tok n).st ≠ .free ∧ (c.tok n).exports.length < 4 := by
  unfold Crew.noExport
  rw [Bool.or_eq_false_iff, beq_eq_false_iff_ne, decide_eq_false_iff_not, Nat.not_le]

/-! ### Exports attached (R236) -/

/-- A pending token takes the export. -/
theorem Issue.attach_pending {x : Issue} {n : Nat} (e : Export) (h : x.c.isPending n) :
    x.attach n e = x.done x.s (x.c.modTok n fun q => { q with exports := q.exports ++ [e] }) :=
  if_pos (Crew.pending_iff.mpr h)

/-- The export to a task node of a token that is done or poisoned fires: a decrement by 1 is to come. -/
theorem Issue.attach_task_settled {x : Issue} {n : Nat} (pa : Nat) (h : ¬ x.c.isPending n) :
    x.attach n (.task pa) = x.done
      { x.s with due := x.s.due ++ [.taskDepcountDecrement pa 1 ((x.c.tok n).st == .poisoned)] } x.c :=
  if_neg (mt Crew.pending_iff.mp h)

/-! ### A task node's address (R238, R256) -/

/-- Where the address passes its checks and no granule of the node is marked, the node's kind decides. -/
theorem Issue.taskNode_checked {x : Issue} {va : Dword} {loc : Loc} (body : Nat → Res) (ha : va.toNat % 256 = 0)
    (hcheck : x.check .write 256 (lowest x.act) va = .ok loc) (hloc : isLocal loc.pa = true) (hm : x.s.marked loc.pa 256 = false) :
    x.taskNode va body = if (memGet x.s.mem loc.pa).toNat ≠ 5 then x.trap .illegal x.live else body loc.pa := by
  unfold Issue.taskNode Issue.localOnce Issue.accessOnce
  rw [if_neg (not_not.mpr ha), hcheck]
  dsimp only
  rw [if_pos hloc, hm]
  rfl

/-- A task node is what the instruction acts on. -/
theorem Issue.taskNode_at {x : Issue} {va : Dword} {loc : Loc} (body : Nat → Res) (h : x.taskAt va loc) :
    x.taskNode va body = body loc.pa := by
  obtain ⟨ha, hcheck, hloc, hm, hkind⟩ := h
  rw [Issue.taskNode_checked body ha hcheck hloc hm, hkind]
  rfl

/-- A node of another kind raises ILLEGAL. -/
theorem Issue.taskNode_other_kind {x : Issue} {va : Dword} {loc : Loc} (body : Nat → Res) (ha : va.toNat % 256 = 0)
    (hcheck : x.check .write 256 (lowest x.act) va = .ok loc) (hloc : isLocal loc.pa = true) (hm : x.s.marked loc.pa 256 = false)
    (hkind : memGet x.s.mem loc.pa ≠ 5) : x.taskNode va body = x.trap .illegal x.live := by
  rw [Issue.taskNode_checked body ha hcheck hloc hm, if_pos (fun h => hkind (BitVec.eq_of_toNat_eq h) : (memGet x.s.mem loc.pa).toNat ≠ 5)]

/-! ### The counter lowered (R146, R256) -/

/-- A crew whose spilled registers may have been overwritten. -/
def Crew.withSpillLost (c : Crew) (lost : Bool) : Crew := { c with spillLost := lost }

theorem Crew.slice_withSpillLost (c : Crew) (lost : Bool) (j : Nat) : (c.withSpillLost lost).slice j = c.slice j := rfl
theorem Crew.withSpillLost_lanes (c : Crew) (lost : Bool) : (c.withSpillLost lost).lanes = c.lanes := rfl

section
variable {s : State} {k : Nat} {c : Crew} (hc : tget s.crews k = some c)
include hc

theorem State.spillHit_crew (a n : Nat) : ∃ lost, tget (s.spillHit a n).crews k = some (c.withSpillLost lost) := by
  unfold State.spillHit
  split
  · rw [tget_tmap, hc, Option.map_some]
    split
    · exact ⟨true, rfl⟩
    · exact ⟨c.spillLost, rfl⟩
  · exact ⟨c.spillLost, hc⟩

/-- Bytes put in memory leave each crew as it is, but for whether what it spilled is overwritten (R36). -/
theorem State.put_crew (a : Nat) (bs : List Byte) : ∃ lost, tget (s.put a bs).crews k = some (c.withSpillLost lost) := by
  unfold State.put State.monitorHit
  rw [State.pushAll_crews, State.taskHit_crews, State.cancelScrub_crews]
  exact State.spillHit_crew hc a bs.length

theorem State.hwPoke_crew {a : Nat} {bs : List Byte} (h : s.scrubbed a bs.length (fun _ => true) = false) :
    ∃ lost, tget (s.hwPoke a bs).crews k = some (c.withSpillLost lost) := by
  rw [State.hwPoke_of_clean h]
  exact State.put_crew hc a bs

end

/-- A counter decremented without poison is one write of its four bytes. -/
theorem State.decrement_false (s : State) (pa n : Nat) :
    s.decrement pa n false = s.hwPoke (pa + 116) (natBytes (wrapNat 32 (s.depcount pa - n)) 4) := rfl

/-- A counter decremented without poison: its four bytes alone change, and it falls modulo 2^32. -/
theorem State.decrement_false_spec {s : State} {pa : Nat} (n : Nat) (h : s.scrubbed (pa + 116) 4 (fun _ => true) = false) :
    BitVec.ofNat 32 (memNat (s.decrement pa n false).mem (pa + 116) 4) =
        BitVec.ofNat 32 (memNat s.mem (pa + 116) 4) - BitVec.ofNat 32 n ∧
      ∀ a, a < pa + 116 ∨ pa + 120 ≤ a → memGet (s.decrement pa n false).mem a = memGet s.mem a := by
  rw [State.decrement_false, State.hwPoke_mem (by rwa [natBytes_length])]
  refine ⟨?_, fun a ha => memGet_memWrite_out _ _ _ _ (by rw [natBytes_length]; omega)⟩
  rw [memNat_memWrite, ← ofNat_wrapNat_sub, State.depcount]
  exact BitVec.eq_of_toNat_eq (by simp)

theorem State.decrement_false_crew {s : State} {k pa : Nat} {c : Crew} (n : Nat) (hc : tget s.crews k = some c)
    (h : s.scrubbed (pa + 116) 4 (fun _ => true) = false) :
    ∃ lost, tget (s.decrement pa n false).crews k = some (c.withSpillLost lost) := by
  rw [State.decrement_false]
  exact State.hwPoke_crew hc (by rwa [natBytes_length])

/-- What an instruction that lowers a counter leaves when it completes in the state that holds it lowered. -/
theorem Issue.doneIn_decrement {x : Issue} {pa : Nat} (n : Nat) (hj : gangShape x.js = true) (hc : tget x.s.crews x.k = some x.c)
    (h : x.s.scrubbed (pa + 116) 4 (fun _ => true) = false) :
    ∃ c', x.doneIn (x.s.decrement pa n false) = .next ((x.s.decrement pa n false).setCrew x.k c') ∧ Moved x c' ∧
      c'.lanes = x.c.lanes := by
  obtain ⟨lost, hcrew⟩ := State.decrement_false_crew n hc h
  obtain ⟨hmoved, -, hlanes⟩ := x.advanced_spec (x.c.withSpillLost lost) hj (x.c.slice_withSpillLost lost)
  refine ⟨_, ?_, hmoved, hlanes.trans (x.c.withSpillLost_lanes lost)⟩
  unfold Issue.doneIn Issue.done
  rw [hcrew, Option.getD_some]

/-! ### The instructions -/

theorem exec_tkexpTask (f : FSDA) (s : State) :
    exec (.tkexpTask f) s = issue s (tkexpTaskHead f) fun x =>
      x.taskNode (x.reg64 (lowest x.act) f.a.toNat) fun pa => x.attach f.d.toNat (.task pa) := rfl

theorem exec_taskd (f : FSAB) (s : State) :
    exec (.taskd f) s = issue s (taskdHead f) fun x =>
      x.taskNode (x.reg64 (lowest x.act) f.a.toNat) fun pa =>
        if x.owes then x.stall else x.doneIn (x.s.decrement pa (x.reg (lowest x.act) f.b.toNat).toNat false) := rfl

theorem tkexpTask_wf {f : FSDA} (h : (Instr.tkexpTask f).wf = true) : f.d.toNat < 32 := by
  simpa [Instr.wf, fieldBelow] using h

/-- A count that TASKD takes (R256): at least 1 and less than 2^31. -/
theorem taskdHead_dyn_eq_false {f : FSAB} {x : Issue} (h : (taskdHead f).dyn x = false) :
    1 ≤ (x.reg (lowest x.act) f.b.toNat).toNat ∧ (x.reg (lowest x.act) f.b.toNat).toNat < 2 ^ 31 := by
  obtain ⟨h0, h31⟩ := Bool.or_eq_false_iff.mp h
  exact ⟨Nat.pos_of_ne_zero (beq_eq_false_iff_ne.mp h0), Nat.lt_of_not_le (of_decide_eq_false h31)⟩

/-- Settles O31: past the checks of the node each instruction is its effect. The checks of R58 give that the token takes an export
and that the count is in range, TKEXP.task attaches or fires by the token's state, and TASKD waits or lowers the counter by what
its slices owe. -/
theorem taskNodes : Obligations.TaskNodes := by
  refine ⟨?tkexp, ?taskd, ?kind⟩
  case tkexp =>
    intro f s k js c loc hwf x t hc hat
    obtain ⟨hfree, hroom⟩ := Crew.noExport_eq_false.mp (State.clears_dyn hc)
    have hj : gangShape x.js = true := (State.clears_iff.mp hc).2.2.1
    have hexec : exec (.tkexpTask f) s = x.attach f.d.toNat (.task loc.pa) := by
      rw [exec_tkexpTask, issue_clears hc, Issue.taskNode_at _ hat]
    refine ⟨hfree, hroom, fun hp => ?_, fun hp => ?_⟩
    · have hd := tkexpTask_wf hwf
      obtain ⟨hmoved, halike, hlanes⟩ := x.advanced_spec
        (c.modTok f.d.toNat fun q => { q with exports := q.exports ++ [.task loc.pa] }) hj (c.slice_modTok _ _)
      refine ⟨_, hexec.trans (Issue.attach_pending _ hp), hmoved, hlanes.trans (c.modTok_lanes _ _), fun n _ => ?_⟩
      exact (Crew.alike_tok halike n).trans (c.tok_modTok _ hd n)
    · obtain ⟨hmoved, halike, hlanes⟩ := x.advanced_spec c hj fun _ => rfl
      exact ⟨_, hmoved, halike, hlanes, hexec.trans (Issue.attach_task_settled _ hp)⟩
  case taskd =>
    intro f s k js c loc hc x n hat
    obtain ⟨hpos, hlt⟩ := taskdHead_dyn_eq_false (State.clears_dyn hc)
    obtain ⟨-, hcrew, hj, -⟩ := State.clears_iff.mp hc
    have hexec : exec (.taskd f) s = if x.owes then x.stall else x.doneIn (s.decrement loc.pa n false) := by
      rw [exec_taskd, issue_clears hc, Issue.taskNode_at _ hat]
      rfl
    refine ⟨hpos, hlt, fun ho => ?_, fun ho hclean => ?_⟩
    · rw [hexec, ho]; rfl
    · obtain ⟨c', hdone, hmoved, hlanes⟩ := x.doneIn_decrement (pa := loc.pa) n hj hcrew hclean
      obtain ⟨hcount, hother⟩ := State.decrement_false_spec n hclean
      refine ⟨(s.decrement loc.pa n false).setCrew k c', ?_, hcount, hother, c', tget_tset_self .., hmoved, hlanes⟩
      rw [hexec, ho]
      exact hdone
  case kind =>
    rintro i h s k js c a loc (⟨f, rfl, rfl, rfl⟩ | ⟨f, rfl, rfl, rfl⟩) hc x va ha hcheck hloc hm hkind
    · rw [exec_tkexpTask, issue_clears hc]
      exact Issue.taskNode_other_kind _ ha hcheck hloc hm hkind
    · rw [exec_taskd, issue_clears hc]
      exact Issue.taskNode_other_kind _ ha hcheck hloc hm hkind

end Sys2Proof.Machine
end
